-- ==== Sys2Proof/Word.lean ====
section
/-! DEFINITION. Words, bytes and the operand types of the commands. -/

namespace Sys2Proof

/-- A byte. -/
abbrev Byte := BitVec 8

/-- A descriptor of 128 bytes, byte 0 lowest (R5, Table 5.5). -/
abbrev Desc := BitVec 1024

/-- A tensor-table entry of 64 bytes (R89, Table 5.1). -/
abbrev Entry := BitVec 512

/-- A 32-bit register value (R6). -/
abbrev Reg := BitVec 32

/-- Who issues an access: the MGC, PF0 of a port (false H0, true H1), or the VF of partition `part` on a port.
`secured` says that the request came on the VF's IDE stream with the T bit set (R269). -/
inductive Via where
  | mgc
  | pf0 (port : Bool)
  | vf (port : Bool) (part : Nat) (secured : Bool)
deriving DecidableEq, Repr

/-- How an MCTP message reaches the device (R271): on SMBus under a 7-bit address, or as a VDM on PF0 of a port. -/
inductive MctpVia where
  | smbus (address : Nat)
  | vdm (port : Bool)
deriving DecidableEq, Repr

/-- How an SPDM message arrives: over DOE on PF0 of a port (R270), or over MCTP without secure sessions (R271). -/
inductive SpdmPath where
  | doe (port : Bool)
  | mctp (via : MctpVia)
deriving DecidableEq, Repr

/-- A message over MCTP: how it arrives, and its command code or the sensor or effecter that it names. -/
structure MctpCall where
  via : MctpVia
  code : Nat
deriving DecidableEq, Repr

/-- What a requester offers for negotiation (R270): SM2 with SM3-256, and the two session ciphers. -/
structure SpdmOffer where
  sm : Bool
  aes : Bool
  sm4 : Bool
deriving DecidableEq, Repr

/-- A run of a reducing collective: its operation, and the merges that fail their residue check (R253, R335): the tile, and
whether the repeat fails too. -/
structure MergeRun where
  seq : Nat
  fails : List (Nat × Bool)
deriving DecidableEq, Repr

/-- An on-die SRAM array of Table 15.3 whose words POOL_READ reads: the 64-byte pool words of a core's slice, its 64-bit
scratchpad words, or the arrays that a block's page stands for (journal, slots, caches, key stores, eddy buffer). -/
inductive SramArray where
  | pool (core : Nat)
  | scratchpad (core : Nat)
  | store
deriving DecidableEq, Repr

/-- What the stacks or an SRAM word answer to a read: the physical outcome, which only the environment decides.
`clean`; `corrected` (a single correctable error); `transient` (the first read fails its code, the second does not);
`lasting` (both reads fail the code). -/
inductive EccRead where
  | clean | corrected | transient | lasting
deriving DecidableEq, Repr

/-- The outcome of the storage test of R336: both patterns read back, or one does not. -/
inductive TestRead where
  | sound | broken
deriving DecidableEq, Repr

/-- A physical upset of one arithmetic step: bits flipped in the value delivered (0 when the hardware is sound). -/
abbrev Upset := BitVec 72

/-- What comes back for one host-tier line: its 128 ciphertext bytes and 8 tag bytes, or an error completion. -/
abbrev HostLine := Option (List Byte)

/-- Whose result the engine in the third core repeats when a rerun differs (R339): the first engine's, the second's, or
neither's. -/
inductive PatrolRun where
  | first | second | neither
deriving DecidableEq, Repr

/-- The base register pairs of a PRT page that hold their low half (R403). -/
inductive BaseReg where
  | tensorTable | formatTable | stage | lend (n : Nat)
deriving DecidableEq, Repr

/-- What one training of a link port finds: the wavelengths that lock, and what the peer sends during training (R237,
R238): its rope position and its identity public key. -/
structure Training where
  locked : BitVec 8
  peerPos : BitVec 4
  peerKey : List Byte
deriving DecidableEq, Repr

/-- One partition of a layout: its index, log2 of its units, its host ports. -/
structure PartLayout where
  part : Nat
  log2Units : Nat
  h0 : Bool
  h1 : Bool
deriving DecidableEq, Repr

/-- One shared weir of a layout: instance, period and the nine allocations. -/
structure WeirLayout where
  weir : Nat
  period : Nat
  allocs : List Nat
deriving DecidableEq, Repr

/-- A whole layout as a management command gives it (R290). -/
structure Layout where
  parts : List PartLayout
  /-- LINK_MASK of ports 0 to 23. -/
  masks : List (BitVec 8)
  weirs : List WeirLayout
deriving DecidableEq, Repr

/-- What the environment presents to a start-up (R390): straps, the reference, light, the tests of the units, what the
link ports and host ports train to, and the calibrated tick periods by page number. -/
structure StartFacts where
  ropeId : BitVec 4
  bootSel : BitVec 2
  refPresent : Bool
  laserIn : BitVec 8
  /-- bit k: the harts of update die k pass their test. -/
  hartsOk : BitVec 8
  /-- Pages of units that fail their start-up training or test (R391). -/
  failed : List Nat
  /-- Link ports with light, and what each trains to. -/
  links : List (Nat × Training)
  /-- Host ports that come up: port, speed code, lanes, FLIT mode. -/
  hosts : List (Bool × BitVec 4 × BitVec 4 × Bool)
  /-- Tick periods by page number, in units of 0.1 ns. -/
  ticks : List (Nat × BitVec 16)
  entropyOk : Bool
deriving DecidableEq, Repr

end Sys2Proof
end

