-- ==== Sys2Proof/Syntax.lean ====
section
/-! DEFINITION. The commands: one constructor for each row of spec/opcode_table.json. -/

namespace Sys2Proof

/-- A command of the block. Operands name the partition `p`, the journal sequence number `seq` of the operation, the unit or
link port acted on, or the facts that only the environment decides (an ECC outcome, a received flit, a temperature). `fails`
of a VEC names the destination elements whose duplicated work compares unequal, twice where the repeat does too (R337);
`fails` of a collective names the messages whose own residue verdict is FAIL, with whether the recomputation fails too
(R256, R257). -/
inductive Instr where
  /-- R274: A write of Q_DOORBELLn.TAIL makes the ring entries from HEAD up to TAIL pending; a TAIL at or above
    the ring size sets ERR_STATUS.DOORBELL. -/
  | doorbellWrite (via : Via) (p n : Nat) (value : Reg)
  /-- R273: A write that sets QSIZEn.ENABLE on a well-formed queue sets HEAD and TAIL to 0 and clears ERR; on a
    malformed queue ENABLE stays 0. -/
  | queueEnable (via : Via) (p n : Nat) (value : Reg)
  /-- R273: A write that clears QSIZEn.ENABLE stops the queue and takes every QSIZE field as written. -/
  | queueDisable (via : Via) (p n : Nat) (value : Reg)
  /-- R101: The partition takes a pending ring entry round-robin, runs the acceptance checks in order and writes
    its journal entry before any core starts. -/
  | acceptDescriptor (p : Nat) (ring : Option Desc)
  /-- R285: An accepted operation whose waits are satisfied starts on its first core, and its journal entry moves
    to STARTED. -/
  | operationStart (p seq : Nat)
  /-- R133: A tile's slot token is granted in acceptance order to grouped readers or to a single writer once
    earlier grants are returned. -/
  | slotTokenGrant (p seq handle tile : Nat)
  /-- R106: Computes Y = op(X) · op(W) on the cell array with mask, variants, shape and anchor mode. -/
  | matmul (p seq : Nat)
  /-- R107: ANCHOR_SCAN with SUBOP WRITE computes the anchor of the described MATMUL and writes it sign-extended
    to the result word. -/
  | anchorScanWrite (p seq : Nat)
  /-- R107: ANCHOR_SCAN with SUBOP MAX replaces the result word with the larger of the word and the scanned anchor. -/
  | anchorScanMax (p seq : Nat)
  /-- R61: For each variant present, the partition computes u_v = x · A_v (or x · B_vᵀ) with its own scan and
    writes u_v to the scratchpad. -/
  | adapterPass (p seq variant : Nat)
  /-- R67: Each core's feeders scan the block scales of its share and deliver the largest value to the completion
    logic. -/
  | anchorScanPhase (p seq core : Nat)
  /-- R67: Once every core has delivered its scan value, the completion logic returns the maximum as the
    operation's anchor to every core. -/
  | anchorAgree (p seq : Nat)
  /-- R63: The core's load port delivers one stationary load into the shadow banks of every engine of a team. -/
  | stationaryLoad (p seq core : Nat) (team : List Nat) (block group k0 : Nat)
  /-- R53: The SWAP token travels behind the last row of a load and each cell exchanges its banks as it passes;
    BANK_SEL toggles at cell (63, 63). -/
  | swap (core engine : Nat)
  /-- R49: In one handshake step a cell passes the activation on, forms and looks up the product on the grid, and
    adds it to the chain value. -/
  | cellStep (core engine k n row : Nat) (upset : Upset)
  /-- R72: A chain value reaching the foot is sign-extended and added exactly into its WP72 slot with its residue
    and flags. -/
  | footAddition (core engine column : Nat) (upset : Upset)
  /-- R73: At the end of a pitch the foot tile is added into the scratchpad partial after a residue check, and the
    slot tokens are released. -/
  | writeBack (core engine : Nat) (upset again : Upset)
  /-- R335: A pitch that failed its residue check is rerun on the same engine and then on another engine of the
    core, which may make an engine or core suspect. -/
  | pitchRetry (core engine : Nat) (samePasses otherPasses : Bool)
  /-- R136: A tile's home core checks the residue of an arriving partial and merges it under R81 or R82. -/
  | confluenceMerge (p seq core tile : Nat) (upset again : Upset)
  /-- R139: After every contribution has passed its check, the home core converts the tile under R85 to R87 and
    writes the destination. -/
  | outputConversion (p seq tile mismatches : Nat)
  /-- R23: When every core's token has arrived, the completion logic writes the completion slot and then the
    journal entry, and may signal MSI-X. -/
  | operationComplete (p seq : Nat)
  /-- R128: VEC COPY converts source A into the destination format. -/
  | vecCopy (p seq : Nat)
  /-- R128: VEC ADD writes A + B rounded to FP32. -/
  | vecAdd (p seq : Nat)
  /-- R128: VEC SUB writes A − B rounded to FP32. -/
  | vecSub (p seq : Nat)
  /-- R128: VEC MUL writes A × B rounded to FP32. -/
  | vecMul (p seq : Nat)
  /-- R128: VEC FMA writes A × B + D with one rounding. -/
  | vecFma (p seq : Nat)
  /-- R128: VEC MAX writes the maximum under R44 or R45. -/
  | vecMax (p seq : Nat)
  /-- R128: VEC MIN writes the minimum under R44 or R45. -/
  | vecMin (p seq : Nat)
  /-- R128: VEC ABS writes |A| exactly. -/
  | vecAbs (p seq : Nat)
  /-- R128: VEC SCALE2 writes A × 2^k. -/
  | vecScale2 (p seq : Nat)
  /-- R128: VEC EXP writes e^A by the fixed algorithm. -/
  | vecExp (p seq : Nat) (fails : List Nat)
  /-- R128: VEC LOG writes the natural logarithm of A by the fixed algorithm. -/
  | vecLog (p seq : Nat) (fails : List Nat)
  /-- R128: VEC RSQRT writes 1/√A correctly rounded. -/
  | vecRsqrt (p seq : Nat)
  /-- R128: VEC SIGMOID writes 1/(1 + e^−A) by the fixed algorithm. -/
  | vecSigmoid (p seq : Nat) (fails : List Nat)
  /-- R128: VEC TANH writes tanh A by the fixed algorithm. -/
  | vecTanh (p seq : Nat) (fails : List Nat)
  /-- R128: VEC SOFTMAX writes the row soft-maximum using the exact row accumulator. -/
  | vecSoftmax (p seq : Nat)
  /-- R128: VEC NORM writes the row normalisation of the selected kind. -/
  | vecNorm (p seq : Nat)
  /-- R127: VEC ROWSUM writes the exact, once-rounded sum of each row. -/
  | vecRowsum (p seq : Nat)
  /-- R128: VEC ROWMAX writes the maximum of each row. -/
  | vecRowmax (p seq : Nat)
  /-- R129: VEC PROGRAM runs the vector program once per element group of H_C. -/
  | vecProgram (p seq : Nat)
  /-- R140: SOFTMAX_BWD computes dX = Y ⊙ (dY − rowsum(dY ⊙ Y)) in two passes per row. -/
  | softmaxBwd (p seq : Nat)
  /-- R140: NORM_BWD computes the normalisation input gradient, and optionally the scale gradient, in two passes
    per row. -/
  | normBwd (p seq : Nat)
  /-- R108: REDUCE merges up to eight WP72 partials as a left fold and writes or converts the result. -/
  | reduce (p seq : Nat)
  /-- R111: HIST_READ with SUBOP READ writes the 288-byte record of a HIST table. -/
  | histRead (p seq : Nat)
  /-- R111: HIST_READ with SUBOP READ_CLEAR writes the record, then clears every bin and counter but keeps
    HIST_BASE. -/
  | readClear (p seq : Nat)
  /-- R111: HIST_READ with SUBOP INIT clears the table and sets HIST_BASE to BASE. -/
  | histInit (p seq : Nat)
  /-- R112: RNG_FILL BITS fills a RAW tensor with the stream's bytes and advances the counter. -/
  | rngFillBits (p seq : Nat)
  /-- R112: RNG_FILL UNIFORM fills an FP32 tensor with uniform values from the stream. -/
  | rngFillUniform (p seq : Nat)
  /-- R112: RNG_FILL BERNOULLI writes mask bits that are 1 where a stream word is below floor(P × 2^32). -/
  | rngFillBernoulli (p seq : Nat)
  /-- R253: COLLECTIVE ALL_REDUCE runs the anchor, shift and sum phases so that every member receives the sum of
    all sources. -/
  | allReduce (p : Nat) (run : MergeRun)
  /-- R253: COLLECTIVE REDUCE_SCATTER sums the sources and gives each member its share of rows. -/
  | reduceScatter (p : Nat) (run : MergeRun)
  /-- R113: COLLECTIVE ALL_GATHER stacks every member's source along DIM1 at every member. -/
  | allGather (p seq : Nat)
  /-- R113: COLLECTIVE BROADCAST copies ROOT's source to every member. -/
  | broadcast (p seq : Nat)
  /-- R255: When every expected message of a collective has arrived and passed its check, staging is copied to H_C
    and the collective completes. -/
  | stagingCopy (p seq : Nat)
  /-- R114: STEP_COMMIT completes with OK once every member of GROUP has committed the same STEP. -/
  | stepCommit (p seq : Nat)
  /-- R115: MOVE copies elements, scales and tile records between tiers, re-encrypting under the destination key. -/
  | move (p seq : Nat)
  /-- R116: OFFLOAD writes a tensor to a host-tier buffer in offload form and advances the buffer's counter. -/
  | offload (p seq : Nat)
  /-- R116: PREFETCH reads a host-tier buffer into a destination, verifying each line against the buffer record,
    once its START_SEQ entry has started. -/
  | prefetch (p seq : Nat)
  /-- R163: UPDATE with SUBOP ELEMENT applies the rule chunk by chunk on the update dies and writes version
    NEW_VTAG. -/
  | updateElement (p seq : Nat)
  /-- R178: UPDATE with SUBOP PRECOND applies the preconditioned rule to one block on one update die. -/
  | updatePrecond (p seq : Nat)
  /-- R163: An update die reads one chunk's inputs, runs the rule, encodes and writes the weights and then the
    state, and folds the digests. -/
  | updateChunk (p seq chunk : Nat)
  /-- R185: After an uncorrectable error in a chunk, the die reruns it from the held inputs; a second failure
    makes the die suspect. -/
  | chunkRerun (die : Nat) (failsAgain : Bool)
  /-- R119: VERSION_RELEASE subtracts one reference from version VTAG at acceptance and completes after earlier
    readers of that version. -/
  | versionRelease (p seq : Nat)
  /-- R120: DIGEST with SUBOP TENSOR writes the keyed digest of H_A to H_C. -/
  | digestTensor (p seq : Nat)
  /-- R261: DIGEST with SUBOP REPLICA closes the step's replica digest, exchanges it on replica associations and
    writes the outcome record. -/
  | digestReplica (p seq : Nat)
  /-- R121: BELAY with SUBOP 0 secures the party's state into a RAW basin tensor. -/
  | belayLocal (p seq : Nat)
  /-- R121: BELAY with SUBOP 1 secures the party's state into the basin of a rope peer by BELAY flits. -/
  | belayPeer (p seq : Nat)
  /-- R121: BELAY with SUBOP 2 secures the party's state into a RAW host-tier tensor. -/
  | belayHost (p seq : Nat)
  /-- R367: When the STEP_COMMIT of the belay's STEP completes, the loss is stored if OK and the sealed header is
    written. -/
  | belaySeal (p seq : Nat)
  /-- R364: A pending risk request inserts a belay right after the next accepted operation that writes the data
    cursor. -/
  | riskBelayInsert (p : Nat)
  /-- R371: BELAY with SUBOP RESTORE verifies an image in H_C and then writes every recorded item to its current
    place. -/
  | restore (p seq : Nat)
  /-- R371: BELAY with SUBOP RESTORE_PEER restores from the matching half of a peer's RX tensor. -/
  | restorePeer (p seq : Nat) (halves : List (List Byte)) (newest : Bool)
  /-- R122: FENCE with SUBOP 0 holds later operations of its own queue until earlier ones complete. -/
  | fenceQueue (p seq : Nat)
  /-- R122: FENCE with SUBOP 1 holds later operations of the whole partition until earlier ones complete. -/
  | fencePartition (p seq : Nat)
  /-- R279: A host write to RELEASE that equals the slot's GEN makes a DONE slot FREE. -/
  | slotRelease (via : Via) (p slot : Nat) (value : Reg)
  /-- R285: A write of a sequence number's low bits copies that journal entry into the JNL_ENTRY window. -/
  | jnlWindowWrite (via : Via) (p : Nat) (value : Reg)
  /-- R286: A write of 1 to JNL_CTRL.READ_DONE during a party teardown lets the MGC clear the journal and slots. -/
  | readDone (via : Via) (p : Nat) (value : Reg)
  /-- R286: 60,000,000 local ticks after a party teardown began, the MGC clears the journal and slots. -/
  | journalClearTimeout (p : Nat)
  /-- R281: A host read through a tensor window returns current bytes, or a poisoned TLP for busy bytes or
    poisoned lines. -/
  | windowRead (via : Via) (p offset len : Nat)
  /-- R282: A host write through a tensor window is applied, or dropped in full if an unfinished operation uses
    the bytes. -/
  | windowWrite (via : Via) (p offset : Nat) (bytes : List Byte)
  /-- R404: A write that sets WIN_HANDLEn.EN reads the entry and makes the window live only for a granted, owned
    tensor. -/
  | winHandleWrite (via : Via) (p n : Nat) (value : Reg)
  /-- R403: A write to a _LO base register is held until the matching _HI write. -/
  | baseLoWrite (via : Via) (p : Nat) (reg : BaseReg) (value : Reg)
  /-- R403: A write to a _HI base register applies it together with the held _LO value to later descriptors. -/
  | baseHiWrite (via : Via) (p : Nat) (reg : BaseReg) (value : Reg)
  /-- R297: A write of TEARDOWN.GO ends the context, raises the generation, aborts operations, frees keys and
    zeroises the pool. -/
  | contextTeardown (via : Via) (p : Nat)
  /-- R298: TEARDOWN.GO with PARTY runs the teardown, erases policy and seeds, clears the journal and returns the
    partition to EMPTY. -/
  | partyTeardown (via : Via) (p : Nat)
  /-- R355: A write of CTX_RESET.GO raises the epoch, aborts operations and clears engines, scratchpads and update
    dies within 40 µs. -/
  | contextReset (via : Via) (p : Nat) (confirmed : Bool)
  /-- R356: A write of PRT_RESET.GO runs the context reset, then frees keys, zeroises the pool and retrains the
    basin PHYs and private links. -/
  | partitionReset (via : Via) (p : Nat)
  /-- R225: A KEY_SEL write names slot, successor and handle, and is refused with CMD_ERR if the writer does not
    own the slots. -/
  | keySelWrite (via : Via) (m : Nat) (value : Reg)
  /-- R224: KEY_CMD LOAD takes a tenant key from SEC into a FREE slot with a new SLOT_NONCE. -/
  | keyLoad (via : Via) (m : Nat)
  /-- R224: KEY_CMD ACTIVATE makes a loaded FREE slot ACTIVE. -/
  | keyActivate (via : Via) (m : Nat)
  /-- R224: KEY_CMD DRAIN makes an ACTIVE slot DRAINING, with or without a successor and its sweep. -/
  | keyDrain (via : Via) (m : Nat)
  /-- R224: KEY_CMD RETIRE retires a DRAINING slot with no references and erases its key. -/
  | keyRetire (via : Via) (m : Nat)
  /-- R227: The sweep visits one data line and rewrites it under the successor key if it verifies under the
    drained key. -/
  | sweepStep (m slot : Nat) (ecc : EccRead)
  /-- R227: After the last line, the MCE waits until all writes under the old key and of the sweep have reached
    the stacks, then sets SWEEP_DONE. -/
  | sweepFlush (m slot : Nat)
  /-- R213: An MCE read of a basin line verifies its counter path, ECC and MAC, rereads once and delivers or
    poisons the line. -/
  | basinRead (m line slot : Nat) (ecc tree : EccRead) (level : Nat)
  /-- R214: A full-line write encrypts under the next counter and clears any EMPTY or POISON marker. -/
  | basinWrite (m line slot : Nat) (data : List Byte)
  /-- R214: A write of fewer than 128 bytes is a read-modify-write that merges into an EMPTY or verified line, or
    fails POISONED. -/
  | basinPartialWrite (m line slot offset : Nat) (data : List Byte) (ecc : EccRead)
  /-- R220: A changed tree line evicted from the tree cache is written with its parent counter raised by one. -/
  | treeEviction (m level line : Nat)
  /-- R222: The MCE rewrites every line beneath a lost tree line with EMPTY and counters M + 1. -/
  | subtreeReinit (m : Nat)
  /-- R223: An on-die tree error or a 17th loss marks the group lost and rebuilds its tree as at start-up. -/
  | groupRebuild (m : Nat)
  /-- R199: Scrub reads one basin line, checks its ECC and writes back a corrected line or reports an
    uncorrectable one. -/
  | scrubStep (k : Nat) (ecc : EccRead)
  /-- R336: After a poisoning, the owning unit writes and reads a pattern and its complement to decide whether the
    storage has a lasting fault. -/
  | lineTest (page : Nat) (test : TestRead)
  /-- R409: A pool or SRAM word read corrects single errors and rereads an uncorrectable word once before
    poisoning it. The offset names the word, and of a block's arrays the page. -/
  | poolRead (array : SramArray) (offset : Nat) (ecc : EccRead)
  /-- R194: Each POOL block scrubs its slices within its refresh windows. -/
  | poolScrub (block : Nat)
  /-- R198: The BAS block refreshes its stacks and recalibrates its PHY group without software action. -/
  | basinRefresh (k : Nat)
  /-- R204: A host-tier read completion is verified, and an error completion or failed tag returns its lines
    poisoned. -/
  | hostReadCompletion (port : Bool) (tag : Nat) (data : HostLine)
  /-- R204: A host read that gets no completion within the port's timeout ends as an error and returns poisoned. -/
  | hostCompletionTimeout (port : Bool) (tag : Nat)
  /-- R264: When a host port's link leaves UP, ring reads stop, host transfers end under R204 and DOWN_COUNT rises. -/
  | hostLinkDown (port : Bool)
  /-- R264: When a host port's link returns to UP, its queues resume reading their rings. -/
  | hostLinkUp (port : Bool) (speed width : BitVec 4) (flit : Bool)
  /-- R267: A function level reset of a VF disables its queues, lend entries and host transfers on that port
    without ending the context. -/
  | flr (port : Bool) (fn : Nat)
  /-- R267: TDISP STOP_INTERFACE detaches the host from the partition on that port as an FLR does. -/
  | stopInterface (port : Bool) (vf : Nat)
  /-- R269: TDISP request that returns the version. -/
  | getTdispVersion (port : Bool) (vf : Nat)
  /-- R269: TDISP request that returns the capabilities. -/
  | getTdispCapabilities (port : Bool) (vf : Nat)
  /-- R269: TDISP request that locks the VF's interface configuration. -/
  | lockInterface (port : Bool) (vf : Nat)
  /-- R269: TDISP request that returns the interface report listing BAR0 ranges. -/
  | getDeviceInterfaceReport (port : Bool) (vf : Nat)
  /-- R269: TDISP request that returns the interface state. -/
  | getDeviceInterfaceState (port : Bool) (vf : Nat)
  /-- R269: TDISP request that moves the VF into RUN. -/
  | startInterface (port : Bool) (vf : Nat)
  /-- R268: IDE key management over an SPDM session installs selective IDE stream keys. -/
  | ideKm (port : Bool) (vf session : Nat) (key : List Byte)
  /-- R268: An integrity failure on an IDE stream ends the stream and sets its VF's TDI to ERROR. -/
  | ideIntegrityFailure (port : Bool) (vf : Nat)
  /-- R270: SPDM GET_VERSION reports version 1.2. -/
  | getVersion (path : SpdmPath)
  /-- R270: SPDM GET_CAPABILITIES returns the responder capabilities. -/
  | getCapabilities (path : SpdmPath)
  /-- R270: SPDM NEGOTIATE_ALGORITHMS selects SM2, SM3 and the session cipher, of what the requester offers. -/
  | negotiateAlgorithms (path : SpdmPath) (offer : SpdmOffer)
  /-- R270: SPDM GET_DIGESTS returns certificate chain digests. -/
  | getDigests (path : SpdmPath)
  /-- R325: SPDM GET_CERTIFICATE returns the identity chain of slot 0, root first. -/
  | getCertificate (path : SpdmPath) (slot offset len : Nat)
  /-- R325: SPDM CHALLENGE returns a response signed with the identity key. -/
  | challenge (path : SpdmPath) (nonce : List Byte)
  /-- R325: SPDM GET_MEASUREMENTS returns the image measurements and fuse block, signed. -/
  | getMeasurements (path : SpdmPath) (index : Nat) (nonce : List Byte)
  /-- R270: SPDM KEY_EXCHANGE starts a secure session. -/
  | keyExchange (port : Bool) (id : Nat) (mutualAuth : Bool)
  /-- R270: SPDM FINISH completes a secure session handshake. -/
  | finish (port : Bool) (id : Nat) (verified : Bool)
  /-- R270: SPDM KEY_UPDATE updates a session's keys. -/
  | keyUpdate (port : Bool) (id : Nat)
  /-- R270: SPDM HEARTBEAT keeps a session alive. -/
  | heartbeat (port : Bool) (id : Nat)
  /-- R270: SPDM END_SESSION ends a secure session. -/
  | endSession (port : Bool) (id : Nat)
  /-- R270: SPDM VENDOR_DEFINED_REQUEST carries IDE_KM and TDISP messages. -/
  | vendorDefinedRequest (port : Bool) (id : Nat) (ide : Bool) (payload : List Byte)
  /-- R271: An MCTP control message is handled by the endpoint. -/
  | mctpControl (call : MctpCall) (data : List Byte)
  /-- R271: A PLDM type 0 discovery or base command is answered. -/
  | pldmBaseCommand (call : MctpCall) (data : List Byte)
  /-- R272: PLDM GetSensorReading returns a numeric sensor value. -/
  | getSensorReading (call : MctpCall) (volts : Nat)
  /-- R272: PLDM GetStateSensorReadings returns device or link state. -/
  | getStateSensorReadings (call : MctpCall)
  /-- R272: A PLDM write of the numeric effecter sets DEV.PKG_POWER_CAP under R2. -/
  | numericEffecterWrite (call : MctpCall) (value : Nat)
  /-- R272: A sensor threshold crossing sends a PLDM PlatformEventMessage. -/
  | platformEventMessage (id volts : Nat) (high : Bool)
  /-- R332: GET_REPORT returns a signed attestation report built from one snapshot. -/
  | getReport (p : Nat) (nonce : List Byte)
  /-- R328: POLICY_LOAD verifies a release policy in an EMPTY partition, draws the setup key and moves to SETUP. -/
  | policyLoad (p : Nat) (policy : List Byte)
  /-- R329: KEY_RECORD checks and applies a tenant key, seed, revoke or checkpoint share record, forming Kc and
    activating the party when complete. -/
  | keyRecord (p : Nat) (record : List Byte)
  /-- R319: STAGE_BEGIN opens a staging session and erases the other bank. -/
  | stageBegin (size : Nat)
  /-- R319: STAGE_DATA writes bytes at an offset of the other bank within the announced size. -/
  | stageData (offset : Nat) (bytes : List Byte)
  /-- R319: STAGE_END verifies the staged bank and on success sets TRY_BANK, resetting the device in recovery. -/
  | stageEnd
  /-- R319: STAGE_ABORT ends the staging session and leaves the bank invalid. -/
  | stageAbort
  /-- R348: GET_CPER returns the held CPER record with a given COUNT, or STATE. -/
  | getCper (count : Nat)
  /-- R341: PATTERN_LOAD stores a capture pattern at an index of the health monitor's pattern store. -/
  | patternLoad (index : Nat) (bytes : List Byte)
  /-- R290: A management command changes partitions, port assignments and shared-weir allocations, refusing any
    change that touches a party. -/
  | layoutChange (layout : Layout)
  /-- R357: A management command to the MGC resets the whole device. -/
  | deviceResetCommand
  /-- R377: Under LINKS_HELD, a management command makes the mesh and outbound ports train. -/
  | trainLinks
  /-- R241: Setting LNK23 TAKEOVER_EN makes the spare train and take a failed port's role, peer and channels. -/
  | takeover (via : Via) (link : Nat) (enable : Bool)
  /-- R250: SA_CTRL.CMD OPEN starts the SM2 exchange for a partition association with the named peer partition. -/
  | openSa (via : Via) (link : Nat) (value : Reg)
  /-- R250: SA_CTRL.CMD REKEY runs a new exchange and increments SA_GEN. -/
  | rekey (via : Via) (link : Nat) (value : Reg)
  /-- R250: SA_CTRL.CMD CLOSE sends SA_CLOSE, increments SA_GEN and erases the association's keys. -/
  | closeSa (via : Via) (link : Nat) (value : Reg)
  /-- R247: A write of 1 to CREDIT_RESET.REQ sends CREDIT_REQ for the VC of SA_SEL.SA. -/
  | creditResetReq (via : Via) (link : Nat) (value : Reg)
  /-- R2: A write to PKG_POWER_CAP sets the cap, clamped to the fused limit, and may be announced. -/
  | pkgPowerCapWrite (via : Via) (value : Reg)
  /-- R303: A write of a partition weir's allocation or period takes effect at the next period, or fails with
    OVERCOMMIT. -/
  | weirWrite (via : Via) (weir : Nat) (period : Bool) (value : Reg)
  /-- R348: A write to CPER_TAIL releases CPER records read by the host. -/
  | cperTailWrite (via : Via) (value : Reg)
  /-- R399: A W1C write to ERR_STATUS clears bits, and clears ERR_FIRST.VALID when all bits are 0. -/
  | errStatusClear (via : Via) (page : Nat) (value : Reg)
  /-- R322: ERR_INJECT.GO injects one error event, only when injection is enabled. -/
  | errInject (via : Via) (page : Nat) (value : Reg)
  /-- R400: CTRL.RESET_REQ resets an unassigned block, as a link loss for LNK or HST. -/
  | resetReq (via : Via) (page : Nat)
  /-- R7: A write to a register without behaviour of its own updates its fields per their access codes. -/
  | registerWrite (via : Via) (offset size : Nat) (value : Reg)
  /-- R248: A received KEEPALIVE flit is accepted only if its control counter exceeds the last one. -/
  | keepalive (link : Nat) (flit : List Byte)
  /-- R243: A received NAK makes the sender replay from the flit after the one it names. -/
  | nak (link : Nat) (flit : List Byte)
  /-- R247: A received CREDIT_REQ makes the receiver drop stale flits of the VC and grant the full count by
    CREDIT_RESET. -/
  | creditReq (link : Nat) (flit : List Byte)
  /-- R247: A received CREDIT_RESET restores the full credit count of a VC and clears WAIT_RESET. -/
  | creditReset (link : Nat) (flit : List Byte)
  /-- R249: SA_SETUP carries the SM2 exchange and attestation; SEC opens or fails the association on its checks. -/
  | saSetup (link : Nat) (flit : List Byte) (certOk : Bool)
  /-- R259: A received SA_CLOSE closes the association and ends operations that need that peer with PEER_LOST. -/
  | saClose (link : Nat) (flit : List Byte)
  /-- R254: A DATA flit delivers message bytes, which are residue-checked per slot, staged or held as a
    provisional shadow. -/
  | data (link : Nat) (flit : List Byte)
  /-- R253: An ANCHOR flit delivers tile anchors for the collective's anchor phase and agreed anchor. -/
  | anchor (link : Nat) (flit : List Byte)
  /-- R256: A VERDICT flit merges the provisional shadow of a message into the accumulation. -/
  | verdict (link : Nat) (flit : List Byte)
  /-- R257: A RETRACT flit discards a provisional shadow; with FINAL it ends the collective with RETRACTED. -/
  | retract (link : Nat) (flit : List Byte)
  /-- R254: A RESEND flit makes the sender recompute and resend the named tile message. -/
  | resend (link : Nat) (flit : List Byte) (lasting : Bool)
  /-- R258: A COMMIT flit records a member's commit of STEP; with all arrived the STEP_COMMIT completes OK. -/
  | commit (link : Nat) (flit : List Byte)
  /-- R252: A DESC_CHECK flit's descriptor digest is compared, and a mismatch ends the collective with
    INVALID_DESC. -/
  | descCheck (link : Nat) (flit : List Byte)
  /-- R261: A DIGEST flit delivers a replica's step digest, held if its DIGEST is not yet accepted. -/
  | digestFlit (link : Nat) (flit : List Byte)
  /-- R369: A BELAY flit delivers peer belay bytes into the receiving partition's RX tensor half. -/
  | belayFlit (link : Nat) (flit : List Byte)
  /-- R245: An idle port sends a KEEPALIVE at least every 256 ns. -/
  | keepaliveSend (link : Nat)
  /-- R245: A port that receives no good flit nor training pattern for 768 ns enters LOST. -/
  | receiveTimeout (link : Nat)
  /-- R245: On light loss a port enters LOST, discards replay state, closes its associations and starts its
    loopback test. -/
  | linkLost (link : Nat)
  /-- R245: The 50 µs loopback test of a lost port ends, setting SUSPECT if it fails. -/
  | loopbackTest (link : Nat) (passes : Bool)
  /-- R237: A port training completes as UP, DEGRADED or a training failure, and opens its device association. -/
  | linkTraining (link : Nat) (result : Training)
  /-- R361: An unanswered CREDIT_REQ is resent after 1 ms, and after eight the association closes as for a lost
    peer. -/
  | creditReqTimeout (link vc : Nat)
  /-- R384: A primary laser input out of limits for 100 ns is switched to the backup within 200 ns. -/
  | laserSwitch (pair : Nat)
  /-- R384: When both inputs of a pair fail, every port of that edge enters LOST. -/
  | laserPairLost (pair : Nat)
  /-- R378: Assertion of RST_N floats every output and darkens every optical output within 1 µs. -/
  | rstNAssert
  /-- R378: A fall of PWR_OK floats every output and darkens every optical output within 1 µs. -/
  | pwrOkFall
  /-- R390: Once PWR_OK and RST_N are high with VIN48 present, the device runs the start-up sequence to READY. -/
  | startUp (facts : StartFacts)
  /-- R385: VIN48 below 37 V or above 63 V turns the regulators off, acting as power loss. -/
  | vin48TurnOff
  /-- R380: A reference absent or off by more than 1,000 ppm for 10 µs darkens all ports, aborts operations and
    sets FAULT. -/
  | refClockLoss
  /-- R389: A sensor at 115 °C trips the comparator, which asserts THERM_TRIP_N and FAULT_N and turns off every
    rail but VMGT. -/
  | thermalTrip
  /-- R388: A junction above 105 °C announces kind 0x01 and starts lowering VCORE. -/
  | thermalSlowdown (field : Nat) (temp : BitVec 12)
  /-- R388: Every 1,000 local ticks of slowdown, VCORE falls 10 mV until the reading is at most 103 °C or VCORE is
    0.55 V. -/
  | thermalStep (temp : BitVec 12)
  /-- R388: After 10,000 ticks at or below 100 °C, slowdown ends with kind 0x02. -/
  | thermalSlowdownEnd
  /-- R386: Every 100 MGC ticks the regulator compares mean power with the cap and lowers VCORE or limits the rate. -/
  | powerCapInterval (watts : Nat)
  /-- R386: Every 10,000 ticks with power below 97 % of the cap, the regulator releases rate limits and raises
    VCORE toward TARGET. -/
  | vcoreRaise (watts : Nat)
  /-- R306: When the device leaves the pace envelope the MGC announces PACE_BREAK and paced blocks run at the
    corner's speed. -/
  | paceBreak
  /-- R306: After 1,000 consecutive MGC ticks inside the envelope, the MGC announces PACE_RESTORE. -/
  | paceRestore
  /-- R299: At a period boundary each allocation receives its tokens, unused tokens expire and pending changes
    take effect. -/
  | weirPeriod (weir : Nat)
  /-- R350: A block with pending work and no PROGRESS change for WATCH_WINDOW ticks reports HUNG. -/
  | watchdogExpiry (page : Nat)
  /-- R353: With PRT.STATUS.HUNG still set after HANG_GRACE, the MGC starts a reset of the default scope. -/
  | hangGraceExpiry (p : Nat) (confirmed : Bool)
  /-- R353: A context reset not DONE within 40 µs makes the MGC start a partition reset. -/
  | contextResetTimeout (p : Nat)
  /-- R353: A partition reset not DONE within 4 s makes the hung block suspect and drains the device. -/
  | partitionResetTimeout (p page : Nat)
  /-- R362: At the end of each RISK_PERIOD the health monitor updates the leaky counts and RISK. -/
  | riskPeriod (hottest : Nat)
  /-- R339: The health monitor runs a random or stored pattern on two engines and compares, rerunning or using a
    third engine on mismatch. -/
  | patrolTest (core0 core1 core2 engine : Nat) (runs reruns : Bool) (third : PatrolRun)
  /-- R344: A confirmed cause drains the device: operations end DRAINED, drain belays run, associations close and
    DEV_STATE becomes DRAINED. -/
  | drain (selfCheckFailed : Bool)
  /-- R346: The health monitor writes a CPER record for a reportable event within 1 ms, raising CPER_HEAD and
    ALERT_N. -/
  | cperRecord
  /-- R362: A regulator reports a VCORE droop, which raises FLD.DROOP_COUNT and counts in input 6 of the risk
    estimate. -/
  | vcoreDroop (field : Nat)
  /-- R243: A received flit that fails CRC or GCM, or arrives out of order, is dropped and the receiver sends NAK. -/
  | flitCrcOrGcmFail (link : Nat) (flit : List Byte)
  /-- R242: A received flit whose TYPE is not listed in Table 11.5 is dropped and sets ERR_STATUS.PROTOCOL. -/
  | unlistedFlitType (link : Nat) (flit : List Byte)
  /-- R245: Light returns to a DARK or LOST port, and the port starts training. -/
  | lightReturns (link : Nat)
  /-- R356: The retraining of the basin PHY groups in a partition reset ends, and the reset can report DONE. -/
  | basinPhyRetrained (p : Nat) (links : List (Nat × Training))
  /-- R344: A drain belay that is not finished 60 s after it started ends ABORTED, and the drain continues. -/
  | drainBelayTimeout (p : Nat)
  /-- R326: SEC's entropy source fails or passes its health test, which changes SEC_STATUS.ENTROPY_OK and decides
    whether random requests are answered BUSY. -/
  | entropyHealthTest (passes : Bool)
  /-- R322: An access on the JTAG lands of a part with DEBUG_DISABLED at 0 sets DEBUG_STATE.DEBUG_USED. -/
  | debugAccess
deriving DecidableEq, Repr

end Sys2Proof
end

