-- ==== Sys2Proof/Config.lean ====
section
/-! DEFINITION. What an implementation or a manufactured part fixes, and the free values the spec leaves open:
opaque constants, so that no proof can see what they are. -/

namespace Sys2Proof.Config

/-- FREE VALUE (log 11): which of the results within 2 units in the last place the fixed algorithm of EXP (0), LOG (1),
SIGMOID (2) and TANH (3) gives for an operand (R128 states the bound, not the bits). -/
opaque transcendental (op : Nat) (operand : BitVec 32) : Nat

/-- FREE VALUE (log 10): the n-th 256-bit draw of SEC's entropy source (R326). -/
opaque secRandom (n : Nat) : BitVec 256

/-- FREE VALUE (log 5): local ticks that pass in a block between its n-th and next stamp (R10, R24). -/
opaque elapsed (n : Nat) : Nat

/-- FREE VALUE (log 12): instructions that a call of party code may retire before the die's watchdog finds it (R175). -/
opaque callLimit : Nat
/-- FREE VALUE (log 12): the hart that a chunk of an UPDATE runs on (R173). -/
opaque hartOf (seq chunk : Nat) : Nat
/-- FREE VALUE (log 12): where in the 28 MiB of Table 8.4 the stream buffers of a chunk stand. -/
opaque bufferOf (seq chunk : Nat) : Nat
/-- FREE VALUE (log 12): the return address in ra (Table 8.5). -/
opaque returnOf (seq chunk : Nat) : Nat
/-- FREE VALUE (log 12): vl for an AVL between VLMAX and 2 × VLMAX (V 1.0). -/
opaque vlBetween (avl vlmax : Nat) : Nat
/-- FREE VALUE (log 12): an agnostic element, after `n` retired instructions, is filled with ones (V 1.0). -/
opaque agnosticOnes (n i : Nat) : Bool

/-- FREE VALUE (log 13): bytes the spec calls undefined or does not state: the i-th byte at the n-th draw (R123, R150, R175,
R371). -/
opaque undefinedByte (n i : Nat) : BitVec 8

/-- FREE VALUE (log 52): the 72-bit ECC code over the ciphertext and the MAC of a basin line (Table 9.3: what it corrects and
detects is stated, its symbols are not). -/
opaque eccField (ct : List (BitVec 8)) (mac : BitVec 56) : BitVec 72

/-- FREE VALUE (log 58): the thresholds of the numeric sensors of Table 12.2 (R272 speaks of threshold crossings and states
no threshold). -/
opaque sensorThreshold (id : Nat) (high : Bool) : Int

/-- The unique device secret of the part (R312), readable only by SEC. -/
opaque uds : BitVec 256

/-- The two fused digests of the firmware signing keys (R312). -/
opaque fwKeyHash (k : Bool) : BitVec 256

/-- The serial number of the part (R312). -/
opaque serial : BitVec 64

/-- Measurement and SVN of the images a part leaves the factory with (R314; log 9). -/
opaque factoryMeasurement (image : Nat) : BitVec 256
/-- Security version of a factory image. -/
opaque factorySvn (image : Nat) : BitVec 8

/-- The certificate chain stored at manufacture, root first (R325). -/
opaque certificateChain : List (BitVec 8)

/-- FREE VALUE (log 17): the fixed table of estimated energy of a cell step (0), of a line moved (1) and of a flit (2), in
1 / (energyUnit + 1) µJ (Table 13.4; the spec does not print it). -/
opaque energyOf (event : Nat) : Nat
/-- The unit of that table. -/
opaque energyUnit : Nat

end Sys2Proof.Config
end

