-- ==== Sys2Proof/Machine/Bits.lean ====
section
/-! DEFINITION. Byte strings, little-endian fields (00_scope R4, R5), saturating counters and the sparse maps
in one canonical form that hold registers and memories. -/

namespace Sys2Proof.Machine

/-- The value of a byte string read little-endian (R5, R324): byte 0 holds bits [7:0]. -/
def leVal : List Byte → Nat
  | [] => 0
  | b :: bs => b.toNat + 256 * leVal bs

/-- `n` bytes of `v`, little-endian (R5). -/
def leBytes : Nat → Nat → List Byte
  | 0, _ => []
  | n + 1, v => BitVec.ofNat 8 v :: leBytes n (v / 256)

/-- The value of a byte string read big-endian (the byte order of the SM2, SM3 and SM4 standards). -/
def beVal (bs : List Byte) : Nat := leVal bs.reverse

/-- `n` bytes of `v`, big-endian. -/
def beBytes (n v : Nat) : List Byte := (leBytes n v).reverse

/-- `n` bytes of zero. -/
def zeros (n : Nat) : List Byte := List.replicate n 0#8

/-- Bytes `[off, off + n)` of a byte string; missing bytes read as 0. -/
def sliceBytes (bs : List Byte) (off n : Nat) : List Byte :=
  let t := (bs.drop off).take n
  t ++ zeros (n - t.length)

/-- The number in `n` bytes at offset `off`, little-endian (R5). -/
def fieldLe (bs : List Byte) (off n : Nat) : Nat := leVal (sliceBytes bs off n)

/-- Bytes XORed pairwise; the shorter string bounds the result. -/
def xorBytes (a b : List Byte) : List Byte := List.zipWith (· ^^^ ·) a b

/-- Field of `w` bits at bit `lo` of a bit vector. -/
abbrev bitsAt {n : Nat} (v : BitVec n) (lo w : Nat) : BitVec w := v.extractLsb' lo w

/-- One bit of a bit vector. -/
abbrev bitAt {n : Nat} (v : BitVec n) (i : Nat) : Bool := v.getLsbD i

/-- The integer of a `w`-bit two's complement value. -/
def signedNat (w v : Nat) : Int := if 2 ^ (w - 1) ≤ v then (v : Int) - 2 ^ w else (v : Int)

/-- A count that stops at its largest value (R50, R235, R398). -/
def satAdd {n : Nat} (c : BitVec n) (k : Nat) : BitVec n :=
  if c.toNat + k < 2 ^ n then BitVec.ofNat n (c.toNat + k) else BitVec.allOnes n

/-- The least count of `b`-sized pieces that hold `a`. -/
def ceilDiv (a b : Nat) : Nat := (a + b - 1) / b

/-- The integer `v / 2^k` rounded to nearest, ties to even (R60, R82). -/
def shiftRightRne (v : Int) (k : Nat) : Int :=
  let d : Int := 2 ^ k
  let q := v / d
  let r := v % d
  if 2 * r < d then q else if 2 * r = d then q + q % 2 else q + 1

/-- Replace the element at position `i` of a list; nothing happens beyond its end. -/
def listSet {α : Type} : List α → Nat → α → List α
  | [], _, _ => []
  | _ :: xs, 0, a => a :: xs
  | x :: xs, i + 1, a => x :: listSet xs i a

/-- Sum of a list of numbers. -/
def sumNat (l : List Nat) : Nat := l.foldl (· + ·) 0

/-- Largest integer of a list, if there is one. -/
def maxInt? (l : List Int) : Option Int :=
  l.foldl (fun m x => match m with | none => some x | some y => some (if y < x then x else y)) none

/-- A map from numbers to values that lists only what differs from a default, by rising key. -/
abbrev Sparse (α : Type) := List (Nat × α)

/-- The value at key `k`: the listed one, or the default `d` (what an unlisted key reads as). -/
def Sparse.get {α : Type} (d : α) : Sparse α → Nat → α
  | [], _ => d
  | (j, a) :: m, k => if j = k then a else Sparse.get d m k

/-- Write `v` at key `k` and keep the canonical form: rising keys, and no entry equal to the default. -/
def Sparse.set {α : Type} [DecidableEq α] (d : α) : Sparse α → Nat → α → Sparse α
  | [], k, v => if v = d then [] else [(k, v)]
  | (j, a) :: m, k, v =>
    if k < j then (if v = d then (j, a) :: m else (k, v) :: (j, a) :: m)
    else if k = j then (if v = d then m else (k, v) :: m)
    else (j, a) :: Sparse.set d m k v

/-- Every key of the map lies above `b`, the keys rise, and no entry equals the default. -/
def Sparse.wfAbove {α : Type} [DecidableEq α] (d : α) : Option Nat → Sparse α → Bool
  | _, [] => true
  | b, (j, a) :: m =>
    (match b with | none => true | some i => decide (i < j)) && decide (a ≠ d) && Sparse.wfAbove d (some j) m

/-- The canonical form of a sparse map. -/
def Sparse.wf {α : Type} [DecidableEq α] (d : α) (m : Sparse α) : Bool := Sparse.wfAbove d none m

/-- Update the value at a key. -/
def Sparse.modify {α : Type} [DecidableEq α] (d : α) (m : Sparse α) (k : Nat) (f : α → α) : Sparse α :=
  Sparse.set d m k (f (Sparse.get d m k))

/-- Write a run of values from key `k` on. -/
def Sparse.setMany {α : Type} [DecidableEq α] (d : α) : Sparse α → Nat → List α → Sparse α
  | m, _, [] => m
  | m, k, v :: vs => Sparse.setMany d (Sparse.set d m k v) (k + 1) vs

/-- The values at `n` keys from `k` on. -/
def Sparse.getMany {α : Type} (d : α) (m : Sparse α) (k n : Nat) : List α :=
  (List.range n).map (fun i => Sparse.get d m (k + i))

/-- Drop every entry whose key fails a test (the keys then read as the default). -/
def Sparse.dropKeys {α : Type} (m : Sparse α) (f : Nat → Bool) : Sparse α :=
  m.filter (fun e => !f e.1)

end Sys2Proof.Machine
end

