-- ==== Sys2Proof/Machine/Numbers.lean ====
section
/-! DEFINITION. The number formats of 02_log_number_formats: LG4, LG8, LG16, FP32, BF16, exact values, and every
conversion between them with its flags (Tables 2.1 to 2.6). -/

namespace Sys2Proof.Machine

/-- A tile flag word (Table 4.4); element flags use the same bit positions. -/
abbrev FlagWord := BitVec 16

/-- Bit 0 of Table 4.4. -/
def fNAN : FlagWord := 0x001#16
/-- Bit 1 of Table 4.4. -/
def fINFP : FlagWord := 0x002#16
/-- Bit 2 of Table 4.4. -/
def fINFN : FlagWord := 0x004#16
/-- Bit 3 of Table 4.4. -/
def fOVF : FlagWord := 0x008#16
/-- Bit 4 of Table 4.4. -/
def fUFL : FlagWord := 0x010#16
/-- Bit 5 of Table 4.4. -/
def fLONG : FlagWord := 0x020#16
/-- Bit 6 of Table 4.4. -/
def fALIGN : FlagWord := 0x040#16
/-- Bit 7 of Table 4.4. -/
def fPOISON : FlagWord := 0x080#16
/-- Bit 8 of Table 4.4. -/
def fPROV : FlagWord := 0x100#16
/-- Bit 9 of Table 4.4. -/
def fRETRIED : FlagWord := 0x200#16
/-- Bit 10 of Table 4.4. -/
def fMASKED : FlagWord := 0x400#16

/-- Whether a flag word has any bit of a mask. -/
def hasFlag (f m : FlagWord) : Bool := decide (f &&& m ≠ 0#16)

/-- The formats of Table 5.2, by ATTR.FORMAT. -/
inductive Fmt where
  | lg4 | lg8 | lg16 | fp32 | bf16 | wp72 | raw
deriving DecidableEq, Repr

/-- FORMAT codes 0-6; 7-15 are reserved (Table 5.2). -/
def Fmt.ofCode : Nat → Option Fmt
  | 0 => some .lg4 | 1 => some .lg8 | 2 => some .lg16 | 3 => some .fp32 | 4 => some .bf16 | 5 => some .wp72 | 6 => some .raw
  | _ => none

/-- The code of a format (Table 5.2). -/
def Fmt.code : Fmt → Nat
  | .lg4 => 0 | .lg8 => 1 | .lg16 => 2 | .fp32 => 3 | .bf16 => 4 | .wp72 => 5 | .raw => 6

/-- One of the three logarithmic formats. -/
def Fmt.isLg : Fmt → Bool
  | .lg4 => true | .lg8 => true | .lg16 => true | _ => false

/-- Bits of one element (Table 5.3). -/
def Fmt.bits : Fmt → Nat
  | .lg4 => 4 | .lg8 => 8 | .lg16 => 16 | .fp32 => 32 | .bf16 => 16 | .wp72 => 96 | .raw => 8

/-- The top T (Table 2.1). -/
def Fmt.top : Fmt → Int
  | .lg4 => 3 | .lg8 => 8 | .lg16 => 64 | _ => 0

/-- Codes per binade, 1/q of R39. -/
def Fmt.perBinade : Fmt → Nat
  | .lg8 => 8 | .lg16 => 256 | _ => 1

/-- The bias of the magnitude code (Table 2.1). -/
def Fmt.bias : Fmt → Int
  | .lg4 => 4 | .lg8 => 64 | .lg16 => 16384 | _ => 0

/-- The largest finite magnitude code (R26-R28). -/
def Fmt.maxMag : Fmt → Nat
  | .lg4 => 7 | .lg8 => 127 | .lg16 => 32766 | _ => 0

/-- An exact value: a dyadic number m × 2^e with m above 0, or a power 2^(l/256), or a special value. -/
inductive XVal where
  | zero
  | nan
  | inf (neg : Bool)
  | dy (neg : Bool) (m : Nat) (e : Int)
  | lg (neg : Bool) (l : Int)
deriving DecidableEq, Repr

/-- A dyadic value from a signed integer. -/
def XVal.ofInt (v : Int) (e : Int) : XVal := if v = 0 then .zero else .dy (decide (v < 0)) v.natAbs e

/-- Decode an LG element under the scale byte of its block (R25-R28, R30); `scale = none` is an unscaled tensor (R32). -/
def decodeLg (f : Fmt) (code : Nat) (scale : Option (BitVec 8)) : XVal :=
  let w := f.bits
  let neg := decide (code / 2 ^ (w - 1) % 2 = 1)
  let m := code % 2 ^ (w - 1)
  let s : Int := match scale with | none => 0 | some b => b.toInt
  if scale = some 0x80#8 then .nan
  else if m = 0 then (if neg then .nan else .zero)
  else if f = .lg16 ∧ m = 32767 then .inf neg
  else .lg neg (((m : Int) - f.bias) * (256 / f.perBinade : Nat) + 256 * s)

/-- Decode a binary32 or BF16 pattern with `fb` fraction bits (R34). -/
def decodeFp (fb : Nat) (code : Nat) : XVal :=
  let neg := decide (code / 2 ^ (fb + 8) % 2 = 1)
  let ex := code / 2 ^ fb % 256
  let fr := code % 2 ^ fb
  if ex = 255 then (if fr = 0 then .inf neg else .nan)
  else if ex = 0 then (if fr = 0 then .zero else .dy neg fr (-126 - fb))
  else .dy neg (2 ^ fb + fr) ((ex : Int) - 127 - fb)

/-- floor(log2(num / den)) of a positive rational. -/
def ilog2 (num den : Nat) : Int :=
  let a : Int := (Nat.log2 num : Int) - Nat.log2 den
  let ok := if 0 ≤ a then decide (den * 2 ^ a.toNat ≤ num) else decide (den ≤ num * 2 ^ (-a).toNat)
  if ok then a else a - 1

/-- num / den × 2^k as a pair. -/
def scale2 (num den : Nat) (k : Int) : Nat × Nat :=
  if 0 ≤ k then (num * 2 ^ k.toNat, den) else (num, den * 2 ^ (-k).toNat)

/-- A quotient rounded to nearest, ties to even. -/
def divRne (n d : Nat) : Nat :=
  let q := n / d
  let r := n % d
  if 2 * r < d then q else if 2 * r = d then q + q % 2 else q + 1

/-- The magnitude code of a positive rational rounded to nearest even in a binary format with 8 exponent bits. -/
def roundFp (fb num den : Nat) : Nat :=
  let e := max (ilog2 num den) (-126)
  let p := scale2 num den ((fb : Int) - e)
  (e + 126).toNat * 2 ^ fb + divRne p.1 p.2

/-- The magnitude code of a positive rational rounded down. -/
def floorFp (fb num den : Nat) : Nat :=
  let e := max (ilog2 num den) (-126)
  let p := scale2 num den ((fb : Int) - e)
  (e + 126).toNat * 2 ^ fb + p.1 / p.2

/-- Finish a rounded magnitude: overflow to infinity (R407) or saturation (R39, R42, R87), +0 for zero with UFL. -/
def finishFp (fb : Nat) (sat neg : Bool) (mag : Nat) : Nat × FlagWord :=
  let sg := if neg then 2 ^ (fb + 8) else 0
  if 255 * 2 ^ fb ≤ mag then
    (if sat then (sg + 255 * 2 ^ fb - 1, fOVF) else (sg + 255 * 2 ^ fb, fOVF ||| (if neg then fINFN else fINFP)))
  else if mag = 0 then (0, fUFL)
  else (sg + mag, 0#16)

/-- The largest y below 2^n with y^k at most x, bit by bit. -/
def irootFrom (k x : Nat) : Nat → Nat → Nat
  | 0, y => y
  | n + 1, y => if (y + 2 ^ n) ^ k ≤ x then irootFrom k x n (y + 2 ^ n) else irootFrom k x n y

/-- floor of the k-th root of x. -/
def iroot (k x : Nat) : Nat := irootFrom k x (Nat.log2 x / k + 1) 0

/-- floor(2^(t/256)); 0 for a negative t. -/
def floorPow (t : Int) : Nat := if t < 0 then 0 else iroot 256 (2 ^ t.toNat)

/-- 2^(t/256) rounded to the nearest integer, ties to even. A tie arises only at exactly one half, which gives 0 (R70). -/
def roundPow (t : Int) : Nat := if t = -256 then 0 else (floorPow (t + 256) + 1) / 2

/-- The magnitude code of 2^(l/256) rounded to nearest even. -/
def roundFpLg (fb : Nat) (l : Int) : Nat :=
  let e := max (l / 256) (-126)
  let t := l + 256 * ((fb : Int) - e)
  (e + 126).toNat * 2 ^ fb + roundPow t

/-- Convert an exact value into FP32 (`fb` 23) or BF16 (`fb` 7): Tables 2.5 and 2.6, R42, R87, R407. -/
def toFp (fb : Nat) (sat : Bool) : XVal → Nat × FlagWord
  | .zero => (0, 0#16)
  | .nan => (255 * 2 ^ fb + 2 ^ (fb - 1), fNAN)
  | .inf neg => ((if neg then 2 ^ (fb + 8) else 0) + 255 * 2 ^ fb, if neg then fINFN else fINFP)
  | .dy neg m e => let p := scale2 m 1 e; finishFp fb sat neg (roundFp fb p.1 p.2)
  | .lg neg l => finishFp fb sat neg (roundFpLg fb l)

/-- floor(log2 |x|) of a finite nonzero value. -/
def XVal.floorLog2? : XVal → Option Int
  | .dy _ m e => some ((Nat.log2 m : Int) + e)
  | .lg _ l => some (l / 256)
  | _ => none

/-- floor(2N × log2|x|) of a finite nonzero value and whether it is exact, N codes per binade. -/
def logHalfSteps (n : Nat) : XVal → Int × Bool
  | .dy _ m e => ((Nat.log2 (m ^ (2 * n)) : Int) + 2 * n * e, decide (m = 2 ^ Nat.log2 m))
  | .lg _ l => (n * l / 128, decide (n * l % 128 = 0))
  | _ => (0, true)

/-- The sign of a value. -/
def XVal.neg : XVal → Bool
  | .inf b => b | .dy b _ _ => b | .lg b _ => b | _ => false

/-- R39 on a finite nonzero value: the code in format `f` under block scale `s`; `noteUfl` is the condition of R40. -/
def toLgFinite (f : Fmt) (s : Int) (noteUfl : Bool) (x : XVal) : Nat × FlagWord :=
  let n := f.perBinade
  let hx := logHalfSteps n x
  let h := hx.1 - 2 * n * s
  let sg := if x.neg then 2 ^ (f.bits - 1) else 0
  let v2 : Int := if f = .lg4 then 7 else 2 * n * f.top
  let j := if h % 2 = 0 then h / 2 else if hx.2 ∧ (h / 2) % 2 = 0 then h / 2 else h / 2 + 1
  let code := j + f.bias
  if v2 ≤ h then (sg + f.maxMag, fOVF)
  else if (f.maxMag : Int) ≤ code then (sg + f.maxMag, 0#16)
  else if code ≤ 0 then (0, if noteUfl then fUFL else 0#16)
  else (sg + code.toNat, 0#16)

/-- Conversion into an LG format (R39, R40, R43). -/
def toLg (f : Fmt) (s : Int) (noteUfl : Bool) (x : XVal) : Nat × FlagWord :=
  let nanCode := 2 ^ (f.bits - 1)
  match x with
  | .zero => (0, 0#16)
  | .nan => (nanCode, fNAN)
  | .inf neg =>
    ((if f = .lg16 then (if neg then 0xFFFF else 0x7FFF) else nanCode), if neg then fINFN else fINFP)
  | _ => toLgFinite f s noteUfl x

/-- The output block-scale rule R86 over the finite nonzero values of a block: the scale and whether it was clamped. -/
def blockScale (f : Fmt) (xs : List XVal) : Int × Bool :=
  match maxInt? (xs.filterMap XVal.floorLog2?) with
  | none => (0, false)
  | some l =>
    let s := l - (f.top - 1)
    if 127 < s then (127, true) else if s < -127 then (-127, true) else (s, false)

/-- A scale as its E8 byte (R30). -/
def scaleByte (s : Int) : BitVec 8 := BitVec.ofInt 8 s

/-- Write an exact value into an element of a format. `sat` chooses R42/R87 over R407 for the binary formats. -/
def encodeElem (f : Fmt) (s : Int) (noteUfl sat : Bool) (x : XVal) : Nat × FlagWord :=
  match f with
  | .fp32 => toFp 23 sat x
  | .bf16 => toFp 7 sat x
  | _ => toLg f s noteUfl x

/-- The canonical NaN of a format (R35). -/
def canonicalNan : Fmt → Nat
  | .lg4 => 0x8 | .lg8 => 0x80 | .lg16 => 0x8000 | .fp32 => 0x7FC00000 | .bf16 => 0x7FC0 | _ => 0

/-- The largest finite value of a format with a sign (row 5 of Table 4.5). -/
def largestFinite (f : Fmt) (neg : Bool) : Nat :=
  match f with
  | .fp32 => if neg then 0xFF7FFFFF else 0x7F7FFFFF
  | .bf16 => if neg then 0xFF7F else 0x7F7F
  | _ => (if neg then 2 ^ (f.bits - 1) else 0) + f.maxMag

end Sys2Proof.Machine
end

