-- ==== Sys2Proof/Machine/Fp32.lean ====
section
/-! DEFINITION. FP32 lane arithmetic (R34-R36, R44, R45, R407), the exact row accumulator (R127) and the built-in
operations of Table 6.2. A value is a 32-bit pattern; every operation answers the pattern and the flags it raises. -/

namespace Sys2Proof.Machine

/-- An FP32 pattern. -/
abbrev F32 := BitVec 32

/-- A result and its flags. -/
abbrev FRes := F32 × FlagWord

/-- An FP32 operand as special value or signed dyadic number. -/
inductive FVal where
  | nan
  | inf (neg : Bool)
  | fin (m : Int) (e : Int)
deriving DecidableEq, Repr

/-- The value of a pattern; -0 is the number 0 (R36). -/
def fval (x : F32) : FVal :=
  match decodeFp 23 x.toNat with
  | .nan => .nan
  | .inf neg => .inf neg
  | .dy neg m e => .fin (if neg then -(m : Int) else m) e
  | _ => .fin 0 (-149)

/-- +0. -/
def f0 : F32 := 0#32
/-- 1.0. -/
def f1 : F32 := 0x3F800000#32
/-- The canonical NaN (R35). -/
def fNaN : F32 := 0x7FC00000#32
/-- An infinity. -/
def fInf (neg : Bool) : F32 := if neg then 0xFF800000#32 else 0x7F800000#32

/-- NaN from an invalid operation: canonical, with NAN (R35, R128). -/
def fBad : FRes := (fNaN, fNAN)

/-- NaN from a NaN operand: canonical; the write gives it its flag (R35, Table 2.6). -/
def fQuiet : FRes := (fNaN, 0#16)

/-- The flag an infinite result carries when it is written (Table 2.6, R407). -/
def infRes (neg : Bool) : FRes := (fInf neg, if neg then fINFN else fINFP)

/-- Round a rational of sign `neg` to FP32 (R34, R407). -/
def fRoundRat (neg : Bool) (num den : Nat) : FRes :=
  if num = 0 then (f0, 0#16) else
  let r := finishFp 23 false neg (roundFp 23 num den)
  (BitVec.ofNat 32 r.1, r.2)

/-- Round m × 2^e to FP32. -/
def fRound (m e : Int) : FRes :=
  let p := scale2 m.natAbs 1 e
  fRoundRat (decide (m < 0)) p.1 p.2

/-- Exact sum of two signed dyadic numbers. -/
def dyAdd (a b : Int × Int) : Int × Int :=
  let e := min a.2 b.2
  (a.1 * 2 ^ (a.2 - e).toNat + b.1 * 2 ^ (b.2 - e).toNat, e)

/-- A + B rounded. -/
def fAdd (a b : F32) : FRes :=
  match fval a, fval b with
  | .nan, _ => fQuiet
  | _, .nan => fQuiet
  | .inf s, .inf t => if s = t then infRes s else fBad
  | .inf s, .fin .. => infRes s
  | .fin .., .inf t => infRes t
  | .fin m e, .fin n f => let d := dyAdd (m, e) (n, f); fRound d.1 d.2

/-- The negated pattern. -/
def fNeg (a : F32) : F32 := a ^^^ 0x80000000#32

/-- A − B rounded. -/
def fSub (a b : F32) : FRes := fAdd a (fNeg b)

/-- A × B rounded. -/
def fMul (a b : F32) : FRes :=
  match fval a, fval b with
  | .nan, _ => fQuiet
  | _, .nan => fQuiet
  | .inf s, .inf t => infRes (xor s t)
  | .inf s, .fin m _ => if m = 0 then fBad else infRes (xor s (decide (m < 0)))
  | .fin m _, .inf t => if m = 0 then fBad else infRes (xor t (decide (m < 0)))
  | .fin m e, .fin n f => fRound (m * n) (e + f)

/-- A × B + D with one rounding. -/
def fFma (a b d : F32) : FRes :=
  match fval a, fval b, fval d with
  | .fin m e, .fin n f, .fin k g => let s := dyAdd (m * n, e + f) (k, g); fRound s.1 s.2
  | .fin .., .fin .., .inf t => infRes t
  | .fin .., .fin .., .nan => fQuiet
  | _, _, _ =>
    let p := fMul a b
    if p.1 = fNaN then p else fAdd p.1 d

/-- |A|, exact; NaN stays NaN. -/
def fAbs (a : F32) : FRes :=
  match fval a with
  | .nan => fQuiet
  | .inf _ => infRes false
  | .fin .. => (a &&& 0x7FFFFFFF#32, 0#16)

/-- Compare two numbers that are not NaN: a below b. -/
def fLt (a b : F32) : Bool :=
  match fval a, fval b with
  | .nan, _ => false
  | _, .nan => false
  | .inf s, .inf t => s && !t
  | .inf s, .fin .. => s
  | .fin .., .inf t => !t
  | .fin m e, .fin n f => let d := dyAdd (m, e) (-n, f); decide (d.1 < 0)

/-- Write −0 as +0 and give an infinity or NaN its flag (R36, Table 2.6). -/
def fCanon (a : F32) : FRes :=
  match fval a with
  | .nan => fBad
  | .inf s => infRes s
  | .fin m _ => (if m = 0 then f0 else a, 0#16)

/-- MAX under R44 (native) or R45 (`compat`). -/
def fMax (compat : Bool) (a b : F32) : FRes :=
  match fval a, fval b with
  | .nan, .nan => fBad
  | .nan, _ => if compat then fCanon b else fBad
  | _, .nan => if compat then fCanon a else fBad
  | _, _ => fCanon (if fLt a b then b else a)

/-- MIN under R44 (native) or R45 (`compat`). -/
def fMin (compat : Bool) (a b : F32) : FRes :=
  match fval a, fval b with
  | .nan, .nan => fBad
  | .nan, _ => if compat then fCanon b else fBad
  | _, .nan => if compat then fCanon a else fBad
  | _, _ => fCanon (if fLt b a then b else a)

/-- A × 2^k, rounded when subnormal. -/
def fScale2 (a : F32) (k : Int) : FRes :=
  match fval a with
  | .nan => fQuiet
  | .inf s => infRes s
  | .fin m e => fRound m (e + k)

/-- floor(num / den × 2^k). -/
def scaledFloor (num den : Nat) (k : Int) : Nat := let p := scale2 num den k; p.1 / p.2

/-- 1 / √A, correctly rounded. -/
def fRsqrt (a : F32) : FRes :=
  match fval a with
  | .nan => fQuiet
  | .inf true => fBad
  | .inf false => (f0, 0#16)
  | .fin m e =>
    if m < 0 then fBad else if m = 0 then infRes false
    else
      let p := scale2 1 m.toNat (-e)
      let lg := ilog2 p.1 p.2 / 2
      let k := 24 - lg
      let t := iroot 2 (scaledFloor p.1 p.2 (2 * k))
      let exact := decide (p.2 * t * t = (scale2 p.1 1 (2 * k)).1 ∧ 0 ≤ k)
      let q := if t % 2 = 1 ∧ exact then t / 2 + t / 2 % 2 else (t + 1) / 2
      fRound q (lg - 23)

/-- The correctly rounded square root of a nonnegative value (norms of R179). -/
def fSqrt (a : F32) : FRes :=
  match fval a with
  | .nan => fQuiet
  | .inf true => fBad
  | .inf false => infRes false
  | .fin m e =>
    if m < 0 then fBad else if m = 0 then (f0, 0#16)
    else
      let p := scale2 m.toNat 1 e
      let k := 40 - ilog2 p.1 p.2 / 2
      let t := iroot 2 (scaledFloor p.1 p.2 (2 * k))
      fRound (2 * t + (if p.2 * t * t = (scale2 p.1 1 (2 * k)).1 then 0 else 1)) (-k - 1)

/-- A / B, correctly rounded. -/
def fDiv (a b : F32) : FRes :=
  match fval a, fval b with
  | .nan, _ => fQuiet
  | _, .nan => fQuiet
  | .inf _, .inf _ => fBad
  | .inf s, .fin n _ => infRes (xor s (decide (n < 0)))
  | .fin .., .inf _ => (f0, 0#16)
  | .fin m e, .fin n f =>
    if n = 0 then (if m = 0 then fBad else infRes (decide (m < 0)))
    else
      let p := scale2 m.natAbs n.natAbs (e - f)
      fRoundRat (xor (decide (m < 0)) (decide (n < 0))) p.1 p.2

/-! ### The fixed algorithms of EXP, LOG, SIGMOID and TANH (R128)

The spec gives their error bound of 2 units in the last place and not their bits. The exact value is computed to 512
fraction bits, and a free value picks one of the patterns within the bound (log 11). -/

/-- Fraction bits of the working precision. -/
def fixBits : Nat := 512

/-- Taylor terms y^i / i! from term `i`, in fixed point. -/
def expTerms : Nat → Nat → Nat → Nat → Nat
  | 0, _, _, _ => 0
  | n + 1, i, y, t => t + expTerms n (i + 1) y (t * y / 2 ^ fixBits / (i + 1))

/-- Square `n` times in fixed point. -/
def squareFix : Nat → Nat → Nat
  | 0, x => x
  | n + 1, x => squareFix n (x * x / 2 ^ fixBits)

/-- e^x × 2^512 for a fixed-point x between 0 and 256. -/
def expFix (x : Nat) : Nat := squareFix 10 (expTerms 70 0 (x / 1024) (2 ^ fixBits))

/-- Terms of the series of 2 × artanh z, z2 = z². -/
def atanhTerms : Nat → Nat → Nat → Nat → Nat
  | 0, _, _, _ => 0
  | n + 1, i, z2, t => t / i + atanhTerms n (i + 2) z2 (t * z2 / 2 ^ fixBits)

/-- ln(num / den) × 2^512 for 1 ≤ num / den < 2. -/
def lnFix (num den : Nat) : Nat :=
  let z := (num - den) * 2 ^ fixBits / (num + den)
  2 * atanhTerms 180 1 (z * z / 2 ^ fixBits) z

/-- The pattern a free value picks within 2 ulp of a positive rational, rounded to a sign. -/
def pickUlp (op : Nat) (a : F32) (neg : Bool) (num den : Nat) : FRes :=
  let c := Config.transcendental op a % 4
  let r := finishFp 23 false neg (floorFp 23 num den + c - 1)
  (BitVec.ofNat 32 r.1, r.2)

/-- |m × 2^e| in fixed point, held at 256. -/
def absFix (m e : Int) : Nat := min (scaledFloor m.natAbs 1 (e + fixBits)) (256 * 2 ^ fixBits)

/-- e^A. -/
def fExp (a : F32) : FRes :=
  match fval a with
  | .nan => fQuiet
  | .inf true => (f0, 0#16)
  | .inf false => infRes false
  | .fin m e =>
    let x := expFix (absFix m e)
    if 0 ≤ m then pickUlp 0 a false x (2 ^ fixBits) else pickUlp 0 a false (2 ^ fixBits) x

/-- The natural logarithm of A. -/
def fLog (a : F32) : FRes :=
  match fval a with
  | .nan => fQuiet
  | .inf true => fBad
  | .inf false => infRes false
  | .fin m e =>
    if m < 0 then fBad else if m = 0 then infRes true
    else
      let l := Nat.log2 m.toNat
      let v : Int := (e + l) * (lnFix 2 1 : Int) + lnFix m.toNat (2 ^ l)
      if v = 0 then (BitVec.ofNat 32 (Config.transcendental 1 a % 3), 0#16)
      else pickUlp 1 a (decide (v < 0)) v.natAbs (2 ^ fixBits)

/-- 1 / (1 + e^−A). -/
def fSigmoid (a : F32) : FRes :=
  match fval a with
  | .nan => fQuiet
  | .inf true => (f0, 0#16)
  | .inf false => (f1, 0#16)
  | .fin m e =>
    let x := expFix (absFix m e)
    let one := 2 ^ fixBits
    if 0 ≤ m then pickUlp 2 a false x (x + one) else pickUlp 2 a false one (x + one)

/-- tanh A. -/
def fTanh (a : F32) : FRes :=
  match fval a with
  | .nan => fQuiet
  | .inf s => (if s then 0xBF800000#32 else f1, 0#16)
  | .fin m e =>
    let x := expFix (min (2 * absFix m e) (256 * 2 ^ fixBits))
    let one := 2 ^ fixBits
    if m = 0 then (BitVec.ofNat 32 (Config.transcendental 3 a % 3), 0#16)
    else pickUlp 3 a (decide (m < 0)) (x - one) (x + one)

/-! ### The exact row accumulator (R127) -/

/-- The 320-bit integer in units of 2^−149 and the three flags. -/
structure RowAcc where
  sum : Int
  nan : Bool
  infP : Bool
  infN : Bool
deriving DecidableEq, Repr

/-- The empty accumulator. -/
def RowAcc.zero : RowAcc := ⟨0, false, false, false⟩

/-- Add one FP32 term exactly. -/
def RowAcc.add (r : RowAcc) (x : F32) : RowAcc :=
  match fval x with
  | .nan => ⟨r.sum, true, r.infP, r.infN⟩
  | .inf true => ⟨r.sum, r.nan, r.infP, true⟩
  | .inf false => ⟨r.sum, r.nan, true, r.infN⟩
  | .fin m e => ⟨r.sum + m * 2 ^ (e + 149).toNat, r.nan, r.infP, r.infN⟩

/-- The exact sum of terms. -/
def rowAcc (xs : List F32) : RowAcc := xs.foldl RowAcc.add .zero

/-- The exact quotient of the accumulator and n, rounded once. -/
def RowAcc.div (r : RowAcc) (n : Nat) : FRes :=
  if r.nan || (r.infP && r.infN) then fBad
  else if r.infP then infRes false
  else if r.infN then infRes true
  else fRoundRat (decide (r.sum < 0)) r.sum.natAbs (n * 2 ^ 149)

/-- The sum rounded once. -/
def RowAcc.round (r : RowAcc) : FRes := r.div 1

end Sys2Proof.Machine
end

