-- ==== Sys2Proof/Machine/Crypto.lean ====
section
/-! DEFINITION. The ciphers and codes the spec names (00_scope Table 0.2) and does not restate: SM3, SM4, CMAC,
counter mode, SM4-GCM and CRC-32C. PRESUMED from the named standards: log 10. -/

namespace Sys2Proof.Machine

/-- A 32-bit word of the ciphers. -/
abbrev W32 := BitVec 32

/-- The 32-bit big-endian word of the first four bytes. -/
def beWord (bs : List Byte) : W32 := BitVec.ofNat 32 (beVal (sliceBytes bs 0 4))

/-- SM3 permutation P0. -/
def sm3P0 (x : W32) : W32 := x ^^^ x.rotateLeft 9 ^^^ x.rotateLeft 17

/-- SM3 permutation P1. -/
def sm3P1 (x : W32) : W32 := x ^^^ x.rotateLeft 15 ^^^ x.rotateLeft 23

/-- The next word of the message expansion, from the last sixteen words, newest first. -/
def sm3Next (w : List W32) : W32 :=
  sm3P1 (w.getD 15 0 ^^^ w.getD 8 0 ^^^ (w.getD 2 0).rotateLeft 15)
    ^^^ (w.getD 12 0).rotateLeft 7 ^^^ w.getD 5 0

/-- `n` more words of the message expansion, newest first. -/
def sm3Expand : Nat → List W32 → List W32
  | 0, w => w
  | n + 1, w => sm3Expand n (sm3Next w :: w)

/-- The eight chaining words. -/
structure Sm3 where
  a : W32
  b : W32
  c : W32
  d : W32
  e : W32
  f : W32
  g : W32
  h : W32
deriving DecidableEq, Repr

/-- The initial value of SM3. -/
def sm3Iv : Sm3 :=
  ⟨0x7380166f#32, 0x4914b2b9#32, 0x172442d7#32, 0xda8a0600#32, 0xa96f30bc#32, 0x163138aa#32, 0xe38dee4d#32, 0xb0fb0e4e#32⟩

/-- One round of the compression function with words `w` (W_j) and `w4` (W_{j+4}). -/
def sm3Round (j : Nat) (v : Sm3) (w w4 : W32) : Sm3 :=
  let t : W32 := if j < 16 then 0x79cc4519#32 else 0x7a879d8a#32
  let ss1 := (v.a.rotateLeft 12 + v.e + t.rotateLeft (j % 32)).rotateLeft 7
  let ss2 := ss1 ^^^ v.a.rotateLeft 12
  let ff := if j < 16 then v.a ^^^ v.b ^^^ v.c else (v.a &&& v.b) ||| (v.a &&& v.c) ||| (v.b &&& v.c)
  let gg := if j < 16 then v.e ^^^ v.f ^^^ v.g else (v.e &&& v.f) ||| (~~~v.e &&& v.g)
  let tt1 := ff + v.d + ss2 + (w ^^^ w4)
  let tt2 := gg + v.h + ss1 + w
  ⟨tt1, v.a, v.b.rotateLeft 9, v.c, sm3P0 tt2, v.e, v.f.rotateLeft 19, v.g⟩

/-- `n` rounds from round `j`, over the expanded words in order. -/
def sm3Rounds : Nat → Nat → List W32 → Sm3 → Sm3
  | 0, _, _, v => v
  | n + 1, j, ws, v => sm3Rounds n (j + 1) (ws.drop 1) (sm3Round j v (ws.getD 0 0) (ws.getD 4 0))

/-- The compression function over one 64-byte block. -/
def sm3Block (v : Sm3) (blk : List Byte) : Sm3 :=
  let w0 := (List.range 16).map (fun i => beWord (blk.drop (4 * i)))
  let x := sm3Rounds 64 0 (sm3Expand 52 w0.reverse).reverse v
  ⟨x.a ^^^ v.a, x.b ^^^ v.b, x.c ^^^ v.c, x.d ^^^ v.d, x.e ^^^ v.e, x.f ^^^ v.f, x.g ^^^ v.g, x.h ^^^ v.h⟩

/-- Compress `n` blocks. -/
def sm3Blocks : Nat → List Byte → Sm3 → Sm3
  | 0, _, v => v
  | n + 1, bs, v => sm3Blocks n (bs.drop 64) (sm3Block v (bs.take 64))

/-- SM3 (GB/T 32905) of a byte string: 32 bytes. -/
def sm3 (m : List Byte) : List Byte :=
  let pad := (119 - m.length % 64) % 64
  let p := m ++ [0x80#8] ++ zeros pad ++ beBytes 8 (8 * m.length)
  let v := sm3Blocks (p.length / 64) p sm3Iv
  [v.a, v.b, v.c, v.d, v.e, v.f, v.g, v.h].flatMap (fun w => beBytes 4 w.toNat)

/-- The SM4 S-box as one number, byte 0 first in the most significant place. -/
def sm4Sbox : Nat :=
  0xd690e9fecce13db716b614c228fb2c052b679a762abe04c3aa44132649860699_9c4250f491ef987a33540b43edcfac62e4b31ca9c908e89580df94fa758f3fa6_4707a7fcf37317ba83593c19e6854fa8686b81b27164da8bf8eb0f4b70569d35_1e240e5e6358d1a225227c3b01217887d40046579fd327524c3602e7a0c4c89e_eabf8ad240c738b5a3f7f2cef96115a1e0ae5da49b341a55ad933230f58cb1e3_1df6e22e8266ca60c02923ab0d534e6fd5db3745defd8e2f03ff6a726d6c5b51_8d1baf92bbddbc7f11d95c411f105ad80ac13188a5cd7bbd2d74d012b8e5b4b0_8969974a0c96777e65b9f109c56ec68418f07dec3adc4d2079ee5f3ed7cb3948

/-- The S-box on one byte. -/
def sm4S (x : Nat) : Nat := sm4Sbox >>> (8 * (255 - x % 256)) % 256

/-- The S-box on the four bytes of a word. -/
def sm4Tau (w : W32) : W32 :=
  let x := w.toNat
  BitVec.ofNat 32 (sm4S (x / 16777216) * 16777216 + sm4S (x / 65536) * 65536 + sm4S (x / 256) * 256 + sm4S x)

/-- The round transform of the data path. -/
def sm4T (w : W32) : W32 :=
  let b := sm4Tau w
  b ^^^ b.rotateLeft 2 ^^^ b.rotateLeft 10 ^^^ b.rotateLeft 18 ^^^ b.rotateLeft 24

/-- The round transform of the key schedule. -/
def sm4TKey (w : W32) : W32 :=
  let b := sm4Tau w
  b ^^^ b.rotateLeft 13 ^^^ b.rotateLeft 23

/-- The key-schedule constant CK_i. -/
def sm4Ck (i : Nat) : W32 :=
  BitVec.ofNat 32 ((28 * i % 256) * 16777216 + ((28 * i + 7) % 256) * 65536 + ((28 * i + 14) % 256) * 256 + (28 * i + 21) % 256)

/-- Four working words. -/
structure Sm4 where
  x0 : W32
  x1 : W32
  x2 : W32
  x3 : W32
deriving DecidableEq, Repr

/-- Four big-endian words of 16 bytes. -/
def sm4Words (bs : List Byte) : Sm4 := ⟨beWord bs, beWord (bs.drop 4), beWord (bs.drop 8), beWord (bs.drop 12)⟩

/-- The round keys from round `i` on. -/
def sm4Keys : Nat → Nat → Sm4 → List W32
  | 0, _, _ => []
  | n + 1, i, k =>
    let rk := k.x0 ^^^ sm4TKey (k.x1 ^^^ k.x2 ^^^ k.x3 ^^^ sm4Ck i)
    rk :: sm4Keys n (i + 1) ⟨k.x1, k.x2, k.x3, rk⟩

/-- The data rounds. -/
def sm4Rounds : List W32 → Sm4 → Sm4
  | [], x => x
  | rk :: rks, x => sm4Rounds rks ⟨x.x1, x.x2, x.x3, x.x0 ^^^ sm4T (x.x1 ^^^ x.x2 ^^^ x.x3 ^^^ rk)⟩

/-- The 32 round keys of a 16-byte key. -/
def sm4Schedule (key : List Byte) : List W32 :=
  let k := sm4Words (sliceBytes key 0 16)
  sm4Keys 32 0 ⟨k.x0 ^^^ 0xa3b1bac6#32, k.x1 ^^^ 0x56aa3350#32, k.x2 ^^^ 0x677d9197#32, k.x3 ^^^ 0xb27022dc#32⟩

/-- SM4 (GB/T 32907): encrypt one 16-byte block. -/
def sm4 (key blk : List Byte) : List Byte :=
  let x := sm4Rounds (sm4Schedule key) (sm4Words (sliceBytes blk 0 16))
  [x.x3, x.x2, x.x1, x.x0].flatMap (fun w => beBytes 4 w.toNat)

/-- The working-key derivation of R209: bytes 0-15 of SM3(K ‖ N ‖ c). -/
def kdf (k n : List Byte) (c : Nat) : List Byte := (sm3 (k ++ n ++ [BitVec.ofNat 8 c])).take 16

/-- The keystream of consecutive counter blocks given by a function, for `n` blocks. -/
def sm4Stream (key : List Byte) (n : Nat) (ctr : Nat → List Byte) : List Byte :=
  (List.range n).flatMap (fun j => sm4 key (ctr j))

/-- Doubling in GF(2^128) as CMAC uses it (NIST SP 800-38B). -/
def cmacDouble (v : Nat) : Nat :=
  let s := v * 2 % 2 ^ 128
  if v / 2 ^ 127 % 2 = 1 then s ^^^ 0x87 else s

/-- The CBC chain of CMAC over whole blocks. -/
def cmacChain (key : List Byte) : Nat → List Byte → List Byte → List Byte
  | 0, _, x => x
  | n + 1, bs, x => cmacChain key n (bs.drop 16) (sm4 key (xorBytes x (sliceBytes bs 0 16)))

/-- CMAC with SM4 (NIST SP 800-38B): 16 bytes. -/
def cmac (key m : List Byte) : List Byte :=
  let k1 := cmacDouble (beVal (sm4 key (zeros 16)))
  let n := (m.length + 15) / 16
  let whole := m.length % 16 = 0 ∧ m.length ≠ 0
  let nb := if n = 0 then 1 else n
  let last := m.drop (16 * (nb - 1))
  let lastBlk := if whole then xorBytes last (beBytes 16 k1)
    else xorBytes (sliceBytes (last ++ [0x80#8]) 0 16) (beBytes 16 (cmacDouble k1))
  sm4 key (xorBytes (cmacChain key (nb - 1) m (zeros 16)) lastBlk)

/-- The 56-bit MAC of the spec: the first 7 bytes of CMAC, byte 0 lowest (R209). -/
def mac56 (key m : List Byte) : BitVec 56 := BitVec.ofNat 56 (leVal ((cmac key m).take 7))

/-- One step of the GHASH multiplication: bit `i` of `x`, most significant first. -/
def ghashMulLoop : Nat → Nat → Nat → Nat → Nat
  | 0, _, _, z => z
  | n + 1, x, v, z =>
    let z' := if x / 2 ^ n % 2 = 1 then z ^^^ v else z
    let v' := if v % 2 = 1 then (v / 2) ^^^ 0xe1000000000000000000000000000000 else v / 2
    ghashMulLoop n x v' z'

/-- Multiplication in the field of GHASH. -/
def ghashMul (x y : Nat) : Nat := ghashMulLoop 128 x y 0

/-- GHASH over `n` blocks. -/
def ghash (h : Nat) : Nat → List Byte → Nat → Nat
  | 0, _, y => y
  | n + 1, bs, y => ghash h n (bs.drop 16) (ghashMul (y ^^^ beVal (sliceBytes bs 0 16)) h)

/-- Pad a string to whole 16-byte blocks with zeros. -/
def pad16 (bs : List Byte) : List Byte := bs ++ zeros ((16 - bs.length % 16) % 16)

/-- SM4-GCM encryption with a 12-byte IV: ciphertext. -/
def gcmCrypt (key iv pt : List Byte) : List Byte :=
  xorBytes pt (sm4Stream key (ceilDiv pt.length 16) (fun j => iv ++ beBytes 4 (j + 2)))

/-- The 16-byte SM4-GCM tag over additional data and ciphertext. -/
def gcmTag (key iv aad ct : List Byte) : List Byte :=
  let h := beVal (sm4 key (zeros 16))
  let m := pad16 aad ++ pad16 ct ++ beBytes 8 (8 * aad.length) ++ beBytes 8 (8 * ct.length)
  xorBytes (beBytes 16 (ghash h (m.length / 16) m 0)) (sm4 key (iv ++ beBytes 4 1))

/-- One bit step of CRC-32C in its reflected form. -/
def crcBits : Nat → Nat → Nat
  | 0, c => c
  | n + 1, c => crcBits n (if c % 2 = 1 then (c / 2) ^^^ 0x82f63b78 else c / 2)

/-- CRC-32C (polynomial 0x1EDC_6F41) of a byte string. -/
def crc32c (bs : List Byte) : BitVec 32 :=
  BitVec.ofNat 32 (bs.foldl (fun c b => crcBits 8 (c ^^^ b.toNat)) 0xffffffff ^^^ 0xffffffff)

end Sys2Proof.Machine
end

