-- ==== Sys2Proof/Machine/State.lean ====
section
/-! DEFINITION. The state of the FZK4160 (INVENTORY.md, State), its reset value, and the reasons a step can stop. -/

namespace Sys2Proof.Machine

/-- A fault. No meaning of this model raises one: every error the spec describes is a next state (a completion status,
an error bit, a refused message). Safe: the type is there for Host.Core's interface. -/
inductive Fault where
  /-- Raised by nothing; it keeps the type inhabited. Safe. -/
  | none
deriving DecidableEq, Repr

/-- A refusal. -/
inductive Refusal where
  /-- Raised by an arm of Dispatch whose command has no meaning yet. Safe: the model stops. -/
  | notModelled (mnemonic : String)
deriving DecidableEq, Repr

/-! ### Pages: the common header (R398) -/

/-- The stored part of a page's common header (Table 18.4; ID, VERSION, CAPS and OWNER follow from the layout). -/
structure Hdr where
  enable : Bool
  quiesce : Bool
  hung : Bool
  suspect : Bool
  errStatus : Reg
  errMask : Reg
  errFirst : BitVec 5
  errFirstValid : Bool
  errInfo : Reg
  ce : Reg
  ue : Reg
  injectBit : BitVec 5
  progress : Reg
  watchWindow : Reg
  expired : Bool
  expireCount : BitVec 16
  /-- TICK_CAL.PERIOD of the page (R382). -/
  tickPeriod : BitVec 16
  /-- How far the hang of this block has escalated (Table 16.2): 0 none, 1 a context reset was tried, 2 a partition reset. -/
  escalation : BitVec 2
deriving DecidableEq, Repr

/-! ### Device, fuses, flash, security -/

/-- DEV.DEV_STATE (Table 17.11). -/
inductive DevState where
  | boot | ready | draining | drained | fault
deriving DecidableEq, Repr

/-- Pins, light and power (chapter 17). -/
structure Dev where
  state : DevState
  rstN : Bool
  pwrOk : Bool
  vin48 : Bool
  /-- The latched thermal trip (R389). -/
  trip : Bool
  /-- FAULT_N asserted (low). -/
  faultN : Bool
  /-- READY asserted (high). -/
  readyPin : Bool
  /-- Outputs float and light is dark (R378). -/
  outputsOff : Bool
  /-- Every rail but VMGT is up (Table 17.8). -/
  railsUp : Bool
  ropePos : BitVec 4
  bootSel : BitVec 2
  vcore : Nat
  target : Nat
  capped : Bool
  thermal : Bool
  capUnmet : Bool
  rateLimit : BitVec 4
  cap : Nat
  measured : BitVec 16
  tickCalPage : BitVec 16
  laserIn : BitVec 8
  laserEnabled : BitVec 8
  laserBackup : BitVec 4
  laserLost : BitVec 4
  laserSwitches : BitVec 8
  jtagEnabled : Bool
  injectEnabled : Bool
  debugUsed : Bool
  eventSeq : BitVec 24
  eventKind : BitVec 8
  /-- The pace envelope of R306 has been left. -/
  paceBroken : Bool
  /-- A management command made the held links train (Table 17.3, LINKS_HELD). -/
  linksReleased : Bool
  /-- The endpoint ID and the terminus ID that management gave the MCTP endpoint (R271; DSP0236, DSP0240). -/
  eid : BitVec 8
  tid : BitVec 8
deriving DecidableEq, Repr

/-- The fuse fields that burn (Table 14.1); UDS, key hashes and SERIAL are constants of Config. -/
structure Fuses where
  production : Bool
  debugDisabled : Bool
  key0Revoked : Bool
  powerCode : BitVec 2
  svn : Sparse Nat
  health : Nat
deriving DecidableEq, Repr

/-- What a flash bank holds: the images a part leaves the factory with, or bytes that were staged. -/
inductive Bank where
  | factory
  | bytes (size : Nat) (data : Sparse Byte)
deriving DecidableEq, Repr

/-- A staging session (R319): the announced size and the bytes written. -/
structure Staging where
  size : Nat
  written : Nat
deriving DecidableEq, Repr

/-- Flash, boot record, SEC and ATT (chapter 14). -/
structure Sec where
  activeBank : Bool
  tryBank : Option Bool
  bankA : Bank
  bankB : Bank
  running : Bool
  healthRecords : List (List Byte)
  entropyOk : Bool
  staging : Option Staging
  devNonce : List Byte
  bootId : List Byte
  patrolKey : List Byte
  measurements : Sparse (List Byte)
  svns : Sparse (BitVec 8)
  revokeAllowed : Bool
  reportCount : Reg
deriving DecidableEq, Repr

/-- The MGC (Table 18.8, R290, R302). -/
structure Mgc where
  startStep : BitVec 4
  recovery : Bool
  /-- The partition of each unit plus 1; 0 unassigned. -/
  units : Sparse Nat
  layoutCount : Reg
  /-- WEI36's capacity at the last layout change (c_0 of R302). -/
  weir36Base : Nat
deriving DecidableEq, Repr

/-! ### Health monitor (chapters 15, 16) -/

/-- A reportable event waiting for its CPER record (R346): the vendor section's fields (Table 15.5). -/
structure CperEvent where
  event : BitVec 8
  outcome : BitVec 8
  unitClass : BitVec 8
  core : Option Nat
  engine : Option Nat
  part : Option Nat
  pageNo : Nat
  row : BitVec 8
  column : BitVec 8
  load : BitVec 16
  syndrome : BitVec 16
  origin : BitVec 8
  jseq : Nat
  anchor : Int
  fatal : Bool
  /-- Codes of the weight and activation formats (Table 5.2). -/
  format : BitVec 8
  capture : List Byte
deriving DecidableEq, Repr

/-- The drain sequence of Table 15.6 while it runs. -/
structure DrainRun where
  /-- Health records and fuse marks that are due (R345): one for each cause that leaves one. -/
  marks : Nat
  /-- Partitions whose drain belay has not finished. -/
  waiting : List Nat
deriving DecidableEq, Repr

/-- HLT (Tables 15.7 and 16.10). -/
structure Hlt where
  risk : BitVec 8
  weights0 : Reg
  weights1 : Reg
  decay : BitVec 4
  period : BitVec 12
  belayThresh : BitVec 8
  drainThresh : BitVec 8
  leaky : Sparse Nat
  events : Sparse Nat
  armed : Bool
  cperHead : BitVec 16
  cperTail : BitVec 16
  overrun : Bool
  written : Nat
  records : List (Nat × List Byte)
  due : List CperEvent
  captures : Nat
  patrolEn : Bool
  patternsEn : Bool
  patterns : Sparse (List Byte)
  patrolFail : BitVec 16
  lastEngine : BitVec 12
  testCount : Nat
  nextPattern : Nat
  drain : Option DrainRun
  /-- A cause for a drain is confirmed (R344), and how many of the causes leave a replacement mark (R345). -/
  drainDue : Option Nat
  /-- The local tick count of HLT that CPER records carry (R10, R346). -/
  ticks : Nat
deriving DecidableEq, Repr

/-! ### Operations in flight -/

/-- A WP72 slot (Table 4.2): the integer, its residue and the six element flags in bits 0-3, 7, 8 of a flag word. -/
structure Slot where
  value : Int
  residue : Nat
  flags : BitVec 16
deriving DecidableEq, Repr

/-- The empty slot. -/
def Slot.zero : Slot := ⟨0, 0, 0#16⟩

/-- A tile record (Table 4.3). -/
structure TileRec where
  anchor : Int
  empty : Bool
  flags : BitVec 16
  len : Nat
deriving DecidableEq, Repr

/-- A WP72 partial of one tile held by one core; core 256 stands for the tile's home core after a merge (R73, R136).
`tr.len` counts the pitches written back into it. -/
structure Partial where
  part : Nat
  seq : Nat
  core : Nat
  tile : Nat
  /-- The engine that wrote the last pitch back into it. -/
  engine : Nat
  tr : TileRec
  slots : Sparse Slot
deriving DecidableEq, Repr

/-- An element of u_v as its pass stored it (R61): code, block scale, and whether it carries POISON. -/
structure UElem where
  code : Nat
  scale : BitVec 8
  poison : Bool
deriving DecidableEq, Repr

/-- One message of a collective received from a peer (R253, R254): its bytes by offset, and what its check found. -/
structure CollMsg where
  peer : Nat
  msg : Nat
  bytes : Sparse Byte
  complete : Bool
  /-- Provisional: it waits for VERDICT or RETRACT in its shadow (R256). -/
  prov : Bool
  /-- Its VERDICT has come (R256). -/
  verdict : Bool
  passed : Bool
deriving DecidableEq, Repr

/-- The collective side of an operation (R252-R258). Its messages are what staging holds (R255). -/
structure Coll where
  /-- Ordinal (COLL) plus 1 towards each rope position. -/
  ordinals : Sparse Nat
  /-- Members whose DESC_CHECK has arrived and agrees. -/
  checked : List Nat
  sentCheck : Bool
  /-- Anchors that have arrived: (member, tile, anchor, none for EMPTY). -/
  anchors : List (Nat × Nat × Option Int)
  sentAnchors : Bool
  sentData : Bool
  /-- Tiles whose merged value this member has sent (R253). -/
  merged : List Nat
  msgs : List CollMsg
  stageReady : Bool
  /-- Pages of the staging region that it has taken (R255). -/
  stagePages : Nat
  /-- Members whose COMMIT has arrived (R258). -/
  commits : List Nat
  sentCommit : Bool
  waiting : Bool
  /-- Messages sent as provisional whose verdict has not been sent: member, message, flits sent (R256). -/
  prov : List (Nat × Nat × Nat)
deriving DecidableEq, Repr

/-- An empty collective side. -/
def Coll.zero : Coll := ⟨[], [], false, [], false, false, [], [], false, 0, [], false, false, []⟩

/-- A version record (Table 7.1). -/
structure VerRec where
  handle : Nat
  cur : Nat
  ref0 : Nat
  ref1 : Nat
  ref2 : Nat
  prevValid : Bool
  void0 : Bool
  void1 : Bool
deriving DecidableEq, Repr

/-- The belay side of a BELAY operation or of a risk or drain belay (chapter 16). -/
structure BelayRun where
  kind : BitVec 8
  target : Nat
  step : Nat
  jseq : Nat
  /-- Tensors that it copies, ascending, and the records and stream counters as its acceptance found them (R365). -/
  copies : List Nat
  versions : List VerRec
  streams : Sparse Nat
  /-- Handles of a DIRTY section (Table 16.9). -/
  dirty : List Nat
  nonce : List Byte
  /-- Body sections, body size and digest of the body, once it is written. -/
  sections : Nat
  size : Nat
  digest : List Byte
  poisoned : Bool
  copied : Bool
  /-- The loss record that the STEP_COMMIT read (R367). -/
  loss : List Byte
deriving DecidableEq, Repr

/-- Where an accepted operation stands. -/
inductive OpPhase where
  | accepted | started
deriving DecidableEq, Repr

/-- An accepted operation that has not ended (R20, R101). -/
structure OpRec where
  seq : Nat
  queue : Nat
  desc : Desc
  /-- The entries the descriptor names, as acceptance read them (R90): handle and entry. -/
  ents : List (Nat × Entry)
  phase : OpPhase
  /-- Every core has sent its completion token (R23). -/
  done : Bool
  status : BitVec 8
  flags : BitVec 16
  /-- Mask bytes as read at acceptance (R98); none is a poisoned byte. -/
  mask : List (Option Byte)
  /-- H_VAR bytes as read at acceptance (R147). -/
  vars : List (Option Byte)
  compat : Bool
  rngStart : Nat
  /-- Versions held by reference: handle and tag (R147). -/
  refs : List (Nat × Nat)
  /-- The version slot that a MOVE into a VERSIONED tensor writes: CUR mod 2 at acceptance (R151). -/
  destVer : Nat
  /-- Tiles whose slot token has been granted: handle and tile (R133). -/
  granted : List (Nat × Nat)
  /-- Scan values delivered by cores (R67), and the agreed anchor. -/
  scans : List (Nat × Option Int)
  anchor : Option Int
  adapters : List Nat
  /-- What the adapter passes left in the scratchpads (R61): variant, destination row, and the elements of u_v in that row.
  -/
  uv : List (Nat × Nat × List UElem)
  /-- Pitches of a MATMUL that have been written back (R73). -/
  pitches : List Nat
  tilesDone : List Nat
  /-- UPDATE: ordinal of R183, chunks written; DIGEST: the partition's own digest. -/
  ordinal : Nat
  chunks : List Nat
  digestW : Nat
  /-- PRECOND: flags of the roots that the UPDATE computed, with POISON when an input of theirs was poisoned (R165, R179). -/
  rootFlags : BitVec 16
  /-- References to version NEW_VTAG − 2 remained when the record dropped it (R148). -/
  blocked : Bool
  held : Bool
  /-- Host lines of its sources: asked for, delivered, and the plaintext of each verified line by
  (2 × handle + PART) × 2^40 + q (R204, R230). -/
  asked : Nat
  got : Nat
  inbuf : Sparse (List Byte)
  coll : Coll
  belay : Option BelayRun
  /-- Model's own: KIND 1 of an internal operation (risk or drain belay, RESTORE second pass) that has no slot. -/
  internal : Bool
deriving DecidableEq, Repr

/-! ### Partitions -/

/-- A command queue (Table 12.7). -/
structure Queue where
  baseLo : Reg
  baseHi : Reg
  log2 : BitVec 5
  loc : Bool
  port : Bool
  enable : Bool
  head : Nat
  tail : Nat
  err : Bool
  slotWait : Bool
  acceptWait : Bool
  /-- The descriptor that was taken from HEAD and waits: for its slot while SLOT_WAIT is set, else with its slot BUSY
  for it (R278). -/
  held : Option Desc
  /-- Host lines that acceptance of the held descriptor reads (mask, variant indices, programs in the host tier): asked
  for, delivered, and their plaintext, as in an accepted operation. -/
  asked : Nat
  got : Nat
  inbuf : Sparse (List Byte)
deriving DecidableEq, Repr

/-- A queue at reset. -/
def Queue.zero : Queue := ⟨0#32, 0#32, 0#5, false, false, false, 0, 0, false, false, false, none, 0, 0, []⟩

/-- Completion slot states (Table 12.3). -/
inductive SlotState where
  | free | busy | done
deriving DecidableEq, Repr

/-- A completion slot (Table 12.3). -/
structure CSlot where
  gen : Reg
  status : BitVec 8
  state : SlotState
  flags : BitVec 16
  jseq : Nat
  user : BitVec 64
deriving DecidableEq, Repr

/-- A free slot with GEN 0. -/
def CSlot.zero : CSlot := ⟨0#32, 0#8, .free, 0#16, 0, 0#64⟩

/-- A 64-bit base register pair with its held low half (R403). -/
structure Base where
  addr : BitVec 64
  heldLo : Reg
deriving DecidableEq, Repr

/-- A base at reset. -/
def Base.zero : Base := ⟨0#64, 0#32⟩

/-- A lend-table entry (R202). -/
structure Lend where
  base : Base
  pages : Reg
  valid : Bool
  port : Bool
deriving DecidableEq, Repr

/-- A tensor window (R404). -/
structure Win where
  handle : BitVec 16
  en : Bool
  page : Reg
  entry : Entry
  livePage : Reg
deriving DecidableEq, Repr

/-- An offload buffer record (R155, R232). -/
structure OffBuf where
  count : Nat
  port : Bool
  slot : Nat
  seq : Nat
deriving DecidableEq, Repr

/-- A HIST table (R47). -/
structure Hist where
  bins : Sparse Nat
  base : Int
  zeros : Nat
  nans : Nat
  infs : Nat
  tiles : Nat
deriving DecidableEq, Repr

/-- The HIST table at context creation. -/
def Hist.zero : Hist := ⟨[], 0, 0, 0, 0, 0⟩

/-- An open replica digest (R183, R184). -/
structure RepDigest where
  step : Nat
  sum : Nat
  count : Nat
  held : Nat
deriving DecidableEq, Repr

/-- A party: policy, grants and secrets held in SEC (R328, R329). -/
structure Party where
  policy : List Byte
  digest : List Byte
  setupKey : Nat
  /-- Tenant keys: tenant, key number, key bytes; revoked ones have none. -/
  keys : List (Nat × Nat × Option (List Byte))
  seed : Option (List Byte)
  secret : List Byte
  salt : List Byte
  shares : List (Nat × List Byte)
  kc : Option (List Byte)
  codes : List (List Byte)
deriving DecidableEq, Repr

/-- PRT_STATE (Table 13.9). -/
inductive PrtState where
  | unassigned | empty | setup | active | tearing | resetting
deriving DecidableEq, Repr

/-- IDLE, BUSY, DONE of a reset or teardown register. -/
inductive RunState where
  | idle | busy | done
deriving DecidableEq, Repr

/-- BELAY_CFG and BELAY_HANDLES (Table 16.10). -/
structure BelayCfg where
  riskEn : Bool
  riskTarget : BitVec 2
  drainEn : Bool
  drainTarget : BitVec 2
  peer : BitVec 4
  excludeFrom : BitVec 16
  riskH : BitVec 16
  drainH : BitVec 16
  rxH : BitVec 16
  rxFrom : BitVec 4
  rxEn : Bool
  rxNewest : Bool
deriving DecidableEq, Repr

/-- A partition (PRT and JNL pages and what hangs on them). -/
structure Prt where
  log2Units : Nat
  h0 : Bool
  h1 : Bool
  compat : Bool
  state : PrtState
  gen : BitVec 13
  hasCtx : Bool
  epoch : BitVec 8
  paceEn : Bool
  paceRequired : Bool
  scope : Bool
  hangGrace : BitVec 24
  queues : Sparse Queue
  rr : Nat
  tt : Base
  ttKey : BitVec 6
  ttEntries : Nat
  fmt : Base
  fmtKey : BitVec 6
  fmtEntries : Nat
  stage : Base
  stagePages : Nat
  lend : Sparse Lend
  wins : Sparse Win
  ctxReset : RunState
  ctxByMgc : Bool
  prtReset : RunState
  prtByMgc : Bool
  teardown : RunState
  teardownParty : Bool
  /-- A teardown written during a reset (R297): PARTY bit. -/
  pendingTeardown : Option Bool
  /-- A party teardown waits for the journal clearing (R286). -/
  clearing : Bool
  readDone : Bool
  belayCfg : BelayCfg
  riskPending : Bool
  /-- The newest accepted operation writes the data cursor, and the pending risk belay follows it (R364). -/
  riskDue : Bool
  belayLastOk : Bool
  belayCount : BitVec 8
  restoreState : BitVec 3
  frozenMismatch : Bool
  restoreStep : Nat
  restoreLoss : List Byte
  slots : Sparse CSlot
  ops : List OpRec
  versions : List VerRec
  /-- Void versions, beyond what the records keep: handle and tag (R150). -/
  voids : List (Nat × Nat)
  /-- UPDATEs accepted of each STEP that took an ordinal (R183). -/
  ordinals : Sparse Nat
  streams : Sparse Nat
  offbufs : Sparse OffBuf
  hists : Sparse Hist
  digests : List RepDigest
  lastOutcome : Option (BitVec 8)
  party : Option Party
  /-- STEP_COMMITs of the context in acceptance order: sequence number, STEP, status when ended (R161). -/
  commits : List (Nat × Nat × Option (BitVec 8))
  /-- COMMIT flits received before the matching STEP_COMMIT: peer position and STEP. -/
  earlyCommits : List (Nat × Nat)
  /-- Collective flits that arrived before the operation was accepted: peer position, ordinal, type, bytes. -/
  earlyColl : List (Nat × Nat × Nat × List Byte)
  /-- Collectives of the context that ended: sequence number, STEP, status (R258). -/
  collEnds : List (Nat × Nat × BitVec 8)
  lastCommitStep : Nat
  anyCommit : Bool
  /-- A BELAY_FLIT image in arrival (R369): half, bytes received. -/
  rxHalf : Bool
  rxBytes : Nat
  /-- Journal (R283): entries of 64 bytes by position, and the newest sequence number. -/
  jnl : Sparse (List Byte)
  jnlHead : Nat
  jnlWindowSeq : Reg
  jnlWindow : List Byte
  jnlHeadHi : Reg
  jnlOldestHi : Reg
  jnlTick : Nat
deriving DecidableEq, Repr

/-! ### Host ports -/

/-- HST.LINK_STATUS.STATE. -/
inductive HostLink where
  | down | training | up
deriving DecidableEq, Repr

/-- TDISP states of a VF (Table 12.7). -/
inductive Tdi where
  | unlocked | locked | run | error
deriving DecidableEq, Repr

/-- An outstanding host-tier read of one line with its tag (R204). -/
structure HostRead where
  tag : Nat
  part : Nat
  epoch : BitVec 8
  gen : BitVec 13
  seq : Nat
  /-- Handle, line number q and PART (R230). -/
  handle : Nat
  line : Nat
  partNo : Nat
deriving DecidableEq, Repr

/-- An SPDM session (R270). -/
structure Session where
  id : Nat
  finished : Bool
  keyGen : Nat
deriving DecidableEq, Repr

/-- A host port. -/
structure Hst where
  link : HostLink
  speed : BitVec 4
  width : BitVec 4
  flit : Bool
  downCount : BitVec 8
  ideActive : BitVec 8
  ideFailed : BitVec 8
  ideKeys : Sparse (List Byte)
  tdisp : Sparse Tdi
  rdEarly : Sparse Nat
  wrEarly : Sparse Nat
  reads : List HostRead
  sessions : List Session
  negotiated : Bool
  /-- The session cipher that NEGOTIATE_ALGORITHMS selected: SM4-GCM, else AES-256-GCM (R270). -/
  sm4Sessions : Bool
  /-- MSI-X vectors that the host masks and those that wait masked, by 64 × function + vector (R263, R287; log 53). -/
  msixMask : Sparse Bool
  msixPending : Sparse Bool
deriving DecidableEq, Repr

/-! ### Links -/

/-- LNK_STATE (Table 11.8). -/
inductive LinkState where
  | dark | training | up | degraded | lost
deriving DecidableEq, Repr

/-- SA_STATE (Table 11.8). -/
inductive SaState where
  | idle | exchanging | open_ | rekeying | closed | failed
deriving DecidableEq, Repr

/-- A security association (R248-R251). -/
structure Sa where
  state : SaState
  cause : BitVec 3
  gen : BitVec 8
  peerCtx : BitVec 16
  peerPart : BitVec 3
  replica : Bool
  openLocal : Bool
  openPeer : Bool
  initiator : Bool
  ephemeral : Nat
  nonce : List Byte
  sendKey : List Byte
  recvKey : List Byte
  sendSalt : List Byte
  recvSalt : List Byte
  oldRecvKey : List Byte
  oldRecvSalt : List Byte
  switched : Bool
  sentCount : Nat
  recvCount : Nat
  ctrlSent : Nat
  ctrlRecv : Nat
  gcmFails : Nat
  /-- DIGEST flits held: STEP and digest (R261). -/
  digests : List (Nat × Nat)
  /-- PEER_PART and REPLICA as SA_CTRL was last written (Table 11.8). -/
  ctrl : BitVec 4
  /-- COLLECTIVE and STEP_COMMIT operations of the context that named the peer since the association opened (R252). -/
  colls : Nat
  /-- The peer's partition, ephemeral key, nonce and the report received so far of an exchange (R249; log 26). -/
  peerFrom : Nat
  peerR : List Byte
  peerNonce : List Byte
  peerReport : List Byte
deriving DecidableEq, Repr

/-- A virtual channel of a port (R246, R247). -/
structure Vc where
  credits : Nat
  waitReset : Bool
  epoch : BitVec 8
  requests : Nat
  /-- Flits that wait for a credit, a token or the eddy buffer. -/
  waiting : List (List Byte)
  /-- Credits to return to the peer. -/
  owed : Nat
deriving DecidableEq, Repr

/-- A link port (Table 11.8). -/
structure Lnk where
  state : LinkState
  retrains : BitVec 8
  peerPos : BitVec 4
  peerValid : Bool
  peerIdTag : BitVec 16
  peerId : List Byte
  peerKey : List Byte
  takeover : BitVec 5
  takeoverEn : Bool
  lambdaActive : BitVec 8
  lambdaDisable : BitVec 8
  replayCount : Reg
  fecCorr : Reg
  fecUncorr : Reg
  saSel : BitVec 4
  mask : BitVec 8
  sas : Sparse Sa
  vcs : Sparse Vc
  txSeq : Nat
  rxSeq : Nat
  eddy : List (Nat × List Byte)
  noProgress : Nat
  loopback : Bool
  /-- Light is present at the receiver. -/
  light : Bool
deriving DecidableEq, Repr

/-! ### Memory and its engines -/

/-- What a basin data line holds (R197, R212): a marker, or ciphertext with the side-band of Table 9.3. -/
inductive Line where
  | empty | poison
  | data (ct : List Byte) (mac : BitVec 56) (ecc : BitVec 72)
deriving DecidableEq, Repr

/-- A basin group (Table 18.10). -/
structure Bas where
  state : BitVec 2
  scrubLine : Nat
  scrubPasses : BitVec 4
deriving DecidableEq, Repr

/-- Key slot states (Table 10.5). -/
inductive KeyState where
  | free | active | draining | retired
deriving DecidableEq, Repr

/-- A key slot (R209, R224). -/
structure KeySlot where
  state : KeyState
  loaded : Bool
  key : List Byte
  handle : Nat
  nonce : List Byte
  offSeq : Nat
  succ : Option Nat
  sweepDone : Bool
  sweepLine : Nat
  swept : Bool
deriving DecidableEq, Repr

/-- An empty slot. -/
def KeySlot.zero : KeySlot := ⟨.free, false, [], 0, [], 0, none, false, 0, false⟩

/-- A cached tree line (R220): level, line, changed since it was written. -/
structure TreeLine where
  level : Nat
  line : Nat
  changed : Bool
deriving DecidableEq, Repr

/-- A memory crypto engine (Table 10.7). -/
structure Mce where
  selSlot : BitVec 6
  selSucc : BitVec 6
  selSuccEn : Bool
  selHandle : BitVec 16
  cmdErr : Bool
  tagFail : Reg
  poisonCount : Reg
  slots : Sparse KeySlot
  kTree : List Byte
  /-- Write counters of data lines (R218). -/
  ctr : Sparse Nat
  /-- Counters of tree lines, keyed by level × 2^32 + line. -/
  treeCtr : Sparse Nat
  /-- MACs of stored tree lines that were written since start-up; an unlisted line holds its start-up MAC (R212). -/
  treeMac : Sparse (Option (BitVec 56))
  cache : List TreeLine
  lost : List (Nat × Nat)
  lossCount : BitVec 8
  groupLost : Bool
  /-- Largest counter the group ever held (M of R222). -/
  maxCtr : Nat
  /-- Lines of the counter-tree region that carry the POISON marker, by group line (R199, R212). -/
  treePoison : Sparse Bool
deriving DecidableEq, Repr

/-! ### Engines, cores, update dies, weirs -/

/-- A stationary weight as a cell holds it (R49, R52): one code, or two in LG4, with the block scale of each. -/
structure Weight where
  code : Nat
  scale : BitVec 8
  code2 : Nat
  scale2 : BitVec 8
  poison : Bool
  poison2 : Bool
deriving DecidableEq, Repr

/-- +0 (R52, R65). -/
def Weight.zero : Weight := ⟨0, 0#8, 0, 0#8, false, false⟩

/-- An activation token on its way through a row (R49). -/
structure Act where
  row : Nat
  code : Nat
  scale : BitVec 8
  code2 : Nat
  scale2 : BitVec 8
  poison : Bool
  poison2 : Bool
deriving DecidableEq, Repr

/-- A chain value with its residue and flags (R49, R72, R75). -/
structure Chain where
  row : Nat
  value : Int
  residue : Nat
  flags : BitVec 16
deriving DecidableEq, Repr

/-- What an engine works on (R57): operation, column block, row group, first reduction index of the load in the active
bank and of the load in the shadow bank. -/
structure Job where
  part : Nat
  seq : Nat
  block : Nat
  group : Nat
  k0 : Nat
  nextK0 : Nat
  len : Nat
  /-- Chain values of the load in the active bank that have reached their slots. -/
  added : Nat
deriving DecidableEq, Repr

/-- An engine (Table 18.11 and chapter 3). -/
structure Eng where
  state : BitVec 4
  wide : Bool
  format : BitVec 2
  bankSel : Bool
  pitchCount : Reg
  tileFlags : BitVec 16
  zeroGated : Reg
  residueFail : Reg
  bank0 : Sparse Weight
  bank1 : Sparse Weight
  shadowFull : Bool
  acts : Sparse (Option Act)
  chains : Sparse (Option Chain)
  feet : Sparse (Option Chain)
  foot : Sparse Slot
  footOpen : Bool
  anchor : Option Int
  job : Option Job
  /-- The pitch whose first load stands in the shadow banks while the last load of this one streams (R21, R54). -/
  next : Option Job
  /-- Rows of the load in the active bank that have entered each cell row. -/
  fed : Sparse Nat
  /-- The residue FAILs of the open pitch, whose retry decides their outcome (R335, R340). -/
  fails : List CperEvent
  /-- The pitch was run again after a FAIL (RETRIED, R335). -/
  retried : Bool
deriving DecidableEq, Repr

/-- An engine as R65 leaves it. -/
def Eng.zero : Eng :=
  ⟨0#4, false, 0#2, false, 0#32, 0#16, 0#32, 0#32, [], [], false, [], [], [], [], false, none, none, none, [], [], false⟩

/-- A hart of an update die (R168): pc, the integer, floating-point and vector registers, fcsr and the vector CSRs, instret
of the current call (R169), the reservation of LR, and what a trap into machine mode leaves. -/
structure Hart where
  pc : BitVec 64
  x : List (BitVec 64)
  f : List (BitVec 64)
  /-- 32 vector registers of 128 bytes (VLEN 1,024). -/
  v : List (List Byte)
  fflags : BitVec 5
  frm : BitVec 3
  vxrm : BitVec 2
  vxsat : Bool
  vstart : Nat
  vl : Nat
  vill : Bool
  vtype : BitVec 8
  instret : Nat
  /-- Address and bytes that LR reserved. -/
  reserved : Option (Nat × Nat)
  /-- Machine mode; party code runs with it off. -/
  machine : Bool
  mcause : BitVec 8
  mepc : BitVec 64
deriving DecidableEq, Repr

/-- A hart with every register 0, in machine mode: firmware's (R168). -/
def Hart.zero : Hart :=
  { pc := 0#64, x := List.replicate 32 0#64, f := List.replicate 32 0#64, v := List.replicate 32 (List.replicate 128 0#8),
    fflags := 0#5, frm := 0#3, vxrm := 0#2, vxsat := false, vstart := 0, vl := 0, vill := true, vtype := 0#8, instret := 0,
    reserved := none, machine := true, mcause := 0#8, mepc := 0#64 }

/-- An update die (Tables 8.14, 8.15, 18.10). -/
structure Upd where
  codePermit : Bool
  coresInService : Bool
  state : BitVec 4
  trapCause : BitVec 8
  frozenSkips : Reg
  strict : Bool
  digest : BitVec 64
  digestStep : Reg
  progHandle : BitVec 16
  progSteps : BitVec 6
  image : List Byte
  /-- The chunk whose inputs the die holds (R166): operation and chunk. -/
  chunk : Option (Nat × Nat)
  /-- The stacks of the 16 harts, by offset in their region (Table 8.4, R174). -/
  stack : Sparse Byte
  /-- The harts as their last calls left them (R168). -/
  harts : Sparse Hart
deriving DecidableEq, Repr

/-- One allocation of a weir (R299). -/
structure Alloc where
  tokens : Nat
  next : Nat
  used : Nat
  /-- Tokens used by what leaves the device, where a weir counts each direction apart (Table 13.4). -/
  usedOut : Nat
  usedLast : Reg
  denied : Reg
  demand : Nat
  /-- Tokens that leaving requests still ask for. -/
  demandOut : Nat
  /-- A flit of a link port's weir waits for a token in this period (R246, R299). -/
  waited : Bool
  /-- WEI36: estimated energy beyond its last whole token, in units of Config.energyUnit (Table 13.4; log 17). -/
  part : Nat
deriving DecidableEq, Repr

/-- An allocation at reset. -/
def Alloc.zero : Alloc := ⟨0, 0, 0, 0, 0#32, 0#32, 0, 0, false, 0⟩

/-- A weir (Table 13.6). -/
structure Weir where
  sel : BitVec 4
  lend : Bool
  period : Nat
  nextPeriod : Nat
  allocs : Sparse Alloc
  /-- Of WEI36, the capacity per local tick that the current period is served by (R302). -/
  capacity : Nat
deriving DecidableEq, Repr

/-! ### Outputs -/

/-- What leaves the device, in order: a log that the model keeps (DESIGN CHOICE, log 6). `fn` is 0 for PF0, p + 1 for VF(p +
1). -/
inductive Output where
  | msix (port : Bool) (fn vector : Nat)
  /-- A read completion: bytes, or a poisoned TLP (none). -/
  | completion (port : Bool) (fn : Nat) (data : Option (List Byte))
  | unsupported (port : Bool) (fn : Nat)
  | hostWrite (port : Bool) (addr : Nat) (bytes : List Byte)
  | hostRead (port : Bool) (addr tag : Nat)
  | flit (link : Nat) (bytes : List Byte)
  | vendor (result : Nat) (bytes : List Byte)
  | spdm (path : SpdmPath) (code : Nat) (bytes : List Byte)
  | tdisp (port : Bool) (vf code : Nat) (bytes : List Byte)
  | mctp (bytes : List Byte)
  | pldm (bytes : List Byte)
deriving DecidableEq, Repr

/-! ### The whole machine -/

/-- The FZK4160. -/
structure State where
  dev : Dev
  fuses : Fuses
  sec : Sec
  mgc : Mgc
  hlt : Hlt
  hdrs : Sparse Hdr
  prts : Sparse Prt
  hsts : Sparse Hst
  lnks : Sparse Lnk
  bass : Sparse Bas
  mces : Sparse Mce
  upds : Sparse Upd
  weirs : Sparse Weir
  /-- Hottest sensor of each field, °C × 8 (FLD_TEMP), and droop counts. -/
  temps : Sparse (BitVec 12)
  droops : Sparse Reg
  /-- POOL blocks: state and scrub passes. -/
  poolState : Sparse (BitVec 2)
  poolPasses : Sparse Reg
  /-- Vector engines: state and comparison failures. -/
  vecState : Sparse (BitVec 3)
  vecFails : Sparse Reg
  grantWaits : Sparse Reg
  engs : Sparse Eng
  /-- Partials that cores hold, and those their home cores have merged (R73, R136). -/
  partials : List Partial
  /-- Pool bytes: core × 2^31 + slice offset (R190); poisoned 64-byte words. -/
  pool : Sparse Byte
  poolBad : Sparse Bool
  /-- Scratchpad bytes: core × 2^22 + offset (R189); poisoned 64-bit words. -/
  spd : Sparse Byte
  spdBad : Sparse Bool
  /-- Scratchpad tile records: core × 128 + record (R130). -/
  spdDir : Sparse (BitVec 64)
  /-- Records that were written poisoned (R207). -/
  spdDirBad : Sparse Bool
  /-- Basin data lines: unit × 2^33 + group line index (R196). -/
  basin : Sparse Line
  /-- NEGOTIATE_ALGORITHMS has run over MCTP since its last GET_VERSION (R271; DSP0274, log 15). -/
  mctpNegotiated : Bool
  out : List Output
  draws : Nat
  pending : List Instr
deriving DecidableEq, Repr

/-! ### Reset values -/

/-- WATCH_WINDOW at reset by page number (Table 16.1). -/
def watchReset (page : Nat) : Nat :=
  if 0x1000 ≤ page then 10000
  else if 0x200 ≤ page then 10000
  else if 0x100 ≤ page then 0
  else if 0x90 ≤ page then 0
  else if 0x30 ≤ page then 100000
  else if 0x10 ≤ page ∧ page < 0x18 then 1000000
  else 0

/-- A page's header at reset (Table 18.4). -/
def hdrReset (page : Nat) : Hdr :=
  ⟨true, false, false, false, 0#32, 0#32, 0#5, false, 0#32, 0#32, 0#32, 0#5, 0#32,
    BitVec.ofNat 32 (watchReset page), false, 0#16, 0#16, 0#2⟩

/-- The fused power limit in W (R2, Table 14.1). -/
def fusedLimit (code : BitVec 2) : Nat := if code = 1#2 then 4000 else 4600

/-- Reset of the device page (Table 17.11; log 7). -/
def Dev.reset : Dev :=
  { state := .boot, rstN := true, pwrOk := true, vin48 := true, trip := false, faultN := false, readyPin := false,
    outputsOff := true, railsUp := false, ropePos := 0#4, bootSel := 0#2, vcore := 650, target := 650, capped := false,
    thermal := false, capUnmet := false, rateLimit := 0#4, cap := fusedLimit 0#2, measured := 0#16, tickCalPage := 0#16,
    laserIn := 0#8, laserEnabled := 0#8, laserBackup := 0#4, laserLost := 0#4, laserSwitches := 0#8,
    jtagEnabled := false, injectEnabled := false, debugUsed := false, eventSeq := 0#24, eventKind := 0#8,
    paceBroken := false, linksReleased := false, eid := 0#8, tid := 0#8 }

/-- The fuses of the modelled part (log 8). -/
def Fuses.reset : Fuses := ⟨true, true, false, 0#2, [], 0⟩

/-- SEC, ATT and flash at device reset (log 7, log 9). -/
def Sec.reset : Sec := ⟨false, none, .factory, .bytes 0 [], false, [], false, none, [], [], [], [], [], false, 0#32⟩

/-- The MGC at device reset. -/
def Mgc.reset : Mgc := ⟨0#4, false, [], 0#32, 0⟩

/-- The health monitor at device reset. -/
def Hlt.reset : Hlt :=
  { risk := 0#8, weights0 := 0x80400201#32, weights1 := 0x04100820#32, decay := 3#4, period := 1000#12, belayThresh := 96#8,
    drainThresh := 224#8, leaky := [], events := [], armed := true, cperHead := 0#16, cperTail := 0#16, overrun := false,
    written := 0, records := [], due := [], captures := 0, patrolEn := true, patternsEn := false, patterns := [],
    patrolFail := 0#16, lastEngine := 0#12, testCount := 0, nextPattern := 0, drain := none, drainDue := none, ticks := 0 }

/-- BELAY registers at reset. -/
def BelayCfg.reset : BelayCfg := ⟨false, 0#2, false, 0#2, 0#4, 0#16, 0#16, 0#16, 0#16, 0#4, false, false⟩

/-- A lend entry at reset. -/
def Lend.zero : Lend := ⟨.zero, 0#32, false, false⟩

/-- A window at reset. -/
def Win.zero : Win := ⟨0#16, false, 0#32, 0#512, 0#32⟩

/-- An offload buffer record at context creation. -/
def OffBuf.zero : OffBuf := ⟨0, false, 0, 0⟩

/-- A partition at device reset. -/
def Prt.reset : Prt :=
  { log2Units := 0, h0 := false, h1 := false, compat := false, state := .unassigned, gen := 0#13, hasCtx := false,
    epoch := 0#8, paceEn := false, paceRequired := false, scope := false,
    hangGrace := 1000#24, queues := [], rr := 0, tt := .zero, ttKey := 0#6, ttEntries := 0, fmt := .zero,
    fmtKey := 0#6, fmtEntries := 0, stage := .zero, stagePages := 0, lend := [], wins := [], ctxReset := .idle,
    ctxByMgc := false, prtReset := .idle, prtByMgc := false, teardown := .idle, teardownParty := false,
    pendingTeardown := none, clearing := false, readDone := false, belayCfg := .reset, riskPending := false, riskDue := false,
    belayLastOk := false, belayCount := 0#8, restoreState := 0#3, frozenMismatch := false, restoreStep := 0,
    restoreLoss := [], slots := [], ops := [], versions := [], voids := [], ordinals := [],
    streams := [], offbufs := [], hists := [], digests := [],
    lastOutcome := none, party := none, commits := [], earlyCommits := [], earlyColl := [], collEnds := [],
    lastCommitStep := 0, anyCommit := false, rxHalf := false, rxBytes := 0, jnl := [], jnlHead := 0, jnlWindowSeq := 0#32,
    jnlWindow := [], jnlHeadHi := 0#32, jnlOldestHi := 0#32, jnlTick := 0 }

/-- A host port at device reset. -/
def Hst.reset : Hst := ⟨.down, 0#4, 0#4, false, 0#8, 0#8, 0#8, [], [], [], [], [], [], false, false, [], []⟩

/-- An association at reset. -/
def Sa.reset : Sa :=
  { state := .idle, cause := 0#3, gen := 0#8, peerCtx := 0#16, peerPart := 0#3, replica := false, openLocal := false,
    openPeer := false, initiator := false, ephemeral := 0, nonce := [], sendKey := [], recvKey := [], sendSalt := [],
    recvSalt := [], oldRecvKey := [], oldRecvSalt := [], switched := true, sentCount := 0,
    recvCount := 0, ctrlSent := 0, ctrlRecv := 0, gcmFails := 0, digests := [], ctrl := 0#4, colls := 0,
    peerFrom := 0, peerR := [], peerNonce := [], peerReport := [] }

/-- A virtual channel before the port is up. -/
def Vc.reset : Vc := ⟨0, false, 0#8, 0, [], 0⟩

/-- A link port at device reset. -/
def Lnk.reset : Lnk :=
  { state := .dark, retrains := 0#8, peerPos := 0#4, peerValid := false, peerIdTag := 0#16, peerId := [], peerKey := [],
    takeover := 0#5, takeoverEn := false, lambdaActive := 0#8, lambdaDisable := 0#8, replayCount := 0#32, fecCorr := 0#32,
    fecUncorr := 0#32, saSel := 0#4, mask := 0#8, sas := [], vcs := [], txSeq := 0, rxSeq := 0, eddy := [],
    noProgress := 0, loopback := false, light := false }

/-- A basin group at device reset. -/
def Bas.reset : Bas := ⟨0#2, 0, 0#4⟩

/-- A memory crypto engine at device reset. -/
def Mce.reset : Mce :=
  { selSlot := 0#6, selSucc := 0#6, selSuccEn := false, selHandle := 0#16, cmdErr := false, tagFail := 0#32,
    poisonCount := 0#32, slots := [], kTree := [], ctr := [], treeCtr := [], treeMac := [], cache := [], lost := [],
    lossCount := 0#8, groupLost := false, maxCtr := 0, treePoison := [] }

/-- An update die at device reset. -/
def Upd.reset : Upd := ⟨false, false, 0#4, 0xFF#8, 0#32, false, 0#64, 0#32, 0#16, 0#6, [], none, [], []⟩

/-- A weir at reset. -/
def Weir.reset : Weir := ⟨0#4, false, 1000, 1000, [], 0⟩

/-- The machine when device reset ends (log 7): no partition, memories initialised, nothing pending. -/
def State.reset : State :=
  { dev := .reset, fuses := .reset, sec := .reset, mgc := .reset, hlt := .reset, hdrs := [], prts := [], hsts := [],
    lnks := [], bass := [], mces := [], upds := [], weirs := [], temps := [], droops := [], poolState := [],
    poolPasses := [], vecState := [], vecFails := [], grantWaits := [], engs := [], partials := [], pool := [],
    poolBad := [], spd := [], spdBad := [], spdDir := [], spdDirBad := [], basin := [], mctpNegotiated := false,
    out := [], draws := 0, pending := [] }

end Sys2Proof.Machine
end

