-- ==== Sys2Proof/Machine/Ops.lean ====
section
/-! DEFINITION. Named operations over the state: units by index, pages, errors, suspects, outputs, interrupts,
announcements, weirs, completion slots, the journal, and how an operation ends. -/

namespace Sys2Proof.Machine

/-! ### Units by index -/

/-- Partition p. -/
def State.prt (s : State) (p : Nat) : Prt := Sparse.get Prt.reset s.prts p
/-- Replace partition p. -/
def State.setPrt (s : State) (p : Nat) (v : Prt) : State := { s with prts := Sparse.set Prt.reset s.prts p v }
/-- Update partition p. -/
def State.updPrt (s : State) (p : Nat) (f : Prt → Prt) : State := s.setPrt p (f (s.prt p))
/-- The index of a host port. -/
def portIdx (h : Bool) : Nat := if h then 1 else 0
/-- Host port h. -/
def State.hst (s : State) (h : Bool) : Hst := Sparse.get Hst.reset s.hsts (portIdx h)
/-- The number under which the reads of queue n's acceptance run (model's own). -/
def queueSeq (n : Nat) : Nat := 2 ^ 128 + n
/-- The number of a read whose data nobody waits for (model's own). -/
def deadSeq : Nat := 2 ^ 129
/-- Update host port h. -/
def State.updHst (s : State) (h : Bool) (f : Hst → Hst) : State :=
  { s with hsts := Sparse.modify Hst.reset s.hsts (portIdx h) f }
/-- The TDISP state of the VF of partition p on a port. -/
def Hst.tdi (h : Hst) (p : Nat) : Tdi := Sparse.get Tdi.unlocked h.tdisp p
/-- Requests of partition p's VF leave a port: its link is UP, the TDI in RUN and the VF's stream active (R264, R268, R269).
-/
def State.vfSends (s : State) (h : Bool) (p : Nat) : Bool :=
  decide ((s.hst h).link = .up) && decide ((s.hst h).tdi p = .run) && bitAt (s.hst h).ideActive p
/-- Link port i. -/
def State.lnk (s : State) (i : Nat) : Lnk := Sparse.get Lnk.reset s.lnks i
/-- Update link port i. -/
def State.updLnk (s : State) (i : Nat) (f : Lnk → Lnk) : State := { s with lnks := Sparse.modify Lnk.reset s.lnks i f }
/-- Association a of a port. -/
def Lnk.sa (l : Lnk) (a : Nat) : Sa := Sparse.get Sa.reset l.sas a
/-- Virtual channel v of a port. -/
def Lnk.vc (l : Lnk) (v : Nat) : Vc := Sparse.get Vc.reset l.vcs v
/-- Update association a of port i. -/
def State.updSa (s : State) (i a : Nat) (f : Sa → Sa) : State :=
  s.updLnk i (fun l => { l with sas := Sparse.modify Sa.reset l.sas a f })
/-- Update virtual channel v of port i. -/
def State.updVc (s : State) (i v : Nat) (f : Vc → Vc) : State :=
  s.updLnk i (fun l => { l with vcs := Sparse.modify Vc.reset l.vcs v f })
/-- Memory crypto engine m. -/
def State.mce (s : State) (m : Nat) : Mce := Sparse.get Mce.reset s.mces m
/-- Update engine m. -/
def State.updMce (s : State) (m : Nat) (f : Mce → Mce) : State := { s with mces := Sparse.modify Mce.reset s.mces m f }
/-- Slot k of a crypto engine. -/
def Mce.slot (e : Mce) (k : Nat) : KeySlot := Sparse.get KeySlot.zero e.slots k
/-- Update slot k of engine m. -/
def State.updKey (s : State) (m k : Nat) (f : KeySlot → KeySlot) : State :=
  s.updMce m (fun e => { e with slots := Sparse.modify KeySlot.zero e.slots k f })
/-- Basin group k. -/
def State.bas (s : State) (k : Nat) : Bas := Sparse.get Bas.reset s.bass k
/-- Update basin group k. -/
def State.updBas (s : State) (k : Nat) (f : Bas → Bas) : State := { s with bass := Sparse.modify Bas.reset s.bass k f }
/-- Update die k. -/
def State.upd (s : State) (k : Nat) : Upd := Sparse.get Upd.reset s.upds k
/-- Update die k with f. -/
def State.updUpd (s : State) (k : Nat) (f : Upd → Upd) : State := { s with upds := Sparse.modify Upd.reset s.upds k f }
/-- Weir w. -/
def State.weir (s : State) (w : Nat) : Weir := Sparse.get Weir.reset s.weirs w
/-- Update weir w. -/
def State.updWeir (s : State) (w : Nat) (f : Weir → Weir) : State := { s with weirs := Sparse.modify Weir.reset s.weirs w f }
/-- Engine e of core c. -/
def State.eng (s : State) (c e : Nat) : Eng := Sparse.get Eng.zero s.engs (16 * c + e)
/-- Update engine e of core c. -/
def State.updEng (s : State) (c e : Nat) (f : Eng → Eng) : State :=
  { s with engs := Sparse.modify Eng.zero s.engs (16 * c + e) f }
/-- Queue n of a partition. -/
def Prt.queue (p : Prt) (n : Nat) : Queue := Sparse.get Queue.zero p.queues n
/-- Update queue n of partition p. -/
def State.updQueue (s : State) (p n : Nat) (f : Queue → Queue) : State :=
  s.updPrt p (fun v => { v with queues := Sparse.modify Queue.zero v.queues n f })
/-- Completion slot i. -/
def Prt.slot (p : Prt) (i : Nat) : CSlot := Sparse.get CSlot.zero p.slots i
/-- Change the device page. -/
def State.updDev (s : State) (f : Dev → Dev) : State := { s with dev := f s.dev }
/-- Change the health monitor. -/
def State.updHlt (s : State) (f : Hlt → Hlt) : State := { s with hlt := f s.hlt }
/-- Change SEC. -/
def State.updSec (s : State) (f : Sec → Sec) : State := { s with sec := f s.sec }

/-! ### Layout (R14, R289) -/

/-- The partition that holds unit k. -/
def State.unitOwner (s : State) (k : Nat) : Option Nat :=
  match Sparse.get 0 s.mgc.units k with | 0 => none | n + 1 => some n

/-- The units of partition p, ascending. -/
def State.partUnits (s : State) (p : Nat) : List Nat := (List.range 8).filter (fun k => s.unitOwner k = some p)

/-- The cores of partition p in partition order (R189). -/
def State.partCores (s : State) (p : Nat) : List Nat :=
  (s.partUnits p).flatMap (fun k => (List.range 32).map (32 * k + ·))

/-- The lowest unit of partition p. -/
def State.firstUnit (s : State) (p : Nat) : Nat := ((s.partUnits p).head?).getD p

/-- The number of cores of partition p. -/
def State.coreCount (s : State) (p : Nat) : Nat := (s.partCores p).length

/-- The physical core of partition core i. -/
def State.coreAt (s : State) (p i : Nat) : Nat := 32 * s.firstUnit p + i

/-- PRT.CTX_ID (R292): the partition and its generation; generation 0 when there is no context. -/
def Prt.ctxId (v : Prt) (p : Nat) : Nat := if v.hasCtx then p * 8192 + v.gen.toNat else if v.state = .unassigned then 0 else p * 8192

/-- The partitions that exist. -/
def State.liveParts (s : State) : List Nat := (List.range 8).filter (fun p => (s.prt p).state ≠ .unassigned)

/-- Partition p is assigned to host port h (R291). -/
def Prt.onPort (v : Prt) (h : Bool) : Bool := if h then v.h1 else v.h0

/-! ### Pages (R393) -/

/-- Block classes (Table 18.5). -/
inductive PageClass where
  | dev | mgc | sec | att | hlt | prt | jnl | hst | lnk | bas | mce | upd | wei | fld | pool | core | vec | spd | eng
deriving DecidableEq, Repr

/-- The class and instance of a BAR0 page number (Table 18.1); none where no block lies. -/
def pageClass (n : Nat) : Option (PageClass × Nat) :=
  if n = 0 then some (.dev, 0) else if n = 1 then some (.mgc, 0) else if n = 2 then some (.sec, 0)
  else if n = 3 then some (.att, 0) else if n = 4 then some (.hlt, 0)
  else if 0x10 ≤ n ∧ n < 0x18 then some (.prt, n - 0x10)
  else if 0x20 ≤ n ∧ n < 0x28 then some (.jnl, n - 0x20)
  else if 0x30 ≤ n ∧ n < 0x32 then some (.hst, n - 0x30)
  else if 0x40 ≤ n ∧ n < 0x58 then some (.lnk, n - 0x40)
  else if 0x60 ≤ n ∧ n < 0x68 then some (.bas, n - 0x60)
  else if 0x70 ≤ n ∧ n < 0x7A then some (.mce, n - 0x70)
  else if 0x80 ≤ n ∧ n < 0x88 then some (.upd, n - 0x80)
  else if 0x90 ≤ n ∧ n < 0xC0 ∧ (n < 0xB5 ∨ 0xB8 ≤ n) then some (.wei, n - 0x90)
  else if 0x100 ≤ n ∧ n < 0x104 then some (.fld, n - 0x100)
  else if 0x200 ≤ n ∧ n < 0x220 then some (.pool, n - 0x200)
  else if 0x400 ≤ n ∧ n < 0x500 then some (.core, n - 0x400)
  else if 0x500 ≤ n ∧ n < 0x600 then some (.vec, n - 0x500)
  else if 0x600 ≤ n ∧ n < 0x700 then some (.spd, n - 0x600)
  else if 0x1000 ≤ n ∧ n < 0x2000 then some (.eng, n - 0x1000)
  else none

/-- Class code (Table 18.5). -/
def PageClass.code : PageClass → Nat
  | .dev => 1 | .mgc => 2 | .sec => 3 | .att => 4 | .hlt => 5 | .prt => 0x10 | .jnl => 0x11 | .hst => 0x12 | .lnk => 0x20
  | .bas => 0x30 | .mce => 0x31 | .upd => 0x32 | .wei => 0x40 | .fld => 0x50 | .pool => 0x51 | .core => 0x52 | .vec => 0x53
  | .spd => 0x54 | .eng => 0x55

/-- CPER UNIT_CLASS (Table 15.5). -/
def PageClass.cper : PageClass → Nat
  | .eng => 1 | .core => 2 | .vec => 3 | .spd => 4 | .pool => 5 | .bas => 6 | .mce => 7 | .upd => 8 | .lnk => 9
  | .hst => 10 | .hlt => 11 | _ => 0

/-- Page numbers. -/
def pagePrt (p : Nat) : Nat := 0x10 + p
/-- HST page. -/
def pageHst (h : Bool) : Nat := 0x30 + portIdx h
/-- LNK page. -/
def pageLnk (i : Nat) : Nat := 0x40 + i
/-- BAS page. -/
def pageBas (k : Nat) : Nat := 0x60 + k
/-- MCE page. -/
def pageMce (m : Nat) : Nat := 0x70 + m
/-- UPD page. -/
def pageUpd (k : Nat) : Nat := 0x80 + k
/-- WEI page. -/
def pageWei (w : Nat) : Nat := 0x90 + w
/-- POOL page. -/
def pagePool (n : Nat) : Nat := 0x200 + n
/-- CORE page. -/
def pageCore (c : Nat) : Nat := 0x400 + c
/-- VEC page. -/
def pageVec (c : Nat) : Nat := 0x500 + c
/-- SPD page. -/
def pageSpd (c : Nat) : Nat := 0x600 + c
/-- ENG page. -/
def pageEng (c e : Nat) : Nat := 0x1000 + 16 * c + e

/-- The unit a page's block belongs to (R14). -/
def pageUnit (n : Nat) : Option Nat :=
  match pageClass n with
  | some (.bas, k) => some k
  | some (.mce, k) => if k < 8 then some k else none
  | some (.upd, k) => some k
  | some (.pool, k) => some (k / 4)
  | some (.core, c) => some (c / 32)
  | some (.vec, c) => some (c / 32)
  | some (.spd, c) => some (c / 32)
  | some (.eng, i) => some (i / 512)
  | _ => none

/-- OWNER of a page (Table 18.4): the partition that owns the block. -/
def State.pageOwner (s : State) (n : Nat) : Option Nat :=
  match pageClass n with
  | some (.prt, p) => if (s.prt p).state = .unassigned then none else some p
  | some (.jnl, p) => if (s.prt p).state = .unassigned then none else some p
  | some (.wei, w) => if 40 ≤ w ∧ (s.prt (w - 40)).state ≠ .unassigned then some (w - 40) else none
  | _ => match pageUnit n with | none => none | some k => s.unitOwner k

/-- The header of page n. -/
def State.hdr (s : State) (n : Nat) : Hdr := Sparse.get (hdrReset n) s.hdrs n

/-- Update the header of page n. -/
def State.updHdr (s : State) (n : Nat) (f : Hdr → Hdr) : State :=
  { s with hdrs := Sparse.modify (hdrReset n) s.hdrs n f }

/-! ### Outputs and interrupts -/

/-- Append to what the device has sent. -/
def State.emit (s : State) (o : Output) : State := { s with out := s.out ++ [o] }

/-- Send one MSI-X message; none while the port's link is not UP (R264). A masked vector becomes pending (R287; log 53). -/
def State.msix (s : State) (h : Bool) (fn vector : Nat) : State :=
  if (s.hst h).link ≠ .up then s
  else if Sparse.get false (s.hst h).msixMask (64 * fn + vector) then
    s.updHst h (fun v => { v with msixPending := Sparse.set false v.msixPending (64 * fn + vector) true })
  else s.emit (.msix h fn vector)

/-- Signal a vector of every assigned VF of partition p (R287). -/
def State.msixVf (s : State) (p vector : Nat) : State :=
  let s1 := if (s.prt p).h0 then s.msix false (p + 1) vector else s
  if (s.prt p).h1 then s1.msix true (p + 1) vector else s1

/-- Signal a vector of PF0 of both ports (R406). -/
def State.msixPf0 (s : State) (vector : Nat) : State := (s.msix false 0 vector).msix true 0 vector

/-- Change DEV_STATE; PF0 vector 1 (Table 18.12). -/
def State.setDevState (s : State) (d : DevState) : State :=
  if s.dev.state = d then s else (s.updDev (fun v => { v with state := d })).msixPf0 1

/-- Announce an event of Table 13.7 to every partition (R307): the one DEV_EVENT value that every PRT page shows. -/
def State.announce (s : State) (kind : BitVec 8) : State :=
  let s1 := s.updDev (fun v => { v with eventKind := kind, eventSeq := v.eventSeq + 1 })
  let s2 := s1.liveParts.foldl (fun t p => t.msixVf p 17) s1
  s2.msixPf0 2

/-- ALERT_N is asserted while CPER_HEAD differs from CPER_TAIL (R348); it floats with the other outputs (R378). -/
def State.alertN (s : State) : Bool := !s.dev.outputsOff && decide (s.hlt.cperHead ≠ s.hlt.cperTail)

/-! ### Errors (R399), retries, suspects -/

/-- Set ERR_STATUS bit `b` of page n with the event's detail (R399). -/
def State.raiseErr (s : State) (n b : Nat) (info : Reg) : State :=
  s.updHdr n (fun h =>
    let h1 := { h with errStatus := h.errStatus ||| BitVec.ofNat 32 (2 ^ b) }
    if bitAt h.errMask b || h.errFirstValid then h1
    else { h1 with errFirst := BitVec.ofNat 5 b, errFirstValid := true, errInfo := info })

/-- Count events of risk input i (R362). -/
def State.riskEvent (s : State) (i n : Nat) : State :=
  s.updHlt (fun h => { h with events := Sparse.modify 0 h.events i (· + n) })

/-- ERR_COUNT_CE rises by 1; `retry` says that the event is a reread counted in risk input 1 and not in input 0 (R409). -/
def State.countCe (s : State) (n : Nat) (retry : Bool) : State :=
  (s.updHdr n (fun h => { h with ce := satAdd h.ce 1 })).riskEvent (if retry then 1 else 0) 1

/-- ERR_COUNT_UE rises by 1. -/
def State.countUe (s : State) (n : Nat) : State := s.updHdr n (fun h => { h with ue := satAdd h.ue 1 })

/-- PROGRESS of page n rises by k; HUNG clears when it changes (R350). -/
def State.progress (s : State) (n k : Nat) : State :=
  if k = 0 then s else
  s.updHdr n (fun h => { h with progress := h.progress + BitVec.ofNat 32 k, hung := false, escalation := 0#2 })

/-- An event that the health monitor records (R346). -/
def CperEvent.base (event outcome : BitVec 8) (page : Nat) : CperEvent :=
  { event := event, outcome := outcome, unitClass := BitVec.ofNat 8 (match pageClass page with | some (c, _) => c.cper | none => 0),
    core := match pageClass page with
      | some (.core, c) => some c | some (.vec, c) => some c | some (.spd, c) => some c | some (.eng, i) => some (i / 16) | _ => none,
    engine := match pageClass page with | some (.eng, i) => some (i % 16) | _ => none,
    part := none, pageNo := page, row := 0#8, column := 0#8, load := 0#16, syndrome := 0#16, origin := 0#8, jseq := 0,
    anchor := 0, fatal := false, format := 0#8, capture := [] }

/-- Hand an event to the health monitor. -/
def State.report (s : State) (e : CperEvent) : State :=
  s.updHlt (fun h => { h with due := h.due ++ [{ e with part := s.pageOwner e.pageNo }] })

/-- A cause for a drain is confirmed, with the replacement marks that it leaves (R344, R345). -/
def State.drainCause (s : State) (marks : Nat) : State :=
  s.updHlt (fun h => { h with drainDue := some (h.drainDue.getD 0 + marks) })

/-- The block of a page takes new tokens: CTRL.ENABLE set and QUIESCE clear (Table 18.4). -/
def State.takes (s : State) (n : Nat) : Bool := (s.hdr n).enable && !(s.hdr n).quiesce

/-- Classes whose suspect unit drains the device (R344). -/
def PageClass.drains : PageClass → Bool
  | .eng | .core | .vec | .spd | .pool | .bas | .mce | .upd => true
  | _ => false

/-- A unit with a lasting fault (R333): SUSPECT, PF0 vector 7, and a drain is due for the classes of R344. -/
def State.makeSuspect (s : State) (page : Nat) : State :=
  let s1 := (s.updHdr page (fun h => { h with suspect := true })).msixPf0 7
  match pageClass page with
  | some (c, i) =>
    let s2 := if c = .eng then s1.updEng (i / 16) (i % 16) (fun e => { e with state := 7#4 })
      else if c = .upd then s1.updUpd i (fun u => { u with state := 7#4 })
      else if c = .vec then { s1 with vecState := Sparse.set 0#3 s1.vecState i 5#3 } else s1
    if c.drains then s2.drainCause 1 else s2
  | none => s1

/-! ### Free values -/

/-- The next 32 bytes of SEC's entropy source (R326): a free value. -/
def State.drawRandom (s : State) : List Byte × State :=
  (leBytes 32 (Config.secRandom s.draws).toNat, { s with draws := s.draws + 1 })

/-- A partition holds a party: also while a party teardown waits for its journal to be read (R265, R286, R290). -/
def Prt.holdsParty (v : Prt) : Bool := v.party.isSome || v.clearing

/-- The next stamp of the JNL block of partition p: its local tick, advanced by a free amount (R10, R24). -/
def State.stamp (s : State) (p : Nat) : Nat × State :=
  let t := (s.prt p).jnlTick + Config.elapsed s.draws
  (t, { s.updPrt p (fun v => { v with jnlTick := t }) with draws := s.draws + 1 })

/-! ### Weirs (R299, R302, R304) -/

/-- WEI36's capacity per local tick (Table 13.4). -/
def State.powerCapacity (s : State) : Nat := s.dev.cap - 600

/-- Tokens per period that allocation a of weir w is served: scaled on WEI36 while the cap is reduced, and until the period
in which it rises again ends (R302); on a DEGRADED port those whose slots, which last twice as long, begin within the period
(R300; DEDUCED, log 59). -/
def State.served (s : State) (w a : Nat) : Nat :=
  let t := (Sparse.get Alloc.zero (s.weir w).allocs a).tokens
  if w = 36 ∧ (s.weir 36).capacity < s.mgc.weir36Base then t * (s.weir 36).capacity / s.mgc.weir36Base
  else if w < 24 ∧ (s.lnk w).state = .degraded then (t + 1) / 2
  else t

/-- The activities whose tokens are lines (Table 13.5). -/
def lineActivities : List Nat := [0, 1, 2, 3, 5, 6, 7]

/-- A partition weir lends (R304): LEND_EN, and always to a drain belay (R364); patrol test neither lends nor borrows. -/
def State.lends (s : State) (w a : Nat) : Bool :=
  decide (40 ≤ w ∧ a ≠ 4) && ((s.weir w).lend || decide (a = 7 ∧ s.dev.state = .draining))

/-- What allocation a may have used of the period at most: its tokens; where the weir lends, also those that the other line
activities have not spent, a lent token being spent (DEDUCED, log 59), with scrub's floor kept for scrub (R304). -/
def State.room (s : State) (w a : Nat) : Nat :=
  if s.lends w a then
    let v := s.weir w
    let x (b : Nat) : Alloc := Sparse.get Alloc.zero v.allocs b
    let floor := if a = 5 then 0 else 35 * v.period * (s.partUnits (w - 40)).length - (x 5).used
    (x a).used + (sumNat (lineActivities.map (fun b => (x b).tokens)) - sumNat (lineActivities.map (fun b => (x b).used)) - floor)
  else s.served w a

/-- n requests of an allocation that a period serves `room` tokens: what it does not hold waits for the next periods (R299).
-/
def Alloc.take (x : Alloc) (room n : Nat) : Alloc :=
  let now := min n (room - x.used)
  { x with used := x.used + now, demand := x.demand + (n - now) }

/-- The same for requests that leave the device, where the weir counts each direction apart (Table 13.4). -/
def Alloc.takeOut (x : Alloc) (room n : Nat) : Alloc :=
  let now := min n (room - x.usedOut)
  { x with usedOut := x.usedOut + now, demandOut := x.demandOut + (n - now) }

/-- Take n tokens of allocation a (R299). -/
def State.takeTokens (s : State) (w a n : Nat) : State :=
  if n = 0 then s else
  let room := s.room w a
  s.updWeir w (fun v => { v with allocs := Sparse.modify Alloc.zero v.allocs a (fun x => x.take room n) })

/-- Take n tokens of allocation a of a host port's or MCE8's or MCE9's weir; `out` says which direction (Table 13.4). -/
def State.takeTokensDir (s : State) (w a n : Nat) (out : Bool) : State :=
  if out then
    (if n = 0 then s else
     s.updWeir w (fun v => { v with allocs := Sparse.modify Alloc.zero v.allocs a (fun x => x.takeOut (s.served w a) n) }))
  else s.takeTokens w a n

/-- A token of allocation a is left in this period (R299). -/
def State.hasToken (s : State) (w a : Nat) : Bool :=
  decide ((Sparse.get Alloc.zero (s.weir w).allocs a).used < s.served w a)

/-- n events of partition p take their estimated energy, one token for each µJ, of its share of WEI36 (Table 13.4): cell
steps (0), lines moved (1), flits (2). -/
def State.spendEnergy (s : State) (p event n : Nat) : State :=
  let room := s.served 36 p
  s.updWeir 36 (fun v => { v with allocs := Sparse.modify Alloc.zero v.allocs p (fun x =>
    let e := x.part + n * Config.energyOf event
    { x.take room (e / (Config.energyUnit + 1)) with part := e % (Config.energyUnit + 1) }) })

/-! ### Completion slots and journal (R277-R286) -/

/-- Status codes of Table 5.12. -/
def stOK : BitVec 8 := 0x00#8
/-- OK_FLAGGED. -/
def stFlagged : BitVec 8 := 0x01#8
/-- POISONED. -/
def stPoisoned : BitVec 8 := 0x11#8
/-- FROZEN. -/
def stFrozen : BitVec 8 := 0x12#8
/-- PEER_LOST. -/
def stPeerLost : BitVec 8 := 0x20#8
/-- RETRACTED. -/
def stRetracted : BitVec 8 := 0x21#8
/-- ABORTED_TEARDOWN. -/
def stTeardown : BitVec 8 := 0x30#8
/-- ABORTED_RESET. -/
def stReset : BitVec 8 := 0x31#8
/-- INVALID_DESC. -/
def stInvalid : BitVec 8 := 0x40#8
/-- BAD_HANDLE. -/
def stBadHandle : BitVec 8 := 0x41#8
/-- KEY_RETIRED. -/
def stKeyRetired : BitVec 8 := 0x42#8
/-- RESIDUE_LASTING. -/
def stResidue : BitVec 8 := 0x50#8
/-- DRAINED. -/
def stDrained : BitVec 8 := 0x51#8

/-- Table 5.12 from its highest row. -/
def statusOrder : List (BitVec 8) :=
  [stReset, stTeardown, stDrained, stBadHandle, stInvalid, stKeyRetired, stPeerLost, stResidue, stRetracted, stPoisoned,
    stFrozen, stFlagged, stOK]

/-- The status of two that stands higher in Table 5.12. -/
def worse (a b : BitVec 8) : BitVec 8 := (statusOrder.find? (fun x => x = a || x = b)).getD a

/-- The journal state an accepted operation's entry takes with a status (R285). -/
def endState (st : BitVec 8) : BitVec 8 :=
  if st = stOK ∨ st = stFlagged ∨ st = stPoisoned ∨ st = stFrozen then 3#8
  else if st = stReset ∨ st = stTeardown ∨ st = stDrained then 5#8 else 4#8

/-- Byte field [off, off + n) of a descriptor (R5). -/
def dField (d : Desc) (off n : Nat) : Nat := (d.extractLsb' (8 * off) (8 * n)).toNat

/-- The 128 bytes of a descriptor. -/
def dBytes (d : Desc) : List Byte := leBytes 128 d.toNat

/-- The entry at the position of sequence number q, if it is the one held (R283). -/
def Prt.jnlEntry (v : Prt) (q : Nat) : Option (List Byte) :=
  let e := Sparse.get [] v.jnl (q % 4096)
  if q ≠ 0 ∧ e ≠ [] ∧ fieldLe e 0 8 = q then some e else none

/-- JNL_OLDEST (R283): 1 when the journal is empty. -/
def Prt.jnlOldest (v : Prt) : Nat := if v.jnlHead < 4096 then 1 else v.jnlHead - 4095

/-- A journal entry may be overwritten: it has ended, or there is none (R284). -/
def Prt.jnlRoom (v : Prt) : Bool :=
  let e := Sparse.get [] v.jnl ((v.jnlHead + 1) % 4096)
  e = [] || decide (3 ≤ fieldLe e 10 1)

/-- The STATE of the entry with sequence number q; 0 when it is not held. -/
def Prt.jnlState (v : Prt) (q : Nat) : Nat := match v.jnlEntry q with | none => 0 | some e => fieldLe e 10 1

/-- Write bytes into a byte string at an offset. -/
def putBytes (bs : List Byte) (off : Nat) (v : List Byte) : List Byte :=
  sliceBytes bs 0 off ++ v ++ bs.drop (off + v.length)

/-- Change the journal entry q of partition p. -/
def State.updJnl (s : State) (p q : Nat) (f : List Byte → List Byte) : State :=
  s.updPrt p (fun v => match v.jnlEntry q with
    | none => v
    | some e => { v with jnl := Sparse.set [] v.jnl (q % 4096) (f e) })

/-- Append a journal entry; the head takes its sequence number. -/
def State.pushJnl (s : State) (p : Nat) (e : Nat → List Byte) : State :=
  s.updPrt p (fun v =>
    let q := v.jnlHead + 1
    { v with jnl := Sparse.set [] v.jnl (q % 4096) (e q), jnlHead := q })

/-- The bytes of a command's journal entry (Table 12.4). -/
def jnlBytes (q queue : Nat) (d : Desc) (state status : BitVec 8) (cgen : Reg) (tAccept tEnd : Nat) : List Byte :=
  leBytes 8 q ++ leBytes 1 (queue % 16) ++ leBytes 1 (dField d 0 1) ++ leBytes 1 state.toNat ++ leBytes 1 status.toNat
    ++ leBytes 2 (dField d 6 2) ++ leBytes 2 0 ++ (sm3 (dBytes d)).take 8 ++ leBytes 4 cgen.toNat ++ leBytes 2 (dField d 4 2)
    ++ leBytes 2 0 ++ leBytes 8 tAccept ++ leBytes 8 0 ++ leBytes 8 tEnd ++ leBytes 8 0

/-- Write a completion slot at an end (R278): STATUS, TILE_FLAGS, JSEQ, USER, GEN + 1, DONE, in one write. -/
def State.writeSlot (s : State) (p i : Nat) (status : BitVec 8) (flags : BitVec 16) (jseq : Nat) (user : BitVec 64) : State :=
  s.updPrt p (fun v =>
    { v with slots := Sparse.modify CSlot.zero v.slots i (fun c => ⟨c.gen + 1, status, .done, flags, jseq, user⟩) })

/-- Find an accepted operation by its sequence number. -/
def Prt.op (v : Prt) (seq : Nat) : Option OpRec := v.ops.find? (fun o => o.seq = seq)

/-- Update an accepted operation. -/
def State.updOp (s : State) (p seq : Nat) (f : OpRec → OpRec) : State :=
  s.updPrt p (fun v => { v with ops := v.ops.map (fun o => if o.seq = seq then f o else o) })

/-- USER of a descriptor. -/
def dUser (d : Desc) : BitVec 64 := d.extractLsb' 896 64

/-- FLAGS bit i. -/
def dFlag (d : Desc) (i : Nat) : Bool := bitAt d (16 + i)

/-- End an accepted operation (R23, R280): its slot, then its journal entry, then MSI-X when FLAGS.IRQ is set. A risk or
drain belay has neither; its end shows in BELAY_STATUS (Table 16.10). -/
def State.endOp (s : State) (p : Nat) (o : OpRec) (status : BitVec 8) : State :=
  if o.internal then s.updPrt p (fun v =>
    { v with ops := v.ops.filter (fun x => x.seq ≠ o.seq)
             belayLastOk := decide (status = stOK)
             belayCount := if status = stOK ∨ status = stPoisoned then satAdd v.belayCount 1 else v.belayCount }) else
  let i := dField o.desc 6 2
  let s1 := s.writeSlot p i status o.flags o.seq (dUser o.desc)
  let g := ((s1.prt p).slot i).gen
  let t := s1.stamp p
  let s2 := t.2.updJnl p o.seq (fun e =>
    putBytes (putBytes (putBytes (putBytes (putBytes e 10 (leBytes 1 (endState status).toNat)) 11 (leBytes 1 status.toNat))
      14 (leBytes 2 o.flags.toNat)) 24 (leBytes 4 g.toNat)) 48 (leBytes 8 t.1))
  let op := dField o.desc 0 1
  let step := dField o.desc 104 8
  let s3 := s2.updPrt p (fun v =>
    { v with ops := v.ops.filter (fun x => x.seq ≠ o.seq),
             commits := v.commits.map (fun c => if c.1 = o.seq then (c.1, c.2.1, some status) else c),
             collEnds := if op = 0x20 then v.collEnds ++ [(o.seq, step, status)] else v.collEnds })
  let s4 := { s3 with partials := s3.partials.filter (fun x => !(x.part = p && x.seq = o.seq)) }
  let s5 := s4.progress (pagePrt p) 1
  if dFlag o.desc 5 then s5.msixVf p o.queue else s5

end Sys2Proof.Machine
end

