-- ==== Sys2Proof/Machine/Operands.lean ====
section
/-! DEFINITION. Operand forms: the fields of descriptors, tensor-table entries, variant-table entries and format policy
entries; element order, block scales and tiles; device addresses and which of them are legal. -/

namespace Sys2Proof.Machine

/-! ### Tensor-table entries (Tables 5.1 and 5.2) -/

/-- Byte field of an entry. -/
def eField (e : Entry) (off n : Nat) : Nat := (e.extractLsb' (8 * off) (8 * n)).toNat
/-- Bits [lo, lo + w) of ATTR. -/
def eAttr (e : Entry) (lo w : Nat) : Nat := (e.extractLsb' (320 + lo) w).toNat
/-- ADDR. -/
def eAddr (e : Entry) : Nat := eField e 0 8
/-- ADDR_ALT. -/
def eAlt (e : Entry) : Nat := eField e 8 8
/-- SCALE_ADDR. -/
def eScaleAddr (e : Entry) : Nat := eField e 16 8
/-- DIM0 to DIM3. -/
def eDim (e : Entry) (i : Nat) : Nat := if i < 4 then eField e (24 + 4 * i) 4 else 1
/-- TIER. -/
def eTier (e : Entry) : Nat := eAttr e 0 3
/-- FORMAT, if it is not reserved. -/
def eFmt? (e : Entry) : Option Fmt := Fmt.ofCode (eAttr e 3 4)
/-- FORMAT of a well-formed entry. -/
def eFmt (e : Entry) : Fmt := (eFmt? e).getD .raw
/-- RANK: number of dimensions minus 1. -/
def eRank (e : Entry) : Nat := eAttr e 7 2
/-- SCALE_AXIS. -/
def eAxis (e : Entry) : Nat := eAttr e 9 2
/-- SCALED. -/
def eScaled (e : Entry) : Bool := eAttr e 11 1 = 1
/-- FROZEN. -/
def eFrozen (e : Entry) : Bool := eAttr e 12 1 = 1
/-- VERSIONED. -/
def eVersioned (e : Entry) : Bool := eAttr e 13 1 = 1
/-- HIST_EN. -/
def eHistEn (e : Entry) : Bool := eAttr e 14 1 = 1
/-- VALID. -/
def eValid (e : Entry) : Bool := eAttr e 15 1 = 1
/-- HIST_ID. -/
def eHistId (e : Entry) : Nat := eAttr e 16 10
/-- KEY_ID's slot. -/
def eKey (e : Entry) : Nat := eField e 44 2 % 64
/-- OWNER. -/
def eOwner (e : Entry) : Nat := eField e 46 2
/-- Reserved fields and bits of an entry are 0 (R91). -/
def eReservedZero (e : Entry) : Bool :=
  decide (eAttr e 26 6 = 0 ∧ eField e 44 2 / 64 = 0 ∧ eField e 48 16 = 0)

/-- Number of elements. -/
def eCount (e : Entry) : Nat := eDim e 0 * eDim e 1 * eDim e 2 * eDim e 3
/-- Number of rows (R92). -/
def eRows (e : Entry) : Nat := eDim e 1 * eDim e 2 * eDim e 3
/-- The four extents. -/
def eDims (e : Entry) : List Nat := [eDim e 0, eDim e 1, eDim e 2, eDim e 3]

/-- Tile columns, tile rows (R93). -/
def eGrid (e : Entry) : Nat × Nat := (ceilDiv (eDim e 0) 64, ceilDiv (eDim e 1) 64)
/-- Number of tiles (R93). -/
def eTiles (e : Entry) : Nat := (eGrid e).1 * (eGrid e).2 * eDim e 2 * eDim e 3
/-- The tile of element (i0, row ρ) and its slot inside the tile (R93). -/
def eTileOf (e : Entry) (i0 ρ : Nat) : Nat × Nat :=
  let i1 := ρ % eDim e 1
  let b := ρ / eDim e 1
  (b * ((eGrid e).1 * (eGrid e).2) + i1 / 64 * (eGrid e).1 + i0 / 64, 64 * (i1 % 64) + i0 % 64)
/-- First column, first row index (R92), columns and rows of a tile inside the extents. -/
def eTileBox (e : Entry) (t : Nat) : Nat × Nat × Nat × Nat :=
  let g := eGrid e
  let b := t / (g.1 * g.2)
  let r := t % (g.1 * g.2) / g.1
  let c := t % g.1
  (64 * c, b * eDim e 1 + 64 * r, min 64 (eDim e 0 - 64 * c), min 64 (eDim e 1 - 64 * r))

/-- Data bytes of one version slot (Table 5.3, R29, R93). -/
def eDataBytes (e : Entry) : Nat :=
  match eFmt e with
  | .wp72 => 49152 * eTiles e
  | .lg4 => ceilDiv (eCount e) 2
  | f => eCount e * (f.bits / 8)

/-- Bytes at SCALE_ADDR for one version slot (R31, R76); scratchpad tile records lie in the directory (R93). -/
def eScaleBytes (e : Entry) : Nat :=
  if eFmt e = .wp72 then (if eTier e = 3 then 0 else 8 * eTiles e)
  else if eScaled e then eCount e / eDim e (eAxis e) * ceilDiv (eDim e (eAxis e)) 32
  else 0

/-- Axis indices of the element with linear index q (R92). -/
def eIndex (e : Entry) (q k : Nat) : Nat :=
  match k with
  | 0 => q % eDim e 0
  | 1 => q / eDim e 0 % eDim e 1
  | 2 => q / (eDim e 0 * eDim e 1) % eDim e 2
  | _ => q / (eDim e 0 * eDim e 1 * eDim e 2)

/-- Linear index over the dimensions other than the scale axis, in element order (R31). -/
def eOther (e : Entry) (q : Nat) : Nat :=
  [3, 2, 1, 0].foldl (fun a k => if k = eAxis e then a else a * eDim e k + eIndex e q k) 0

/-- The byte of the block scale of element q (R31). -/
def eScaleIndex (e : Entry) (q : Nat) : Nat :=
  eOther e q * ceilDiv (eDim e (eAxis e)) 32 + eIndex e q (eAxis e) / 32

/-! ### Device addresses (R187-R191, R202, R203) -/

/-- Bytes of one pool slice. -/
def sliceSize : Nat := 1500000000
/-- Bytes of one basin group that addresses reach. -/
def groupSize : Nat := 720000000000
/-- Bytes of one scratchpad. -/
def spdSize : Nat := 4194304

/-- Fields of a pool address (Table 9.2). -/
def poolOff (a : Nat) : Nat := a % 2 ^ 31
/-- CORE. -/
def poolCore (a : Nat) : Nat := a / 2 ^ 32 % 256
/-- GRAN. -/
def poolGran (a : Nat) : Nat := a / 2 ^ 40 % 4
/-- PLACE. -/
def poolPlace (a : Nat) : Nat := a / 2 ^ 62 % 4
/-- The granule size in bytes. -/
def poolGranule (a : Nat) : Nat := 32 * 2 ^ poolGran a

/-- The last slice offset that byte run of length n at a SPREAD address uses, in any slice (R191). -/
def spreadLast (a n cores : Nat) : Nat :=
  let g := poolGranule a
  let row := g * cores
  poolOff a + (n - 1) / row * g + min ((n - 1) % row) (g - 1)

/-- A pool run of n bytes is legal (R187, Table 9.2). -/
def poolLegal (cores a n : Nat) : Bool :=
  decide (a / 2 ^ 31 % 2 = 0 ∧ a / 2 ^ 42 % 2 ^ 20 = 0) &&
  match poolPlace a with
  | 0 => decide (poolGran a = 0 ∧ poolCore a < cores ∧ poolOff a + n ≤ sliceSize)
  | 1 => decide (poolCore a = 0 ∧ poolOff a < sliceSize ∧ (n = 0 ∨ spreadLast a n cores < sliceSize))
  | 2 => decide (poolCore a = 0 ∧ poolGran a = 0 ∧ poolOff a + n ≤ sliceSize)
  | _ => false

/-- Bytes of a host-tier footprint (R203). -/
def hostFootprint (n : Nat) : Nat := ceilDiv n 128 * 136

/-- One lent range covers a host-tier footprint (R202). -/
def Lend.covers (l : Lend) (a n : Nat) : Bool :=
  let base := l.base.addr.toNat / 4096 * 4096
  let lo := a % 2 ^ 63
  l.valid && l.port == decide (a / 2 ^ 63 = 1) && decide (base ≤ lo ∧ lo + hostFootprint n ≤ base + 4096 * l.pages.toNat)

/-- A run of n bytes at a device address of a tier is legal for partition v of `cores` cores and `units` units (R187). -/
def Prt.legalRun (v : Prt) (cores units tier a n : Nat) : Bool :=
  match tier with
  | 0 => poolLegal cores a n
  | 1 => decide (a + n ≤ units * groupSize ∧ a < units * groupSize)
  | 2 => v.onPort (decide (a / 2 ^ 63 = 1)) &&
      (List.range 16).any (fun i => (Sparse.get Lend.zero v.lend i).covers a n)
  | _ => decide (a + n ≤ cores * spdSize ∧ a < cores * spdSize)

/-- Alignment of an address field (R188). -/
def eAligned (e : Entry) : Bool :=
  decide (eAddr e % 4 = 0 ∧ eScaleAddr e % (if eFmt e = .wp72 then 8 else 4) = 0) && (!eVersioned e || decide (eAlt e % 4 = 0))

/-- An entry is well formed (R94); ADDR[63] names the port of the whole host-tier footprint (R202). A SCALE_ADDR that holds
no bytes still decodes inside its tier (R187); in the host tier it then has no footprint to lend (log 21). -/
def Prt.wellFormed (v : Prt) (cores units : Nat) (e : Entry) : Bool :=
  eValid e && eReservedZero e && decide (eTier e < 4) && (eFmt? e).isSome
    && [0, 1, 2, 3].all (fun k => if k ≤ eRank e then decide (1 ≤ eDim e k) else decide (eDim e k = 1))
    && (match eFmt e with | .lg4 => eScaled e | .lg8 => eScaled e | .lg16 => true | _ => !eScaled e)
    && decide (eAxis e ≤ eRank e)
    && (!(eVersioned e || eFrozen e) || decide (eTier e = 1))
    && (!eHistEn e || decide (eFmt e ≠ .raw))
    && (decide (eTier e = 1 ∨ eTier e = 2) || decide (eKey e = 0))
    && eAligned e
    && (decide (eFmt e ≠ .wp72 ∨ eTier e ≠ 3) || decide (eScaleAddr e = 0))
    && v.legalRun cores units (eTier e) (eAddr e) (eDataBytes e)
    && (decide (eTier e ≠ 2 ∨ eScaleBytes e = 0) || decide (eScaleAddr e / 2 ^ 63 = eAddr e / 2 ^ 63))
    && (!eVersioned e || v.legalRun cores units (eTier e) (eAlt e) (eDataBytes e))
    && (decide (eTier e = 2 ∧ eScaleBytes e = 0) ||
        v.legalRun cores units (eTier e) (eScaleAddr e) (max 1 (eScaleBytes e * (if eVersioned e then 2 else 1))))

/-! ### Placed byte runs -/

/-- Where a byte run starts: tier, device address, key slot; its length in bytes; the key of its host lines in an
operation's input buffer (2 × handle + PART); the activity that pays for its lines (Table 13.5); and the operation whose
input buffer holds its host lines (0: none). -/
structure Place where
  tier : Nat
  addr : Nat
  key : Nat
  size : Nat
  hostKey : Nat
  act : Nat
  seq : Nat
deriving DecidableEq, Repr

/-- The data of version slot `ver` of a tensor (R144). -/
def dataPlace (h : Nat) (e : Entry) (ver act : Nat) : Place :=
  ⟨eTier e, if eVersioned e ∧ ver = 1 then eAlt e else eAddr e, eKey e, eDataBytes e, 2 * h, act, 0⟩

/-- The block scales or tile records of version slot `ver` (Table 5.1). -/
def scalePlace (h : Nat) (e : Entry) (ver act : Nat) : Place :=
  ⟨eTier e, eScaleAddr e + (if eVersioned e ∧ ver = 1 then eScaleBytes e else 0), eKey e,
    eScaleBytes e, 2 * h + 1, act, 0⟩

/-- Offset of every byte that two pool runs may share, per slice: the interval of slice offsets (R191). -/
def poolSpan (cores a n c : Nat) : Nat × Nat :=
  match poolPlace a with
  | 0 => if poolCore a = c then (poolOff a, poolOff a + n) else (0, 0)
  | 1 =>
    let g := poolGranule a
    let row := g * cores
    let full := n / row
    let rest := n % row
    let tail := min g (rest - g * c)
    (poolOff a, poolOff a + full * g + tail)
  | _ => (poolOff a, poolOff a + n)

/-- Two byte runs of one tier share a byte (R103, R191). -/
def runsMeet (cores tier a n b m : Nat) : Bool :=
  if n = 0 ∨ m = 0 then false
  else if tier = 0 then
    (List.range cores).any (fun c =>
      let x := poolSpan cores a n c
      let y := poolSpan cores b m c
      decide (x.1 < y.2 ∧ y.1 < x.2))
  else if tier = 2 then
    decide (a / 2 ^ 63 = b / 2 ^ 63 ∧ a % 2 ^ 63 < b % 2 ^ 63 + hostFootprint m ∧ b % 2 ^ 63 < a % 2 ^ 63 + hostFootprint n)
  else decide (a < b + m ∧ b < a + n)

/-- The byte runs of an entry: both version slots, scales and tile records. -/
def eRuns (e : Entry) : List (Nat × Nat) :=
  let alt := if eVersioned e then [(eAlt e, eDataBytes e)] else []
  let sc := if eScaleBytes e = 0 then [] else [(eScaleAddr e, eScaleBytes e * (if eVersioned e then 2 else 1))]
  (eAddr e, eDataBytes e) :: alt ++ sc

/-- Two entries name common memory (R103). -/
def entriesMeet (cores : Nat) (e f : Entry) : Bool :=
  decide (eTier e = eTier f) &&
  (eRuns e).any (fun x => (eRuns f).any (fun y => runsMeet cores (eTier e) x.1 x.2 y.1 y.2))

/-! ### Descriptors (Tables 5.5 to 5.7, 5.10) -/

/-- OPCODE. -/
def dOp (d : Desc) : Nat := dField d 0 1
/-- SUBOP. -/
def dSub (d : Desc) : Nat := dField d 1 1
/-- CTX_ID. -/
def dCtx (d : Desc) : Nat := dField d 4 2
/-- CSLOT. -/
def dSlot (d : Desc) : Nat := dField d 6 2
/-- H_A. -/
def dA (d : Desc) : Nat := dField d 8 2
/-- H_B. -/
def dB (d : Desc) : Nat := dField d 10 2
/-- H_C. -/
def dC (d : Desc) : Nat := dField d 12 2
/-- H_D. -/
def dD (d : Desc) : Nat := dField d 14 2
/-- H_MASK. -/
def dMask (d : Desc) : Nat := dField d 16 2
/-- H_VAR. -/
def dVar (d : Desc) : Nat := dField d 18 2
/-- ANCHOR[9:0] as an integer. -/
def dAnchor (d : Desc) : Int := signedNat 10 (dField d 20 2 % 1024)
/-- ANCHOR_MODE. -/
def dMode (d : Desc) : Nat := dField d 20 2 / 1024 % 4
/-- VTAG. -/
def dTag (d : Desc) : Nat := dField d 22 2
/-- The stream ID. -/
def dStream (d : Desc) : Nat := dField d 24 2 % 4096
/-- RNG_EN. -/
def dRngEn (d : Desc) : Bool := dField d 24 2 / 32768 = 1
/-- FLAG_MASK. -/
def dFlagMask (d : Desc) : FlagWord := BitVec.ofNat 16 (dField d 26 2 % 128)
/-- PROV_OK. -/
def dProvOk (d : Desc) : Bool := dField d 26 2 / 256 % 2 = 1
/-- TRANS_A. -/
def dTransA (d : Desc) : Bool := dFlag d 0
/-- TRANS_B. -/
def dTransB (d : Desc) : Bool := dFlag d 1
/-- ACCUM. -/
def dAccum (d : Desc) : Bool := dFlag d 2
/-- WIDE. -/
def dWide (d : Desc) : Bool := dFlag d 3
/-- MASK_ZERO. -/
def dMaskZero (d : Desc) : Bool := dFlag d 4
/-- IRQ. -/
def dIrq (d : Desc) : Bool := dFlag d 5
/-- STEP. -/
def dStep (d : Desc) : Nat := dField d 104 8
/-- GROUP. -/
def dGroup (d : Desc) : Nat := dField d 32 2
/-- Members of a group, ascending. -/
def dMembers (d : Desc) : List Nat := (List.range 16).filter (fun i => dGroup d / 2 ^ i % 2 = 1)
/-- An FP32 word of PARAM. -/
def dFp (d : Desc) (off : Nat) : BitVec 32 := BitVec.ofNat 32 (dField d off 4)

/-- The wider of two LG tensors' formats (R51). -/
def widerFmt (x w : Entry) : Fmt := if (eFmt x).code < (eFmt w).code then eFmt w else eFmt x

/-- Output columns, rows of a foot tile and reduction indices per load (Table 3.1). -/
def geometry (f : Fmt) (wide : Bool) : Nat × Nat × Nat :=
  match f, wide with
  | .lg4, false => (64, 64, 128)
  | .lg16, false => (16, 256, 64)
  | _, false => (64, 64, 64)
  | .lg4, true => (256, 16, 32)
  | .lg16, true => (64, 64, 16)
  | _, true => (256, 16, 16)

/-- The operation's copy of the entry behind a handle (R90). -/
def OpRec.ent (o : OpRec) (h : Nat) : Entry := ((o.ents.find? (fun x => x.1 = h)).map (·.2)).getD 0#512

/-- The version slot that an operation reads of a tensor (R144, R152). -/
def OpRec.ver (o : OpRec) (h : Nat) : Nat :=
  let e := o.ent h
  if eVersioned e && !eFrozen e then dTag o.desc % 2 else 0

/-- The run of a data place: version slot `ver` of the tensor behind a handle of an operation. -/
def placeOf (o : OpRec) (p : Place) : Place := { p with seq := o.seq }

/-- The activity of Table 13.5 that an opcode belongs to. -/
def activityOf (op : Nat) : Nat :=
  if op = 1 ∨ op = 2 then 0 else if 0x10 ≤ op ∧ op ≤ 0x15 then 1
  else if op = 0x31 ∨ op = 0x32 then 3 else if op = 0x40 ∨ op = 0x41 ∨ op = 0x42 then 6 else if op = 0x50 then 7 else 2

/-- The data of a tensor an operation names, in version slot `ver`. -/
def OpRec.dataAt (o : OpRec) (h ver : Nat) : Place := placeOf o (dataPlace h (o.ent h) ver (activityOf (dOp o.desc)))

/-- Its block scales or tile records. -/
def OpRec.scalesAt (o : OpRec) (h ver : Nat) : Place := placeOf o (scalePlace h (o.ent h) ver (activityOf (dOp o.desc)))

end Sys2Proof.Machine
end

