-- ==== Sys2Proof/Machine/Memory.lean ====
section
/-! DEFINITION. The memory tiers: pool and scratchpad bytes with their poison (R189-R194), basin lines with their
counters, MACs and tree (R196, R197, R209-R222), and host-tier lines in both forms (R203, R230-R233). -/

namespace Sys2Proof.Machine

/-- What a write does with one byte: leave it (none), write it poisoned (some none), or write a value. -/
abbrev WByte := Option (Option Byte)

/-- A good byte to write. -/
def wPut (b : Byte) : WByte := some (some b)

/-- Read bytes as bytes to write: a poisoned byte stays poisoned (R207). -/
def asWrite (bs : List (Option Byte)) : List WByte := bs.map some

/-- The bytes of a run, poisoned ones read as 0. -/
def plainBytes (bs : List (Option Byte)) : List Byte := bs.map (fun b => b.getD 0#8)

/-- Some byte of a run is poisoned. -/
def anyBad (bs : List (Option Byte)) : Bool := bs.any (fun b => b.isNone)

/-! ### Pool and scratchpad -/

/-- The pool key of the byte at offset o of a pool address, as partition core `core` reads it (R191, R193). -/
def State.poolKey (s : State) (p core a o : Nat) : Nat :=
  let n := s.coreCount p
  match poolPlace a with
  | 1 =>
    let g := poolGranule a
    s.coreAt p (o / g % n) * 2 ^ 31 + poolOff a + o / (g * n) * g + o % g
  | 2 => s.coreAt p core * 2 ^ 31 + poolOff a + o
  | _ => s.coreAt p (poolCore a) * 2 ^ 31 + poolOff a + o

/-- Every pool key that a write of that byte reaches: every slice for MIRROR (R193). -/
def State.poolKeys (s : State) (p a o : Nat) : List Nat :=
  if poolPlace a = 2 then (List.range (s.coreCount p)).map (fun c => s.poolKey p c a o) else [s.poolKey p 0 a o]

/-- The scratchpad key of byte address a (R189). -/
def State.spdKey (s : State) (p a : Nat) : Nat := s.coreAt p (a / spdSize) * 2 ^ 22 + a % spdSize

/-- A pool byte (R194). -/
def State.poolByte (s : State) (k : Nat) : Option Byte :=
  if Sparse.get false s.poolBad (k / 64) then none else some (Sparse.get 0#8 s.pool k)

/-- A scratchpad byte (R194). -/
def State.spdByte (s : State) (k : Nat) : Option Byte :=
  if Sparse.get false s.spdBad (k / 8) then none else some (Sparse.get 0#8 s.spd k)

/-- Write bytes at keys of a byte store. -/
def storeBytes (m : Sparse Byte) (ws : List (Nat × Option Byte)) : Sparse Byte :=
  ws.foldl (fun m w => match w.2 with | some b => Sparse.set 0#8 m w.1 b | none => m) m

/-- Poison after a write: a word with a poisoned byte becomes poisoned; a word written in full becomes good; a word
written in part stays as it was (R194). -/
def storePoison (width : Nat) (m : Sparse Bool) (ws : List (Nat × Option Byte)) : Sparse Bool :=
  ((ws.map (fun w => w.1 / width)).eraseDups).foldl (fun m k =>
    let here := ws.filter (fun w => w.1 / width = k)
    if here.any (fun w => w.2.isNone) then Sparse.set false m k true
    else if here.length = width then Sparse.set false m k false else m) m

/-- The bytes of a run that are written, by key. -/
def keyedBytes (keys : Nat → List Nat) (o : Nat) (ws : List WByte) : List (Nat × Option Byte) :=
  (List.range ws.length).flatMap (fun i => match ws.getD i none with
    | none => []
    | some b => (keys (o + i)).map (fun k => (k, b)))

/-- Write a pool run. -/
def State.storePool (s : State) (p a o : Nat) (ws : List WByte) : State :=
  let ks := keyedBytes (s.poolKeys p a) o ws
  { s with pool := storeBytes s.pool ks, poolBad := storePoison 64 s.poolBad ks }

/-- Write a scratchpad run. -/
def State.storeSpd (s : State) (p a o : Nat) (ws : List WByte) : State :=
  let ks := keyedBytes (fun i => [s.spdKey p (a + i)]) o ws
  { s with spd := storeBytes s.spd ks, spdBad := storePoison 8 s.spdBad ks }

/-! ### Keys of a crypto engine (R209, R226) -/

/-- Slots whose keys a read that names slot k tries, in order: the successor of a draining slot, the slot, and
draining predecessors. -/
def Mce.readSlots (e : Mce) (k : Nat) : List Nat :=
  let x := e.slot k
  let succ := match x.state, x.succ with | .draining, some j => [j] | _, _ => []
  let preds := (List.range 64).filter (fun j => (e.slot j).state = .draining ∧ (e.slot j).succ = some k)
  (succ ++ [k] ++ preds).filter (fun j => (e.slot j).state = .active ∨ (e.slot j).state = .draining)

/-- The slot whose key a write that names slot k uses. -/
def Mce.writeSlot (e : Mce) (k : Nat) : Nat :=
  match (e.slot k).state, (e.slot k).succ with | .draining, some j => j | _, _ => k

/-- The slot is ACTIVE or DRAINING. -/
def Mce.usable (e : Mce) (k : Nat) : Bool := (e.slot k).state = .active || (e.slot k).state = .draining

/-! ### Basin lines (R210-R216) -/

/-- The unit and group line of basin line number L of partition p (R196). -/
def State.basinSite (s : State) (p L : Nat) : Nat × Nat :=
  let us := s.partUnits p
  let page := L / 32
  (us.getD (page % us.length) 0, page / us.length * 32 + L % 32)

/-- The stored line n of group u. -/
def State.lineAt (s : State) (u n : Nat) : Line := Sparse.get Line.empty s.basin (u * 2 ^ 33 + n)
/-- Replace the stored line n of group u. -/
def State.setLine (s : State) (u n : Nat) (l : Line) : State :=
  { s with basin := Sparse.set Line.empty s.basin (u * 2 ^ 33 + n) l }

/-- The counter block CB_j (R210). -/
def ctrBlock (v n u j : Nat) : List Byte := leBytes 8 v ++ leBytes 5 n ++ leBytes 1 u ++ leBytes 1 j ++ [0#8]

/-- A data line written under a key (R210), with the code of its side-band (Table 9.3; log 52). -/
def sealBasin (key nonce : List Byte) (u n v : Nat) (pt : List Byte) : Line :=
  let ct := xorBytes pt (sm4Stream (kdf key nonce 1) 8 (ctrBlock v n u))
  let mac := mac56 (kdf key nonce 2) (ctrBlock v n u 0 ++ ct)
  .data ct mac (Config.eccField ct mac)

/-- The plaintext of a data line that verifies under a key. -/
def openBasin (key nonce : List Byte) (u n v : Nat) (ct : List Byte) (mac : BitVec 56) : Option (List Byte) :=
  if mac56 (kdf key nonce 2) (ctrBlock v n u 0 ++ ct) = mac then
    some (xorBytes ct (sm4Stream (kdf key nonce 1) 8 (ctrBlock v n u)))
  else none

/-- Line n lies beneath a lost tree line, or the whole group is lost (R222, R223). -/
def Mce.beneathLoss (e : Mce) (n : Nat) : Bool :=
  e.groupLost || e.lost.any (fun x => decide (n / 16 ^ (x.1 + 1) = x.2))

/-- What a read of line n under slot k delivers: its plaintext, or poisoned (R213, R226). -/
def State.basinPlain (s : State) (u n k : Nat) : Option (List Byte) :=
  let e := s.mce u
  if e.beneathLoss n then none else
  match s.lineAt u n with
  | .data ct mac _ =>
    (e.readSlots k).findSome? (fun j => openBasin (e.slot j).key s.sec.devNonce u n (Sparse.get 0 e.ctr n) ct mac)
  | _ => none

/-- The tree lines on the path of data line n, levels 0 to 5 (R218). -/
def treePath (n : Nat) : List (Nat × Nat) := (List.range 6).map (fun k => (k, n / 16 ^ (k + 1)))

/-- Bring a tree line into the cache; `changed` marks it (R220). -/
def cacheLine (c : List TreeLine) (level line : Nat) (changed : Bool) : List TreeLine :=
  if c.any (fun t => t.level = level ∧ t.line = line) then
    c.map (fun t => if t.level = level ∧ t.line = line then { t with changed := t.changed || changed } else t)
  else c ++ [⟨level, line, changed⟩]

/-! ### The counter tree and its cache (R217-R220) -/

/-- Data lines of a group (Table 10.3). -/
def dataLines : Nat := 5625000000
/-- Tree lines of level k in the basin (Table 10.3). -/
def treeLines (k : Nat) : Nat := [351562500, 21972657, 1373292, 85831, 5365, 336].getD k 0
/-- The first tree-region line of level k (Table 10.3). -/
def treeStart (k : Nat) : Nat :=
  dataLines + [0, 45000000000, 47812500096, 47988281472, 47999267840, 47999954560].getD k 0 / 128

/-- Counters of the sixteen children of tree line ℓ of level k. -/
def Mce.treeCounters (e : Mce) (k l : Nat) : List Nat :=
  (List.range 16).map (fun i =>
    if k = 0 then Sparse.get 0 e.ctr (16 * l + i) else Sparse.get 0 e.treeCtr ((k - 1) * 2 ^ 32 + (16 * l + i)))

/-- The MAC of tree line ℓ of level k with its own counter v (R219). -/
def Mce.treeMacOf (e : Mce) (u k l v : Nat) : BitVec 56 :=
  mac56 e.kTree (leBytes 8 v ++ leBytes 5 l ++ leBytes 1 u ++ leBytes 1 (16 + k) ++ [0#8]
    ++ (e.treeCounters k l).flatMap (leBytes 8))

/-- The key of a tree line's counter and MAC. -/
def treeKey (k l : Nat) : Nat := k * 2 ^ 32 + l

/-- A child of tree line (k, ℓ) is cached: the line stays (R220, inclusive). -/
def Mce.childCached (e : Mce) (k l : Nat) : Bool := e.cache.any (fun t => decide (t.level + 1 = k ∧ t.line / 16 = l))

/-- A changed tree line is written with its parent counter raised by one, and the parent is then changed (R211, R219, R220).
-/
def Mce.writeTree (e : Mce) (u k l : Nat) : Mce :=
  let v := Sparse.get 0 e.treeCtr (treeKey k l) + 1
  { e with treeCtr := Sparse.set 0 e.treeCtr (treeKey k l) v
           treeMac := Sparse.set none e.treeMac (treeKey k l) (some (e.treeMacOf u k l v))
           treePoison := Sparse.set false e.treePoison (treeStart k + l) false
           maxCtr := max e.maxCtr v
           cache := if k < 5 then cacheLine e.cache (k + 1) (l / 16) true else e.cache }

/-- A changed tree line whose counter stands at its limit is not written (R211). -/
def Mce.treeAtLimit (e : Mce) (t : TreeLine) : Bool :=
  t.changed && decide (2 ^ 64 ≤ Sparse.get 0 e.treeCtr (treeKey t.level t.line) + 1)

/-- A cached tree line leaves the cache; a changed one is written (R220). -/
def Mce.evict (e : Mce) (u : Nat) (t : TreeLine) : Mce :=
  let e1 := if t.changed then e.writeTree u t.level t.line else e
  { e1 with cache := e1.cache.filter (fun x => !(x.level = t.level ∧ x.line = t.line)) }

/-- 128-byte lines that the 4 MiB tree cache holds (R220). -/
def treeCacheLines : Nat := 32768

/-- Room for one more line on the path of data line n: while the cache is full, the line that entered first of those without
a cached child, and off the path, leaves it (DESIGN CHOICE, log 62: R220 names no replacement order). -/
def Mce.makeRoom (e : Mce) (u n : Nat) : Mce :=
  if e.cache.length < treeCacheLines then e
  else match e.cache.find? (fun t => !e.childCached t.level t.line && !e.treeAtLimit t && decide (t.line ≠ n / 16 ^ (t.level + 1))) with
    | some t => e.evict u t
    | none => e

/-- A data access brings its tree path into the cache, from the top down; a write changes the leaf (R220). -/
def Mce.touch (e : Mce) (u n : Nat) (write : Bool) : Mce :=
  (treePath n).foldr (fun x (e : Mce) =>
    let e1 := if e.cache.any (fun t => t.level = x.1 ∧ t.line = x.2) then e else e.makeRoom u n
    { e1 with cache := cacheLine e1.cache x.1 x.2 (write && decide (x.1 = 0)) }) e

/-- The next counter of data line n is recorded in the tree (R211). -/
def Mce.bump (e : Mce) (n : Nat) : Mce :=
  let v := Sparse.get 0 e.ctr n + 1
  { e with ctr := Sparse.set 0 e.ctr n v, maxCtr := max e.maxCtr v }

/-- One line of a partition on a basin channel (R299): a token of its MCE's weir, one of its activity, and its energy. -/
def State.chargeLine (s : State) (p u act : Nat) : State :=
  (((s.takeTokens (26 + u) p 1).takeTokens (40 + p) act 1).spendEnergy p 1 1).progress (pageMce u) 1

/-- Read a line: what it delivers, the counts of R213 step 6, the tree path. -/
def State.getLine (s : State) (u n k : Nat) : Option (List Byte) × State :=
  let r := s.basinPlain u n k
  let s1 := s.updMce u (fun e => if e.beneathLoss n then e else e.touch u n false)
  match r, s.lineAt u n with
  | none, .data _ _ _ =>
    if (s.mce u).beneathLoss n then (r, s1)
    else (r, (s1.updMce u (fun e => { e with tagFail := satAdd e.tagFail 1 })).raiseErr (pageMce u) 0 (BitVec.ofNat 32 (n / 32)))
  | _, _ => (r, s1)

/-- Read a line for an operation: its tokens, then the read. -/
def State.loadLine (s : State) (p u n k act : Nat) : Option (List Byte) × State := (s.chargeLine p u act).getLine u n k

/-- A write of line n would take its counter past 2^64 − 1 (R211). -/
def State.lineAtLimit (s : State) (u n : Nat) : Bool := decide (2 ^ 64 ≤ Sparse.get 0 (s.mce u).ctr n + 1)

/-- A write that its counter does not allow: not performed, CTR_LIMIT (R211). -/
def State.refuseLine (s : State) (u n : Nat) : State := s.raiseErr (pageMce u) 4 (BitVec.ofNat 32 (n / 32))

/-- Write a full line under slot k with its next counter (R211, R214); true when the write is not performed. -/
def State.putLine (s : State) (u n k : Nat) (pt : List Byte) : State × Bool :=
  let e := s.mce u
  let j := e.writeSlot k
  if !e.usable j || e.beneathLoss n then (s, true)
  else if s.lineAtLimit u n then (s.refuseLine u n, true)
  else
    let v := Sparse.get 0 e.ctr n + 1
    ((s.updMce u (fun e => (e.bump n).touch u n true)).setLine u n (sealBasin (e.slot j).key s.sec.devNonce u n v pt), false)

/-- Write a full line for an operation: its tokens, then the write. -/
def State.storeLine (s : State) (p u n k act : Nat) (pt : List Byte) : State × Bool := (s.chargeLine p u act).putLine u n k pt

/-- Write the POISON marker over a line (R199, R213, R216). -/
def State.poisonLine (s : State) (u n : Nat) : State :=
  if s.lineAtLimit u n then s.refuseLine u n else
  ((s.updMce u (fun e => { (e.bump n).touch u n true with poisonCount := satAdd e.poisonCount 1 })).setLine u n .poison).raiseErr
    (pageMce u) 1 (BitVec.ofNat 32 (n / 32))

/-- A line with the bytes of a write merged in. -/
def mergeBytes (old : List Byte) (ws : List WByte) : List Byte :=
  (List.range 128).map (fun i => match ws.getD i none with | some (some b) => b | _ => old.getD i 0#8)

/-- Write one line's worth of bytes (R214, R216); true when bytes were not merged or a write was not performed. -/
def State.writeLineBytes (s : State) (p u n k act : Nat) (ws : List WByte) : State × Bool :=
  if ws.all (fun w => w.isNone) then (s, false)
  else if ws.any (fun w => w == some none) then (s.poisonLine u n, s.lineAtLimit u n)
  else if ws.length = 128 ∧ ws.all (fun w => w.isSome) then s.storeLine p u n k act (mergeBytes [] ws)
  else if (s.mce u).beneathLoss n then (s, true)
  else match s.lineAt u n with
    | .empty => s.storeLine p u n k act (mergeBytes (zeros 128) ws)
    | _ =>
      let r := s.loadLine p u n k act
      match r.1 with
      | some old => r.2.storeLine p u n k act (mergeBytes old ws)
      | none => (r.2, true)

/-- Cut a byte run that starts at byte `a` of its tier into lines: line number and the bytes of it. -/
def cutLines : Nat → Nat → List WByte → List (Nat × List WByte)
  | 0, _, _ => []
  | n + 1, a, ws =>
    if ws.isEmpty then []
    else
      let front := a % 128
      let here := ws.take (128 - front)
      (a / 128, List.replicate front none ++ here) :: cutLines n (a + here.length) (ws.drop (128 - front))

/-- Write a basin run under the slot of a place. -/
def State.storeBasin (s : State) (p : Nat) (r : Place) (o : Nat) (ws : List WByte) : State × Bool :=
  (cutLines (ws.length + 1) (r.addr + o) ws).foldl (fun t x =>
    let site := t.1.basinSite p x.1
    let w := t.1.writeLineBytes p site.1 site.2 r.key r.act x.2
    (w.1, t.2 || w.2)) (s, false)

/-- Read the basin lines from line L on. -/
def State.loadLines (s : State) (p k act : Nat) : Nat → Nat → List (Option Byte) × State
  | 0, _ => ([], s)
  | n + 1, L =>
    let site := s.basinSite p L
    let r := s.loadLine p site.1 site.2 k act
    let bs := match r.1 with | some b => (sliceBytes b 0 128).map some | none => List.replicate 128 none
    let rest := r.2.loadLines p k act n (L + 1)
    (bs ++ rest.1, rest.2)

/-- Read a basin run. -/
def State.loadBasin (s : State) (p : Nat) (r : Place) (o n : Nat) : List (Option Byte) × State :=
  if n = 0 then ([], s) else
  let a := r.addr + o
  let x := s.loadLines p r.key r.act ((a + n - 1) / 128 - a / 128 + 1) (a / 128)
  ((x.1.drop (a % 128)).take n, x.2)

/-! ### Host-tier lines (R203, R230-R233) -/

/-- The crypto engine of a host port. -/
def mceOfPort (h : Bool) : Nat := if h then 9 else 8

/-- The counter block of the exchange form (R231). -/
def exchBlock (t : List Byte) (q part j : Nat) : List Byte := t ++ leBytes 6 q ++ leBytes 1 part ++ leBytes 1 j ++ [0#8]

/-- The header of the exchange form (R231). -/
def exchHeader (q part : Nat) : List Byte := leBytes 8 q ++ leBytes 1 part ++ zeros 7

/-- A line in the exchange form: 128 ciphertext bytes and its tag (R230, R231). -/
def sealExchange (key : List Byte) (q part : Nat) (pt : List Byte) : List Byte × List Byte :=
  let t := (cmac (kdf key [] 6) (exchHeader q part ++ pt)).take 7
  (xorBytes pt (sm4Stream (kdf key [] 5) 8 (exchBlock t q part)), t ++ [0#8])

/-- The plaintext of a line and tag in the exchange form; none when it does not verify. -/
def openExchange (key : List Byte) (q part : Nat) (ct tag : List Byte) : Option (List Byte) :=
  let t := tag.take 7
  let pt := xorBytes ct (sm4Stream (kdf key [] 5) 8 (exchBlock t q part))
  if tag.drop 7 = [0#8] ∧ (cmac (kdf key [] 6) (exchHeader q part ++ pt)).take 7 = t then some pt else none

/-- The header of the offload form (R233). -/
def offHeader (seq buf q part : Nat) : List Byte := leBytes 8 seq ++ leBytes 2 buf ++ leBytes 4 q ++ leBytes 1 part ++ [1#8]

/-- Its counter block. -/
def offBlock (seq buf q part j : Nat) : List Byte := putBytes (offHeader seq buf q part) 14 (leBytes 1 (j + 8 * part))

/-- A line in the offload form (R230, R233). -/
def sealOffload (key nonce : List Byte) (seq buf q part : Nat) (pt : List Byte) : List Byte × List Byte :=
  let ct := xorBytes pt (sm4Stream (kdf key nonce 3) 8 (offBlock seq buf q part))
  (ct, (cmac (kdf key nonce 4) (offHeader seq buf q part ++ ct)).take 7 ++ [1#8])

/-- The plaintext of a line and tag in the offload form; none when it does not verify. -/
def openOffload (key nonce : List Byte) (seq buf q part : Nat) (ct tag : List Byte) : Option (List Byte) :=
  if tag.drop 7 = [1#8] ∧ (cmac (kdf key nonce 4) (offHeader seq buf q part ++ ct)).take 7 = tag.take 7 then
    some (xorBytes ct (sm4Stream (kdf key nonce 3) 8 (offBlock seq buf q part)))
  else none

/-- One host line of a partition (R299): a token of MCE8 or MCE9 and one of the port's weir in its direction, one of its
activity, and its energy. -/
def State.chargeHost (s : State) (p : Nat) (h : Bool) (act : Nat) (out : Bool) : State :=
  ((((s.takeTokensDir (34 + portIdx h) p 1 out).takeTokens (40 + p) act 1).takeTokensDir (24 + portIdx h) p 1 out).spendEnergy p 1
    1).progress (pageMce (mceOfPort h)) 1

/-- Post the writes of one host line and its tag (R203). -/
def State.postHostLine (s : State) (p : Nat) (r : Place) (q : Nat) (x : List Byte × List Byte) : State :=
  let h := decide (r.addr / 2 ^ 63 = 1)
  let a := r.addr % 2 ^ 63
  ((s.chargeHost p h r.act true).emit (.hostWrite h (a + 128 * q) x.1)).emit
    (.hostWrite h (a + 128 * ceilDiv r.size 128 + 8 * q) x.2)

/-- A host line that must read poisoned: undefined ciphertext and a tag that never verifies (R207). -/
def State.poisonHost (s : State) : (List Byte × List Byte) × State :=
  ((((List.range 128).map (fun i => Config.undefinedByte s.draws i)), List.replicate 8 0xFF#8), { s with draws := s.draws + 1 })

/-- The line q of a place as an operation's input buffer holds it; [] is a poisoned line. -/
def hostIn (ib : Sparse (List Byte)) (r : Place) (q : Nat) : List Byte := Sparse.get [] ib (r.hostKey * 2 ^ 40 + q)

/-- The host lines an operation holds now: its input buffer, or the given one while no operation is named. -/
def State.hostBuf (s : State) (p : Nat) (r : Place) (ib : Sparse (List Byte)) : Sparse (List Byte) :=
  match (s.prt p).op r.seq with | some o => o.inbuf | none => ib

/-- Keep the plaintext of a line that an operation wrote, so that its next partial write of the line merges into it. -/
def State.noteHost (s : State) (p : Nat) (r : Place) (q : Nat) (pt : List Byte) : State :=
  s.updOp p r.seq (fun o => { o with inbuf := Sparse.set [] o.inbuf (r.hostKey * 2 ^ 40 + q) pt })

/-- Write host lines in the exchange form (R115, R231). Bytes that the write leaves keep what the input buffer holds. -/
def State.storeHost (s : State) (p : Nat) (ib : Sparse (List Byte)) (r : Place) (o : Nat) (ws : List WByte) : State × Bool :=
  let h := decide (r.addr / 2 ^ 63 = 1)
  let e := s.mce (mceOfPort h)
  let key := (e.slot (e.writeSlot r.key)).key
  if !s.vfSends h p then (s, true) else
  (cutLines (ws.length + 1) o ws).foldl (fun t x =>
    if x.2.all (fun w => w.isNone) then t
    else
      let whole := decide (x.2.length = min 128 (r.size - 128 * x.1)) && x.2.all (fun w => w.isSome)
      let old := hostIn (t.1.hostBuf p r ib) r x.1
      if x.2.any (fun w => w == some none) || (!whole && old = []) then
        let b := t.1.poisonHost
        (b.2.postHostLine p r x.1 b.1, true)
      else
        let pt := mergeBytes old x.2
        ((t.1.postHostLine p r x.1 (sealExchange key x.1 (r.hostKey % 2) pt)).noteHost p r x.1 pt, t.2)) (s, false)

/-- Read host bytes from an operation's input buffer (R204). -/
def loadHost (ib : Sparse (List Byte)) (r : Place) (o n : Nat) : List (Option Byte) :=
  (List.range n).map (fun i => (hostIn ib r ((o + i) / 128))[(o + i) % 128]?)

/-! ### A run in any tier -/

/-- Read n bytes at offset o of a place, as partition core `core` reads them. -/
def State.loadRun (s : State) (p core : Nat) (ib : Sparse (List Byte)) (r : Place) (o n : Nat) : List (Option Byte) × State :=
  match r.tier with
  | 0 => ((List.range n).map (fun i => s.poolByte (s.poolKey p core r.addr (o + i))), s)
  | 1 => s.loadBasin p r o n
  | 2 => (loadHost (s.hostBuf p r ib) r o n, s)
  | _ => ((List.range n).map (fun i => s.spdByte (s.spdKey p (r.addr + o + i))), s)

/-- Write bytes at offset o of a place; true when some byte could not be written (the operation is POISONED). -/
def State.storeRun (s : State) (p : Nat) (ib : Sparse (List Byte)) (r : Place) (o : Nat) (ws : List WByte) : State × Bool :=
  match r.tier with
  | 0 => (s.storePool p r.addr o ws, false)
  | 1 => s.storeBasin p r o ws
  | 2 => s.storeHost p ib r o ws
  | _ => (s.storeSpd p r.addr o ws, false)

end Sys2Proof.Machine
end

