-- ==== Sys2Proof/Machine/Flags.lean ====
section
/-! DEFINITION. Exact partials and flags: the product of Table 4.1 on the grid, WP72 slots and their residues
(R69-R75, R80), tile records and flag words (R76-R79, R408), merges (R81, R82), output conversion (R85-R88),
tile histograms and HIST tables (R46-R48, R141). -/

namespace Sys2Proof.Machine

/-! ### WP72 slots -/

/-- The residue of an integer (R75). -/
def residueOf (v : Int) : Nat := (v % 65535).toNat

/-- The range of R37. -/
def wpMax : Int := 2 ^ 71 - 1
/-- Its lower end. -/
def wpMin : Int := -(2 ^ 71)

/-- Put an integer into the range of R37: the extreme of its sign and OVF when it lies outside (R80). -/
def saturate (v : Int) (residue : Nat) (flags : FlagWord) : Slot :=
  if wpMax < v then ⟨wpMax, residueOf wpMax, flags ||| fOVF⟩
  else if v < wpMin then ⟨wpMin, residueOf wpMin, flags ||| fOVF⟩
  else ⟨v, residue, flags⟩

/-- Exact addition of two slots with their residues and flags (R73, R80, R81). -/
def Slot.add (a b : Slot) : Slot :=
  saturate (a.value + b.value) ((a.residue + b.residue) % 65535) (a.flags ||| b.flags)

/-- A slot moved to a grid 2^k times as coarse (k above 0) or as fine (k below 0); the residue is recomputed (R82, R60). -/
def Slot.regrid (a : Slot) (k : Int) : Slot :=
  if k = 0 then a
  else
    let v := if 0 < k then shiftRightRne a.value k.toNat else a.value * 2 ^ (-k).toNat
    saturate v (residueOf v) a.flags

/-- The element flags of the flag word (R77): bits 0 to 3, 7 and 8. -/
def elemMask : FlagWord := 0x18F#16

/-- The 12 bytes of a slot (Table 4.2). -/
def Slot.bytes (a : Slot) : List Byte :=
  let f := a.flags.toNat
  let bits := f % 16 + (f / 128 % 2) * 16 + (f / 256 % 2) * 32
  leBytes 12 ((BitVec.ofInt 72 a.value).toNat + a.residue * 2 ^ 72 + bits * 2 ^ 88)

/-- The slot in 12 bytes; a slot with a poisoned byte is value 0 with POISON. -/
def Slot.ofBytes (bs : List (Option Byte)) : Slot :=
  if anyBad bs then ⟨0, 0, fPOISON⟩
  else
    let v := leVal (plainBytes bs)
    let f := v / 2 ^ 88 % 64
    ⟨signedNat 72 (v % 2 ^ 72), v / 2 ^ 72 % 65536, BitVec.ofNat 16 (f % 16 + (f / 16 % 2) * 128 + (f / 32) * 256)⟩

/-! ### Tile records (Table 4.3) -/

/-- A tile as an operation holds it: no anchor for EMPTY and for a poisoned record (R408). -/
structure WTile where
  anchor : Option Int
  empty : Bool
  flags : FlagWord
  len : Nat
  slots : Sparse Slot
deriving DecidableEq, Repr

/-- A tile with nothing in it. -/
def WTile.zero : WTile := ⟨none, true, 0#16, 0, []⟩

/-- The slot at an index. -/
def WTile.slot (t : WTile) (i : Nat) : Slot := Sparse.get Slot.zero t.slots i

/-- Tile flag bits that exist: [15:11] are written as 0 (R77). -/
def tileMask : FlagWord := 0x7FF#16

/-- The 64 bits of a tile record. -/
def recWord (anchor : Int) (empty : Bool) (flags : FlagWord) (len : Nat) : Nat :=
  (BitVec.ofInt 10 anchor).toNat + (if empty then 1024 else 0) + (flags &&& tileMask).toNat * 2 ^ 16 + min len 0xFFFFFFFF * 2 ^ 32

/-- LEN addition (R79). -/
def addLen (a b : Nat) : Nat := min 0xFFFFFFFF (a + b)

/-- Indices of the slots inside a tile's box of `cols` columns and `rows` rows. -/
def boxSlots (cols rows : Nat) : List Nat := (List.range rows).flatMap (fun r => (List.range cols).map (64 * r + ·))

/-- Every slot of a box with the same content. -/
def fillSlots (ix : List Nat) (a : Slot) : Sparse Slot := ix.foldl (fun m i => Sparse.set Slot.zero m i a) []

/-- Apply a function to the slots of a box. -/
def WTile.mapSlots (t : WTile) (ix : List Nat) (f : Nat → Slot → Slot) : WTile :=
  { t with slots := ix.foldl (fun m i => Sparse.set Slot.zero m i (f i (t.slot i))) t.slots }

/-- A tile from its record word and the bytes of its slots (R76, R408). -/
def WTile.ofStored (rc : List (Option Byte)) (ix : List Nat) (slot : Nat → Slot) : WTile :=
  if anyBad rc then ⟨none, false, fPOISON, 0, fillSlots ix ⟨0, 0, fPOISON⟩⟩
  else
    let v := leVal (plainBytes rc)
    let fl := BitVec.ofNat 16 (v / 2 ^ 16 % 65536) &&& tileMask
    let len := v / 2 ^ 32 % 2 ^ 32
    if v / 1024 % 2 = 1 then ⟨none, true, fl, len, []⟩
    else ⟨some (signedNat 10 (v % 1024)), false, fl, len, ix.foldl (fun m i => Sparse.set Slot.zero m i (slot i)) []⟩

/-- The flag word of a tile: its event bits and the OR of its elements' flags; LONG by LEN (R77, R79). -/
def tileFlags (events : FlagWord) (len : Nat) (slots : Sparse Slot) : FlagWord :=
  let el := slots.foldl (fun f x => f ||| (x.2.flags &&& elemMask)) 0#16
  (events &&& ~~~elemMask) ||| el ||| (if 2 ^ 31 < len then fLONG else 0#16)

/-- Move a tile to the grid of another anchor; a coarser grid sets ALIGN (R60, R82). -/
def WTile.regrid (t : WTile) (ix : List Nat) (a : Int) : WTile :=
  match t.anchor with
  | none => { t with anchor := some a }
  | some b =>
    let u := t.mapSlots ix (fun _ x => x.regrid (a - b))
    { u with anchor := some a, flags := if b < a then t.flags ||| fALIGN else t.flags }

/-- Merge two partials of one tile (R81, R82, R108, R408): the smaller anchor moves to the larger, the slots add, LEN
adds, and the flags other than RETRIED and MASKED are ORed. An EMPTY partial contributes nothing. -/
def WTile.merge (ix : List Nat) (x y : WTile) : WTile :=
  let shown (t : WTile) : WTile := { t with flags := t.flags &&& ~~~(fRETRIED ||| fMASKED) }
  if x.empty then shown y else if y.empty then shown x
  else
    let a := match x.anchor, y.anchor with
      | some a, some b => some (max a b) | some a, none => some a | none, b => b
    let shift (t : WTile) : WTile := match a, t.anchor with | some a, some _ => t.regrid ix a | _, _ => t
    let u := shift x
    let v := shift y
    let slots := ix.foldl (fun m i => Sparse.set Slot.zero m i ((u.slot i).add (v.slot i))) []
    let len := addLen x.len y.len
    let uneq := match x.anchor, y.anchor with | some a, some b => decide (a ≠ b) | _, _ => false
    let ev := (x.flags ||| y.flags ||| (if uneq then fALIGN else 0#16)) &&& ~~~(fRETRIED ||| fMASKED)
    ⟨a, false, tileFlags ev len slots, len, slots⟩

/-! ### Products on the grid (R66, R69-R71) -/

/-- The class of an operand of a cell: its code and block scale, and whether it was read poisoned. -/
def operandX (f : Fmt) (code : Nat) (scale : BitVec 8) : XVal := decodeLg f code (some scale)

/-- The grid integer of the finite product 2^(l/256) under anchor A: rounded to nearest, ties to even (R70); replaced
when it reaches 2^A (R69). -/
def gridProduct (a : Int) (neg : Bool) (l : Int) : Int × FlagWord :=
  let sign (v : Int) : Int := if neg then -v else v
  if 256 * a ≤ l then (sign (2 ^ 40 - 1), fOVF)
  else (sign (roundPow (l - 256 * (a - 40))), 0#16)

/-- The product of Table 4.1 of two operands under anchor A: what enters the chain, and the element flag. -/
def product (a : Int) (bad : Bool) (x w : XVal) : Int × FlagWord :=
  if bad then (0, fPOISON)
  else match x, w with
  | .nan, _ => (0, fNAN)
  | _, .nan => (0, fNAN)
  | .inf _, .zero => (0, fNAN)
  | .zero, .inf _ => (0, fNAN)
  | .inf s, y => (0, if xor s y.neg then fINFN else fINFP)
  | y, .inf s => (0, if xor s y.neg then fINFN else fINFP)
  | .zero, _ => (0, 0#16)
  | _, .zero => (0, 0#16)
  | .lg s l, .lg t m => gridProduct a (xor s t) (l + m)
  | _, _ => (0, 0#16)

/-- A cell is data-gated: an operand is +0 in a block that is not NaN, and no operand is special (R50). -/
def gated (bad : Bool) (x w : XVal) : Bool :=
  !bad && (decide (x = .zero) && (match w with | .lg _ _ => true | .zero => true | _ => false)
    || decide (w = .zero) && (match x with | .lg _ _ => true | _ => false))

/-! ### Output conversion (R85-R88) and element writes -/

/-- What a destination element receives: nothing, +0 of a masked row, or a value with the flags its computation raised. -/
inductive OutVal where
  | keep
  | masked
  | poison
  | nan
  | infs
  | inf (neg : Bool)
  | ovf (neg : Bool)
  | val (x : XVal) (flags : FlagWord)
deriving DecidableEq, Repr

/-- The output class of a WP72 element under anchor A (Table 4.5). -/
def outClass (a : Int) (x : Slot) : OutVal :=
  if hasFlag x.flags fPOISON then .poison
  else if hasFlag x.flags fNAN then .nan
  else if hasFlag x.flags fINFP && hasFlag x.flags fINFN then .infs
  else if hasFlag x.flags fINFP then .inf false
  else if hasFlag x.flags fINFN then .inf true
  else if hasFlag x.flags fOVF then .ovf (decide (x.value < 0))
  else .val (XVal.ofInt x.value (a - 40)) 0#16

/-- The exact value that takes part in the choice of a block scale. -/
def OutVal.exact : OutVal → XVal
  | .val x _ => x
  | _ => .zero

/-- The code of one element and the flags its conversion adds; none leaves the element. -/
def OutVal.encode (f : Fmt) (s : Int) (noteUfl sat : Bool) : OutVal → Option Nat × FlagWord
  | .keep => (none, 0#16)
  | .masked => (some 0, 0#16)
  | .poison => (some (canonicalNan f), fPOISON)
  | .nan => (some (canonicalNan f), fNAN)
  | .infs => (some (canonicalNan f), fNAN ||| fINFP ||| fINFN)
  | .inf neg => let r := encodeElem f s noteUfl sat (.inf neg); (some r.1, r.2)
  | .ovf neg => (some (largestFinite f neg), fOVF)
  | .val x fl => let r := encodeElem f s noteUfl sat x; (some r.1, r.2 ||| fl)

/-- The block scale of scale byte j of a destination whose elements from q0 on are given: chosen by R86 from the values of
its block; none when the block is left unwritten. -/
def blockScaleOf (e : Entry) (q0 : Nat) (vals : List OutVal) (j : Nat) : Option (Int × Bool) :=
  let mine := ((List.range vals.length).filter (fun q => eScaleIndex e (q0 + q) = j)).map (fun q => vals.getD q .keep)
  if mine.all (fun v => v == .keep) then none
  else some (blockScale (eFmt e) (mine.map OutVal.exact))

/-- The element codes, block-scale bytes and element flags of a destination tensor (R85-R87, Table 2.5). -/
structure Encoded where
  codes : List (Option Nat)
  scales : List WByte
  flags : List FlagWord
deriving DecidableEq, Repr

/-- Convert the elements of a destination from q0 on; their scale bytes are n from index `lo` on. `sat` chooses R42 and R87
over R407 for the binary formats. -/
def encodeFrom (e : Entry) (q0 lo n : Nat) (sat : Bool) (vals : List OutVal) : Encoded :=
  let scs := if eScaled e then (List.range n).map (fun j => blockScaleOf e q0 vals (lo + j)) else []
  let r := (List.range vals.length).map (fun q =>
    let sc := if eScaled e then scs.getD (eScaleIndex e (q0 + q) - lo) none else none
    let s := match sc with | some x => x.1 | none => 0
    let note := match sc with | some x => x.2 | none => true
    (vals.getD q .keep).encode (eFmt e) s note sat)
  ⟨r.map (·.1), scs.map (fun x => x.map (fun y => some (scaleByte y.1))), r.map (·.2)⟩

/-- Convert every element of a destination. -/
def encodeTensor (e : Entry) (sat : Bool) (vals : List OutVal) : Encoded := encodeFrom e 0 0 (eScaleBytes e) sat vals

/-- Pack element codes into bytes (R29); a byte of two LG4 elements of which one is left takes its other half from `old`. -/
def packCodes (f : Fmt) (codes : List (Option Nat)) (old : List (Option Byte)) : List WByte :=
  match f with
  | .lg4 => (List.range (ceilDiv codes.length 2)).map (fun i =>
      match codes.getD (2 * i) none, (if 2 * i + 1 < codes.length then codes.getD (2 * i + 1) none else some 0) with
      | none, none => none
      | some a, some b => wPut (BitVec.ofNat 8 (a % 16 + 16 * b))
      | some a, none => (match old.getD i (some 0#8) with
        | some x => wPut (BitVec.ofNat 8 (a % 16 + x.toNat / 16 * 16)) | none => some none)
      | none, some b =>
        if 2 * i + 1 < codes.length then (match old.getD i (some 0#8) with
          | some x => wPut (BitVec.ofNat 8 (x.toNat % 16 + 16 * b)) | none => some none)
        else none)
  | _ => codes.flatMap (fun c => match c with
      | none => List.replicate (f.bits / 8) none
      | some v => (leBytes (f.bits / 8) v).map wPut)

/-! ### Histograms (R46-R48, R141) -/

/-- The table bin of exponent x (R47). -/
def histBin (base x : Int) : Nat := (min 63 (max 0 (x - base))).toNat

/-- Add k to a bin; bins stop at 0xFFFF_FFFF (R47). -/
def Hist.count (h : Hist) (x : Int) : Hist :=
  { h with bins := Sparse.modify 0 h.bins (histBin h.base x) (fun c => min 0xFFFFFFFF (c + 1)) }

/-- A counter of a HIST table one higher. -/
def sat32 (c : Nat) : Nat := min 0xFFFFFFFF (c + 1)

/-- Fold one WP72 element of a tile under anchor A (R46). -/
def Hist.foldSlot (h : Hist) (a : Int) (x : Slot) : Hist :=
  match outClass a x with
  | .poison => { h with nans := sat32 h.nans }
  | .nan => { h with nans := sat32 h.nans }
  | .infs => { h with nans := sat32 h.nans }
  | .inf _ => { h with infs := sat32 h.infs }
  | .ovf _ => h.count (a - 40 + 63)
  | _ => if x.value = 0 then { h with zeros := sat32 h.zeros }
    else h.count (a - 40 + (min 63 (Nat.log2 x.value.natAbs) : Nat))

/-- Fold one element written by VEC, SOFTMAX_BWD or NORM_BWD (R141), by the value that stands in the destination. -/
def Hist.foldVal (h : Hist) (x : XVal) : Hist :=
  match x with
  | .nan => { h with nans := sat32 h.nans }
  | .inf _ => { h with infs := sat32 h.infs }
  | .zero => { h with zeros := sat32 h.zeros }
  | y => h.count (y.floorLog2?.getD 0)

/-- One more tile folded. -/
def Hist.tile (h : Hist) : Hist := { h with tiles := sat32 h.tiles }

/-- The 288-byte record (Table 2.10). -/
def Hist.record (h : Hist) : List Byte :=
  (List.range 64).flatMap (fun k => leBytes 4 (Sparse.get 0 h.bins k)) ++ leBytes 4 (BitVec.ofInt 32 h.base).toNat
    ++ leBytes 4 h.zeros ++ leBytes 4 h.nans ++ leBytes 4 h.infs ++ leBytes 4 h.tiles ++ List.replicate 12 0#8

/-- Every bin and counter 0, HIST_BASE kept (R111). -/
def Hist.clear (h : Hist) : Hist := { Hist.zero with base := h.base }

end Sys2Proof.Machine
end

