-- ==== Sys2Proof/Machine/Tensor.lean ====
section
/-! DEFINITION. Tensors as operations read and write them: elements, masks, WP72 tiles, destinations, histograms, which
tiles an operation uses, and when it may run (R98, R103, R130-R134, R148, R149). -/

namespace Sys2Proof.Machine

/-- An element as read: its code, its block scale (0 when unscaled), its exact value, poison of the element and of its
scale byte. -/
structure Elem where
  code : Nat
  scale : BitVec 8
  x : XVal
  bad : Bool
  scaleBad : Bool
deriving DecidableEq, Repr

/-- Elements q0 to q0 + n - 1 of a tensor from their data bytes and the scale bytes from index `lo` on (R25-R34, R92). -/
def decodeFrom (e : Entry) (q0 n lo : Nat) (data scales : List (Option Byte)) : List Elem :=
  let f := eFmt e
  (List.range n).map (fun i =>
    let bs := if f = .lg4 then [data.getD (i / 2) none] else (data.drop (f.bits / 8 * i)).take (f.bits / 8)
    let v := leVal (plainBytes bs)
    let code := if f = .lg4 then v / 16 ^ (i % 2) % 16 else v
    let sb := if eScaled e then scales.getD (eScaleIndex e (q0 + i) - lo) none else some 0#8
    let sc := sb.getD 0#8
    let x := match f with
      | .fp32 => decodeFp 23 code | .bf16 => decodeFp 7 code | .raw => XVal.ofInt code 0
      | _ => decodeLg f code (if eScaled e then some sc else none)
    ⟨code, sc, x, anyBad bs || bs.isEmpty, sb.isNone⟩)

/-- The elements of a tensor from its data and scale bytes. -/
def decodeElems (e : Entry) (data scales : List (Option Byte)) : List Elem := decodeFrom e 0 (eCount e) 0 data scales

/-- The data bytes of a tensor an operation names, in the version it reads. -/
def State.loadData (s : State) (p core : Nat) (o : OpRec) (h : Nat) : List (Option Byte) × State :=
  let e := o.ent h
  s.loadRun p core o.inbuf (o.dataAt h (o.ver h)) 0 (eDataBytes e)

/-- Its block-scale bytes. -/
def State.loadScales (s : State) (p core : Nat) (o : OpRec) (h : Nat) : List (Option Byte) × State :=
  let e := o.ent h
  s.loadRun p core o.inbuf (o.scalesAt h (o.ver h)) 0 (eScaleBytes e)

/-- The elements of a tensor an operation names. -/
def State.loadTensor (s : State) (p core : Nat) (o : OpRec) (h : Nat) : List Elem × State :=
  let a := s.loadData p core o h
  let b := a.2.loadScales p core o h
  (decodeElems (o.ent h) a.1 b.1, b.2)

/-- Each core of the partition reads a tensor of its own: its data or scales are MIRROR (R193). -/
def eMirror (e : Entry) : Bool :=
  decide (eTier e = 0) && (decide (poolPlace (eAddr e) = 2) || (eScaled e && decide (poolPlace (eScaleAddr e) = 2)))

/-- The elements of a tensor as each core of the partition reads them: a MIRROR tensor from the core's own slice (R193). -/
def State.loadTensorBy (s : State) (p : Nat) (o : OpRec) (h : Nat) : (Nat → List Elem) × State :=
  let r := s.loadTensor p 0 o h
  (if eMirror (o.ent h) then (fun c => if c = 0 then r.1 else (s.loadTensor p c o h).1) else (fun _ => r.1), r.2)

/-- A poisoned element anywhere (its own bytes or its scale byte). -/
def Elem.poisoned (x : Elem) : Bool := x.bad || x.scaleBad

/-! ### WP72 tiles (R74, R76, R93, R130) -/

/-- Slots inside the extents of a tile. -/
def tileIx (e : Entry) (t : Nat) : List Nat := let b := eTileBox e t; boxSlots b.2.2.1 b.2.2.2

/-- The directory key of a scratchpad tile (R130): core × 128 + record. -/
def State.dirKey (s : State) (p : Nat) (e : Entry) (t : Nat) : Nat :=
  let a := eAddr e + 49152 * t
  s.coreAt p (a / spdSize) * 128 + a % spdSize / 32768

/-- A directory record as its bytes read. -/
def State.dirBytes (s : State) (k : Nat) : List (Option Byte) :=
  if Sparse.get false s.spdDirBad k then List.replicate 8 none
  else (leBytes 8 (Sparse.get 0#64 s.spdDir k).toNat).map some

/-- Write a directory record. -/
def State.setDir (s : State) (k : Nat) (bad : Bool) (word : Nat) : State :=
  { s with spdDir := Sparse.set 0#64 s.spdDir k (BitVec.ofNat 64 word), spdDirBad := Sparse.set false s.spdDirBad k bad }

/-- The bytes of a tile record as read. -/
def State.loadRecord (s : State) (p core : Nat) (o : OpRec) (h t : Nat) : List (Option Byte) × State :=
  let e := o.ent h
  if eTier e = 3 then (s.dirBytes (s.dirKey p e t), s)
  else s.loadRun p core o.inbuf (o.scalesAt h (o.ver h)) (8 * t) 8

/-- Read tile t of a WP72 tensor. -/
def State.loadTile (s : State) (p core : Nat) (o : OpRec) (h t : Nat) : WTile × State :=
  let e := o.ent h
  let r := s.loadRecord p core o h t
  let d := r.2.loadRun p core o.inbuf (o.dataAt h (o.ver h)) (49152 * t) 49152
  (WTile.ofStored r.1 (tileIx e t) (fun i => Slot.ofBytes ((d.1.drop (12 * i)).take 12)), d.2)

/-- A 10-bit anchor that nothing constrains: free value n, from index i on (log 22). -/
def anyAnchor (n i : Nat) : Int := ((Config.undefinedByte n i ++ Config.undefinedByte n (i + 1)).extractLsb' 0 10).toInt

/-- Where the free values of one operation stand among those of a draw (log 13), apart from one another by `kind`. -/
def freeIndex (p seq kind i : Nat) : Nat := 2 ^ 64 * (4 * (8 * seq + p) + kind) + i

/-- The anchor written where no partial gave one (R408): a free value (log 22). -/
def WTile.anchorOr (t : WTile) (free : Int) : Int := t.anchor.getD free

/-- Write tile t of a WP72 tensor and its record; slots that `keep` names stay as stored. True: a write was not
performed. -/
def State.storeTile (s : State) (p : Nat) (o : OpRec) (h t : Nat) (w : WTile) (keep : Nat → Bool) : State × Bool :=
  let e := o.ent h
  let box := eTileBox e t
  let inside (i : Nat) : Bool := decide (i % 64 < box.2.2.1 ∧ i / 64 < box.2.2.2)
  let ws := (List.range 4096).flatMap (fun i =>
    if keep i then List.replicate 12 none
    else (if inside i then (w.slot i).bytes else zeros 12).map wPut)
  let a := s.storeRun p o.inbuf (o.dataAt h (o.ver h)) (49152 * t) ws
  let free := anyAnchor a.1.draws 0
  let word := recWord (w.anchorOr (if w.empty then 0 else free)) w.empty w.flags w.len
  let s1 := if w.anchor.isNone && !w.empty then { a.1 with draws := a.1.draws + 1 } else a.1
  if eTier e = 3 then
    (s1.setDir (s1.dirKey p e t) false word, a.2)
  else
    let b := s1.storeRun p o.inbuf (o.scalesAt h (o.ver h)) (8 * t) ((leBytes 8 word).map wPut)
    (b.1, a.2 || b.2)

/-! ### Masks (R60, R98) -/

/-- Row ρ is masked. A row whose mask byte read poisoned is unmasked. -/
def OpRec.masked (o : OpRec) (ρ : Nat) : Bool :=
  match o.mask.getD (ρ / 8) none with | some b => bitAt b (ρ % 8) | none => false

/-- Row ρ's mask byte read poisoned: every element written in it carries POISON. -/
def OpRec.maskBad (o : OpRec) (ρ : Nat) : Bool :=
  dMask o.desc ≠ 0 && (match o.mask.getD (ρ / 8) none with | some _ => false | none => true)

/-- Some row of the destination is masked. -/
def OpRec.anyMasked (o : OpRec) (rows : Nat) : Bool := (List.range rows).any o.masked

/-- Apply the mask of a VEC-like operation to a row-wise result (R60, R98). -/
def OpRec.applyMask (o : OpRec) (ρ : Nat) (v : OutVal) : OutVal :=
  if o.masked ρ then (if dMaskZero o.desc then .masked else .keep)
  else if o.maskBad ρ then .poison else v

/-! ### Histogram tables -/

/-- Update HIST table `id` of a partition. -/
def State.updHist (s : State) (p id : Nat) (f : Hist → Hist) : State :=
  s.updPrt p (fun v => { v with hists := Sparse.modify Hist.zero v.hists id f })

/-- Fold the written elements of a destination tensor (R141): tile by tile, each element once. -/
def foldWritten (e : Entry) (enc : Encoded) (h : Hist) : Hist :=
  let f := eFmt e
  let d0 := eDim e 0
  let tileOf (q : Nat) : Nat := (eTileOf e (q % d0) (q / d0)).1
  let done := (List.range enc.codes.length).filter (fun q => (enc.codes.getD q none).isSome)
  let h1 := done.foldl (fun h q =>
    let code := (enc.codes.getD q none).getD 0
    let sc := match enc.scales.getD (eScaleIndex e q) none with | some (some b) => b | _ => 0#8
    h.foldVal (match f with
      | .fp32 => decodeFp 23 code | .bf16 => decodeFp 7 code
      | _ => decodeLg f code (if eScaled e then some sc else none))) h
  ((done.map tileOf).eraseDups).foldl (fun h _ => h.tile) h1

/-! ### Destinations -/

/-- What an operation's work leaves behind: the state, the OR of the tile flag words, and whether it is POISONED. -/
structure Work where
  st : State
  flags : FlagWord
  poisoned : Bool
deriving Repr

/-- Write element codes and scales of a destination (R29, R33). -/
def State.storeEncoded (s : State) (p : Nat) (o : OpRec) (h : Nat) (enc : Encoded) : State × Bool :=
  let e := o.ent h
  let mixed := eFmt e = .lg4 ∧ enc.codes.any (fun c => c.isNone)
  let old := if mixed then (s.loadRun p 0 o.inbuf (o.dataAt h (o.ver h)) 0 (eDataBytes e)) else ([], s)
  let a := old.2.storeRun p o.inbuf (o.dataAt h (o.ver h)) 0 (packCodes (eFmt e) enc.codes old.1)
  let b := a.1.storeRun p o.inbuf (o.scalesAt h (o.ver h)) 0 enc.scales
  (b.1, a.2 || b.2)

/-- Write the elements of a destination that is not WP72, with MASKED for masked rows and the fold of R141. -/
def State.storeElems (s : State) (p : Nat) (o : OpRec) (h : Nat) (sat fold : Bool) (vals : List OutVal) : Work :=
  let e := o.ent h
  let enc := encodeTensor e sat vals
  let w := s.storeEncoded p o h enc
  let fl := enc.flags.foldl (· ||| ·) (if o.anyMasked (eRows e) then fMASKED else 0#16)
  let s1 := if fold && eHistEn e then w.1.updHist p (eHistId e) (foldWritten e enc) else w.1
  ⟨s1, fl, w.2 || hasFlag fl fPOISON⟩

/-- Write RAW bytes at an offset of a tensor. -/
def State.storeRaw (s : State) (p : Nat) (o : OpRec) (h off : Nat) (bs : List Byte) : State × Bool :=
  s.storeRun p o.inbuf (o.dataAt h (o.ver h)) off (bs.map wPut)

/-- Read RAW bytes at an offset of a tensor. -/
def State.loadRaw (s : State) (p : Nat) (o : OpRec) (h off n : Nat) : List (Option Byte) × State :=
  s.loadRun p 0 o.inbuf (o.dataAt h (o.ver h)) off n

/-! ### What an operation uses, and when it may run -/

/-- Operand handles of a vector program (R129). -/
def progHandles (d : Desc) : List Nat := [dA d, dB d, dD d] ++ (List.range 7).map (fun i => dField d (42 + 2 * i) 2)

/-- Sources of REDUCE in order (R108): the list ends at the first 0. -/
def reduceSources (d : Desc) : List Nat :=
  [dA d, dB d] ++ ((List.range 6).map (fun i => dField d (32 + 2 * i) 2)).takeWhile (· ≠ 0)

/-- Every nonzero handle a descriptor names, except through H_VAR's entries (Table 5.9, Table 5.10). -/
def dHandles (d : Desc) : List Nat :=
  let more := match dOp d with
    | 0x10 => if dSub d = 0xF0 then dField d 40 2 :: (List.range 7).map (fun i => dField d (42 + 2 * i) 2) else []
    | 0x12 => [dField d 32 2, dField d 34 2]
    | 0x13 => ((List.range 6).map (fun i => dField d (32 + 2 * i) 2)).takeWhile (· ≠ 0)
    | 0x40 => dField d 34 2 :: (if dSub d = 1 then [dField d 54 2, dField d 56 2] else [])
    | _ => []
  ([dA d, dB d, dC d, dD d, dMask d, dVar d] ++ (if dVar d = 0 then [] else [1]) ++ more).filter (· ≠ 0)

/-- The handles an operation writes (Table 5.9): its destination, UPDATE's weights and state, NORM's statistics and
NORM_BWD's scale gradient. RESTORE reads its H_C. -/
def dWrites (d : Desc) : List Nat :=
  let w := match dOp d with
    | 0x40 => [dA d, dD d]
    | 0x50 => if dSub d < 3 then [dC d] else []
    | 0x12 => [dC d, dField d 34 2]
    | 0x10 => if dSub d = 0x11 then [dC d, dD d] else [dC d]
    | _ => [dC d]
  w.filter (· ≠ 0)

/-- A handle whose bytes the operation never touches: VERSION_RELEASE's tensor, and the tensor whose HIST table a HIST_READ
reads (R111, R119). -/
def idleHandle (d : Desc) (h : Nat) : Bool :=
  decide (h = dA d) && (decide (dOp d = 0x41) || (decide (dOp d = 0x14) && decide (h ≠ dC d)))

/-- The operation takes the slot tokens of a handle's tiles alone: it writes the tensor, or its HIST table (R111, R133). -/
def takesAlone (d : Desc) (h : Nat) : Bool := (dWrites d).contains h || (decide (dOp d = 0x14) && decide (h = dA d))

/-- The source roles of an operation in the order of Table 5.9, H_A first where it is one, H_VAR's table among them; 0 where
a role is empty. -/
def dRoles (d : Desc) : List Nat :=
  let vars := if dVar d = 0 then [] else [dVar d, 1]
  match dOp d with
  | 0x01 => [dA d, dB d, dD d, dMask d] ++ vars
  | 0x02 => [dA d, dB d, dMask d] ++ vars
  | 0x10 => [dA d, dB d, dMask d] ++ (if dSub d = 0x11 then [] else [dD d])
    ++ (if dSub d = 0xF0 then dField d 40 2 :: (List.range 7).map (fun i => dField d (42 + 2 * i) 2) else [])
  | 0x11 => [dA d, dB d, dMask d]
  | 0x12 => [dA d, dB d, dD d, dMask d, dField d 32 2]
  | 0x13 => reduceSources d
  | 0x20 => [dA d]
  | 0x30 => [dA d]
  | 0x31 => [dA d]
  | 0x32 => [dA d]
  | 0x40 => [dA d, dB d, dD d, dMask d, dField d 34 2] ++ (if dSub d = 1 then [dField d 54 2, dField d 56 2] else [])
  | 0x42 => if dSub d = 0 then [dA d] else []
  | 0x50 => if dSub d = 3 then [dC d] else []
  | _ => []

/-- Handles that an operation reads as sources. -/
def dReads (d : Desc) : List Nat := ((dRoles d).filter (· ≠ 0)).eraseDups

/-- The tag an operation writes of a versioned tensor. -/
def OpRec.newTag (o : OpRec) : Nat := dField o.desc 52 2

/-- The operation is an UPDATE of the versioned tensor h. -/
def OpRec.updates (o : OpRec) (h : Nat) : Bool := dOp o.desc = 0x40 && dA o.desc = h && eVersioned (o.ent h) && !eFrozen (o.ent h)

/-- The operation holds an entry for handle h: the descriptor names it, or a variant of H_VAR does (R90, R147). -/
def OpRec.names (o : OpRec) (h : Nat) : Bool := o.ents.any (fun x => x.1 = h)

/-- The operation reads version t of handle h: the versions it lists (a belay), else the one of its VTAG. -/
def OpRec.readsTag (o : OpRec) (h t : Nat) : Bool :=
  if o.refs.any (fun x => x.1 = h) then o.refs.contains (h, t) else decide (dTag o.desc = t)

/-- Two accepted operations of a partition, a before b, use handle h in conflicting ways (R22, R133, R148, R149): an UPDATE
lets later readers of the version that it overwrites pass, and waits for every earlier writer. -/
def conflictOn (h : Nat) (a b : OpRec) : Bool :=
  if !(a.names h && b.names h) || dOp a.desc = 0x41 || dOp b.desc = 0x41 then false
  else if a.updates h then b.updates h || takesAlone b.desc h || b.readsTag h a.newTag
  else takesAlone a.desc h || (takesAlone b.desc h && !b.updates h)

/-- The bytes of a RAW tensor that an operation uses alone of all its bytes: offset and length (R83, R107, R111, R120). -/
def byteSpan (d : Desc) (h : Nat) : Option (Nat × Nat) :=
  if dOp d = 0x02 ∧ h = dC d then some (dField d 32 4, 4)
  else if dOp d = 0x01 ∧ dMode d = 2 ∧ h = dD d then some (dField d 32 4, 4)
  else if dOp d = 0x14 ∧ h = dC d ∧ h ≠ dA d then some (0, 288)
  else if dOp d = 0x42 ∧ h = dC d then some (0, if dSub d = 0 then 8 else 160)
  else none

/-- The tiles of handle h whose slot tokens an operation takes (R22, R93). -/
def OpRec.tiles (o : OpRec) (h : Nat) : List Nat :=
  let e := o.ent h
  match byteSpan o.desc h with
  | none => List.range (eTiles e)
  | some (off, n) => (((List.range n).map (fun i => (eTileOf e ((off + i) % eDim e 0) ((off + i) / eDim e 0)).1)).eraseDups).filter
      (· < eTiles e)

/-- It takes the token of tile t of handle h. -/
def OpRec.wants (o : OpRec) (h t : Nat) : Bool :=
  match byteSpan o.desc h with | none => decide (t < eTiles (o.ent h)) | some _ => (o.tiles h).contains t

/-- It has returned the token of a tile of its destination (R134). -/
def OpRec.freed (o : OpRec) (h t : Nat) : Bool := decide (h = dC o.desc) && o.tilesDone.contains t

/-- An earlier operation a keeps tile t of handle h from operation b. -/
def OpRec.blocks (a b : OpRec) (h t : Nat) : Bool := !a.done && conflictOn h a b && a.wants h t && !a.freed h t

/-- OFFLOAD and PREFETCH of one buffer are ordered as accesses to one tile (R155). -/
def bufConflict (a b : OpRec) : Bool :=
  let off (o : OpRec) : Bool := dOp o.desc = 0x31
  let buf (o : OpRec) : Bool := dOp o.desc = 0x31 || dOp o.desc = 0x32
  buf a && buf b && decide (dField a.desc 32 4 = dField b.desc 32 4) && (off a || off b)

/-- The operations accepted before o that have not ended, in acceptance order. -/
def Prt.before (v : Prt) (o : OpRec) : List OpRec := v.ops.takeWhile (fun a => a.seq ≠ o.seq)

/-- No earlier operation holds or awaits tile t of handle h against operation o (R133). -/
def Prt.grantable (v : Prt) (o : OpRec) (h t : Nat) : Bool := (v.before o).all (fun a => !a.blocks o h t)

/-- The slot that an UPDATE writes is free: no reference to its version, and no accepted reader of it (R148). References that
the record dropped while it waited are never released (log 54). -/
def Prt.slotFree (v : Prt) (o : OpRec) : Bool :=
  let h := dA o.desc
  let old := (o.newTag + 65534) % 65536
  let refs := match v.versions.find? (fun r => r.handle = h) with
    | none => 0
    | some r => if r.cur = o.newTag then r.ref2 else 0
  !o.blocked && decide (refs = 0) && !(v.ops.any (fun a => decide (a.seq ≠ o.seq) && !a.updates h
    && a.names h && a.readsTag h old && !idleHandle a.desc h))

/-- A host line that an operation needs: handle, PART, line number. -/
structure LineNeed where
  handle : Nat
  partNo : Nat
  line : Nat
deriving DecidableEq, Repr

/-- The lines of a host-tier tensor: its data, then its scales (R203). -/
def tensorLines (h : Nat) (e : Entry) : List LineNeed :=
  if eTier e = 2 then
    (List.range (ceilDiv (eDataBytes e) 128)).map (⟨h, 0, ·⟩) ++ (List.range (ceilDiv (eScaleBytes e) 128)).map (⟨h, 1, ·⟩)
  else []

/-- The operation writes every byte of a destination and reads none of it. -/
def wholeWrite (d : Desc) (h : Nat) : Bool :=
  match dOp d with
  | 0x01 => decide (dMask d = 0) && !dAccum d
  | 0x10 => decide (dMask d = 0 ∧ dSub d ≠ 0xF0 ∧ h = dC d)
  | 0x11 => decide (dMask d = 0)
  | 0x12 => decide (dMask d = 0 ∨ h ≠ dC d)
  | 0x20 => decide (dSub d ≠ 1)
  | 0x50 => decide (dSub d < 3)
  | op => [0x13, 0x15, 0x30, 0x31, 0x32].contains op

/-- Is handle h a destination of the operation and no source? -/
def OpRec.onlyWrites (o : OpRec) (h : Nat) : Bool := (dWrites o.desc).contains h && !((dReads o.desc).contains h)

/-- The host lines that an operation reads before its work: those of its sources, and those of a destination that it
writes in part (R203, R204). -/
def OpRec.hostNeeds (o : OpRec) : List LineNeed :=
  o.ents.flatMap (fun x => if idleHandle o.desc x.1 || (o.onlyWrites x.1 && wholeWrite o.desc x.1) then [] else tensorLines x.1 x.2)

/-- All host lines that the operation needs have arrived (R204). -/
def OpRec.linesIn (o : OpRec) : Bool := o.hostNeeds.length ≤ o.got

/-- It reads or writes HIST tables or the format policy table (R111, R141, R142). -/
def OpRec.histUse (o : OpRec) : Bool :=
  decide (dOp o.desc = 0x14 ∨ dOp o.desc = 0x21) || (dWrites o.desc).any (fun h => eHistEn (o.ent h))

/-- A belay that has not copied the state yet. -/
def OpRec.copying (o : OpRec) : Bool := match o.belay with | some b => !b.copied | none => false

/-- A belay copies the HIST tables and the format policy table at its position: after every earlier operation that uses them
and before every later one (R121, R365). -/
def Prt.histReady (v : Prt) (o : OpRec) : Bool :=
  (v.before o).all (fun a => !((o.copying && a.histUse) || (o.histUse && a.copying)))

/-- The tiles of a started operation are granted or grantable (R133), the UPDATEs that write what it reads have completed
(R149), an UPDATE's slot is free (R148), no operation of its buffer stands before it (R155), and a belay's position is kept.
-/
def Prt.tokensReady (v : Prt) (o : OpRec) : Bool :=
  decide (o.phase = .started) && !o.done && !o.held
    && o.ents.all (fun x => (v.before o).all (fun a => !((a.updates x.1 && conflictOn x.1 a o)
      || (o.tiles x.1).any (a.blocks o x.1))))
    && (v.before o).all (fun a => !(!a.done && bufConflict a o))
    && (!o.updates (dA o.desc) || v.slotFree o)
    && v.histReady o

/-- It may do its work: its tiles are ready and its host lines are in. -/
def Prt.mayRun (v : Prt) (o : OpRec) : Bool := v.tokensReady o && o.linesIn

/-- The status of finished work (Table 5.12): POISONED by poison, OK_FLAGGED by FLAG_MASK, else OK. -/
def workStatus (d : Desc) (flags : FlagWord) (poisoned : Bool) : BitVec 8 :=
  if poisoned then stPoisoned else if hasFlag flags (dFlagMask d) then stFlagged else stOK

/-- Record that every core has sent its token for an operation (R23), with its status and flag summary. -/
def State.finishOp (s : State) (p seq : Nat) (status : BitVec 8) (flags : FlagWord) : State :=
  s.updOp p seq (fun o => { o with done := true, status := status, flags := flags })

/-- Record finished work. -/
def Work.finish (w : Work) (p : Nat) (o : OpRec) : State :=
  w.st.finishOp p o.seq (workStatus o.desc w.flags w.poisoned) w.flags

/-! ### What an aborted operation leaves behind (R123) -/

/-- The version slot that an operation writes of one of its destinations. -/
def OpRec.writeVer (o : OpRec) (h : Nat) : Nat :=
  if o.updates h then o.newTag % 2
  else if dOp o.desc = 0x30 ∧ eVersioned (o.ent h) ∧ !eFrozen (o.ent h) then o.destVer else o.ver h

/-- Every byte of a place inside the device takes a free value. -/
def State.undefine (s : State) (p : Nat) (o : OpRec) (r : Place) : State :=
  if r.tier = 2 then s
  else
    let w := s.storeRun p o.inbuf r 0 ((List.range r.size).map (fun i => wPut (Config.undefinedByte s.draws i)))
    { w.1 with draws := w.1.draws + 1 }

/-- An operation that is aborted, reset or drained leaves its destinations undefined (R123). -/
def State.undefineDest (s : State) (p : Nat) (o : OpRec) : State :=
  ((dWrites o.desc).filter (fun h => o.names h && !(dOp o.desc = 0x40 && eFrozen (o.ent h)))).foldl (fun t h =>
    (t.undefine p o (o.dataAt h (o.writeVer h))).undefine p o (o.scalesAt h (o.writeVer h))) s

/-- The record says that the version with a tag is void (R150). -/
def VerRec.isVoid (r : VerRec) (tag : Nat) : Bool :=
  (decide (r.cur = tag) && r.void0) || (decide (r.cur = (tag + 1) % 65536) && r.void1)

/-- Version `tag` of handle h is void, by its record or beyond what the record keeps (R150). -/
def Prt.voidTag (v : Prt) (h tag : Nat) : Bool :=
  v.versions.any (fun r => decide (r.handle = h) && r.isVoid tag) || v.voids.contains (h, tag)

/-- A version the operation reads is void (R150). -/
def Prt.readsVoid (v : Prt) (o : OpRec) : Bool :=
  o.ents.any (fun x => eVersioned x.2 && !eFrozen x.2 && !idleHandle o.desc x.1
    && decide (x.1 ≠ dC o.desc ∨ dC o.desc = dA o.desc) && v.voidTag x.1 (dTag o.desc))

end Sys2Proof.Machine
end

