-- ==== Sys2Proof/Machine/Access.lean ====
section
/-! DEFINITION. Who may act through which function (R265-R269, R397), and the reads of the tensor table that acceptance,
windows and rings make (R89, R90, R276, R404). -/

namespace Sys2Proof.Machine

/-- A VF serves a BAR0 request: its partition is assigned to the port, its TDI is in RUN, and the request came on its
active stream with the T bit (R266, R268, R269). -/
def State.vfServed (s : State) (port : Bool) (p : Nat) (secured : Bool) : Bool :=
  (s.prt p).onPort port && decide ((s.prt p).state ≠ .unassigned) && decide ((s.hst port).tdi p = .run) && bitAt (s.hst port).ideActive p
    && secured

/-- What becomes of an access. -/
inductive Access where
  | serve | ignore | refuse (port : Bool) (fn : Nat)
deriving DecidableEq, Repr

/-- A VF request arrives only while the port's link is UP; an unserved one completes with Unsupported Request. -/
def State.vfAccess (s : State) (port : Bool) (part : Nat) (secured : Bool) (visible : Bool) : Access :=
  if (s.hst port).link ≠ .up then .ignore
  else if !s.vfServed port part secured then .refuse port (part + 1)
  else if visible then .serve else .ignore

/-- A write to a PRT or JNL page of partition p: the MGC, also where no partition has the index (R7, R289), and the
partition's VF; PF0 writes have no effect (R397). -/
def State.prtAccess (s : State) (via : Via) (p : Nat) : Access :=
  match via with
  | .mgc => if p < 8 then .serve else .ignore
  | .pf0 _ => .ignore
  | .vf port part secured => s.vfAccess port part secured (decide (part = p))

/-- Carry out an access. -/
def State.access (s : State) (a : Access) (f : State → State) : State :=
  match a with
  | .serve => f s
  | .ignore => s
  | .refuse port fn => s.emit (.unsupported port fn)

/-- A write to a page of partition p. -/
def State.viaPrt (s : State) (via : Via) (p : Nat) (f : State → State) : State := s.access (s.prtAccess via p) f

/-- A page of a block that a partition can own: its VF sees it while it owns it (Table 18.3); PF0 sees every page. -/
def State.pageAccess (s : State) (via : Via) (page : Nat) : Access :=
  match via with
  | .mgc => .serve
  | .pf0 port => if (s.hst port).link = .up then .serve else .ignore
  | .vf port part secured => s.vfAccess port part secured (decide (s.pageOwner page = some part))

/-- PF0 and the MGC alone. -/
def State.pf0Access (s : State) (via : Via) : Access :=
  match via with
  | .mgc => .serve
  | .pf0 port => if (s.hst port).link = .up then .serve else .ignore
  | .vf port part secured => s.vfAccess port part secured false

/-- The tenant that a handle is granted to (Table 13.2; Table 14.6: four bytes each from byte 560). -/
def Party.granted (q : Party) (handle tenant : Nat) : Bool :=
  (List.range 64).any (fun i => decide (fieldLe q.policy (560 + 4 * i) 2 = handle ∧ handle ≠ 0
    ∧ fieldLe q.policy (562 + 4 * i) 1 = tenant))

/-- Read tensor-table entry h of partition p (R89); none when the handle lies outside the table or its bytes read
poisoned. -/
def State.readEntry (s : State) (p h : Nat) : Option Entry × State :=
  let v := s.prt p
  let a := v.tt.addr.toNat
  if v.ttEntries ≤ h ∨ (s.partUnits p).length * groupSize < a + 64 * h + 64 then (none, s)
  else
    let r := s.loadRun p 0 [] ⟨1, a, v.ttKey.toNat, 0, 0, 2, 0⟩ (64 * h) 64
    (if anyBad r.1 then none else some (BitVec.ofNat 512 (leVal (plainBytes r.1))), r.2)

/-- A handle passes check 4 (Table 5.8): inside the table, well formed, owned by the context. -/
def State.checkHandle (s : State) (p h : Nat) : Option Entry × State :=
  let r := s.readEntry p h
  match r.1 with
  | none => (none, r.2)
  | some e =>
    if (s.prt p).wellFormed (s.coreCount p) (s.partUnits p).length e ∧ eOwner e = (s.prt p).ctxId p then (some e, r.2)
    else (none, r.2)

end Sys2Proof.Machine
end

