-- ==== Sys2Proof/Machine/Checks.lean ====
section
/-! DEFINITION. The acceptance checks 2 to 6 of Table 5.8: fields and codes (R91, R96), formats, shapes, tiers and flags
(Tables 5.3, 5.9, 5.10 and the rules that name check 5), overlaps (R103), versions (R146, R148, R151), and key slots. -/

namespace Sys2Proof.Machine

/-! ### Check 2 -/

/-- SUBOP codes that exist (Tables 5.9, 5.11 and the opcodes' rules). -/
def subopDefined (op sub : Nat) : Bool :=
  if op = 0x10 then decide (sub < 0x0E ∨ (0x10 ≤ sub ∧ sub < 0x14) ∨ sub = 0xF0)
  else if op = 0x14 ∨ op = 0x15 then decide (sub < 3)
  else if op = 0x20 then decide (sub < 4)
  else if op = 0x50 then decide (sub < 5)
  else if op = 0x02 ∨ op = 0x40 ∨ op = 0x42 ∨ op = 0x60 then decide (sub < 2)
  else if op = 1 ∨ (0x11 ≤ op ∧ op ≤ 0x13) ∨ op = 0x21 ∨ (0x30 ≤ op ∧ op ≤ 0x32) ∨ op = 0x41 then decide (sub = 0)
  else false

/-- PARAM bytes that an opcode assigns: offset and length (Table 5.10, Table 8.11). -/
def paramFields (op sub : Nat) : List (Nat × Nat) :=
  if op = 1 ∨ op = 2 ∨ op = 0x15 ∨ op = 0x31 then [(32, 4)]
  else if op = 0x10 then [(32, 5), (40, 48)]
  else if op = 0x12 then [(32, 5)]
  else if op = 0x13 then [(32, 12)]
  else if op = 0x14 then [(32, 2)]
  else if op = 0x20 then [(32, 3), (104, 8)]
  else if op = 0x21 then [(32, 2), (104, 8)]
  else if op = 0x32 then [(32, 4), (48, 8)]
  else if op = 0x40 then (if sub = 1 then [(32, 1), (34, 30), (104, 8)] else [(32, 1), (34, 20), (104, 8)])
  else if op = 0x42 then [(104, 8)]
  else if op = 0x50 then [(32, 1), (104, 8)]
  else []

/-- Byte offsets of the handle fields that an opcode uses (Table 5.9, R98, R99, R153). -/
def handleFields (op : Nat) : List Nat :=
  if op = 1 then [8, 10, 12, 14, 16, 18]
  else if op = 2 then [8, 10, 12, 16, 18]
  else if op = 0x10 ∨ op = 0x12 then [8, 10, 12, 14, 16]
  else if op = 0x11 then [8, 10, 12, 16]
  else if op = 0x13 then [8, 10, 12]
  else if op = 0x14 ∨ op = 0x20 ∨ (0x30 ≤ op ∧ op ≤ 0x32) ∨ op = 0x42 then [8, 12]
  else if op = 0x15 ∨ op = 0x50 then [12]
  else if op = 0x40 then [8, 10, 14, 16]
  else if op = 0x41 then [8]
  else []

/-- FLAGS bits that an opcode uses (Table 5.6, R106, R107, R109, R110). -/
def flagBits (op : Nat) : BitVec 16 :=
  if op = 1 then 0x3F#16 else if op = 2 then 0x23#16 else if op = 0x10 ∨ op = 0x11 ∨ op = 0x12 then 0x30#16 else 0x20#16

/-- Bytes of the descriptor that no field owns are 0 (R91). -/
def reservedBytesZero (d : Desc) : Bool :=
  let ps := paramFields (dOp d) (dSub d)
  (List.range 128).all (fun i =>
    decide (i < 28 ∨ (112 ≤ i ∧ i < 120)) || ps.any (fun r => decide (r.1 ≤ i ∧ i < r.1 + r.2)) || decide (dField d i 1 = 0))

/-- The reserved bits of the two-byte fields are 0 (Tables 5.5 to 5.7); ANCHOR_MODE 3 is reserved for MATMUL, and no other
opcode reads the field (R96, R97). -/
def reservedBitsZero (d : Desc) : Bool :=
  decide (BitVec.ofNat 16 (dField d 2 2) &&& ~~~(flagBits (dOp d)) = 0#16)
    && decide (dField d 20 2 / 4096 = 0 ∧ (dOp d = 0x01 → dMode d ≠ 3))
    && decide (dField d 24 2 / 4096 % 8 = 0)
    && decide (dField d 26 2 / 128 % 2 = 0 ∧ dField d 26 2 / 512 = 0)

/-- The SUBOP of a VEC built-in uses source 2, source 3 (Table 5.11) or row statistics (R140). -/
def vecUsesB (sub : Nat) : Bool := [0x01, 0x02, 0x03, 0x04, 0x05, 0x06, 0xF0].contains sub
/-- H_D of a VEC: source 3 of FMA, the row statistics of NORM, an operand of a program. -/
def vecUsesD (sub : Nat) : Bool := [0x04, 0x11, 0xF0].contains sub

/-- Handle fields that the operation does not use are 0x0000 (R96; for VEC as its SUBOP says: log 45). DESIGN CHOICE (log
55): a HIST_READ whose BASE has a bit above [9:0] set fails here, with every SUBOP; Table 5.10 gives only [9:0]. -/
def unusedHandlesZero (d : Desc) : Bool :=
  [8, 10, 12, 14, 16, 18].all (fun k => (handleFields (dOp d)).contains k || decide (dField d k 2 = 0))
    && (decide (dOp d ≠ 0x10) || ((vecUsesB (dSub d) || decide (dB d = 0)) && (vecUsesD (dSub d) || decide (dD d = 0))))
    && (decide (dOp d ≠ 0x10 ∨ dSub d = 0xF0) || decide (dField d 40 16 = 0))
    && (decide (dOp d ≠ 0x14) || decide (dField d 32 2 < 1024))

/-- Check 2 (Table 5.8). -/
def checkCodes (d : Desc) : Bool :=
  subopDefined (dOp d) (dSub d) && reservedBytesZero d && reservedBitsZero d && unusedHandlesZero d

/-! ### What a descriptor reads and writes -/

/-- A byte run in a tier. -/
structure MemRun where
  tier : Nat
  addr : Nat
  size : Nat
deriving DecidableEq, Repr

/-- Two runs of a partition share a byte (R103). -/
def MemRun.meets (cores : Nat) (x y : MemRun) : Bool :=
  decide (x.tier = y.tier) && runsMeet cores x.tier x.addr x.size y.addr y.size

/-- The runs of one version slot of a tensor: data, then scales or tile records. -/
def slotRuns (e : Entry) (ver : Nat) : List MemRun :=
  let d := dataPlace 0 e ver 0
  let c := scalePlace 0 e ver 0
  [⟨d.tier, d.addr, d.size⟩, ⟨c.tier, c.addr, c.size⟩]

/-- The tensor keeps a version record (R145, R152). -/
def eVersions (e : Entry) : Bool := eVersioned e && !eFrozen e

/-- The runs that a descriptor reads of a tensor (R144, R152). -/
def readRuns (d : Desc) (e : Entry) : List MemRun := slotRuns e (if eVersions e then dTag d % 2 else 0)

/-- The runs that it may write: one version slot for UPDATE's weights, both slots otherwise (R148, R151). -/
def writeRuns (d : Desc) (h : Nat) (e : Entry) : List MemRun :=
  if eVersions e then
    (if dOp d = 0x40 ∧ dA d = h then slotRuns e (dField d 52 2 % 2) else slotRuns e 0 ++ slotRuns e 1)
  else slotRuns e 0

/-- The entry behind a handle among those acceptance has read. -/
def entOf (ents : List (Nat × Entry)) (h : Nat) : Option Entry :=
  if h = 0 then none else (ents.find? (fun x => x.1 = h)).map (·.2)

/-- The operation is a RESTORE. -/
def isRestore (d : Desc) : Bool := decide (dOp d = 0x50 ∧ 3 ≤ dSub d)

/-- The runs an accepted operation writes. -/
def OpRec.writes (o : OpRec) : List MemRun := (dWrites o.desc).flatMap (fun h => writeRuns o.desc h (o.ent h))

/-- All the runs that it reads or writes. -/
def OpRec.runs (o : OpRec) : List MemRun :=
  (o.ents.filter (fun x => !idleHandle o.desc x.1)).flatMap (fun x => readRuns o.desc x.2) ++ o.writes

/-- An earlier operation that has not completed writes into a tensor (R98). -/
def Prt.writtenEarlier (v : Prt) (cores : Nat) (d : Desc) (e : Entry) : Bool :=
  v.ops.any (fun a => a.writes.any (fun w => (readRuns d e).any (fun r => r.meets cores w)))

/-- A destination w may stand in source role i (R103): H_A of VEC built-ins and of REDUCE; UPDATE's weights and its state,
each in its own role. -/
def mayStand (d : Desc) (w i : Nat) : Bool :=
  if dOp d = 0x40 then (decide (i = 0) && decide (w = dA d)) || (decide (i = 2) && decide (w = dD d))
  else decide (i = 0) && decide (dOp d = 0x13 ∨ (dOp d = 0x10 ∧ dSub d ≠ 0xF0))

/-- No destination overlaps a source (R103), role by role; the adapters `extra` are sources too. -/
def noOverlap (cores : Nat) (d : Desc) (ents extra : List (Nat × Entry)) : Bool :=
  (dWrites d).all (fun w => match entOf ents w with
    | none => true
    | some ew =>
      let apart (e : Entry) : Bool := (writeRuns d w ew).all (fun x => (readRuns d e).all (fun y => !(x.meets cores y)))
      (List.range (dRoles d).length).all (fun i =>
        let r := (dRoles d).getD i 0
        (decide (r = w) && mayStand d w i) || (match entOf ents r with | some e => apart e | none => true))
      && extra.all (fun x => apart x.2))

/-- No written run covers the table entry of a granted handle (R296). -/
def grantsSafe (v : Prt) (d : Desc) (ents : List (Nat × Entry)) : Bool :=
  match v.party with
  | none => true
  | some q =>
    (List.range 64).all (fun i =>
      let h := fieldLe q.policy (560 + 4 * i) 2
      decide (h = 0) || (dWrites d).all (fun w => match entOf ents w with
        | none => true
        | some e => (writeRuns d w e).all (fun x => !(x.meets 0 ⟨1, v.tt.addr.toNat + 64 * h, 64⟩))))

/-- A scratchpad tile whose bytes lie in two cores (R131). -/
def splitsCore (e : Entry) : Bool :=
  decide (eTier e = 3) && (List.range (eTiles e)).any (fun t =>
    let r : Nat × Nat :=
      if eFmt e = .wp72 then (49152 * t, 49152 * t + 49151)
      else
        let b := eTileBox e t
        let first := b.1 + eDim e 0 * b.2.1
        let last := b.1 + b.2.2.1 - 1 + eDim e 0 * (b.2.1 + b.2.2.2 - 1)
        (first * (eFmt e).bits / 8, (last * (eFmt e).bits + (eFmt e).bits - 1) / 8)
    decide ((eAddr e + r.1) / spdSize ≠ (eAddr e + r.2) / spdSize))

/-- An opcode may write a format (Table 5.3). BELAY's targets and UPDATE's state have rules of their own. -/
def mayWrite (op : Nat) (f : Fmt) : Bool :=
  match f with
  | .raw => [0x02, 0x14, 0x15, 0x42, 0x30, 0x50, 0x40].contains op
  | .wp72 => [0x01, 0x13, 0x20, 0x30].contains op
  | _ => !([0x02, 0x42].contains op)

/-! ### Check 5, opcode by opcode -/

/-- M, K of op(X) (R106). -/
def shapeX (d : Desc) (x : Entry) : Nat × Nat := if dTransA d then (eDim x 0, eDim x 1) else (eDim x 1, eDim x 0)
/-- K, N of op(W). -/
def shapeW (d : Desc) (w : Entry) : Nat × Nat := if dTransB d then (eDim w 0, eDim w 1) else (eDim w 1, eDim w 0)

/-- Rows of the operation's destination (R92, R98): the described product's for ANCHOR_SCAN, the weights' for UPDATE. -/
def destRows (d : Desc) (ents : List (Nat × Entry)) : Nat :=
  if dOp d = 1 ∨ dOp d = 2 then
    (match entOf ents (dA d) with | some x => (shapeX d x).1 * eDim x 2 * eDim x 3 | none => 0)
  else if dOp d = 0x40 then (match entOf ents (dA d) with | some e => eRows e | none => 0)
  else match entOf ents (dC d) with | some e => eRows e | none => 0

/-- A RAW tensor of at least n bytes. -/
def rawOf (e : Option Entry) (n : Nat) : Bool :=
  match e with | some e => decide (eFmt e = .raw ∧ n ≤ eCount e) | none => false

/-- A tensor with the extents, FORMAT, SCALED and SCALE_AXIS of another (R115, R155). -/
def sameForm (a b : Entry) : Bool :=
  decide (eFmt a = eFmt b ∧ eDims a = eDims b ∧ eScaled a = eScaled b ∧ eAxis a = eAxis b)

/-- The mask fits (R98) and, without MASK_ZERO, keeps the blocks of a destination with a row-wise scale axis whole (R88). -/
def maskFits (d : Desc) (ents : List (Nat × Entry)) (y : Option Entry) (mask : List (Option Byte)) : Bool :=
  if dMask d = 0 then true
  else
    let rows := destRows d ents
    rawOf (entOf ents (dMask d)) (ceilDiv rows 8) &&
    match y with
    | none => true
    | some e =>
      if dMaskZero d || !eScaled e || eAxis e = 0 then true
      else
        let bit (ρ : Nat) : Bool := match mask.getD (ρ / 8) none with | some b => bitAt b (ρ % 8) | none => false
        let block (ρ : Nat) : Nat := eScaleIndex e (ρ * eDim e 0)
        let ends := (List.range rows).map (fun ρ => (block ρ, bit ρ))
        ends.all (fun x => ends.all (fun y => decide (x.1 ≠ y.1) || x.2 == y.2))

/-- What MATMUL and ANCHOR_SCAN share (R99, R106). DESIGN CHOICE (log 55): a variant table that is not RAW, or is shorter
than the 65,536 bytes of R95, fails check 5; a longer one serves. -/
def fitsProduct (d : Desc) (ents : List (Nat × Entry)) : Bool :=
  match entOf ents (dA d), entOf ents (dB d) with
  | some x, some w =>
    (eFmt x).isLg && (eFmt w).isLg
      && decide ((shapeX d x).2 = (shapeW d w).1)
      && decide ((eDim w 2 = eDim x 2 ∧ eDim w 3 = eDim x 3) ∨ (eDim w 2 = 1 ∧ eDim w 3 = 1))
      && (decide (dVar d = 0) ||
        (rawOf (entOf ents (dVar d)) (2 * ceilDiv (destRows d ents) 16) && rawOf (entOf ents 1) 65536))
  | _, _ => false

/-- MATMUL (R83, R97, R106). -/
def fitsMatmul (d : Desc) (ents : List (Nat × Entry)) : Bool :=
  fitsProduct d ents &&
  match entOf ents (dA d), entOf ents (dB d), entOf ents (dC d) with
  | some x, some w, some y =>
    decide (eFmt y ≠ .raw ∧ eDim y 0 = (shapeW d w).2 ∧ eDim y 1 = (shapeX d x).1 ∧ eDim y 2 = eDim x 2 ∧ eDim y 3 = eDim x 3)
      && (!dAccum d || decide (eFmt y = .wp72))
      && (decide (dMode d ≠ 0) || decide (dAnchor d = 0))
      && (if dMode d = 2 then decide (dField d 32 4 % 4 = 0) && rawOf (entOf ents (dD d)) (dField d 32 4 + 4) else decide (dD d = 0))
  | _, _, _ => false

/-- ANCHOR_SCAN (R107). -/
def fitsScan (d : Desc) (ents : List (Nat × Entry)) : Bool :=
  fitsProduct d ents && decide (dField d 32 4 % 4 = 0) && rawOf (entOf ents (dC d)) (dField d 32 4 + 4)

/-- Sources of a VEC built-in: the handles SUBOP selects (Table 5.11). -/
def vecSources (d : Desc) : List Nat :=
  if [0x01, 0x02, 0x03, 0x05, 0x06].contains (dSub d) then [dA d, dB d]
  else if dSub d = 0x04 then [dA d, dB d, dD d] else [dA d]

/-- A source fits a VEC destination (R109): WP72 only where allowed; RAW as a bit mask; else equal or broadcast extents,
of which DIM0 is free for a row reduction. -/
def vecSourceFits (y e : Entry) (wp row : Bool) : Bool :=
  if eFmt e = .raw then decide (ceilDiv (eCount y) 8 ≤ eCount e)
  else (wp || decide (eFmt e ≠ .wp72)) &&
    [0, 1, 2, 3].all (fun k => (row && decide (k = 0)) || decide (eDim e k = 1 ∨ eDim e k = eDim y k))

/-- NORM's and NORM_BWD's row statistics (R140): FP32, one or two words a row. -/
def statsFit (d : Desc) (ents : List (Nat × Entry)) (y : Entry) : Bool :=
  match entOf ents (dD d) with
  | none => false
  | some e => decide (eFmt e = .fp32 ∧ eRows y * (1 + dField d 36 1) ≤ eCount e)

/-- An instruction of a vector program (Table 6.3). -/
def progWord (prog : List (Option Byte)) (i : Nat) : BitVec 64 := BitVec.ofNat 64 (fieldLe (plainBytes prog) (8 * i) 8)

/-- Instructions of a vector program up to and with END, at most 64 (R129). -/
def progLength (prog : List (Option Byte)) : Nat :=
  let n := min 64 (prog.length / 8)
  match (List.range n).find? (fun i => bitsAt (progWord prog i) 0 8 = 0xFF#8) with | some i => i + 1 | none => n

/-- Operand o of a vector program (R129). -/
def progHandle (d : Desc) (o : Nat) : Nat :=
  match o with | 0 => dA d | 1 => dB d | 2 => dD d | n => if n < 10 then dField d (42 + 2 * (n - 3)) 2 else 0

/-- A vector program is acceptable (R129). DESIGN CHOICE (log 55): SPLAT with a scalar index above 7 is rejected; the
reserved bits of an instruction are ignored. -/
def progFits (d : Desc) (ents : List (Nat × Entry)) (y : Entry) (prog : List (Option Byte)) : Bool :=
  decide (8 ≤ prog.length) && !anyBad prog && (List.range (progLength prog)).all (fun i =>
    let w := progWord prog i
    let op := (bitsAt w 0 8).toNat
    let imm := (bitsAt w 32 8).toNat
    if op = 0x20 then
      (match entOf ents (progHandle d imm) with | some e => vecSourceFits y e false false | none => false)
    else if op = 0x22 then decide (imm < 8)
    else decide (op < 0x0E ∨ op = 0x21 ∨ op = 0x23 ∨ op = 0x24 ∨ op = 0xFF))

/-- VEC (R38, R109, R128, R129); a program that acceptance has not read is not judged. -/
def fitsVec (d : Desc) (ents : List (Nat × Entry)) (prog : Option (List (Option Byte))) : Bool :=
  match entOf ents (dC d) with
  | none => false
  | some y =>
    decide (eFmt y ≠ .wp72 ∧ eFmt y ≠ .raw) &&
    (if dSub d = 0xF0 then rawOf (entOf ents (dField d 40 2)) 1 && prog.all (progFits d ents y)
     else
       let row := dSub d = 0x12 ∨ dSub d = 0x13
       let used := vecSources d ++ (if dSub d = 0x11 then [dD d] else [])
       [dB d, dD d].all (fun h => used.contains h || decide (h = 0))
         && (vecSources d).all (fun h => match entOf ents h with
           | some e => vecSourceFits y e (decide (dSub d = 0)) (decide row) | none => false)
         && (!decide row || decide (eDim y 0 = 1))
         && (decide (dSub d ≠ 8) || decide (-255 ≤ signedNat 32 (dField d 32 4) ∧ signedNat 32 (dField d 32 4) ≤ 255))
         && (decide (dSub d ≠ 0x11) || (decide (dField d 36 1 ≤ 1) && (decide (dD d = 0) || statsFit d ents y))))

/-- SOFTMAX_BWD and NORM_BWD (R110, R140). -/
def fitsBwd (d : Desc) (ents : List (Nat × Entry)) : Bool :=
  match entOf ents (dC d), entOf ents (dA d), entOf ents (dB d) with
  | some y, some a, some b =>
    [y, a, b].all (fun e => decide (eFmt e ≠ .wp72 ∧ eFmt e ≠ .raw ∧ eDims e = eDims y))
      && (decide (dOp d = 0x11) ||
        (decide (dField d 36 1 ≤ 1) && statsFit d ents y
          && (decide (dField d 32 2 = 0) || (match entOf ents (dField d 32 2) with
            | some g => decide (eFmt g ≠ .wp72 ∧ eFmt g ≠ .raw ∧ eCount g = eDim y 0) | none => false))
          && (decide (dField d 34 2 = 0) || (match entOf ents (dField d 34 2) with
            | some g => decide (eFmt g = .fp32 ∧ eCount g = eDim y 0) | none => false))))
  | _, _, _ => false

/-- REDUCE (R108). -/
def fitsReduce (d : Desc) (ents : List (Nat × Entry)) : Bool :=
  match entOf ents (dC d) with
  | none => false
  | some y => decide (eFmt y ≠ .raw) && (reduceSources d).all (fun h => match entOf ents h with
      | some e => decide (eFmt e = .wp72 ∧ eDims e = eDims y) | none => false)

/-- HIST_READ (R111). -/
def fitsHist (d : Desc) (ents : List (Nat × Entry)) : Bool :=
  (match entOf ents (dA d) with | some e => eHistEn e | none => false)
    && (if dSub d = 2 then decide (dC d = 0) else rawOf (entOf ents (dC d)) 288)

/-- Words of the stream that RNG_FILL uses (R112). -/
def rngWords (d : Desc) (y : Entry) : Nat :=
  match dSub d with | 0 => ceilDiv (eDataBytes y) 4 | 1 => eCount y | _ => 8 * eDataBytes y

/-- RNG_FILL (R112, R159). -/
def fitsRng (v : Prt) (d : Desc) (ents : List (Nat × Entry)) : Bool :=
  match entOf ents (dC d) with
  | none => false
  | some y =>
    dRngEn d && decide (eFmt y = if dSub d = 1 then .fp32 else .raw)
      && (decide (dSub d ≠ 2) || decide (dFp d 32 = 0x80000000#32 ∨ (dFp d 32).toNat ≤ 0x3F800000))
      && decide (Sparse.get 0 v.streams (dStream d) + ceilDiv (rngWords d y) 4 < 2 ^ 64)

/-- COLLECTIVE (R113, R255). DESIGN CHOICE (log 55): a BROADCAST whose ROOT is no member of GROUP fails check 5. -/
def fitsColl (pos : Nat) (v : Prt) (d : Desc) (ents : List (Nat × Entry)) : Bool :=
  (dMembers d).contains pos && (decide (dSub d ≠ 3) || (dMembers d).contains (dField d 34 1)) &&
  match entOf ents (dA d), entOf ents (dC d) with
  | some a, some c =>
    decide (eFmt c ≠ .raw) && decide (eDataBytes c + eScaleBytes c ≤ 4096 * v.stagePages) &&
    (if dSub d < 2 then decide (eFmt a = .wp72 ∧ eDims c = eDims a)
     else
       let n := if dSub d = 2 then (dMembers d).length else 1
       decide (eFmt c = eFmt a ∧ eScaled c = eScaled a ∧ eAxis c = eAxis a
         ∧ eDims c = [eDim a 0, n * eDim a 1, eDim a 2, eDim a 3])
         && (decide (dSub d ≠ 2) || ((decide (eFmt a ≠ .wp72) || decide (eDim a 1 % 64 = 0))
           && (!(eScaled a && eAxis a = 1) || decide (eDim a 1 % 32 = 0)))))
  | _, _ => false

/-- MOVE (R115, R151). -/
def fitsMove (v : Prt) (d : Desc) (ents : List (Nat × Entry)) : Bool :=
  match entOf ents (dA d), entOf ents (dC d) with
  | some a, some c =>
    sameForm a c &&
    (!eVersions c ||
      ((match v.versions.find? (fun r => r.handle = dC d) with
        | some r => decide (r.ref0 = 0 ∧ r.ref1 = 0 ∧ r.ref2 = 0) | none => true)
        && !(v.ops.any (fun a => a.updates (dC d)))))
  | _, _ => false

/-- OFFLOAD and PREFETCH (R116, R155). -/
def fitsOffload (d : Desc) (ents : List (Nat × Entry)) : Bool :=
  match entOf ents (dA d), entOf ents (dC d) with
  | some a, some c => sameForm a c && decide (eTier (if dOp d = 0x31 then c else a) = 2) && decide (dField d 32 4 < 1024)
  | _, _ => false

/-- Table 8.2's alignment and axis rules of a scaled tensor. -/
def chunkAligned (e : Entry) : Bool :=
  decide (eAddr e % 128 = 0 ∧ eScaleAddr e % 128 = 0 ∧ eAxis e = 0 ∧ eDim e 0 % 32 = 0)

/-- A word of a sequencer program (Table 8.7). -/
def seqWord (prog : List (Option Byte)) (i : Nat) : BitVec 32 := BitVec.ofNat 32 (fieldLe (plainBytes prog) (4 * i) 4)

/-- Steps before END; none when no END stands within 32 steps (R177). -/
def seqLength (prog : List (Option Byte)) : Option Nat :=
  (List.range (min 32 (prog.length / 4))).find? (fun i => bitsAt (seqWord prog i) 0 4 = 0xF#4)

/-- One step uses no reserved OP, field or index (R177, Tables 8.7 and 8.8). -/
def seqStepOk (w : BitVec 32) (state : Bool) : Bool :=
  let op := (bitsAt w 0 4).toNat
  let imm := (bitsAt w 16 8).toNat
  decide (bitsAt w 24 8 = 0#8) &&
  (if op = 0 then decide (imm = 0 ∨ imm = 1 ∨ (imm = 2 ∧ state) ∨ (8 ≤ imm ∧ imm ≤ 13))
   else if op = 1 then decide (imm = 0 ∨ imm = 2)
   else if op = 10 then decide (imm ≠ 128)
   else decide (op < 12))

/-- A sequencer program is well formed (R177), its END word included, and loads the state only if there is one (Table 8.2).
-/
def seqFits (prog : List (Option Byte)) (state : Bool) : Bool :=
  !anyBad prog &&
  match seqLength prog with
  | none => false
  | some n =>
    let ws := (List.range n).map (seqWord prog)
    let stores (k : Nat) : Nat := (ws.filter (fun w => bitsAt w 0 4 = 1#4 ∧ (bitsAt w 16 8).toNat = k)).length
    ws.all (seqStepOk · state) && decide (bitsAt (seqWord prog n) 24 8 = 0#8) && decide (stores 0 = 1 ∧ stores 2 = if state then 1 else 0)

/-- The header of a party image is well formed (R170, Table 8.3). -/
def imageFormed (img : List Byte) (room : Nat) : Bool :=
  let size := fieldLe img 0 4
  let entry := fieldLe img 4 4
  let text := fieldLe img 8 4
  let data := fieldLe img 12 4
  decide (32 ≤ size ∧ size ≤ 2 ^ 20 ∧ size ≤ room ∧ fieldLe img 16 16 = 0 ∧ entry % 2 = 0 ∧ 32 ≤ entry ∧ entry < 32 + text
    ∧ 32 + text ≤ size ∧ (data = 0 ∨ ceilDiv (32 + text) 4096 * 4096 + data ≤ size))

/-- The digest of an image is among those the policy permits (R171). -/
def imagePermitted (q : Party) (img : List Byte) : Bool :=
  let g := sm3 img
  (List.range (fieldLe q.policy 8 1)).any (fun i => sliceBytes q.policy (816 + 32 * i) 32 = g)

/-- The image bytes that IMG_SIZE covers. -/
def imageBytes (prog : List (Option Byte)) : List Byte := (plainBytes prog).take (fieldLe (plainBytes prog) 0 4)

/-- UPDATE (R118, R167, R171, R177, R178, R148); a program or image that acceptance has not read is not judged. -/
def fitsUpdate (s : State) (p : Nat) (d : Desc) (ents : List (Nat × Entry)) (prog : Option (List (Option Byte))) : Bool :=
  let v := s.prt p
  let dies := s.partUnits p
  match entOf ents (dA d), entOf ents (dB d) with
  | some a, some b =>
    eVersioned a && [Fmt.lg8, .lg16, .fp32, .bf16].contains (eFmt a)
      && decide (eAddr a % 128 = 0 ∧ eAlt a % 128 = 0 ∧ eScaleAddr a % 128 = 0)
      && (!eScaled a || decide (eAxis a = 0 ∧ eDim a 0 % 32 = 0))
      && decide (eFmt b ≠ .raw ∧ eDims b = eDims a)
      && (eFrozen a || (match v.versions.find? (fun r => r.handle = dA d) with
          | some r => decide (dTag d = r.cur) | none => true) && decide (dField d 52 2 = (dTag d + 1) % 65536))
      && (if dSub d = 1 then
            let m := eDim a 1
            let n := eDim a 0
            decide (eRank a = 1 ∧ m ≤ 1024 ∧ n ≤ 1024) && decide (dField d 34 2 = 0)
              && [(54, m), (56, n)].all (fun x => match entOf ents (dField d x.1 2) with
                | some e => decide (eFmt e = .wp72 ∧ eTier e = 1 ∧ eDims e = [x.2, x.2, 1, 1]) | none => false)
              && (match entOf ents (dD d) with
                | some e => decide (eFmt e = .raw ∧ eTier e = 1 ∧ 64 + 4 * (m * m + n * n) ≤ eCount e) | none => false)
              && decide (1 ≤ dField d 58 2 ∧ dField d 58 2 ≤ 1024)
              && dies.all (fun k => (s.upd k).coresInService)
          else
            (decide (dD d = 0) || (match entOf ents (dD d) with
              | some e => decide (eTier e = 1 ∧ eDims e = eDims a) && !eVersioned e && [Fmt.fp32, .bf16, .lg16].contains (eFmt e)
                  && (!eScaled e || chunkAligned e)
              | none => false))
            && (if dField d 32 1 = 0 then
                  dies.all (fun k => (s.upd k).codePermit && (s.upd k).coresInService)
                    && rawOf (entOf ents (dField d 34 2)) 32 && prog.all (fun img =>
                      !anyBad (img.take (fieldLe (plainBytes img) 0 4)) && imageFormed (plainBytes img) img.length
                        && (match v.party with | some q => imagePermitted q (imageBytes img) | none => false))
                else decide (dField d 32 1 = 1) && rawOf (entOf ents (dField d 34 2)) 4
                  && prog.all (fun b => seqFits b (decide (dD d ≠ 0)))))
  | _, _ => false

/-- The reference count that a version record keeps for a tag (R147); none when it keeps no such version. -/
def VerRec.count? (r : VerRec) (tag : Nat) : Option Nat :=
  if tag = r.cur then some r.ref0
  else if (tag + 1) % 65536 = r.cur then (if r.prevValid then some r.ref1 else none)
  else if (tag + 2) % 65536 = r.cur then some r.ref2
  else none

/-- A version may be read (R146). -/
def VerRec.readable (r : VerRec) (tag : Nat) : Bool :=
  decide (tag = r.cur) || (decide ((tag + 1) % 65536 = r.cur) && r.prevValid)
    || (decide ((tag + 2) % 65536 = r.cur) && decide (0 < r.ref2))

/-- VERSION_RELEASE (R119). -/
def fitsRelease (v : Prt) (d : Desc) (ents : List (Nat × Entry)) : Bool :=
  match entOf ents (dA d) with
  | none => false
  | some e => eVersions e && (match v.versions.find? (fun r => r.handle = dA d) with
      | some r => (match r.count? (dTag d) with | some n => decide (0 < n) | none => false) | none => false)

/-- DIGEST (R120, R184, Table 15.4). -/
def fitsDigest (v : Prt) (d : Desc) (ents : List (Nat × Entry)) : Bool :=
  if dSub d = 0 then rawOf (entOf ents (dC d)) 8 && (entOf ents (dA d)).isSome
  else rawOf (entOf ents (dC d)) 160 && v.digests.any (fun r => r.step = dStep d)

/-- BELAY (R121, R371). -/
def fitsBelay (d : Desc) (ents : List (Nat × Entry)) : Bool :=
  let tier (k : Nat) : Bool := match entOf ents (dC d) with | some e => decide (eFmt e = .raw ∧ eTier e = k) | none => false
  match dSub d with
  | 0 => tier 1
  | 2 => tier 2
  | 3 => rawOf (entOf ents (dC d)) 0
  | _ => decide (dC d = 0)

/-- The opcode's own conditions. -/
def fitsOpcode (s : State) (p : Nat) (d : Desc) (ents : List (Nat × Entry)) (prog : Option (List (Option Byte))) : Bool :=
  let v := s.prt p
  match dOp d with
  | 0x01 => fitsMatmul d ents
  | 0x02 => fitsScan d ents
  | 0x10 => fitsVec d ents prog
  | 0x11 => fitsBwd d ents
  | 0x12 => fitsBwd d ents
  | 0x13 => fitsReduce d ents
  | 0x14 => fitsHist d ents
  | 0x15 => fitsRng v d ents
  | 0x20 => fitsColl s.dev.ropePos.toNat v d ents
  | 0x21 => (dMembers d).contains s.dev.ropePos.toNat
  | 0x30 => fitsMove v d ents
  | 0x31 => fitsOffload d ents
  | 0x32 => fitsOffload d ents
  | 0x40 => fitsUpdate s p d ents prog
  | 0x41 => fitsRelease v d ents
  | 0x42 => fitsDigest v d ents
  | 0x50 => fitsBelay d ents
  | _ => true

/-- Every version that the descriptor reads may be read (R146), and no 8,193rd record is made (R145). -/
def versionsFit (v : Prt) (d : Desc) (ents extra : List (Nat × Entry)) : Bool :=
  let reads := (dReads d).filter (fun h => !(dOp d = 0x40 && dA d = h))
  let all := ents ++ extra
  all.all (fun x => !(eVersions x.2 && (reads.contains x.1 || extra.any (fun y => y.1 = x.1))) ||
      (match v.versions.find? (fun r => r.handle = x.1) with | some r => r.readable (dTag d) | none => true))
    && decide (v.versions.length
      + (((all.filter (fun x => eVersions x.2 && !(v.versions.any (fun r => r.handle = x.1)))).map (·.1)).eraseDups).length ≤ 8192)

/-- The tenant of the key that a host-tier tensor's KEY_ID names, if it is a tenant key (R295, R327). -/
def State.hostTenant (s : State) (e : Entry) : Option Nat :=
  let k := (s.mce (mceOfPort (decide (eAddr e / 2 ^ 63 = 1)))).slot (eKey e)
  if k.loaded && decide (k.handle / 4096 % 2 = 0) then some (k.handle / 256 % 16) else none

/-- What leaves for the host tier (R295): OFFLOAD and BELAY seal it for the device; MOVE in the exchange form to a tenant to
whom its source is granted; no other operation may write there. -/
def State.releaseOk (s : State) (p : Nat) (d : Desc) (ents : List (Nat × Entry)) : Bool :=
  if dOp d = 0x31 ∨ dOp d = 0x50 then true
  else (dWrites d).all (fun w => match entOf ents w with
    | none => true
    | some e =>
      if eTier e ≠ 2 then true
      else decide (dOp d = 0x30) && (match s.hostTenant e, (s.prt p).party with
        | some t, some q => q.granted (dA d) t
        | _, _ => false))

/-- Check 5 (Table 5.8). `extra` are the adapters that H_VAR's variants name; with no mask and no program read, the part of
it that no content decides. -/
def State.checkFit (s : State) (p : Nat) (d : Desc) (ents extra : List (Nat × Entry)) (mask : List (Option Byte))
    (prog : Option (List (Option Byte))) : Bool :=
  let v := s.prt p
  (!dRngEn d || decide (dOp d = 0x15))
    && ents.all (fun x => !splitsCore x.2)
    && (dWrites d).all (fun h => match entOf ents h with | some e => mayWrite (dOp d) (eFmt e) | none => true)
    && fitsOpcode s p d ents prog
    && (decide (dMask d = 0) || maskFits d ents (if dOp d = 2 ∨ dOp d = 0x40 then none else entOf ents (dC d)) mask)
    && noOverlap (s.coreCount p) d ents extra
    && grantsSafe v d ents
    && versionsFit v d ents extra
    && s.releaseOk p d ents

/-- Check 6 (Table 5.8, R205, R225): the slot of every basin or host-tier entry is ACTIVE or DRAINING, in every MCE. -/
def State.keysUsable (s : State) (p : Nat) (ents : List (Nat × Entry)) : Bool :=
  ents.all (fun x =>
    if eTier x.2 = 1 then (s.partUnits p).all (fun u => (s.mce u).usable (eKey x.2))
    else if eTier x.2 = 2 then
      decide (eKey x.2 / 8 = p) && (s.mce (mceOfPort (decide (eAddr x.2 / 2 ^ 63 = 1)))).usable (eKey x.2)
    else true)

end Sys2Proof.Machine
end

