-- ==== Sys2Proof/Machine/HostReads.lean ====
section
/-! DEFINITION. Reads of host-tier lines: which lines are asked for, with which PCIe tag, and how a line that returns is
verified (R204, R230-R234, Table 12.1). -/

namespace Sys2Proof.Machine

/-- Tags of a port that its outstanding reads hold (Table 12.1). -/
def portTags : Nat := 768

/-- A free tag of a port. -/
def State.freeTag (s : State) (port : Bool) : Option Nat :=
  (List.range portTags).find? (fun t => !((s.hst port).reads.any (fun r => r.tag = t)))

/-- The port that a host-tier address names (R202). -/
def hostPort (a : Nat) : Bool := decide (a / 2 ^ 63 = 1)

/-- The address and the size in bytes of the data or the scales of a host-tier tensor. -/
def hostSide (e : Entry) (partNo : Nat) : Nat × Nat :=
  if partNo = 0 then (eAddr e, eDataBytes e) else (eScaleAddr e, eScaleBytes e)

/-- What became of a wish for one line: it waits for a tag, its read left, or it is poisoned at once. -/
inductive Asked where
  | waits | sent | dead
deriving DecidableEq, Repr

/-- Ask for one line of entry e for the operation with number seq: reads of its 128 bytes and of its tag in the tag region
(R203), under one PCIe tag (log 24). -/
def State.askLine (s : State) (p seq : Nat) (e : Entry) (n : LineNeed) : State × Asked :=
  let a := hostSide e n.partNo
  let port := hostPort a.1
  if !s.vfSends port p then (s, .dead)
  else match (if s.takes (pageHst port) then s.freeTag port else none) with
    | none => (s, .waits)
    | some t =>
      let v := s.prt p
      let s1 := s.updHst port (fun h =>
        { h with reads := h.reads ++ [⟨t, p, v.epoch, v.gen, seq, n.handle, n.line, n.partNo⟩] })
      ((s1.emit (.hostRead port (a.1 % 2 ^ 63 + 128 * n.line) t)).emit
        (.hostRead port (a.1 % 2 ^ 63 + 128 * ceilDiv a.2 128 + 8 * n.line) t), .sent)

/-- Ask for lines in order until a tag is missing: how many were asked for, and how many of them are dead. -/
def State.askLines (s : State) (p seq : Nat) (ent : Nat → Entry) : List LineNeed → State × Nat × Nat
  | [] => (s, 0, 0)
  | n :: ns =>
    let r := s.askLine p seq (ent n.handle) n
    match r.2 with
    | .waits => (s, 0, 0)
    | a =>
      let t := r.1.askLines p seq ent ns
      (t.1, t.2.1 + 1, t.2.2 + if a = .dead then 1 else 0)

/-- Ask for the next host lines of a started operation. -/
def State.askOp (s : State) (p seq : Nat) : State :=
  match (s.prt p).op seq with
  | none => s
  | some o =>
    if !(s.prt p).tokensReady o then s
    else
      let r := s.askLines p seq o.ent (o.hostNeeds.drop o.asked)
      r.1.updOp p seq (fun o => { o with asked := o.asked + r.2.1, got := o.got + r.2.2 })

/-- Ask for the next host lines of all operations that wait for tags. -/
def State.askAll (s : State) : State :=
  (List.range 8).foldl (fun t p => ((t.prt p).ops.map (·.seq)).foldl (fun t q => t.askOp p q) t) s

/-- The key of a slot, derived with the nonce of the slot. -/
def Mce.keyOf (e : Mce) (k : Nat) : List Byte := (e.slot k).key

/-- The plaintext of a line in the exchange form under the slots that a read of slot k tries (R226, R231). -/
def Mce.openExch (e : Mce) (k q part : Nat) (ct tag : List Byte) : Option (List Byte) :=
  (e.readSlots k).findSome? (fun j => openExchange (e.keyOf j) q part ct tag)

/-- The record's slot may serve a PREFETCH that names slot k (R234). -/
def Mce.offloadSlotOk (e : Mce) (b : OffBuf) (k : Nat) : Bool :=
  decide (b.count ≠ 0) && decide ((e.slot b.slot).state ≠ .retired)
    && (decide (b.slot = k) || (decide ((e.slot b.slot).state = .draining) && decide ((e.slot b.slot).succ = some k)))

/-- The plaintext of a line in the offload form (R233, R234). -/
def Mce.openOff (e : Mce) (b : OffBuf) (buf k q part : Nat) (ct tag : List Byte) : Option (List Byte) :=
  if e.offloadSlotOk b k then openOffload (e.keyOf b.slot) (e.slot b.slot).nonce b.seq buf q part ct tag else none

/-- Offload buffer record i of a partition. -/
def Prt.offBuf (v : Prt) (i : Nat) : OffBuf := Sparse.get OffBuf.zero v.offbufs i

/-- The 128 bytes and the tag of a delivered line. -/
def splitLine (bs : List Byte) : List Byte × List Byte := (sliceBytes bs 0 128, sliceBytes bs 128 8)

/-- Verify a delivered line of entry e for a descriptor: the offload form for PREFETCH's source, else the exchange form
(R230). -/
def State.openLine (s : State) (p : Nat) (d : Desc) (e : Entry) (h q part : Nat) (bs : List Byte) : Option (List Byte) :=
  let m := s.mce (mceOfPort (hostPort (hostSide e part).1))
  let x := splitLine bs
  if dOp d = 0x32 ∧ h = dA d then
    let i := dField d 32 4
    let b := (s.prt p).offBuf i
    if b.port = hostPort (hostSide e part).1 then m.openOff b i (eKey e) q part x.1 x.2 else none
  else m.openExch (eKey e) q part x.1 x.2

/-- Run an operation of opcode `op` and subop test `sub` when it may run: PEER_LOST on a void version (R150), else its
work. While only host lines are missing, its next reads leave. -/
def State.runOp (s : State) (p seq op : Nat) (sub : Nat → Bool) (f : OpRec → State) : State :=
  match (s.prt p).op seq with
  | none => s
  | some o =>
    if dOp o.desc = op ∧ sub (dSub o.desc) ∧ (s.prt p).tokensReady o then
      (if !o.linesIn then s.askOp p seq
       else if (s.prt p).readsVoid o then s.finishOp p seq stPeerLost 0#16
       else f o)
    else s

end Sys2Proof.Machine
end

