-- ==== Sys2Proof/Machine/Queues.lean ====
section
/-! DEFINITION. Command queues: the doorbell, enabling and disabling (R273, R274, R276). -/

namespace Sys2Proof.Machine

/-- Ring entries of a queue (R273). -/
def Queue.size (q : Queue) : Nat := 2 ^ q.log2.toNat

/-- Entries are pending (R274). -/
def Queue.pending (q : Queue) : Bool := decide (q.head ≠ q.tail)

/-- A queue may be enabled (R273). -/
def Prt.queueFormed (v : Prt) (q : Queue) : Bool :=
  decide (4 ≤ q.log2.toNat ∧ q.log2.toNat ≤ 16) &&
  (if q.loc then decide (q.baseLo.toNat / 65536 = 0 ∧ q.baseHi = 0#32)
   else decide (q.baseLo.toNat % 4096 = 0) && v.onPort q.port)

/-- Stop a queue and give back the slot that its waiting descriptor made BUSY (log 23). -/
def State.stopQueue (s : State) (p n : Nat) : State :=
  let q := (s.prt p).queue n
  let s1 := match q.held with
    | some d =>
      if q.slotWait then s
      else s.updPrt p (fun v => { v with slots := Sparse.modify CSlot.zero v.slots (dSlot d) (fun c => { c with state := .free }) })
    | none => s
  let drop (t : State) (h : Bool) : State := t.updHst h (fun x => { x with reads := x.reads.map (fun r =>
    if r.part = p ∧ r.seq = queueSeq n then { r with seq := deadSeq } else r) })
  (drop (drop s1 false) true).updQueue p n (fun q =>
    { q with enable := false, held := none, slotWait := false, acceptWait := false, asked := 0, got := 0, inbuf := [] })

/-- The fields of QSIZE other than ENABLE, as a write carries them. -/
def Queue.sized (q : Queue) (v : Reg) : Queue :=
  { q with log2 := bitsAt v 0 5, loc := bitAt v 8, port := bitAt v 9 }

/-- A write of QSIZEn (R273). -/
def State.writeQsize (s : State) (p n : Nat) (v : Reg) : State :=
  let q := (s.prt p).queue n
  if q.enable then
    (if bitAt v 16 then s else (s.stopQueue p n).updQueue p n (fun q => q.sized v))
  else
    let q1 := q.sized v
    if bitAt v 16 && (s.prt p).queueFormed q1 then
      s.updQueue p n (fun _ => { q1 with enable := true, head := 0, tail := 0, err := false, slotWait := false, acceptWait := false })
    else s.updQueue p n (fun _ => q1)

/-- DOORBELL_WRITE (R274). -/
def execDoorbellWrite (via : Via) (p n : Nat) (value : Reg) (s : State) : Host.Outcome State Fault Refusal :=
  .next (s.viaPrt via p (fun s =>
    let t := value.toNat % 65536
    if ((s.prt p).queue n).size ≤ t then s.raiseErr (pagePrt p) 0 (BitVec.ofNat 32 (s.prt p).jnlHead)
    else s.updQueue p n (fun q => { q with tail := t })))

/-- QUEUE_ENABLE (R273): a write of QSIZEn with ENABLE 1. -/
def execQueueEnable (via : Via) (p n : Nat) (value : Reg) (s : State) : Host.Outcome State Fault Refusal :=
  .next (s.viaPrt via p (fun s => s.writeQsize p n (value ||| 0x10000#32)))

/-- QUEUE_DISABLE (R273): a write of QSIZEn with ENABLE 0. -/
def execQueueDisable (via : Via) (p n : Nat) (value : Reg) (s : State) : Host.Outcome State Fault Refusal :=
  .next (s.viaPrt via p (fun s => s.writeQsize p n (value &&& 0xFFFEFFFF#32)))

end Sys2Proof.Machine
end

