-- ==== Sys2Proof/Machine/Accept.lean ====
section
/-! DEFINITION. Acceptance (R101-R105, R273-R278): the ring read, the completion slot, the checks of Table 5.8 in order,
the waits of acceptance, and what an accepted descriptor leaves behind: journal entry, operation, version records, stream
counters, digests, ordinals. -/

namespace Sys2Proof.Machine

/-! ### Ordering of versions -/

/-- Add to the reference count of a tag. -/
def VerRec.addRef (r : VerRec) (tag : Nat) (k : Int) : VerRec :=
  let up (n : Nat) : Nat := (n + k).toNat
  if tag = r.cur then { r with ref0 := up r.ref0 }
  else if (tag + 1) % 65536 = r.cur then { r with ref1 := up r.ref1 }
  else if (tag + 2) % 65536 = r.cur then { r with ref2 := up r.ref2 }
  else r

/-- The record after an UPDATE to tag t is accepted (R148). -/
def VerRec.shift (r : VerRec) (t : Nat) : VerRec := ⟨r.handle, t, 0, r.ref0, r.ref1, true, false, r.void0⟩

/-- A new record (R145). -/
def VerRec.fresh (h t : Nat) : VerRec := ⟨h, t, 0, 0, 0, false, false, false⟩

/-- Change the record of handle h. -/
def Prt.updVersion (v : Prt) (h : Nat) (f : VerRec → VerRec) : Prt :=
  { v with versions := v.versions.map (fun r => if r.handle = h then f r else r) }

/-- The record of handle h. -/
def Prt.version? (v : Prt) (h : Nat) : Option VerRec := v.versions.find? (fun r => r.handle = h)

/-! ### Peers (R238, R241, R248) -/

/-- The port that faces rope position q: the mesh port of R238, or L23 while it stands in for it (R241). -/
def State.peerPort (s : State) (q : Nat) : Nat :=
  let i := (q + 15 - s.dev.ropePos.toNat) % 16
  if (s.lnk 23).takeoverEn ∧ (s.lnk 23).takeover.toNat = i then 23 else i

/-- The association of partition p that faces rope position q. -/
def State.assoc (s : State) (p q : Nat) : Sa := (s.lnk (s.peerPort q)).sa p

/-- An association serves: it is OPEN, or OPEN while a rekey runs (R250). -/
def Sa.serves (a : Sa) : Bool := a.state = .open_ || a.state = .rekeying

/-- The other members of a group. -/
def State.peersOf (s : State) (d : Desc) : List Nat := (dMembers d).filter (· ≠ s.dev.ropePos.toNat)

/-- Every association that the operation needs is OPEN (R260). -/
def State.peersOpen (s : State) (p : Nat) (d : Desc) : Bool := (s.peersOf d).all (fun q => (s.assoc p q).serves)

/-- Give an accepted operation its ordinals towards the peers whose association is OPEN (R252); ordinal + 1 is stored. -/
def State.giveOrdinals (s : State) (p seq : Nat) (d : Desc) : State :=
  (s.peersOf d).foldl (fun t q =>
    let a := t.assoc p q
    if a.serves then
      (t.updOp p seq (fun o => { o with coll := { o.coll with ordinals := Sparse.set 0 o.coll.ordinals q (a.colls % 256 + 1) } })).updSa
        (t.peerPort q) p (fun a => { a with colls := a.colls + 1 })
    else t.updOp p seq (fun o => { o with coll := { o.coll with waiting := true } })) s

/-! ### Reads that acceptance makes -/

/-- The program handle of a descriptor (R129, R163). -/
def dProg (d : Desc) : Nat :=
  if dOp d = 0x40 ∧ dSub d = 0 then dField d 34 2 else if dOp d = 0x10 ∧ dSub d = 0xF0 then dField d 40 2 else 0

/-- Tensors whose bytes acceptance reads: mask, variant indices and table, program. -/
def acceptReads (d : Desc) : List Nat :=
  ([dMask d, dVar d, if dVar d = 0 then 0 else 1, dProg d].filter (· ≠ 0)).eraseDups

/-- Read bytes of a tensor at acceptance. -/
def State.readAt (s : State) (p : Nat) (ib : Sparse (List Byte)) (d : Desc) (ents : List (Nat × Entry)) (h off n : Nat) :
    List (Option Byte) × State :=
  match entOf ents h with
  | none => ([], s)
  | some e => s.loadRun p 0 ib (dataPlace h e (if eVersions e then dTag d % 2 else 0) (activityOf (dOp d))) off
      (min n (eDataBytes e - off))

/-- Check every handle (check 4); none when one fails. -/
def State.checkHandles (s : State) (p : Nat) : List Nat → Option (List (Nat × Entry)) × State
  | [] => (some [], s)
  | h :: hs =>
    let r := s.checkHandle p h
    match r.1 with
    | none => (none, r.2)
    | some e =>
      let t := r.2.checkHandles p hs
      (t.1.map ((h, e) :: ·), t.2)

/-- The entries among a list of handles that pass check 4. -/
def State.passing (s : State) (p : Nat) : List Nat → List (Nat × Entry) × State
  | [] => ([], s)
  | h :: hs =>
    let r := s.checkHandle p h
    let t := r.2.passing p hs
    (match r.1 with | some e => (h, e) :: t.1 | none => t.1, t.2)

/-- Index of 16-row group j as H_VAR's bytes give it: none where it reads poisoned (R99). -/
def varIndex (vars : List (Option Byte)) (j : Nat) : Option Nat :=
  match vars.getD (2 * j) none, vars.getD (2 * j + 1) none with
  | some a, some b => some (a.toNat + 256 * b.toNat)
  | _, _ => none

/-- The distinct variant-table indices that H_VAR names. -/
def varNumbers (vars : List (Option Byte)) : List Nat :=
  ((List.range (vars.length / 2)).filterMap (varIndex vars)).eraseDups.filter (· < 4096)

/-- The adapters of the VALID variants that H_VAR names, as far as they pass check 4 (R147). -/
def State.adapters (s : State) (p : Nat) (ib : Sparse (List Byte)) (d : Desc) (ents : List (Nat × Entry))
    (vars : List (Option Byte)) : List (Nat × Entry) × State :=
  let r := (varNumbers vars).foldl (fun (t : List Nat × State) v =>
    let x := t.2.readAt p ib d ents 1 (16 * v) 16
    let bs := plainBytes x.1
    if anyBad x.1 ∨ fieldLe bs 6 1 % 2 = 0 then (t.1, x.2) else (t.1 ++ [fieldLe bs 0 2, fieldLe bs 2 2], x.2)) ([], s)
  r.2.passing p ((r.1.filter (· ≠ 0)).eraseDups)

/-- The bytes that a descriptor's acceptance reads. -/
structure Inputs where
  mask : List (Option Byte)
  vars : List (Option Byte)
  prog : List (Option Byte)
  extra : List (Nat × Entry)
  st : State
deriving Repr

/-- Most bytes of a program that acceptance looks at: an image, a sequencer program, a vector program. -/
def progRoom (d : Desc) : Nat := if dOp d = 0x10 then 512 else if dField d 32 1 = 0 then 2 ^ 20 else 128

/-- Read them (R98, R147, R171). -/
def State.readInputs (s : State) (p : Nat) (ib : Sparse (List Byte)) (d : Desc) (ents : List (Nat × Entry)) : Inputs :=
  let rows := destRows d ents
  let a := s.readAt p ib d ents (dMask d) 0 (ceilDiv rows 8)
  let b := a.2.readAt p ib d ents (dVar d) 0 (2 * ceilDiv rows 16)
  let c := b.2.readAt p ib d ents (dProg d) 0 (progRoom d)
  let x := c.2.adapters p ib d ents b.1
  ⟨a.1, b.1, c.1, x.1, x.2⟩

/-! ### Waits of acceptance -/

/-- The 16 bytes of format policy entry i (Table 6.6). -/
def State.fmtEntry (s : State) (p i : Nat) : List (Option Byte) × State :=
  let v := s.prt p
  s.loadRun p 0 [] ⟨1, v.fmt.addr.toNat, v.fmtKey.toNat, 0, 0, 2, 0⟩ (16 * i) 16

/-- The format policy table fits the partition's basin groups. -/
def State.fmtLegal (s : State) (p i : Nat) : Bool :=
  decide ((s.prt p).fmt.addr.toNat + 16 * i + 16 ≤ (s.partUnits p).length * groupSize)

/-- Gradient handles of the VALID entries of the format policy table. -/
def State.gradHandles (s : State) (p : Nat) : List Nat :=
  (List.range (s.prt p).fmtEntries).filterMap (fun i =>
    let bs := (s.fmtEntry p i).1
    if !s.fmtLegal p i ∨ anyBad bs ∨ fieldLe (plainBytes bs) 0 1 < 128 then none else some (fieldLe (plainBytes bs) 2 2))

/-- A STEP_COMMIT accepted earlier has not ended. -/
def Prt.commitOpen (v : Prt) : Bool := v.ops.any (fun o => dOp o.desc = 0x21)

/-- Acceptance waits: an earlier operation still writes what acceptance must read (R98, R147, R171; log 25), a RESTORE has
still to replace the records and counters that the checks read (R371, R372; log 25), or a format choice is due for a
gradient that the descriptor names (R143). -/
def State.acceptanceWaits (s : State) (p : Nat) (d : Desc) (ents : List (Nat × Entry)) : Bool :=
  let v := s.prt p
  (acceptReads d).any (fun h => match entOf ents h with
    | some e => v.writtenEarlier (s.coreCount p) d e | none => false)
  || v.ops.any (fun a => isRestore a.desc)
  || (v.commitOpen && (s.gradHandles p).any (fun h => h ≠ 0 && (dHandles d).contains h))

/-! ### Ends of acceptance -/

/-- HEAD passes the entry, and the queue has nothing in its hands (R275). -/
def State.passHead (s : State) (p n : Nat) : State :=
  s.updQueue p n (fun q => { q with head := (q.head + 1) % q.size, held := none, slotWait := false, acceptWait := false,
                                    asked := 0, got := 0, inbuf := [] })

/-- A descriptor fails acceptance (R105, R278): slot unless CSLOT is out of range, journal entry, HEAD, MSI-X. -/
def State.failDesc (s : State) (p n : Nat) (d : Desc) (st : BitVec 8) (slot : Bool) : State :=
  let t := s.stamp p
  let s1 := if slot then t.2.writeSlot p (dSlot d) st 0#16 ((t.2.prt p).jnlHead + 1) (dUser d) else t.2
  let g := if slot then ((s1.prt p).slot (dSlot d)).gen else 0#32
  let s2 := (s1.pushJnl p (fun q => jnlBytes q n d 4#8 st g t.1 t.1)).passHead p n
  if slot && dIrq d then s2.msixVf p n else s2

/-- A ring read fails (R276). -/
def State.failRing (s : State) (p n : Nat) : State := (s.updQueue p n (fun q => { q with err := true, acceptWait := false })).msixVf p 16

/-! ### What acceptance changes -/

/-- An UPDATE of handle h to tag t shifts its record (R148): a version that leaves it void stays void to its readers (R150),
the new tag is no void version, and a pending UPDATE whose version loses its references stays blocked (log 54). -/
def Prt.shiftVersion (v : Prt) (h t : Nat) : Prt :=
  let r := (v.version? h).getD (VerRec.fresh h t)
  let last := (r.cur + 65535) % 65536
  { v.updVersion h (fun r => r.shift t) with
      voids := (if r.void1 && !v.voids.contains (h, last) then v.voids ++ [(h, last)] else v.voids).filter (· ≠ (h, t))
      ops := v.ops.map (fun o =>
        if o.updates h && decide (o.newTag = r.cur ∧ 0 < r.ref2) then { o with blocked := true } else o) }

/-- Version records: creation, references, the shift of an UPDATE, a release (R145-R148, R119). -/
def Prt.acceptVersions (v : Prt) (d : Desc) (ents extra : List (Nat × Entry)) : Prt :=
  let vs := (ents.filter (fun x => eVersions x.2)).map (·.1)
  let v1 := (vs.filter (fun h => (v.version? h).isNone)).eraseDups.foldl
    (fun v h => { v with versions := v.versions ++ [VerRec.fresh h (dTag d)] }) v
  if dOp d = 1 then (vs.filter (fun h => h = dA d ∨ h = dB d ∨ extra.any (fun x => x.1 = h))).eraseDups.foldl (fun v h => v.updVersion h (fun r => r.addRef (dTag d) 1)) v1
  else if dOp d = 0x40 then (if vs.contains (dA d) then v1.shiftVersion (dA d) (dField d 52 2) else v1)
  else if dOp d = 0x41 then v1.updVersion (dA d) (fun r => r.addRef (dTag d) (-1))
  else v1

/-- The stream counter after an RNG_FILL (R112). -/
def Prt.acceptStream (v : Prt) (d : Desc) (ents : List (Nat × Entry)) : Prt :=
  match dOp d, entOf ents (dC d) with
  | 0x15, some y => { v with streams := Sparse.modify 0 v.streams (dStream d) (· + ceilDiv (rngWords d y) 4) }
  | _, _ => v

/-- UPDATE's ordinal among the UPDATEs of its STEP, which nothing renumbers (R183), its place among the open replica
digests, and whether it must wait for one to close (R184). -/
def Prt.acceptDigest (v0 : Prt) (step : Nat) : Prt × Nat × Bool :=
  let j := Sparse.get 0 v0.ordinals step + 1
  let v := { v0 with ordinals := Sparse.set 0 v0.ordinals step j }
  if v.digests.any (fun r => r.step = step) then
    ({ v with digests := v.digests.map (fun x => if x.step = step then { x with count := j } else x) }, j, false)
  else
    let fresh : RepDigest := ⟨step, 0, j, 0⟩
    if v.digests.length < 4 then ({ v with digests := v.digests ++ [fresh] }, j, false)
    else
      match v.digests.filter (fun r => r.held = 0) with
      | [] => (v, j, true)
      | x :: xs =>
        let low := xs.foldl (fun a b => if b.step < a.step then b else a) x
        ({ v with digests := v.digests.filter (fun r => r.step ≠ low.step) ++ [fresh] }, j, false)

/-- The digest of an image that passed check 5 enters what the report lists (R171, Table 14.8), once. -/
def Prt.noteCode (v : Prt) (d : Desc) (prog : List (Option Byte)) : Prt :=
  let g := sm3 (imageBytes prog)
  if dOp d = 0x40 ∧ dSub d = 0 ∧ dField d 32 1 = 0 then
    { v with party := v.party.map (fun q => if q.codes.contains g then q else { q with codes := q.codes ++ [g] }) }
  else v

/-- A belay whose seal waits for the STEP_COMMIT of this STEP (R367). -/
def Prt.sealWaits (v : Prt) (step : Nat) : Bool :=
  v.ops.any (fun o => match o.belay with | some b => decide (b.step = step ∧ b.kind ≠ 2#8) | none => false)

/-- A STEP_COMMIT reads the loss record at its place: a belay waits for it, or a replay is to be compared (R367, R373). -/
def Prt.readsLoss (v : Prt) (d : Desc) : Bool :=
  decide (dOp d = 0x21) && (v.sealWaits (dStep d) || decide (v.restoreState = 1#3 ∧ v.restoreStep = dStep d))

/-- What a belay copies is named by it (R365, Table 16.7): the basin tensors of the context below EXCLUDE_FROM, the cursor
and the loss record. -/
def State.belayTensors (s : State) (p : Nat) : List (Nat × Entry) × State :=
  let v := s.prt p
  let ex := v.belayCfg.excludeFrom.toNat
  let top := if ex = 0 then v.ttEntries else min ex v.ttEntries
  let a := s.passing p ((List.range top).filter (· ≠ 0))
  let b := a.2.passing p [2]
  (a.1.filter (fun x => eTier x.2 = 1 ∧ x.1 ≠ 2) ++ b.1, b.2)

/-- The versions that a belay copies of its tensors (Table 16.7). -/
def Prt.belayRefs (v : Prt) (ents : List (Nat × Entry)) : List (Nat × Nat) :=
  ents.flatMap (fun x => if eVersions x.2 then
      (match v.version? x.1 with
        | some r => (x.1, r.cur) :: (if r.prevValid ∧ 0 < r.ref1 then [(x.1, (r.cur + 65535) % 65536)] else [])
        | none => [])
    else [])

/-- The tensors of a belay in ascending order of their handles. -/
def insertNat (x : Nat) : List Nat → List Nat
  | [] => [x]
  | y :: ys => if x < y then x :: y :: ys else if x = y then y :: ys else y :: insertNat x ys

/-- A new belay run (R364). -/
def Prt.newBelay (v : Prt) (kind : BitVec 8) (target step jseq : Nat) (ents : List (Nat × Entry)) : BelayRun :=
  ⟨kind, target, step, jseq, (ents.map (·.1)).foldr insertNat [], v.versions, v.streams, [], [], 0, 0, [], false, false, []⟩

/-- The operation of an accepted descriptor. -/
def OpRec.new (seq queue : Nat) (d : Desc) (ents : List (Nat × Entry)) (compat : Bool) : OpRec :=
  { seq := seq, queue := queue, desc := d, ents := ents, phase := .accepted, done := false, status := 0#8, flags := 0#16,
    mask := [], vars := [], compat := compat, rngStart := 0, refs := [], destVer := 0, granted := [], scans := [],
    anchor := none, adapters := [], uv := [], pitches := [], tilesDone := [], ordinal := 0, chunks := [], digestW := 0,
    rootFlags := 0#16, blocked := false, held := false, asked := 0, got := 0, inbuf := [], coll := Coll.zero, belay := none, internal := false }

/-- Accept a descriptor that passed every check; a belay for a peer whose association is not OPEN ends at once (R260). -/
def State.acceptDesc (s : State) (p n : Nat) (d : Desc) (ents : List (Nat × Entry)) (i : Inputs) : State :=
  let t := s.stamp p
  let s1 := t.2.pushJnl p (fun q => jnlBytes q n d 1#8 0#8 0#32 t.1 0)
  let v := s1.prt p
  let seq := v.jnlHead
  let all := ents ++ i.extra.filter (fun x => !(ents.any (fun y => y.1 = x.1)))
  let belay := decide (dOp d = 0x50 ∧ dSub d < 3)
  let more := if belay then s1.belayTensors p else if v.readsLoss d then s1.passing p [3] else ([], s1)
  let named := all ++ more.1.filter (fun x => !(all.any (fun y => y.1 = x.1)))
  let start := Sparse.get 0 v.streams (dStream d)
  let v1 := ((v.acceptVersions d all i.extra).acceptStream d ents).noteCode d i.prog
  let dig := if decide (dOp d = 0x40) && (match entOf ents (dA d) with | some e => !eFrozen e | none => false) then v1.acceptDigest (dStep d)
    else if dOp d = 0x42 ∧ dSub d = 1 then
      ({ v1 with digests := v1.digests.map (fun x => if x.step = dStep d then { x with held := x.held + 1 } else x) }, 0, false)
    else (v1, 0, false)
  let o := { OpRec.new seq n d named v.compat with
    mask := i.mask, vars := i.vars, rngStart := start, ordinal := dig.2.1, held := dig.2.2,
    refs := if belay then v.belayRefs named else [],
    destVer := (match v1.version? (dC d) with | some r => r.cur % 2 | none => 0),
    belay := if belay then some (v1.newBelay 0#8 (dSub d) (dStep d) (seq - 1) more.1) else none }
  let v2 := dig.1
  let v3 := { v2 with
    ops := v2.ops ++ [o],
    commits := if dOp d = 0x21 then v2.commits ++ [(seq, dStep d, none)] else v2.commits,
    lastCommitStep := if dOp d = 0x21 then dStep d else v2.lastCommitStep,
    anyCommit := v2.anyCommit || decide (dOp d = 0x21),
    riskDue := v2.riskDue || (v2.riskPending && v2.belayCfg.riskEn && (dWrites d).contains 2) }
  let s2 := ((more.2.setPrt p v3).passHead p n)
  if dOp d = 0x20 ∨ dOp d = 0x21 then s2.giveOrdinals p seq d
  else if dOp d = 0x50 ∧ dSub d = 1 ∧ !(s2.assoc p (dField d 32 1)).serves then s2.finishOp p seq stPeerLost 0#16
  else s2

/-! ### Risk belays (R364) -/

/-- The bytes of the BELAY descriptor that an internal belay stands for. -/
def belayDesc (target ctx hc peer step : Nat) : Desc :=
  BitVec.ofNat 1024 (leVal ([0x50#8] ++ leBytes 1 target ++ zeros 2 ++ leBytes 2 ctx ++ zeros 6 ++ leBytes 2 hc ++ zeros 18
    ++ leBytes 1 peer ++ zeros 71 ++ leBytes 8 step ++ zeros 16))

/-- Insert an internal belay at the end of the acceptance order: kind 1 (risk) or 2 (drain). It is of no queue (R122). -/
def State.insertBelay (s : State) (p : Nat) (kind : BitVec 8) (target : Nat) (h : BitVec 16) (step : Nat) : State :=
  let v := s.prt p
  let seq := 2 ^ 64 + 4 * v.jnlHead + kind.toNat
  let d := belayDesc target (v.ctxId p) (if target = 1 then 0 else h.toNat) v.belayCfg.peer.toNat step
  let a := s.belayTensors p
  let b := a.2.passing p (if target = 1 then [] else [h.toNat])
  let named := b.1 ++ a.1.filter (fun x => !(b.1.any (fun y => y.1 = x.1)))
  let o := { OpRec.new seq (16 + kind.toNat) d named v.compat with
    internal := true, refs := v.belayRefs named, belay := some (v.newBelay kind target step v.jnlHead a.1) }
  b.2.updPrt p (fun v => { v with ops := v.ops ++ [o] })

/-- Insert the pending risk belay after the operation that wrote the data cursor. -/
def State.insertRisk (s : State) (p : Nat) : State :=
  let v := s.prt p
  if v.riskDue then
    (s.updPrt p (fun v => { v with riskDue := false, riskPending := false })).insertBelay p 1#8 v.belayCfg.riskTarget.toNat
      v.belayCfg.riskH (if v.anyCommit then (v.lastCommitStep + 1) % 2 ^ 64 else 0)
  else s

/-! ### The acceptance of one queue's next descriptor -/

/-- Host lines that acceptance needs. -/
def acceptNeeds (d : Desc) (ents : List (Nat × Entry)) : List LineNeed :=
  (acceptReads d).flatMap (fun h => match entOf ents h with
    | some e => (tensorLines h e).filter (fun n => n.partNo = 0) | none => [])

/-- Checks 1 to 6 of Table 5.8 on the descriptor that queue n holds, whose slot is BUSY for it. Operands whose key slots
fail check 6 are not read: what check 5 says without them decides between INVALID_DESC and KEY_RETIRED (R208, R226). DESIGN
CHOICE (log 55): check 6 covers the slots of the adapters that H_VAR's variants name. -/
def State.runChecks (s : State) (p n : Nat) (d : Desc) : State :=
  if s.dev.state ≠ .ready then s.failDesc p n d stDrained true
  else if !checkCodes d then s.failDesc p n d stInvalid true
  else if !(s.prt p).hasCtx ∨ dCtx d ≠ (s.prt p).ctxId p then s.failDesc p n d stInvalid true
  else
    let c := s.checkHandles p (dHandles d).eraseDups
    match c.1 with
    | none => c.2.failDesc p n d stBadHandle true
    | some ents =>
      if c.2.acceptanceWaits p d ents then c.2.updQueue p n (fun q => { q with acceptWait := true })
      else
        let q := (c.2.prt p).queue n
        let needs := acceptNeeds d ents
        if !c.2.keysUsable p (ents.filter (fun x => (acceptReads d).contains x.1)) then
          c.2.failDesc p n d (if c.2.checkFit p d ents [] [] none then stKeyRetired else stInvalid) true
        else if q.got < needs.length then
          let r := c.2.askLines p (queueSeq n) (fun h => (entOf ents h).getD 0#512) (needs.drop q.asked)
          r.1.updQueue p n (fun q => { q with acceptWait := false, asked := q.asked + r.2.1, got := q.got + r.2.2 })
        else
          let i := c.2.readInputs p q.inbuf d ents
          if !i.st.checkFit p d ents i.extra i.mask (some i.prog) then i.st.failDesc p n d stInvalid true
          else if !i.st.keysUsable p (ents ++ i.extra) then i.st.failDesc p n d stKeyRetired true
          else i.st.acceptDesc p n d ents i

/-- A descriptor that was taken meets its completion slot (R278). -/
def State.takeDesc (s : State) (p n : Nat) (d : Desc) : State :=
  let q := (s.prt p).queue n
  if 4096 ≤ dSlot d then s.failDesc p n d stInvalid false
  else if q.held.isSome && !q.slotWait then s.runChecks p n d
  else if ((s.prt p).slot (dSlot d)).state ≠ .free then
    let s1 := s.updQueue p n (fun q => { q with held := some d, slotWait := true, acceptWait := false })
    if q.slotWait then s1 else s1.msixVf p 16
  else
    (s.updPrt p (fun v =>
      { v with slots := Sparse.modify CSlot.zero v.slots (dSlot d) (fun c => { c with state := .busy }),
               queues := Sparse.modify Queue.zero v.queues n (fun q => { q with held := some d, slotWait := false, acceptWait := false }) })).runChecks p n d

/-- The descriptor in a pool ring (R273, R276); none when the read fails. -/
def State.readRing (s : State) (p n : Nat) : Option Desc × State :=
  let q := (s.prt p).queue n
  let h := q.baseLo.toNat % 65536
  let c := s.checkHandle p h
  match c.1 with
  | none => (none, c.2)
  | some e =>
    if eTier e = 0 ∧ eFmt e = .raw ∧ 128 * q.size ≤ eDataBytes e then
      let r := c.2.loadRun p 0 [] (dataPlace h e 0 2) (128 * q.head) 128
      (if anyBad r.1 then none else some (BitVec.ofNat 1024 (leVal (plainBytes r.1))), r.2)
    else (none, c.2)

/-- Acceptance runs in a partition that no teardown and no reset has stopped (R297, Table 16.5). -/
def Prt.accepting (v : Prt) : Bool := decide (v.state ≠ .tearing ∧ v.state ≠ .resetting)

/-- Queue n offers a descriptor: one that it holds, or a pending ring entry; a ring in host memory offers nothing while its
port does not serve it (R264, R269, R274). -/
def State.offers (s : State) (p n : Nat) : Bool :=
  let q := (s.prt p).queue n
  s.takes (pagePrt p) && (s.prt p).accepting && q.enable && !q.err && (q.loc || s.vfSends q.port p) && (q.held.isSome || q.pending)

/-- The next queue in turn that offers one (R274). -/
def State.nextQueue (s : State) (p : Nat) : Option Nat :=
  ((List.range 16).map (fun i => ((s.prt p).rr + i) % 16)).find? (s.offers p)

/-- The read of a ring entry in host memory (R273): 128 bytes at QBASE + 128 × HEAD through PORT, under a free tag. -/
def State.askRing (s : State) (p n : Nat) : Option State :=
  let q := (s.prt p).queue n
  (s.freeTag q.port).map (fun t => (s.takeTokensDir (24 + portIdx q.port) p 1 false).emit
    (.hostRead q.port (q.baseHi.toNat * 2 ^ 32 + q.baseLo.toNat + 128 * q.head) t))

/-- Take the next descriptor of queue n. -/
def State.acceptFrom (s : State) (p n : Nat) (ring : Option Desc) : State :=
  let q := (s.prt p).queue n
  match q.held with
  | some d => s.takeDesc p n d
  | none =>
    match (if q.loc then some (s.readRing p n) else (s.askRing p n).map (fun t => (ring, t))) with
    | none => s
    | some (none, t) => t.failRing p n
    | some (some d, t) => t.takeDesc p n d

/-- The queues once the journal has room: ACCEPT_WAIT stays with those whose descriptor waits in its checks. -/
def Prt.roomQueues (v : Prt) : Sparse Queue :=
  (List.range 16).foldl (fun m n => Sparse.modify Queue.zero m n (fun q =>
    if q.held.isSome && !q.slotWait then q else { q with acceptWait := false })) v.queues

/-- One turn of acceptance (R274): when the journal has no room, every waiting queue shows ACCEPT_WAIT (R284). -/
def State.acceptTurn (s : State) (p : Nat) (ring : Option Desc) : State :=
  let s0 := s.insertRisk p
  match s0.nextQueue p with
  | none => s0
  | some n =>
    if !(s0.prt p).jnlRoom then
      ((List.range 16).filter (s0.offers p)).foldl (fun t k => t.updQueue p k (fun q => { q with acceptWait := true })) s0
    else (s0.updPrt p (fun v => { v with rr := (n + 1) % 16, queues := v.roomQueues })).acceptFrom p n ring

/-- ACCEPT_DESCRIPTOR (R101): `ring` is what the read of a ring in host memory returns; none is an error or poison. -/
def execAcceptDescriptor (p : Nat) (ring : Option Desc) (s : State) : Host.Outcome State Fault Refusal :=
  .next (s.acceptTurn p ring)

/-- RISK_BELAY_INSERT (R364). -/
def execRiskBelayInsert (p : Nat) (s : State) : Host.Outcome State Fault Refusal := .next (s.insertRisk p)

end Sys2Proof.Machine
end

