-- ==== Sys2Proof/Machine/Sched.lean ====
section
/-! DEFINITION. Starting, granting and ending operations: the waits before a start (R22, R103, R117, R122, R149, R161,
R184, R371), slot tokens (R131-R134), FENCE, VERSION_RELEASE, and completion with the format choices of a STEP_COMMIT
(R23, R142). -/

namespace Sys2Proof.Machine

/-! ### Starting -/

/-- Operation a lies in the scope of fence f (R122): the same queue, or the whole partition. Internal belays are of no
queue. -/
def inFence (f a : OpRec) : Bool := decide (dSub f.desc = 1) || decide (a.queue = f.queue)

/-- A fence or a RESTORE holds operation o back (R122, R371): an operation in scope, accepted before it, has not ended. -/
def Prt.fenced (v : Prt) (o : OpRec) : Bool :=
  let before := v.before o
  before.any (fun f =>
    isRestore f.desc || (decide (dOp f.desc = 0x60) && inFence f o && (v.before f).any (fun a => inFence f a)))
  || (isRestore o.desc && !before.isEmpty)

/-- Two version-aware uses of one handle order themselves by its tag, not by R103. -/
def OpRec.writeList (o : OpRec) : List (Nat × MemRun) :=
  (dWrites o.desc).flatMap (fun h => (writeRuns o.desc h (o.ent h)).map (fun r => (h, r)))

/-- What an operation reads or writes, by handle. -/
def OpRec.useList (o : OpRec) : List (Nat × MemRun) :=
  (o.ents.filter (fun x => !idleHandle o.desc x.1)).flatMap (fun x => (readRuns o.desc x.2).map (fun r => (x.1, r))) ++ o.writeList

/-- Memory written through another handle by an earlier operation that has not completed (R103). -/
def Prt.aliased (v : Prt) (cores : Nat) (o : OpRec) : Bool :=
  let mine := o.useList
  (v.before o).any (fun a => a.writeList.any (fun w => mine.any (fun r => decide (r.1 ≠ w.1) && r.2.meets cores w.2)))

/-- The latest STEP_COMMIT of a STEP accepted before sequence number q: its status once it has ended (R161). -/
def Prt.governing (v : Prt) (step q : Nat) : Option (Option (BitVec 8)) :=
  ((v.commits.filter (fun c => c.2.1 = step ∧ c.1 < q)).getLast?).map (fun c => c.2.2)

/-- An UPDATE waits for its STEP_COMMIT (R161). -/
def Prt.awaitsCommit (v : Prt) (o : OpRec) : Bool :=
  decide (dOp o.desc = 0x40) && decide (v.governing (dStep o.desc) o.seq = some none)

/-- A PREFETCH waits for the entry that START_SEQ names (R116, R117). -/
def Prt.awaitsEntry (v : Prt) (o : OpRec) : Bool :=
  let q := dField o.desc 48 8
  decide (dOp o.desc = 0x32) && decide (q ≠ 0 ∧ q ≠ o.seq) && decide (v.jnlOldest ≤ q) && decide (v.jnlState q < 2)

/-- A version that the operation reads is still to be written (R149). -/
def Prt.awaitsVersion (v : Prt) (o : OpRec) : Bool :=
  o.ents.any (fun x => (v.before o).any (fun a => a.updates x.1 && conflictOn x.1 a o))

/-- A core can begin: of every tensor that the operation reads, some tile's token can be granted (R133, R285). -/
def Prt.canBegin (v : Prt) (o : OpRec) : Bool :=
  o.ents.all (fun x => o.onlyWrites x.1 || (o.tiles x.1).isEmpty || (o.tiles x.1).any (v.grantable o x.1))

/-- Every wait before the start of an accepted operation is over. -/
def State.startable (s : State) (p : Nat) (o : OpRec) : Bool :=
  let v := s.prt p
  decide (o.phase = .accepted) && !o.held && !v.fenced o && !v.aliased (s.coreCount p) o && !v.awaitsCommit o
    && !v.awaitsEntry o && !v.awaitsVersion o && v.canBegin o

/-- The blocks of partition p, its engines apart, take new tokens (Table 18.4). -/
def State.blocksTake (s : State) (p : Nat) : Bool :=
  s.hdrs.all (fun (h : Nat × Hdr) => decide (0x1000 ≤ h.1) || decide (s.pageOwner h.1 ≠ some p) || (h.2.enable && !h.2.quiesce))

/-- OPERATION_START (R285): the journal entry becomes STARTED with T_START; reads of host lines leave. -/
def State.startOp (s : State) (p seq : Nat) : State :=
  match (s.prt p).op seq with
  | none => s
  | some o =>
    if !s.startable p o ∨ !s.blocksTake p then s
    else
      let t := s.stamp p
      let s1 := t.2.updJnl p seq (fun e => putBytes (putBytes e 10 [2#8]) 40 (leBytes 8 t.1))
      (s1.updOp p seq (fun o => { o with phase := .started })).askOp p seq

/-- OPERATION_START (R285). -/
def execOperationStart (p seq : Nat) (s : State) : Host.Outcome State Fault Refusal := .next (s.startOp p seq)

/-! ### Slot tokens -/

/-- The home core of a tile (R131, R132). -/
def State.homeCore (s : State) (p : Nat) (e : Entry) (t : Nat) : Nat :=
  if eTier e = 3 then
    let off := if eFmt e = .wp72 then 49152 * t
      else let b := eTileBox e t; (b.1 + eDim e 0 * b.2.1) * (eFmt e).bits / 8
    s.coreAt p ((eAddr e + off) / spdSize)
  else s.coreAt p (t % s.coreCount p)

/-- The mark of a request that has waited. -/
def waitedMark (t : Nat) : Nat := t + 2 ^ 64

/-- The number that stands for an offload buffer among the handles of slot tokens: the buffer is one tile (R132, R155). -/
def bufHandle (buf : Nat) : Nat := 2 ^ 16 + buf

/-- The operation asks for the token of tile t of handle h, or of its offload buffer's one tile. -/
def OpRec.asks (o : OpRec) (h t : Nat) : Bool :=
  if h < 2 ^ 16 then o.names h && o.wants h t
  else decide (dOp o.desc = 0x31 ∨ dOp o.desc = 0x32) && decide (h = bufHandle (dField o.desc 32 4)) && decide (t = 0)

/-- The foot tile of a MATMUL that covers tile t of its destination (Table 3.1): its place in the tile grid. -/
def OpRec.footOf (o : OpRec) (t : Nat) : Nat × Nat × Nat :=
  let g := geometry (widerFmt (o.ent (dA o.desc)) (o.ent (dB o.desc))) (dWide o.desc)
  let grid := eGrid (o.ent (dC o.desc))
  (t / (grid.1 * grid.2), t % (grid.1 * grid.2) / grid.1 / max 1 (g.2.1 / 64), t % grid.1 / max 1 (g.1 / 64))

/-- A foot tile that covers several tiles takes their tokens in ascending order (R93): those below t are granted. -/
def OpRec.footOrder (o : OpRec) (h t : Nat) : Bool :=
  decide (dOp o.desc ≠ 0x01 ∨ h ≠ dC o.desc)
    || (List.range t).all (fun i => o.granted.contains (h, i) || decide (o.footOf i ≠ o.footOf t))

/-- The token can be granted: no earlier operation holds or awaits it (R133), and its foot tile has come to it (R93). -/
def Prt.tokenFree (v : Prt) (o : OpRec) (h t : Nat) : Bool :=
  if h < 2 ^ 16 then v.grantable o h t && o.footOrder h t
  else (v.before o).all (fun a => !(!a.done && bufConflict a o))

/-- The home core of what a token guards (R131, R132). -/
def State.tokenHome (s : State) (p : Nat) (o : OpRec) (h t : Nat) : Nat :=
  if h < 2 ^ 16 then s.homeCore p (o.ent h) t else s.coreAt p (dField o.desc 32 4 % s.coreCount p)

/-- One request for a slot token: granted, or it waits and is counted once (R133, Table 18.10). -/
def State.grantToken (s : State) (p seq h t : Nat) : State :=
  let v := s.prt p
  match v.op seq with
  | none => s
  | some o =>
    if o.phase ≠ .started ∨ o.done ∨ !o.asks h t ∨ o.granted.contains (h, t) then s
    else if v.tokenFree o h t then s.updOp p seq (fun o => { o with granted := o.granted ++ [(h, t)] })
    else if o.granted.contains (h, waitedMark t) then s
    else
      let s1 := s.updOp p seq (fun o => { o with granted := o.granted ++ [(h, waitedMark t)] })
      { s1 with grantWaits := Sparse.modify 0#32 s1.grantWaits (s.tokenHome p o h t) (fun c => satAdd c 1) }

/-- SLOT_TOKEN_GRANT (R133). -/
def execSlotTokenGrant (p seq handle tile : Nat) (s : State) : Host.Outcome State Fault Refusal :=
  .next (s.grantToken p seq handle tile)

/-! ### FENCE and VERSION_RELEASE -/

/-- A started FENCE has done its work when every operation in scope before it has completed (R122). -/
def State.runFence (s : State) (p seq sub : Nat) : State :=
  s.runOp p seq 0x60 (· = sub) (fun o =>
    if ((s.prt p).before o).any (fun a => inFence o a) then s else s.finishOp p seq stOK 0#16)

/-- FENCE_QUEUE (R122). -/
def execFenceQueue (p seq : Nat) (s : State) : Host.Outcome State Fault Refusal := .next (s.runFence p seq 0)

/-- FENCE_PARTITION (R122). -/
def execFencePartition (p seq : Nat) (s : State) : Host.Outcome State Fault Refusal := .next (s.runFence p seq 1)

/-- VERSION_RELEASE (R119, R147): its reference went at acceptance; it ends after the earlier readers of the version, an
UPDATE that starts from it among them. -/
def execVersionRelease (p seq : Nat) (s : State) : Host.Outcome State Fault Refusal :=
  .next (match (s.prt p).op seq with
    | none => s
    | some o =>
      if dOp o.desc = 0x41 ∧ o.phase = .started ∧ !((s.prt p).before o).any (fun a =>
          a.names (dA o.desc) && !idleHandle a.desc (dA o.desc) && a.readsTag (dA o.desc) (dTag o.desc)) then
        s.finishOp p seq stOK 0#16
      else s)

/-! ### Gradient formats (R142, R143) -/

/-- A format choice that a STEP_COMMIT records (Table 12.5). -/
structure Choice where
  index : Nat
  grad : Nat
  old : Nat
  new : Nat
  centre : Nat
deriving DecidableEq, Repr

/-- Add a snapshot to 64 totals under a base (R142). -/
def addSnapshot (base : Int) (total : List Nat) (snap : List Byte) : List Nat :=
  let qb := signedNat 32 (fieldLe snap 256 4)
  (List.range 64).foldl (fun (t : List Nat) (k : Nat) =>
    let i := (min 63 (max 0 (qb + (k : Int) - base))).toNat
    listSet t i (t.getD i 0 + fieldLe snap (4 * k) 4)) total

/-- The best window of 15 bins: its low end and its sum (R142). -/
def bestWindow (total : List Nat) : Nat × Nat :=
  (List.range 48).foldl (fun b k =>
    let lo := k + 1
    let w := sumNat ((total.drop lo).take 15)
    if b.1 = 0 ∨ b.2 < w then (lo, w) else b) (0, 0)

/-- The format that AUTO chooses, with CENTRE for LG8; none when the mass is 0 (R142). -/
def autoChoice (base : Int) (snaps : List (List Byte)) : Option (Fmt × Option Int) :=
  let total := snaps.foldl (addSnapshot base) (List.replicate 64 0)
  let mass := sumNat total
  if mass = 0 then none
  else
    let b := bestWindow total
    if 9999 * mass ≤ 10000 * b.2 then some (.lg8, some (base + b.1 + 7)) else some (.lg16, none)

/-- The run of the format policy table. -/
def Prt.fmtPlace (v : Prt) : Place := ⟨1, v.fmt.addr.toNat, v.fmtKey.toNat, 0, 0, 2, 0⟩
/-- The run of the tensor table. -/
def Prt.ttPlace (v : Prt) : Place := ⟨1, v.tt.addr.toNat, v.ttKey.toNat, 0, 0, 2, 0⟩

/-- Write bytes of format policy entry i. -/
def State.setFmt (s : State) (p i off : Nat) (bs : List Byte) : State :=
  (s.storeRun p [] (s.prt p).fmtPlace (16 * i + off) (bs.map wPut)).1

/-- Write FORMAT of tensor-table entry h. -/
def State.setFormat (s : State) (p h : Nat) (e : Entry) (f : Fmt) : State :=
  let b := eField e 40 1
  (s.storeRun p [] (s.prt p).ttPlace (64 * h + 40) [wPut (BitVec.ofNat 8 (b % 8 + 8 * f.code + b / 128 * 128))]).1

/-- Clear HIST table i as READ_CLEAR does. -/
def State.clearHist (s : State) (p i : Nat) : State := s.updHist p i Hist.clear

/-- Put a choice into CHOICE and, when it differs from H_GRAD's FORMAT, into its entry (R142). -/
def State.choose (s : State) (p i : Nat) (bs : List Byte) (ge : Entry) (f : Fmt) (centre : Nat) : State × List Choice :=
  let s1 := s.setFmt p i 12 (leBytes 1 f.code)
  let g := fieldLe bs 2 2
  if eAttr ge 3 4 = f.code then (s1, [])
  else (s1.setFormat p g ge f, [⟨i, g, eAttr ge 3 4, f.code, centre⟩])

/-- Evaluate an AUTO entry (R142): its snapshot goes into the ring, unless something it reads is poisoned. -/
def State.evalAuto (s : State) (p i : Nat) (bs : List Byte) (ge : Entry) : State × List Choice :=
  let id := fieldLe bs 8 2 % 1024
  let hist := Sparse.get Hist.zero (s.prt p).hists id
  let r := s.readEntry p (fieldLe bs 6 2)
  match r.1 with
  | none => (r.2.clearHist p id, [])
  | some re =>
    let next := fieldLe bs 14 1 % 64
    let fill := min 64 (fieldLe bs 13 1 + 1)
    let span := if fieldLe bs 1 1 = 0 then 8 else fieldLe bs 1 1
    let ring := dataPlace (fieldLe bs 6 2) re 0 2
    let old := (List.range (min span fill - 1)).foldl (fun (t : List (List (Option Byte)) × State) j =>
      let x := t.2.loadRun p 0 [] ring (288 * ((next + 127 - j) % 64)) 288
      (t.1 ++ [x.1], x.2)) ([], r.2)
    if old.1.any anyBad then (old.2.clearHist p id, [])
    else
      let s1 := (old.2.storeRun p [] ring (288 * next) (hist.record.map wPut)).1
      let s2 := ((s1.clearHist p id).setFmt p i 13 (leBytes 1 fill)).setFmt p i 14 (leBytes 1 ((next + 1) % 64))
      match autoChoice hist.base (hist.record :: old.1.map plainBytes) with
      | none => (s2, [])
      | some (f, c) =>
        let centre := match c with | some x => (BitVec.ofInt 16 x).toNat | none => fieldLe bs 10 2
        let s3 := if c.isSome then s2.setFmt p i 10 (leBytes 2 centre) else s2
        s3.choose p i bs ge f centre

/-- Evaluate format policy entry i when a STEP_COMMIT ends: with OK the choice, otherwise only the clearing (R142). -/
def State.evalFmt (s : State) (p i : Nat) (ok : Bool) : State × List Choice :=
  if !s.fmtLegal p i then (s, []) else
  let r := s.fmtEntry p i
  let bs := plainBytes r.1
  let mode := fieldLe bs 0 1 % 4
  if anyBad r.1 ∨ fieldLe bs 0 1 < 128 then (r.2, [])
  else if !ok then (if mode = 1 then (r.2.clearHist p (fieldLe bs 8 2 % 1024), []) else (r.2, []))
  else if 2 ≤ mode then (r.2, [])
  else
    let g := r.2.readEntry p (fieldLe bs 2 2)
    match g.1 with
    | none => (if mode = 1 then g.2.clearHist p (fieldLe bs 8 2 % 1024) else g.2, [])
    | some ge =>
      if mode = 1 then g.2.evalAuto p i bs ge
      else
        let a := g.2.readEntry p (fieldLe bs 4 2)
        match a.1 with
        | none => (a.2, [])
        | some ae => match eFmt? ae with
          | none => (a.2, [])
          | some f => a.2.choose p i bs ge f (fieldLe bs 10 2)

/-- Evaluate every entry (R142). -/
def State.evalAll (s : State) (p : Nat) (ok : Bool) : State × List Choice :=
  (List.range (s.prt p).fmtEntries).foldl (fun t i => let r := t.1.evalFmt p i ok; (r.1, t.2 ++ r.2)) (s, [])

/-- An operation ends with an abort status: its destinations are undefined (R123), and a STEP_COMMIT's AUTO entries clear
their HIST tables (R142). -/
def State.abortOp (s : State) (p : Nat) (o : OpRec) (status : BitVec 8) : State :=
  let s1 := s.undefineDest p o
  (if dOp o.desc = 0x21 then (s1.evalAll p false).1 else s1).endOp p o status

/-- End every accepted operation of a partition with an abort status (R280, R344), in acceptance order. -/
def State.abortAll (s : State) (p : Nat) (status : BitVec 8) : State :=
  ((s.prt p).ops).foldl (fun t o => t.abortOp p o status) s

/-- The bytes of a format-choice entry (Tables 12.4, 12.5). -/
def choiceBytes (q : Nat) (o : OpRec) (c : Choice) (t : Nat) : List Byte :=
  leBytes 8 q ++ leBytes 1 (o.queue % 16 + 16) ++ [0x21#8, 3#8, 0#8] ++ leBytes 2 (dSlot o.desc) ++ leBytes 2 0
    ++ leBytes 2 c.index ++ leBytes 2 c.grad ++ leBytes 1 c.old ++ leBytes 1 c.new ++ leBytes 2 c.centre
    ++ leBytes 8 (dStep o.desc) ++ leBytes 8 t ++ leBytes 8 0 ++ leBytes 8 t ++ leBytes 8 0

/-- The next k journal positions may be taken, the entry `own` counting as ended (R142, R284). -/
def Prt.jnlRoomFor (v : Prt) (own k : Nat) : Bool :=
  (List.range k).all (fun i =>
    let e := Sparse.get [] v.jnl ((v.jnlHead + 1 + i) % 4096)
    e = [] || decide (3 ≤ fieldLe e 10 1) || decide (fieldLe e 0 8 = own))

/-! ### Completion -/

/-- The end of a STEP_COMMIT: the format choices, then their journal entries; none while the journal has no room. -/
def State.endCommit (s : State) (p : Nat) (o : OpRec) : Option State :=
  let r := s.evalAll p (decide (o.status = stOK))
  if !(r.1.prt p).jnlRoomFor o.seq r.2.length then none
  else some (r.2.foldl (fun t c => let x := t.stamp p; x.2.pushJnl p (fun q => choiceBytes q o c x.1)) r.1)

/-- Complete an operation whose cores have all sent their tokens (R23). -/
def State.completeOp (s : State) (p seq : Nat) : State :=
  match (s.prt p).op seq with
  | none => s
  | some o =>
    if !o.done then s
    else if dOp o.desc = 0x21 then
      (match s.endCommit p o with | none => s | some s1 => (s1.endOp p o o.status).askAll)
    else (s.endOp p o o.status).askAll

/-- OPERATION_COMPLETE (R23, R142, R285). -/
def execOperationComplete (p seq : Nat) (s : State) : Host.Outcome State Fault Refusal := .next (s.completeOp p seq)

end Sys2Proof.Machine
end

