-- ==== Sys2Proof/Machine/Flits.lean ====
section
/-! DEFINITION. Flits (R242, Tables 11.3 to 11.5): building, protecting, sending and receiving them; link retry (R243),
virtual channels and credits (R246, R247), stale flits (R251), and the close of an association (R250, R259). -/

namespace Sys2Proof.Machine

/-! ### The header (Table 11.4) -/

/-- A flit header. -/
structure FlitHdr where
  type : Nat
  vc : Nat
  prov : Bool
  last : Bool
  enc : Bool
  dstCtx : Nat
  saGen : Nat
  seq : Nat
  ack : Nat
  crVc : Nat
  crCount : Nat
  msg : Nat
  coll : Nat
  offset : Nat
deriving DecidableEq, Repr

/-- 1 for true. -/
def bit (b : Bool) : Nat := if b then 1 else 0

/-- The 16 bytes of a header. -/
def FlitHdr.bytes (h : FlitHdr) : List Byte :=
  leBytes 2 (h.type % 256 + h.vc % 16 * 256 + bit h.prov * 2 ^ 12 + bit h.last * 2 ^ 13 + bit h.enc * 2 ^ 14)
    ++ leBytes 2 h.dstCtx ++ leBytes 1 h.saGen ++ leBytes 3 (h.seq % 4096 + h.ack % 4096 * 4096)
    ++ leBytes 2 (h.crVc % 16 + h.crCount % 256 * 256) ++ leBytes 2 h.msg ++ leBytes 1 h.coll ++ leBytes 3 h.offset

/-- The header of a flit's bytes. -/
def FlitHdr.ofBytes (bs : List Byte) : FlitHdr :=
  let w := fieldLe bs 0 2
  let q := fieldLe bs 5 3
  let c := fieldLe bs 8 2
  { type := w % 256, vc := w / 256 % 16, prov := w / 2 ^ 12 % 2 = 1, last := w / 2 ^ 13 % 2 = 1, enc := w / 2 ^ 14 % 2 = 1,
    dstCtx := fieldLe bs 2 2, saGen := fieldLe bs 4 1, seq := q % 4096, ack := q / 4096, crVc := c % 16, crCount := c / 256,
    msg := fieldLe bs 10 2, coll := fieldLe bs 12 1, offset := fieldLe bs 13 3 }

/-- Flit types (Table 11.5). -/
def flitTypes : List Nat := [1, 2, 3, 4, 8, 9, 0x10, 0x11, 0x12, 0x13, 0x14, 0x15, 0x16, 0x17, 0x18]

/-- A sequenced type: every one but KEEPALIVE and NAK. -/
def sequenced (type : Nat) : Bool := decide (type ≠ 1 ∧ type ≠ 2)

/-- A header with only type, channel and destination set. -/
def FlitHdr.basic (type vc dstCtx : Nat) : FlitHdr :=
  ⟨type, vc, false, true, decide (vc ≠ 8), dstCtx, 0, 0, 0, 0, 0, 0, 0, 0⟩

/-! ### Protection (R248) -/

/-- A payload of 224 bytes. -/
def padPayload (bs : List Byte) : List Byte := sliceBytes bs 0 224

/-- A flit as transmitted: header, payload, tag, CRC. -/
def protect (key salt : List Byte) (counter : Nat) (h : FlitHdr) (payload : List Byte) : List Byte :=
  let iv := salt ++ leBytes 8 counter
  let hb := h.bytes
  let pt := padPayload payload
  let ct := if h.enc then gcmCrypt key iv pt else pt
  let tag := (if h.enc then gcmTag key iv hb ct else gcmTag key iv (hb ++ ct) []).take 12
  let body := hb ++ ct ++ tag
  body ++ leBytes 4 (crc32c body).toNat

/-- The payload of a received flit, if its tag verifies. -/
def unprotect (key salt : List Byte) (counter : Nat) (flit : List Byte) : Option (List Byte) :=
  let iv := salt ++ leBytes 8 counter
  let hb := sliceBytes flit 0 16
  let ct := sliceBytes flit 16 224
  let enc := (FlitHdr.ofBytes flit).enc
  let tag := (if enc then gcmTag key iv hb ct else gcmTag key iv (hb ++ ct) []).take 12
  if tag = sliceBytes flit 240 12 then some (if enc then gcmCrypt key iv ct else ct) else none

/-- The CRC of a flit is good. -/
def crcGood (flit : List Byte) : Bool :=
  decide (flit.length = 256 ∧ fieldLe flit 252 4 = (crc32c (sliceBytes flit 0 252)).toNat)

/-! ### Sending -/

/-- The port carries flits. -/
def Lnk.carries (l : Lnk) : Bool := l.state = .up || l.state = .degraded

/-- Eddy-buffer entries of a port (R243). -/
def eddySize : Nat := 512

/-- The credits that a receiver grants on a channel (R246). -/
def fullCredits (vc : Nat) : Nat := if vc = 8 then 64 else 512

/-- The lowest channel that owes credits, with the count that one flit returns. -/
def Lnk.dueCredits (l : Lnk) : Nat × Nat :=
  match (List.range 9).find? (fun v => 0 < (l.vc v).owed) with
  | some v => (v, min 255 (l.vc v).owed)
  | none => (0, 0)

/-- A sequenced flit may leave on channel v: credit, no WAIT_RESET, room in the eddy buffer (R243, R246). -/
def Lnk.maySend (l : Lnk) (v : Nat) : Bool :=
  l.carries && decide (0 < (l.vc v).credits) && !(l.vc v).waitReset && decide (l.eddy.length < eddySize)

/-- Bytes that wait in a channel: header and payload before protection, then the association's index. -/
def waitingBytes (a : Nat) (h : FlitHdr) (payload : List Byte) : List Byte := h.bytes ++ padPayload payload ++ leBytes 1 a

/-- The association that a waiting flit travels under. -/
def waitsUnder (w : List Byte) : Nat := fieldLe w 240 1

/-- Transmit a sequenced flit under association a (R243, R248): SEQ, ACK, credits due, protection, eddy buffer, weir. -/
def State.transmit (s : State) (i : Nat) (raw : List Byte) : State :=
  let l := s.lnk i
  let a := waitsUnder raw
  let x := l.sa a
  let d := l.dueCredits
  let h0 := FlitHdr.ofBytes raw
  let h := { h0 with seq := l.txSeq, ack := (l.rxSeq + 4095) % 4096, saGen := x.gen.toNat, crVc := d.1, crCount := d.2 }
  let bs := protect x.sendKey x.sendSalt x.sentCount h (sliceBytes raw 16 224)
  let s1 := s.updLnk i (fun l => { l with
    txSeq := (l.txSeq + 1) % 4096
    eddy := l.eddy ++ [(l.txSeq, bs)]
    vcs := Sparse.modify Vc.reset (Sparse.modify Vc.reset l.vcs h.vc (fun v => { v with credits := v.credits - 1 })) d.1
      (fun v => { v with owed := v.owed - d.2 }) })
  let s2 := (s1.updSa i a (fun x => { x with sentCount := x.sentCount + 1 })).emit (.flit i bs)
  if h.vc = 8 then s2 else (s2.takeTokens i a 1).spendEnergy a 2 1

/-- The flit at the head of a channel waits for a token of its partition in this period (R246, R299). -/
def State.awaitToken (s : State) (i a : Nat) : State :=
  s.updWeir i (fun w => { w with allocs := Sparse.modify Alloc.zero w.allocs a (fun x => { x with waited := true }) })

/-- Send what waits on channel v as far as its credits and, but for management, the partition's link weir reach (R246). -/
def State.drainVc (s : State) (i v : Nat) : Nat → State
  | 0 => s
  | n + 1 =>
    match ((s.lnk i).vc v).waiting with
    | [] => s
    | w :: ws =>
      if s.takes (pageLnk i) ∧ (s.lnk i).maySend v then
        (if v = 8 ∨ s.hasToken i (waitsUnder w) then
          (((s.updVc i v (fun c => { c with waiting := ws })).transmit i w)).drainVc i v n
        else s.awaitToken i (waitsUnder w))
      else s

/-- Send what waits on every channel. -/
def State.drainPort (s : State) (i : Nat) : State :=
  (List.range 9).foldl (fun t v => t.drainVc i v ((t.lnk i).vc v).waiting.length) s

/-- Send a flit on channel h.vc under association a; it waits where it may not leave yet, and through a retraining, in which
no flit is lost (R244). -/
def State.sendFlit (s : State) (i a : Nat) (h : FlitHdr) (payload : List Byte) : State :=
  if !(s.lnk i).carries && !(decide ((s.lnk i).state = .training) && ((s.lnk i).sa a).serves) then s
  else
    let s1 := s.updVc i h.vc (fun c => { c with waiting := c.waiting ++ [waitingBytes a h payload] })
    s1.drainVc i h.vc ((s1.lnk i).vc h.vc).waiting.length

/-- Send a management flit on VC 8 (R248). -/
def State.sendMgmt (s : State) (i type : Nat) (payload : List Byte) : State := s.sendFlit i 8 (FlitHdr.basic type 8 0) payload

/-- Send KEEPALIVE or NAK: unsequenced, under a control counter whose bit 63 is 1 (R248); ACK names the last good SEQ. -/
def State.sendControl (s : State) (i type : Nat) : State :=
  let l := s.lnk i
  if !l.carries then s
  else
    let x := l.sa 8
    let c := 2 ^ 63 + x.ctrlSent
    let d := l.dueCredits
    let h := { FlitHdr.basic type 8 0 with
      ack := (l.rxSeq + 4095) % 4096, saGen := x.gen.toNat, crVc := d.1, crCount := d.2 }
    let bs := protect x.sendKey x.sendSalt c h (leBytes 8 c)
    ((s.updSa i 8 (fun x => { x with ctrlSent := x.ctrlSent + 1 })).updVc i d.1 (fun v => { v with owed := v.owed - d.2 })).emit
      (.flit i bs)

/-- Send NAK (R243). -/
def State.sendNak (s : State) (i : Nat) : State := s.sendControl i 2

/-- Send CREDIT_REQ for channel v with a partition's epoch (R247): until CREDIT_RESET the channel sends nothing. The request
for channel 8, which it travels on itself, leaves without a credit (DEDUCED, log 26). -/
def State.sendCreditReq (s : State) (i v : Nat) (epoch : BitVec 8) : State :=
  let payload := leBytes 1 v ++ leBytes 1 epoch.toNat
  let l := s.lnk i
  let s1 := if v = 8 ∧ l.carries ∧ l.eddy.length < eddySize ∧ s.takes (pageLnk i) then
      s.transmit i (waitingBytes 8 (FlitHdr.basic 3 8 0) payload) else s
  let s2 := s1.updVc i v (fun c => { c with credits := 0, waitReset := true, epoch := epoch, requests := c.requests + 1 })
  if v = 8 then s2 else s2.sendMgmt i 3 payload

/-! ### Closing an association -/

/-- SA_STATE code. -/
def SaState.code : SaState → Nat
  | .idle => 0 | .exchanging => 1 | .open_ => 2 | .rekeying => 3 | .closed => 4 | .failed => 5

/-- The rope position that a port's peer reports, if the port is a mesh port or stands in for one (R240). -/
def State.meshPeer (s : State) (i : Nat) : Option Nat :=
  let l := s.lnk i
  let mesh := decide (i < 15) || (decide (i = 23) && l.takeoverEn && decide (l.takeover.toNat < 15))
  if mesh && l.peerValid then some l.peerPos.toNat else none

/-- An operation that needs a flit from rope position q and was accepted while its association was OPEN (R259, R260,
R371). -/
def OpRec.needs (o : OpRec) (q : Nat) : Bool :=
  let op := dOp o.desc
  !o.done &&
  (if op = 0x20 then decide (Sparse.get 0 o.coll.ordinals q ≠ 0) && !o.coll.stageReady
   else if op = 0x21 then decide (Sparse.get 0 o.coll.ordinals q ≠ 0)
   else decide (op = 0x50 ∧ (dSub o.desc = 1 ∨ dSub o.desc = 4) ∧ dField o.desc 32 1 = q))

/-- End operations of a partition with a status; shadows and staging go. -/
def State.loseOps (s : State) (p : Nat) (st : BitVec 8) (f : OpRec → Bool) : State :=
  s.updPrt p (fun v => { v with ops := v.ops.map (fun o =>
    if f o then { o with done := true, status := st, coll := { Coll.zero with ordinals := o.coll.ordinals } } else o) })

/-- The peer at position q is lost to partition p (R259): the operations that need it end, with the collectives of the
same STEP that still run. -/
def State.losePeer (s : State) (p q : Nat) : State :=
  let v := s.prt p
  let steps := ((v.ops.filter (fun o => o.needs q && decide (dOp o.desc = 0x20 ∨ dOp o.desc = 0x21))).map (fun o => dStep o.desc))
  s.loseOps p stPeerLost (fun o => o.needs q ||
    (!o.done && decide (dOp o.desc = 0x20 ∧ o.phase = .started) && !o.coll.stageReady && !o.coll.waiting && steps.contains (dStep o.desc)))

/-- The keys of an association are erased, and SA_GEN rises (R250). -/
def Sa.close (x : Sa) (state : SaState) : Sa :=
  { x with state := state, gen := x.gen + 1, sendKey := [], recvKey := [], sendSalt := [], recvSalt := [], oldRecvKey := [],
           oldRecvSalt := [], switched := true, peerCtx := 0#16, digests := [], gcmFails := 0, colls := 0,
           nonce := [], ephemeral := 0, openPeer := false, peerR := [], peerNonce := [], peerReport := [] }

/-- The flits of association a that still wait on a port go with its keys (R12, R18). -/
def State.dropWaiting (s : State) (i a : Nat) : State :=
  (List.range 9).foldl (fun t v =>
    t.updVc i v (fun c => { c with waiting := c.waiting.filter (fun w => waitsUnder w ≠ a) })) s

/-- A DIGEST that waits for a replica on port i records it as absent (R261). -/
def State.dropReplica (s : State) (i p : Nat) : State :=
  s.updPrt p (fun v => { v with ops := v.ops.map (fun o =>
    if dOp o.desc = 0x42 then { o with coll := { o.coll with checked := o.coll.checked.filter (· ≠ i) } } else o) })

/-- A close leaves the association as it is: it does not serve, and it is IDLE, stands as the close would leave it, or was
closed by its own side or failed where only the peer is lost (R251: it stays so until OPEN is written). -/
def Sa.staysClosed (x : Sa) (state : SaState) : Bool :=
  !x.serves && (x.state = state || x.state = .idle || (state = .exchanging && (x.state = .closed || x.state = .failed)))

/-- Close partition association a of port i: CLOSED by the local side, EXCHANGING by the peer's loss or reset, FAILED
(R250, R251). The credits of its channel are invalid (R259), what waits to be sent under it goes, and the operations that
need the peer end. `lose` is false where the local partition's own reset or teardown ends them otherwise. -/
def State.closeSa (s : State) (i a : Nat) (state : SaState) (lose : Bool) : State :=
  let x := (s.lnk i).sa a
  if x.staysClosed state then s
  else
    let s0 := ((s.updSa i a (fun x => x.close state)).dropWaiting i a).dropReplica i a
    let s2 := if x.serves then s0.sendCreditReq i x.peerPart.toNat (s.prt a).epoch else s0
    match s2.meshPeer i with
    | none => s2
    | some q =>
      let s3 := s2.updPrt a (fun v => { v with earlyCommits := v.earlyCommits.filter (fun c => c.1 ≠ q),
                                               earlyColl := v.earlyColl.filter (fun c => c.1 ≠ q) })
      if lose && x.serves then s3.losePeer a q else s3

/-! ### Receiving -/

/-- What receipt of a flit comes to: dropped, or delivered with header, payload and association. -/
inductive Rx where
  | drop (s : State)
  | deliver (h : FlitHdr) (payload : List Byte) (a : Nat) (s : State)
deriving Repr

/-- The sequence numbers from ACK back over the eddy buffer leave it (R243). -/
def ackEddy (eddy : List (Nat × List Byte)) (ack : Nat) : List (Nat × List Byte) :=
  match eddy.find? (fun e => e.1 = ack) with
  | some _ => ((eddy.dropWhile (fun e => e.1 ≠ ack)).drop 1)
  | none => eddy

/-- ACK and the credits that a good flit returns (R243, R246). -/
def State.takeAck (s : State) (i : Nat) (h : FlitHdr) : State :=
  let l := s.lnk i
  let eddy := ackEddy l.eddy h.ack
  let s1 := s.updLnk i (fun l => { l with eddy := eddy, noProgress := if eddy.length < l.eddy.length then 0 else l.noProgress })
  let c := (s1.lnk i).vc h.crVc
  let s2 := if h.crCount = 0 ∨ c.waitReset then s1
    else s1.updVc i h.crVc (fun c => { c with credits := min (fullCredits h.crVc) (c.credits + h.crCount) })
  s2.drainPort i

/-- Drop a flit and send NAK (R243). -/
def State.rejectFlit (s : State) (i : Nat) : State := s.sendNak i

/-- A flit whose tag fails is dropped with NAK; the second in a row of the current generation closes the association as
FAILED (R251). -/
def State.gcmFail (s : State) (i a : Nat) (h : FlitHdr) : State :=
  if h.saGen ≠ ((s.lnk i).sa a).gen.toNat then s.rejectFlit i else
  let s1 := s.updSa i a (fun x => { x with gcmFails := x.gcmFails + 1 })
  let s2 := if 2 ≤ ((s1.lnk i).sa a).gcmFails then
      let t := (if a = 8 then s1.updSa i 8 (fun x => { x with state := .failed }) else s1.closeSa i a .failed true)
      (t.updSa i a (fun x => { x with cause := 5#3 })).raiseErr (pageLnk i) 4 (BitVec.ofNat 32 h.seq)
    else s1
  s2.rejectFlit i

/-- The key and salt that a flit of SA_GEN g arrives under: the current ones, or the old ones until the sender has switched
(R250). -/
def Sa.recvPair (x : Sa) (g : Nat) : Option (List Byte × List Byte) :=
  if !x.serves then none
  else if g = x.gen.toNat then some (x.recvKey, x.recvSalt)
  else if !x.switched && (g + 1) % 256 = x.gen.toNat then some (x.oldRecvKey, x.oldRecvSalt)
  else none

/-- A sequenced flit is accepted by the link: SEQ moves on, its credit is owed, ACK and credits take effect. -/
def State.acceptSeq (s : State) (i : Nat) (h : FlitHdr) : State :=
  ((s.updLnk i (fun l => { l with
      rxSeq := (l.rxSeq + 1) % 4096
      vcs := Sparse.modify Vc.reset l.vcs h.vc (fun v => { v with owed := v.owed + 1 }) })).progress (pageLnk i) 1).takeAck i h

/-- The partition association of a port that sends on channel v: its peer partition is v (R248). -/
def Lnk.saOnVc (l : Lnk) (v : Nat) : Option Nat :=
  (List.range 8).find? (fun a => (l.sa a).serves && decide ((l.sa a).peerPart.toNat = v))

/-- Receive a flit on port i (R242, R243, R248, R250, R251). -/
def State.receive (s : State) (i : Nat) (flit : List Byte) : Rx :=
  let l := s.lnk i
  let h := FlitHdr.ofBytes flit
  if !l.carries then .drop s
  else if !crcGood flit then .drop (s.rejectFlit i)
  else if !flitTypes.contains h.type then .drop (s.raiseErr (pageLnk i) 6 (BitVec.ofNat 32 h.seq))
  else if !sequenced h.type then
    let x := l.sa 8
    let c := fieldLe flit 16 8
    if !x.serves ∨ h.saGen ≠ x.gen.toNat then .drop s
    else match unprotect x.recvKey x.recvSalt c flit with
      | none => .drop (s.gcmFail i 8 h)
      | some pl =>
        if c < 2 ^ 63 ∨ c < 2 ^ 63 + x.ctrlRecv then .drop s
        else .deliver h pl 8 ((s.updSa i 8 (fun x => { x with ctrlRecv := c - 2 ^ 63 + 1, gcmFails := 0 })).takeAck i h)
  else if h.seq ≠ l.rxSeq then .drop (s.rejectFlit i)
  else
    let a := if h.vc < 8 then h.vc else 8
    let x := l.sa a
    match (if 8 < h.vc then none else x.recvPair h.saGen) with
    | none => .drop (s.acceptSeq i h)
    | some kp =>
      if a < 8 ∧ h.dstCtx ≠ (s.prt a).ctxId a then .drop (s.acceptSeq i h)
      else match unprotect kp.1 kp.2 x.recvCount flit with
        | none => .drop (s.gcmFail i a h)
        | some pl => .deliver h pl a ((s.updSa i a (fun x =>
            { x with recvCount := x.recvCount + 1, gcmFails := 0, switched := x.switched || decide (h.saGen = x.gen.toNat) })).acceptSeq i h)

/-- Receive a flit that the command names as one of `type`; another type is not this command. -/
def State.onFlit (s : State) (i : Nat) (flit : List Byte) (type : Nat)
    (f : FlitHdr → List Byte → Nat → State → State) : State :=
  if (FlitHdr.ofBytes flit).type ≠ type then s
  else match s.receive i flit with
    | .drop t => t
    | .deliver h pl a t => f h pl a t

end Sys2Proof.Machine
end

