-- ==== Sys2Proof/Machine/Recovery.lean ====
section
/-! DEFINITION. Teardown (R297, R298, Table 13.3), context and partition resets (R355, R356, Tables 16.3 to 16.5, R358), and
what each clears: queues, windows, operations, associations, engines, scratchpads, update dies, key slots, pool (R65, R135,
R186, R195, R229). -/

namespace Sys2Proof.Machine

/-! ### Pages of a partition -/

/-- The pages whose OWNER names partition p (Table 18.4). -/
def State.ownedPages (s : State) (p : Nat) : List Nat :=
  let us := s.partUnits p
  let cs := s.partCores p
  [pagePrt p, 0x20 + p, pageWei (40 + p)] ++ us.map pageBas ++ us.map pageMce ++ us.map pageUpd
    ++ us.flatMap (fun k => (List.range 4).map (fun j => pagePool (4 * k + j))) ++ cs.map pageCore ++ cs.map pageVec
    ++ cs.map pageSpd ++ cs.flatMap (fun c => (List.range 16).map (pageEng c))

/-- PRT.STATUS.HUNG (R352). -/
def State.prtHung (s : State) (p : Nat) : Bool := (s.ownedPages p).any (fun n => (s.hdr n).hung)

/-- A reset ends the work of hung blocks (R350); `k` is how far their hang has escalated (Table 16.2). -/
def State.clearHung (s : State) (p : Nat) (k : BitVec 2) : State :=
  (s.ownedPages p).foldl (fun t n =>
    if (t.hdr n).hung then t.updHdr n (fun h => { h with hung := false, escalation := k }) else t) s

/-! ### Parts of the sequences -/

/-- Step 1: every queue's ENABLE and every window's EN clears. -/
def State.stopAccess (s : State) (p : Nat) : State :=
  let s1 := (List.range 16).foldl (fun t n => if ((t.prt p).queue n).enable then t.stopQueue p n else t) s
  s1.updPrt p (fun v => { v with
    wins := (List.range 16).foldl (fun m n => Sparse.modify Win.zero m n (fun w => { w with en := false })) v.wins
    riskDue := false })

/-- Reasons of SA_CLOSE that this model sends (log 26). -/
def closeLocal : Nat := 1
/-- A context teardown. -/
def closeTeardown : Nat := 2
/-- A context or partition reset. -/
def closeReset : Nat := 3
/-- A drain. -/
def closeDrain : Nat := 4

/-- Close the association of partition p on port i and send SA_CLOSE (R250). -/
def State.sendClose (s : State) (i p reason : Nat) (lose : Bool) : State :=
  let x := (s.lnk i).sa p
  if x.state = .idle ∨ x.state = .closed then s
  else (s.sendMgmt i 9 (leBytes 1 p ++ leBytes 1 reason)).closeSa i p .closed lose

/-- The credits that partition p's side of port i still holds for its peer's channel carry an epoch that has passed:
CREDIT_REQ asks for them anew (R247). A serving association has asked as it closed. -/
def State.renewCredits (s : State) (i p : Nat) : State :=
  let l := s.lnk i
  let v := (l.sa p).peerPart.toNat
  if l.carries ∧ (l.sa p).state ≠ .idle ∧ l.saOnVc v = none ∧ (l.vc v).waitReset = false then s.sendCreditReq i v (s.prt p).epoch else s

/-- SA_CLOSE on every association of the partition, and CREDIT_REQ on every channel of it (Tables 13.3, 16.4). -/
def State.closeAll (s : State) (p reason : Nat) : State :=
  (List.range 24).foldl (fun t i => (t.sendClose i p reason false).renewCredits i p) s

/-- Engines, scratchpads, vector engines and update dies of the partition are cleared (R65, R135, R186, R405). -/
def State.clearBlocks (s : State) (p : Nat) : State :=
  let cs := s.partCores p
  let mine (k : Nat) : Bool := cs.contains k
  let s1 := { s with
    engs := (s.engs.filter (fun (e : Nat × Eng) => !mine (e.1 / 16) || e.2.state = 7#4)).map
      (fun (e : Nat × Eng) => if mine (e.1 / 16) then (e.1, { Eng.zero with state := 7#4 }) else e)
    partials := s.partials.filter (fun x => x.part ≠ p)
    spd := Sparse.dropKeys s.spd (fun k => mine (k / 2 ^ 22))
    spdBad := Sparse.dropKeys s.spdBad (fun k => mine (k / 2 ^ 19))
    spdDir := Sparse.dropKeys s.spdDir (fun k => mine (k / 128))
    spdDirBad := Sparse.dropKeys s.spdDirBad (fun k => mine (k / 128))
    vecState := s.vecState.filter (fun (e : Nat × BitVec 3) => !mine e.1 || e.2 = 5#3) }
  (s1.partUnits p).foldl (fun t k => t.updUpd k (fun u =>
    { Upd.reset with codePermit := u.codePermit, coresInService := u.coresInService, strict := u.strict,
                     state := if u.state = 7#4 then 7#4 else 0#4 })) s1

/-- Everything that a context holds and that its end or a reset discards (Table 16.3). -/
def Prt.dropContext (v : Prt) : Prt :=
  { v with versions := [], streams := [], offbufs := [], hists := [], digests := [], ops := [], commits := [], earlyCommits := [],
           voids := [], ordinals := [], earlyColl := [], collEnds := [], lastCommitStep := 0, anyCommit := false, restoreState := 0#3, frozenMismatch := false,
           restoreStep := 0, restoreLoss := [], rxBytes := 0 }

/-- Every key slot of the partition is drained, retired and freed (R229). -/
def State.freeKeys (s : State) (p : Nat) : State :=
  let s1 := (s.partUnits p).foldl (fun t k => t.updMce k (fun e => { e with slots := [] })) s
  [8, 9].foldl (fun t m => t.updMce m (fun e => { e with slots := Sparse.dropKeys e.slots (fun k => decide (k / 8 = p)) })) s1

/-- The pool slices of the partition are zeroised (R195). -/
def State.zeroPool (s : State) (p : Nat) : State :=
  let mine (k : Nat) : Bool := (s.partCores p).contains k
  { s with pool := Sparse.dropKeys s.pool (fun k => mine (k / 2 ^ 31)), poolBad := Sparse.dropKeys s.poolBad (fun k => mine (k / 2 ^ 25)) }

/-- PRT_STATE of a partition at rest. -/
def Prt.restState (v : Prt) : PrtState := if v.hasCtx then .active else if v.party.isSome then .setup else .empty

/-! ### Teardown -/

/-- The generation after g (R292). -/
def nextGen (g : BitVec 13) : BitVec 13 := if g = 8191#13 then 1#13 else g + 1

/-- Outstanding host reads of the partition complete, and their data is discarded (Table 13.3, step 5). -/
def State.dropReads (s : State) (p : Nat) : State :=
  [false, true].foldl (fun t h => t.updHst h (fun x => { x with reads := x.reads.filter (fun r => r.part ≠ p) })) s

/-- Steps 1 to 7 of Table 13.3. -/
def State.tearDown (s : State) (p : Nat) (party : Bool) : State :=
  let s1 := (s.stopAccess p).updPrt p (fun v => { v with
    teardown := .busy, teardownParty := party, state := .tearing, gen := nextGen v.gen, epoch := v.epoch + 1 })
  let s2 := ((s1.closeAll p closeTeardown).abortAll p stTeardown).updPrt p Prt.dropContext
  (((s2.clearBlocks p).dropReads p).freeKeys p).zeroPool p

/-- The party's policy, keys and seeds are erased, with what the MGC set from them and its last replica outcome (R298, R330,
R343). -/
def State.eraseParty (s : State) (p : Nat) : State :=
  (s.partUnits p).foldl (fun t k => t.updUpd k (fun u => { u with codePermit := false, strict := false }))
    (s.updPrt p (fun v => { v with party := none, paceRequired := false, lastOutcome := none }))

/-- The journal and the slots are cleared, and the partition becomes EMPTY (R286, R298, R399, R403). -/
def State.becomeEmpty (s : State) (p : Nat) : State :=
  let s1 := s.updPrt p (fun v => { v with
    jnl := [], jnlHead := 0, slots := [], readDone := false, clearing := false, hasCtx := false, state := .empty,
    teardown := .done, tt := .zero, ttKey := 0#6, ttEntries := 0, fmt := .zero, fmtKey := 0#6, fmtEntries := 0,
    stage := .zero, stagePages := 0, lend := [] })
  ((s1.ownedPages p).foldl (fun t n => t.updHdr n (fun h => { h with ce := 0#32, ue := 0#32 })) s1).msixVf p 18

/-- A teardown of a context or of a party starts and runs as far as it can (R297, R298). -/
def State.startTeardown (s : State) (p : Nat) (party : Bool) : State :=
  let v := s.prt p
  let refuse := s.raiseErr (pagePrt p) 2 (BitVec.ofNat 32 v.jnlHead)
  if v.teardown = .busy then refuse
  else if v.ctxReset = .busy ∨ v.prtReset = .busy then s.updPrt p (fun v => { v with pendingTeardown := some party })
  else if !v.hasCtx then
    (if party ∧ v.state = .setup then
      let t := ((s.stopAccess p).updPrt p (fun v => { v with teardownParty := true, epoch := v.epoch + 1 })).closeAll p closeTeardown
      ((((t.clearBlocks p).freeKeys p).eraseParty p).zeroPool p).becomeEmpty p
     else refuse)
  else
    let t := s.tearDown p party
    if party then ((t.eraseParty p).zeroPool p).updPrt p (fun v => { v with clearing := true })
    else (t.updPrt p (fun v => { v with teardown := .done, state := .active })).msixVf p 18

/-- CONTEXT_TEARDOWN (R297): a write of TEARDOWN.GO. -/
def execContextTeardown (via : Via) (p : Nat) (s : State) : Host.Outcome State Fault Refusal :=
  .next (s.viaPrt via p (fun s => s.startTeardown p false))

/-- PARTY_TEARDOWN (R298): a write of GO with PARTY. -/
def execPartyTeardown (via : Via) (p : Nat) (s : State) : Host.Outcome State Fault Refusal :=
  .next (s.viaPrt via p (fun s => s.startTeardown p true))

/-- READ_DONE (R286): during a party teardown the party has read its journal, and says so through its VF. -/
def execReadDone (via : Via) (p : Nat) (value : Reg) (s : State) : Host.Outcome State Fault Refusal :=
  .next (s.viaPrt via p (fun s =>
    if via ≠ .mgc ∧ bitAt value 0 ∧ (s.prt p).clearing then s.becomeEmpty p else s))

/-- JOURNAL_CLEAR_TIMEOUT (R286). -/
def execJournalClearTimeout (p : Nat) (s : State) : Host.Outcome State Fault Refusal :=
  .next (if (s.prt p).clearing then s.becomeEmpty p else s)

/-! ### Resets -/

/-- A reset may start: no teardown, and the device neither drains nor is drained (R358). -/
def State.mayReset (s : State) (p : Nat) : Bool :=
  let v := s.prt p
  decide (v.state ≠ .unassigned ∧ v.teardown ≠ .busy ∧ s.dev.state ≠ .draining ∧ s.dev.state ≠ .drained)

/-- Steps 1 to 4 of Table 16.4. -/
def State.resetContext (s : State) (p : Nat) : State :=
  let s1 := (s.stopAccess p).updPrt p (fun v => { v with state := .resetting, epoch := v.epoch + 1 })
  let s2 := ((s1.closeAll p closeReset).abortAll p stReset).updPrt p Prt.dropContext
  s2.clearBlocks p

/-- A teardown that waited for a reset starts (R297). -/
def State.afterReset (s : State) (p : Nat) : State :=
  match (s.prt p).pendingTeardown with
  | none => s
  | some party => (s.updPrt p (fun v => { v with pendingTeardown := none })).startTeardown p party

/-- Step 5 of Table 16.4. -/
def State.endContextReset (s : State) (p : Nat) : State :=
  ((s.updPrt p (fun v => { v with ctxReset := .done, state := v.restState })).msixVf p 18).afterReset p

/-- A context reset (R355), started by the party or by the MGC; `confirmed`: every block confirms within its time. -/
def State.startContextReset (s : State) (p : Nat) (byMgc confirmed : Bool) : State :=
  let v := s.prt p
  if !s.mayReset p ∨ v.ctxReset = .busy ∨ v.prtReset = .busy then s
  else
    let s1 := ((s.updPrt p (fun v => { v with ctxReset := .busy, ctxByMgc := byMgc })).resetContext p).clearHung p 1#2
    if confirmed then s1.endContextReset p else s1

/-- CONTEXT_RESET (R355): a write of CTX_RESET.GO. -/
def execContextReset (via : Via) (p : Nat) (confirmed : Bool) (s : State) : Host.Outcome State Fault Refusal :=
  .next (s.viaPrt via p (fun s => s.startContextReset p (decide (via = .mgc)) confirmed))

/-- The port is used by partition p alone (R291). -/
def State.privatePort (s : State) (i p : Nat) : Bool := decide ((s.lnk i).mask.toNat = 2 ^ p)

/-- Every association of a port closes, its eddy buffer, channels and sequence state go (R245). -/
def State.dropPort (s : State) (i : Nat) : State :=
  let s1 := (List.range 8).foldl (fun t a => t.closeSa i a .exchanging true) s
  s1.updLnk i (fun l => { l with eddy := [], lambdaActive := 0#8, txSeq := 0, rxSeq := 0, vcs := [], noProgress := 0,
                                 sas := Sparse.modify Sa.reset l.sas 8 (fun x => x.close .closed) })

/-- A port starts training (R237); PF0 vector 5. -/
def State.trainPort (s : State) (i : Nat) : State :=
  ((s.updLnk i (fun l => { l with state := .training, lambdaActive := 0#8, retrains := satAdd l.retrains 1 }))).msixPf0 5

/-- Steps 5 to 7 of Table 16.5: keys, pool, and the retraining begins. -/
def State.deepReset (s : State) (p : Nat) : State :=
  let s1 := ((s.freeKeys p).zeroPool p)
  let s2 := (s1.partUnits p).foldl (fun t k => t.updBas k (fun b => { b with state := 3#2 })) s1
  (List.range 24).foldl (fun t i =>
    if t.privatePort i p && decide ((t.lnk i).state ≠ .dark) then (t.dropPort i).trainPort i else t) s2

/-- A partition reset (R356, R358): a context reset that is BUSY turns into it. -/
def State.startPartitionReset (s : State) (p : Nat) (byMgc : Bool) : State :=
  let v := s.prt p
  if !s.mayReset p ∨ v.prtReset = .busy then s
  else
    let s1 := s.updPrt p (fun v => { v with prtReset := .busy, prtByMgc := byMgc })
    let s2 := if v.ctxReset = .busy then s1 else s1.resetContext p
    (s2.deepReset p).clearHung p 2#2

/-- PARTITION_RESET (R356): a write of PRT_RESET.GO. -/
def execPartitionReset (via : Via) (p : Nat) (s : State) : Host.Outcome State Fault Refusal :=
  .next (s.viaPrt via p (fun s => s.startPartitionReset p (decide (via = .mgc))))

/-- Step 8 of Table 16.5. -/
def State.endPartitionReset (s : State) (p : Nat) : State :=
  let s1 := (s.partUnits p).foldl (fun t k => t.updBas k (fun b => { b with state := 2#2 })) s
  ((s1.updPrt p (fun v => { v with
    prtReset := .done, ctxReset := if v.ctxReset = .busy then .done else v.ctxReset, state := v.restState })).msixVf p 18).afterReset p

end Sys2Proof.Machine
end

