-- ==== Sys2Proof/Machine/Windows.lean ====
section
/-! DEFINITION. What a party reaches besides its queues: completion slots (R277, R279), the journal window (R285), tensor
windows (R281, R282, R295, R404) and the base registers (R403). -/

namespace Sys2Proof.Machine

/-! ### Slots and journal -/

/-- SLOT_RELEASE (R279): a write to RELEASE that equals GEN frees a DONE slot. -/
def execSlotRelease (via : Via) (p slot : Nat) (value : Reg) (s : State) : Host.Outcome State Fault Refusal :=
  .next (s.viaPrt via p (fun s => s.updPrt p (fun v =>
    let c := v.slot slot
    if slot < 4096 ∧ c.state = .done ∧ c.gen = value then
      { v with slots := Sparse.set CSlot.zero v.slots slot { c with state := .free } }
    else v)))

/-- The held entry whose sequence number ends in the given 32 bits (R285); none reads as 0. -/
def Prt.jnlByLow (v : Prt) (low : Nat) : List Byte :=
  let back := (v.jnlHead + 2 ^ 32 - low) % 2 ^ 32
  if back < v.jnlHead then (v.jnlEntry (v.jnlHead - back)).getD [] else []

/-- JNL_WINDOW_WRITE (R285). -/
def execJnlWindowWrite (via : Via) (p : Nat) (value : Reg) (s : State) : Host.Outcome State Fault Refusal :=
  .next (s.viaPrt via p (fun s => s.updPrt p (fun v =>
    { v with jnlWindowSeq := value, jnlWindow := v.jnlByLow value.toNat })))

/-! ### Tensor windows -/

/-- Bytes of one window. -/
def windowSize : Nat := 2 ^ 20

/-- The tenant served through windows (Table 14.6); 0xFF is none. -/
def Party.windowTenant (q : Party) : Nat := fieldLe q.policy 9 1

/-- The policy lets windows show a handle (R295). -/
def Prt.windowGranted (v : Prt) (h : Nat) : Bool :=
  match v.party with | some q => decide (q.windowTenant ≠ 0xFF) && q.granted h q.windowTenant | none => false

/-- A window may show the tensor of an entry (R404; log 27: only a well-formed entry has an address). -/
def State.windowMay (s : State) (p h : Nat) (e : Entry) : Bool :=
  let v := s.prt p
  eValid e && decide (eOwner e = v.ctxId p ∧ v.hasCtx) && decide (eTier e ≠ 2) && v.windowGranted h
    && v.wellFormed (s.coreCount p) (s.partUnits p).length e

/-- WIN_HANDLE_WRITE (R404). -/
def State.writeWinHandle (s : State) (p n : Nat) (value : Reg) : State :=
  let h := value.toNat % 65536
  let set (t : State) (f : Win → Win) : State := t.updPrt p (fun v => { v with wins := Sparse.modify Win.zero v.wins n f })
  if !bitAt value 16 then set s (fun w => { w with handle := BitVec.ofNat 16 h, en := false })
  else
    let r := s.readEntry p h
    let ok := match r.1 with | some e => r.2.windowMay p h e | none => false
    if ok then set r.2 (fun w => ⟨BitVec.ofNat 16 h, true, w.page, r.1.getD 0#512, w.page⟩)
    else (set r.2 (fun w => { w with handle := BitVec.ofNat 16 h, en := false })).raiseErr (pagePrt p) 1
      (BitVec.ofNat 32 (s.prt p).jnlHead)

/-- WIN_HANDLE_WRITE (R404). -/
def execWinHandleWrite (via : Via) (p n : Nat) (value : Reg) (s : State) : Host.Outcome State Fault Refusal :=
  .next (s.viaPrt via p (fun s => s.writeWinHandle p n value))

/-- Window n. -/
def Prt.win (v : Prt) (n : Nat) : Win := Sparse.get Win.zero v.wins n

/-- The place of byte `pos` of a tensor's data: core and slice offset in the pool, else an address (R191). -/
def bytePlace (cores : Nat) (e : Entry) (pos : Nat) : Nat × Nat :=
  let a := eAddr e
  if eTier e ≠ 0 then (0, a + pos)
  else match poolPlace a with
    | 1 => let g := poolGranule a; (pos / g % cores, poolOff a + pos / (g * cores) * g + pos % g)
    | 2 => (0, poolOff a + pos)
    | _ => (poolCore a, poolOff a + pos)

/-- A run holds the byte at a place. -/
def MemRun.holds (cores tier : Nat) (r : MemRun) (x : Nat × Nat) : Bool :=
  decide (r.tier = tier ∧ 0 < r.size) &&
  (if tier = 0 then let y := poolSpan cores r.addr r.size x.1; decide (y.1 ≤ x.2 ∧ x.2 < y.2)
   else decide (r.addr ≤ x.2 ∧ x.2 < r.addr + r.size))

/-- Some byte [pos, pos + n) of an entry's data lies in one of the runs. -/
def touches (cores : Nat) (e : Entry) (pos n : Nat) (rs : List MemRun) : Bool :=
  (List.range (min n (eDataBytes e - pos))).any (fun i => rs.any (fun r => r.holds cores (eTier e) (bytePlace cores e (pos + i))))

/-- One request inside one window: window, first byte of the tensor's data, length. -/
structure WinPart where
  n : Nat
  pos : Nat
  len : Nat
deriving DecidableEq, Repr

/-- A request cut at window borders (R404). -/
def Prt.winParts (v : Prt) : Nat → Nat → Nat → List WinPart
  | 0, _, _ => []
  | k + 1, off, len =>
    if len = 0 then []
    else
      let here := min len (windowSize - off % windowSize)
      let n := off / windowSize
      ⟨n, 4096 * (v.win n).livePage.toNat + off % windowSize, here⟩ :: v.winParts k (off + here) (len - here)

/-- The parts of a request. -/
def Prt.winRequest (v : Prt) (off len : Nat) : List WinPart := v.winParts (len / windowSize + 2) off len

/-- Every window of a request is live. -/
def Prt.winLive (v : Prt) (ps : List WinPart) : Bool := ps.all (fun x => decide (x.n < 16) && (v.win x.n).en)

/-- TLP payload tokens of a host port, in the direction that the payload takes (Table 13.4). -/
def State.chargePort (s : State) (h : Bool) (p len : Nat) (out : Bool) : State :=
  s.takeTokensDir (24 + portIdx h) p (ceilDiv len 256) out

/-- Read one part: its bytes, zeros past the end of the data; none when it is busy or poisoned (R281, R404). -/
def State.readPart (s : State) (p : Nat) (x : WinPart) : Option (List Byte) × State :=
  let e := ((s.prt p).win x.n).entry
  let n := min x.len (eDataBytes e - x.pos)
  let r := s.loadRun p 0 [] (dataPlace 0 e 0 2) x.pos n
  (if anyBad r.1 then none else some (plainBytes r.1 ++ zeros (x.len - n)), r.2)

/-- The runs of a tensor in both its version slots. -/
def tensorRuns (e : Entry) : List MemRun := if eVersions e then slotRuns e 0 ++ slotRuns e 1 else slotRuns e 0

/-- The runs that a RESTORE may write (R372): the context's basin tensors, the cursor and the format policy table. Which of
the tensors its image holds is not known at acceptance, so all of them count (DESIGN CHOICE, log 57). -/
def State.restoreRuns (s : State) (p : Nat) : List MemRun :=
  let v := s.prt p
  ⟨1, v.fmt.addr.toNat, 16 * v.fmtEntries⟩ ::
    ((s.passing p ((List.range v.ttEntries).filter (· ≠ 0))).1.filter (fun x => eTier x.2 = 1 ∨ x.1 = 2)).flatMap
      (fun x => tensorRuns x.2)

/-- The runs that a STEP_COMMIT reads or writes beside its descriptor (R142): the format policy table, FORMAT in the tensor
table, and the ring of every entry. -/
def State.commitRuns (s : State) (p : Nat) : List MemRun :=
  let v := s.prt p
  [⟨1, v.fmt.addr.toNat, 16 * v.fmtEntries⟩, ⟨1, v.tt.addr.toNat, 64 * v.ttEntries⟩] ++
    ((List.range v.fmtEntries).filter (s.fmtLegal p)).flatMap (fun i =>
      match (s.readEntry p (fieldLe (plainBytes (s.fmtEntry p i).1) 6 2)).1 with
      | some e => slotRuns e 0
      | none => [])

/-- The destinations of an operation: those of its descriptor, and what a RESTORE writes. -/
def State.busyRuns (s : State) (p : Nat) (o : OpRec) : List MemRun :=
  o.writes ++ (if isRestore o.desc then s.restoreRuns p else [])

/-- Everything an operation reads or writes. -/
def State.usedRuns (s : State) (p : Nat) (o : OpRec) : List MemRun :=
  o.runs ++ (if isRestore o.desc then s.restoreRuns p
    else if dOp o.desc = 0x21 then s.commitRuns p
    else if o.copying then [⟨1, (s.prt p).fmt.addr.toNat, 16 * (s.prt p).fmtEntries⟩] else [])

/-- Some byte of a part is busy: the destination of an operation that has not completed (R281). -/
def State.partBusy (s : State) (p : Nat) (x : WinPart) : Bool :=
  touches (s.coreCount p) ((s.prt p).win x.n).entry x.pos x.len ((s.prt p).ops.flatMap (s.busyRuns p))

/-- Some byte of a part is read or written by an operation that has not completed (R282). -/
def State.partUsed (s : State) (p : Nat) (x : WinPart) : Bool :=
  touches (s.coreCount p) ((s.prt p).win x.n).entry x.pos x.len ((s.prt p).ops.flatMap (s.usedRuns p))

/-- A request to a window that is not live (R404). -/
def State.refuseWindow (s : State) (p : Nat) (port : Bool) : State :=
  (s.raiseErr (pagePrt p) 1 (BitVec.ofNat 32 (s.prt p).jnlHead)).emit (.unsupported port (p + 1))

/-- A served window read: UR, a poisoned completion, or the bytes. -/
def State.readWindow (s : State) (port : Bool) (p off len : Nat) : State :=
  let ps := (s.prt p).winRequest off len
  if !(s.prt p).winLive ps then s.refuseWindow p port
  else if ps.any (s.partBusy p) then
    ((s.updHst port (fun h => { h with rdEarly := Sparse.modify 0 h.rdEarly p (fun c => min 0xFFFFFFFF (c + 1)) })).chargePort
      port p len true).emit (.completion port (p + 1) none)
  else
    let r := ps.foldl (fun (t : Option (List Byte) × State) x =>
      let y := t.2.readPart p x
      (match t.1, y.1 with | some a, some b => some (a ++ b) | _, _ => none, y.2)) (some [], s)
    (r.2.chargePort port p len true).emit (.completion port (p + 1) r.1)

/-- WINDOW_READ (R281): only the partition's VF reaches its windows (R395, R396). -/
def execWindowRead (via : Via) (p offset len : Nat) (s : State) : Host.Outcome State Fault Refusal :=
  .next (match via with
    | .vf port _ _ => s.viaPrt via p (fun s => s.readWindow port p offset len)
    | .pf0 port => if (s.hst port).link = .up then s.emit (.completion port 0 (some (zeros len))) else s
    | .mgc => s)

/-- A served window write: dropped in full while an operation uses its bytes, else applied (R282). -/
def State.writeWindow (s : State) (port : Bool) (p off : Nat) (bs : List Byte) : State :=
  let ps := (s.prt p).winRequest off bs.length
  if !(s.prt p).winLive ps then s.refuseWindow p port
  else if ps.any (s.partUsed p) then
    s.updHst port (fun h => { h with wrEarly := Sparse.modify 0 h.wrEarly p (fun c => min 0xFFFFFFFF (c + 1)) })
  else
    (ps.foldl (fun (t : State × List Byte) x =>
      let e := ((t.1.prt p).win x.n).entry
      let w := (t.2.take x.len).take (eDataBytes e - x.pos)
      ((t.1.storeRun p [] (dataPlace 0 e 0 2) x.pos (w.map wPut)).1, t.2.drop x.len)) (s, bs)).1.chargePort port p bs.length false

/-- WINDOW_WRITE (R282). -/
def execWindowWrite (via : Via) (p offset : Nat) (bytes : List Byte) (s : State) : Host.Outcome State Fault Refusal :=
  .next (match via with
    | .vf port _ _ => s.viaPrt via p (fun s => s.writeWindow port p offset bytes)
    | _ => s)

/-! ### Base registers (R403) -/

/-- Hold a low half. -/
def Base.hold (b : Base) (v : Reg) : Base := { b with heldLo := v }

/-- Apply the held low half with a high half; `mask` keeps the low bits that exist. -/
def Base.apply (b : Base) (hi : Reg) (mask : Nat) : Base :=
  { b with addr := BitVec.ofNat 64 (hi.toNat * 2 ^ 32 + b.heldLo.toNat / mask * mask) }

/-- Change a base register of a partition; lend bases have no bits [11:0] (Table 18.9). -/
def Prt.updBase (v : Prt) (reg : BaseReg) (f : Nat → Base → Base) : Prt :=
  match reg with
  | .tensorTable => { v with tt := f 1 v.tt }
  | .formatTable => { v with fmt := f 1 v.fmt }
  | .stage => { v with stage := f 1 v.stage }
  | .lend n => { v with lend := Sparse.modify Lend.zero v.lend n (fun l => { l with base := f 4096 l.base }) }

/-- BASE_LO_WRITE (R403). -/
def execBaseLoWrite (via : Via) (p : Nat) (reg : BaseReg) (value : Reg) (s : State) : Host.Outcome State Fault Refusal :=
  .next (s.viaPrt via p (fun s => s.updPrt p (fun v => v.updBase reg (fun _ b => b.hold value))))

/-- BASE_HI_WRITE (R403). -/
def execBaseHiWrite (via : Via) (p : Nat) (reg : BaseReg) (value : Reg) (s : State) : Host.Outcome State Fault Refusal :=
  .next (s.viaPrt via p (fun s => s.updPrt p (fun v => v.updBase reg (fun m b => b.apply value m))))

end Sys2Proof.Machine
end

