-- ==== Sys2Proof/Machine/Partials.lean ====
section
/-! DEFINITION. How a partial tile is written into a destination of any format (R60, R73, R77, R83, R85-R87, R113, R139, R141). -/

namespace Sys2Proof.Machine

/-! ### Writing tiles into a destination -/

/-- Row ρ of slot i of a tile (R92, R93). -/
def slotRow (e : Entry) (t i : Nat) : Nat := (eTileBox e t).2.1 + i / 64

/-- Some row of a tile is not written: masked, or another member's (R113). -/
def OpRec.tileHidden (o : OpRec) (e : Entry) (t : Nat) : Bool := (tileIx e t).any (fun i => o.masked (slotRow e t i))

/-- Some row of a tile is masked. -/
def OpRec.tileMasked (o : OpRec) (e : Entry) (t : Nat) : Bool := decide (dMask o.desc ≠ 0) && o.tileHidden e t

/-- The tile after the operation has added `new` into `old` in accumulate-into mode (R73, R83, R408). -/
def accumTile (ix : List Nat) (old new : WTile) : WTile :=
  if old.empty then new
  else if old.anchor = new.anchor then
    let slots := ix.foldl (fun m i => Sparse.set Slot.zero m i ((old.slot i).add (new.slot i))) []
    ⟨new.anchor, false, old.flags ||| new.flags, addLen old.len new.len, slots⟩
  else
    let m := WTile.merge ix old new
    { m with flags := m.flags ||| (new.flags &&& (fRETRIED ||| fMASKED)) }

/-- The tile after overwrite mode (R60, R77): masked rows keep their value on the new grid. -/
def overwriteTile (ix : List Nat) (hidden : Nat → Bool) (old new : WTile) : WTile :=
  if !ix.any hidden || old.empty then new
  else
    let moved := match new.anchor with | some a => old.regrid ix a | none => old
    let kept := new.mapSlots ix (fun i x => if hidden i then moved.slot i else x)
    let coarser := match old.anchor, new.anchor with | some b, some a => decide (b < a) | _, _ => false
    { kept with flags := new.flags ||| (if coarser then fALIGN else 0#16) }

/-- The tile that stands in a WP72 destination after an operation, and the slots whose stored bits it leaves. -/
def finalTile (o : OpRec) (e : Entry) (t : Nat) (accum : Bool) (old new : WTile) : WTile × (Nat → Bool) :=
  let ix := tileIx e t
  let hidden (i : Nat) : Bool := o.masked (slotRow e t i)
  let base := if accum then accumTile ix old new else overwriteTile ix hidden old new
  let zero := dMaskZero o.desc
  let done := if zero then base.mapSlots ix (fun i x => if hidden i then Slot.zero else x) else base
  let ev := done.flags ||| (if o.tileMasked e t then fMASKED else 0#16)
  let w := { done with flags := if done.empty then ev else tileFlags ev done.len done.slots }
  (w, fun i => hidden i && !zero && !old.empty && decide (old.anchor = w.anchor ∧ old.anchor.isSome))

/-- Fold the tile histogram of a tile's final values into a table (R46, R47, R141); masked rows take no part. -/
def OpRec.foldTile (o : OpRec) (e : Entry) (t : Nat) (w : WTile) (h : Hist) : Hist :=
  (((tileIx e t).filter (fun i => !o.masked (slotRow e t i))).foldl (fun h i => h.foldSlot (w.anchor.getD 0) (w.slot i)) h).tile

/-- What writing tiles leaves: the state, each tile's flag word, and whether a write was not performed. -/
structure Stored where
  st : State
  words : List (Nat × FlagWord)
  failed : Bool
deriving Repr

/-- The OR of the flag words. -/
def Stored.flags (x : Stored) : FlagWord := x.words.foldl (fun f w => f ||| w.2) 0#16

/-- As finished work. -/
def Stored.work (x : Stored) : Work := ⟨x.st, x.flags, x.failed || hasFlag x.flags fPOISON⟩

/-- The home core of a tile (R132), counted within the partition. -/
def State.homeIx (s : State) (p : Nat) (e : Entry) (t : Nat) : Nat := s.homeCore p e t - s.coreAt p 0

/-- Write one tile into a WP72 destination. -/
def State.storeWp (s : State) (p : Nat) (o : OpRec) (h : Nat) (accum : Bool) (t : Nat) (new : WTile) : Stored :=
  let e := o.ent h
  let needs := accum || (o.tileHidden e t && !dMaskZero o.desc)
  let r := if needs then s.loadTile p (s.homeIx p e t) o h t else (WTile.zero, s)
  let f := finalTile o e t accum r.1 new
  let w := r.2.storeTile p o h t f.1 f.2
  let s1 := if eHistEn e then w.1.updHist p (eHistId e) (o.foldTile e t f.1) else w.1
  ⟨s1, [(t, f.1.flags)], w.2⟩

/-- The element values that conversion takes from tiles (R85, R139): element q of the destination. -/
def convVals (o : OpRec) (e : Entry) (tiles : List (Nat × WTile)) : List OutVal :=
  (List.range (eCount e)).map (fun q =>
    let ρ := q / eDim e 0
    let x := eTileOf e (q % eDim e 0) ρ
    match tiles.find? (fun y => y.1 = x.1) with
    | none => .keep
    | some w =>
      if o.masked ρ then (if dMaskZero o.desc then .masked else .keep)
      else outClass (w.2.anchor.getD 0) (w.2.slot x.2))

/-- Blocks of which a REDUCE_SCATTER leaves other members' elements as they are keep their stored block scale, and this
member's elements are converted under it (R113; DESIGN CHOICE, log 26). -/
def keepScales (e : Entry) (vals : List OutVal) (old : List (Option Byte)) (enc : Encoded) : Encoded :=
  let block (q : Nat) : List OutVal :=
    ((List.range vals.length).filter (fun r => eScaleIndex e r = eScaleIndex e q)).map (fun r => vals.getD r .keep)
  let mixed (q : Nat) : Bool := (block q).any (· == .keep) && (block q).any (· != .keep)
  (List.range vals.length).foldl (fun (c : Encoded) q =>
    if mixed q then
      let r := (vals.getD q .keep).encode (eFmt e) ((old.getD (eScaleIndex e q) none).elim 0 BitVec.toInt) true true
      ⟨listSet c.codes q r.1, listSet c.scales (eScaleIndex e q) none, listSet c.flags q r.2⟩
    else c) enc

/-- Convert tiles into a destination of another format (R85-R87, R139). -/
def State.storeConv (s : State) (p : Nat) (o : OpRec) (h : Nat) (tiles : List (Nat × WTile)) : Stored :=
  let e := o.ent h
  let vals := convVals o e tiles
  let enc := if dOp o.desc = 0x20 ∧ eScaled e then keepScales e vals (s.loadScales p 0 o h).1 (encodeTensor e true vals)
    else encodeTensor e true vals
  let w := s.storeEncoded p o h enc
  let s1 := if eHistEn e then
      tiles.foldl (fun t x =>
        if dMaskZero o.desc || (tileIx e x.1).any (fun i => !o.masked (slotRow e x.1 i)) then
          t.updHist p (eHistId e) (o.foldTile e x.1 x.2)
        else t) w.1
    else w.1
  let word (x : Nat × WTile) : FlagWord :=
    ((tileIx e x.1).foldl (fun f i => f ||| enc.flags.getD ((eTileBox e x.1).1 + i % 64 + eDim e 0 * slotRow e x.1 i) 0#16)
      (tileFlags x.2.flags x.2.len x.2.slots)) ||| (if o.tileMasked e x.1 then fMASKED else 0#16)
  ⟨s1, tiles.map (fun x => (x.1, word x)), w.2⟩

/-- Write partial tiles into handle h of an operation. -/
def State.storePartials (s : State) (p : Nat) (o : OpRec) (h : Nat) (accum : Bool) (tiles : List (Nat × WTile)) : Stored :=
  if eFmt (o.ent h) = .wp72 then
    tiles.foldl (fun (a : Stored) x =>
      let r := a.st.storeWp p o h accum x.1 x.2
      ⟨r.st, a.words ++ r.words, a.failed || r.failed⟩) ⟨s, [], false⟩
  else s.storeConv p o h tiles

end Sys2Proof.Machine
end

