-- ==== Sys2Proof/Machine/Products.lean ====
section
/-! DEFINITION. Array products: operands read plain or transposed, each core from its own slice (R58, R59, R106, R193), how the
work is shared among cores and engines (R55-R57, Table 3.1), adapters (R61, R62, R99, R157), anchors (R66, R97), and the exact
tile of a product (R69-R73, R79, R80). -/

namespace Sys2Proof.Machine

/-! ### Operands of a product -/

/-- What a position outside a tensor supplies (R52). -/
def Elem.pad : Elem := ⟨0, 0#8, .zero, false, false⟩

/-- Linear index of element (row, col) of op(T) in batch b (R92, R106). -/
def matIndex (e : Entry) (trans : Bool) (row col b : Nat) : Nat :=
  let c := if eDim e 2 * eDim e 3 = 1 then 0 else b
  if trans then row + eDim e 0 * (col + eDim e 1 * c) else col + eDim e 0 * (row + eDim e 1 * c)

/-- The operands of an array product: extents, and the elements of both tensors as each core of the partition reads them. -/
structure Gemm where
  m : Nat
  k : Nat
  n : Nat
  nb : Nat
  xe : Entry
  we : Entry
  ta : Bool
  tb : Bool
  xs : Nat → List Elem
  ws : Nat → List Elem

/-- Rows of the destination. -/
def Gemm.rows (g : Gemm) : Nat := g.m * g.nb

/-- Element of op(X) on core c: destination row ρ, reduction index k. -/
def Gemm.x (g : Gemm) (c ρ k : Nat) : Elem :=
  if k < g.k then (g.xs c).getD (matIndex g.xe g.ta (ρ % g.m) k (ρ / g.m)) .pad else .pad

/-- Element of op(W) on core c: batch b, reduction index k, column n. -/
def Gemm.w (g : Gemm) (c b k n : Nat) : Elem :=
  if k < g.k ∧ n < g.n then (g.ws c).getD (matIndex g.we g.tb k n b) .pad else .pad

/-- TX + TW + 1 (R66). -/
def Gemm.tops (g : Gemm) : Int := (eFmt g.xe).top + (eFmt g.we).top + 1

/-- The extents of a MATMUL or ANCHOR_SCAN, with no element read. -/
def OpRec.shape (o : OpRec) : Gemm :=
  let d := o.desc
  let x := o.ent (dA d)
  let w := o.ent (dB d)
  ⟨(shapeX d x).1, (shapeX d x).2, (shapeW d w).2, eDim x 2 * eDim x 3, x, w, dTransA d, dTransB d, fun _ => [], fun _ => []⟩

/-- Read the operands of a MATMUL or ANCHOR_SCAN. -/
def State.gemm (s : State) (p : Nat) (o : OpRec) : Gemm × State :=
  let a := s.loadTensorBy p o (dA o.desc)
  let b := a.2.loadTensorBy p o (dB o.desc)
  ({ o.shape with xs := a.1, ws := b.1 }, b.2)

/-! ### Shares (R55, R57) -/

/-- The mode of the engine: the wider of the operand formats (R51). -/
def Gemm.mode (g : Gemm) : Fmt := widerFmt g.xe g.we

/-- The code of an element in a wider LG format; exact (R51). -/
def widenCode (f g : Fmt) (code : Nat) : Nat :=
  if g.bits ≤ f.bits then code
  else
    let w := f.bits
    let m := code % 2 ^ (w - 1)
    let sg := code / 2 ^ (w - 1) * 2 ^ (g.bits - 1)
    if m = 0 then sg
    else sg + ((((m : Int) - f.bias) * ((g.perBinade / f.perBinade : Nat) : Int) + g.bias).toNat)

/-- Reduction indices of one pitch (Table 3.1). -/
def pitchLen : Nat := 4096

/-- How an operation lies on the array: geometry, column blocks, row groups, pitches. -/
structure Plan where
  mode : Fmt
  wide : Bool
  cols : Nat
  rows : Nat
  idx : Nat
  blocks : Nat
  groups : Nat
  pitches : Nat
deriving DecidableEq, Repr

/-- The plan of an operation. -/
def OpRec.plan (o : OpRec) (g : Gemm) : Plan :=
  let x := geometry g.mode (dWide o.desc)
  ⟨g.mode, dWide o.desc, x.1, x.2.1, x.2.2, ceilDiv g.n x.1, ceilDiv g.m x.2.1, max 1 (ceilDiv g.k pitchLen)⟩

/-- One pitch: row group (counted over batches), column block, span index, the core and the engine that take it. -/
structure Pitch where
  group : Nat
  block : Nat
  span : Nat
  core : Nat
  engine : Nat
deriving DecidableEq, Repr

/-- The number of a pitch within its operation. -/
def Plan.pitchId (x : Plan) (group block span : Nat) : Nat := (group * x.blocks + block) * x.pitches + span

/-- Rows of a row group: destination row and its place in the foot tile. -/
def Plan.groupRows (x : Plan) (g : Gemm) (group : Nat) : List (Nat × Nat) :=
  let b := group / x.groups
  ((List.range x.rows).filter (fun i => group % x.groups * x.rows + i < g.m)).map
    (fun i => (b * g.m + group % x.groups * x.rows + i, i))

/-- The fed rows of a row group (R60). -/
def OpRec.groupFed (o : OpRec) (x : Plan) (g : Gemm) (group : Nat) : List (Nat × Nat) :=
  (x.groupRows g group).filter (fun r => !o.masked r.1)

/-- The cores, by partition index, that take block b of B among C cores (R57, step 2). -/
def blockCores (B C b : Nat) : List Nat := (List.range C).filter (fun c => c % B = b % C)

/-- Pitches in each span of block b but the last (R57, step 3): one where there are fewer pitches than cores (DESIGN CHOICE,
log 61). -/
def Plan.spanLen (x : Plan) (C b : Nat) : Nat := max 1 (x.pitches / max 1 (blockCores x.blocks C b).length)

/-- Which of a block's cores takes a pitch: equal spans of whole pitches, the last takes the remainder. -/
def Plan.spanOrd (x : Plan) (C b span : Nat) : Nat := min (span / x.spanLen C b) ((blockCores x.blocks C b).length - 1)

/-- The core of a pitch, by partition index (R57, step 3). -/
def Plan.spanCore (x : Plan) (C b span : Nat) : Nat := (blockCores x.blocks C b).getD (x.spanOrd C b span) 0

/-- The place of a (block, span) pair in its core's share: blocks in turn, and within each its pitches. -/
def Plan.shareIndex (x : Plan) (C b span : Nat) : Nat :=
  let last := (blockCores x.blocks C b).length - 1
  let first := x.spanOrd C b span * x.spanLen C b
  let n := if x.spanOrd C b span = last then x.pitches - first else x.spanLen C b
  b / C * n + (span - first)

/-- The engine of a core that takes a pitch: the given one, or the lowest-numbered that is not suspect (DESIGN CHOICE, log
61). -/
def State.pickEngine (s : State) (core e : Nat) : Nat :=
  if (s.eng core e).state ≠ 7#4 then e
  else ((List.range 16).find? (fun k => (s.eng core k).state ≠ 7#4)).getD e

/-- Every pitch of an operation that feeds some row. Engines take the row groups of one stationary load first; those left
over take the further column blocks and spans of the core's share (R57, step 4; which number takes which: DESIGN CHOICE, log
61). -/
def State.pitchesOf (s : State) (p : Nat) (o : OpRec) (g : Gemm) (x : Plan) : List Pitch :=
  let C := s.coreCount p
  let n := g.nb * x.groups
  ((List.range n).filter (fun gr => !(o.groupFed x g gr).isEmpty)).flatMap (fun gr =>
    (List.range x.blocks).flatMap (fun b =>
      (List.range x.pitches).map (fun sp =>
        let core := s.coreAt p (x.spanCore C b sp)
        ⟨gr, b, sp, core, s.pickEngine core ((x.shareIndex C b sp * n + gr) % 16)⟩)))

/-- Destination tiles that a row group and a column block touch (R93). -/
def Plan.tilesOf (x : Plan) (g : Gemm) (y : Entry) (group block : Nat) : List Nat :=
  (((x.groupRows g group).map (·.1)).flatMap (fun ρ =>
    ((List.range x.cols).map (block * x.cols + ·)).filterMap (fun n =>
      if n < g.n then some (eTileOf y n ρ).1 else none))).eraseDups

/-! ### Adapters (R61, R62, R99, R157) -/

/-- One adapter that serves: its variant, rank, the format of u_v, the second factor as each core reads it, and u_v of the
rows it serves. -/
structure Adapter where
  v : Nat
  rank : Nat
  ufmt : Fmt
  e2 : Entry
  tb : Bool
  ys : Nat → List Elem
  us : List (Nat × List Elem)

/-- Element j of u_v in row ρ. -/
def Adapter.u (a : Adapter) (ρ j : Nat) : Elem :=
  match a.us.find? (fun x => x.1 = ρ) with | some r => r.2.getD j .pad | none => .pad

/-- Element (j, n) of B_v, or of A_vᵀ under TRANS_B, on core c. -/
def Adapter.y (a : Adapter) (c cols j n : Nat) : Elem :=
  if j < a.rank ∧ n < cols then (a.ys c).getD (matIndex a.e2 a.tb j n 0) .pad else .pad

/-- T_U + T_2 + 1. -/
def Adapter.tops (a : Adapter) : Int := a.ufmt.top + (eFmt a.e2).top + 1

/-- The adapters of an operation, and the 16-row groups that take none because an index or entry read poisoned. -/
structure Variants where
  list : List Adapter
  bad : List Nat

/-- The variant that serves row ρ: none for base only. -/
def OpRec.variantAt (o : OpRec) (vs : Variants) (ρ : Nat) : Option Adapter :=
  match varIndex o.vars (ρ / 16) with | none => none | some v => vs.list.find? (fun a => a.v = v)

/-- Every element written in row ρ carries POISON (R98, R99). -/
def OpRec.rowPoisoned (o : OpRec) (vs : Variants) (ρ : Nat) : Bool := o.maskBad ρ || vs.bad.contains (ρ / 16)

/-! ### Loads and chains -/

/-- Variants among the fed rows of a row group, ascending. -/
def OpRec.groupVariants (o : OpRec) (x : Plan) (g : Gemm) (vs : Variants) (group : Nat) : List Adapter :=
  vs.list.filter (fun a => (o.groupFed x g group).any (fun r => (o.variantAt vs r.1).any (fun b => b.v = a.v)))

/-- The code of a load: its first reduction index, or 2^32 × (variant + 1) plus the first index of the rank. -/
def variantLoad (v j : Nat) : Nat := 2 ^ 32 * (v + 1) + j

/-- The base loads of a pitch. -/
def Plan.baseLoads (x : Plan) (k span : Nat) : List Nat :=
  (List.range (ceilDiv (min pitchLen (k - pitchLen * span)) x.idx)).map (fun i => pitchLen * span + i * x.idx)

/-- The loads of an adapter. -/
def Plan.rankLoads (x : Plan) (a : Adapter) : List Nat := (List.range (ceilDiv a.rank x.idx)).map (fun i => variantLoad a.v (i * x.idx))

/-- The loads of a pitch, in order: the base indices, then the adapters in the last pitch (R62; the pitch: DESIGN CHOICE,
log 61). -/
def OpRec.loadsOf (o : OpRec) (x : Plan) (g : Gemm) (vs : Variants) (group span : Nat) : List Nat :=
  x.baseLoads g.k span ++ (if span + 1 = x.pitches then (o.groupVariants x g vs group).flatMap x.rankLoads else [])

/-- Element i of a load for a row, and for a column, on core c. -/
def loadElems (g : Gemm) (vs : Variants) (c load : Nat) : (Nat → Nat → Elem) × (Nat → Nat → Nat → Elem) :=
  if load < 2 ^ 32 then (fun ρ i => g.x c ρ (load + i), fun b i n => g.w c b (load + i) n)
  else
    match vs.list.find? (fun a => a.v + 1 = load / 2 ^ 32) with
    | some a => (fun ρ i => if load % 2 ^ 32 + i < a.rank then a.u ρ (load % 2 ^ 32 + i) else .pad,
        fun _ i n => a.y c g.n (load % 2 ^ 32 + i) n)
    | none => (fun _ _ => .pad, fun _ _ _ => .pad)

/-- The rows of a row group in the feeder's order: by variant, those without one first (R62). -/
def OpRec.fedOrder (o : OpRec) (x : Plan) (g : Gemm) (vs : Variants) (group : Nat) : List (Nat × Nat) :=
  let fed := o.groupFed x g group
  fed.filter (fun r => (o.variantAt vs r.1).isNone)
    ++ vs.list.flatMap (fun a => fed.filter (fun r => (o.variantAt vs r.1).any (fun b => b.v = a.v)))

/-- The rows of a row group that a load streams (R60, R62). -/
def OpRec.loadRows (o : OpRec) (x : Plan) (g : Gemm) (vs : Variants) (group load : Nat) : List (Nat × Nat) :=
  (o.fedOrder x g vs group).filter (fun r =>
    decide (load < 2 ^ 32) || (o.variantAt vs r.1).any (fun a => a.v + 1 = load / 2 ^ 32))

/-- The exact chain value of one column over the indices of a load under anchor a (R69-R72). -/
def chainSlot (a : Int) (ks : List Nat) (x w : Nat → Elem) : Slot :=
  let r := ks.foldl (fun (t : Int × FlagWord) k =>
    let q := product a ((x k).poisoned || (w k).poisoned) (x k).x (w k).x
    (t.1 + q.1, t.2 ||| q.2)) (0, 0#16)
  ⟨r.1, residueOf r.1, r.2⟩

/-- Slots added one after another, each addition within the range of R37 (R80). -/
def sumSlots (l : List Slot) : Slot := l.foldl Slot.add Slot.zero

/-- What one pitch leaves in the foot slot of destination element (ρ, n) (R62, R72). -/
def OpRec.pitchSlot (o : OpRec) (g : Gemm) (x : Plan) (C : Nat) (vs : Variants) (a : Int) (ρ n span : Nat) : Slot :=
  let c := x.spanCore C (n / x.cols) span
  let more := match o.variantAt vs ρ with
    | some v => if span + 1 = x.pitches then x.rankLoads v else []
    | none => []
  sumSlots ((x.baseLoads g.k span ++ more).map (fun ld =>
    let f := loadElems g vs c ld
    chainSlot a (List.range x.idx) (f.1 ρ) (fun i => f.2 (ρ / g.m) i n)))

/-- The final partial of destination element (ρ, n): each core adds its pitches, and the home core adds the cores (R62, R73,
R136). -/
def OpRec.elemSlot (o : OpRec) (g : Gemm) (x : Plan) (C : Nat) (vs : Variants) (a : Int) (ρ n : Nat) : Slot :=
  let spans := List.range x.pitches
  let core (sp : Nat) : Nat := x.spanCore C (n / x.cols) sp
  let full := sumSlots ((spans.map core).eraseDups.map (fun c =>
    sumSlots ((spans.filter (fun sp => core sp = c)).map (o.pitchSlot g x C vs a ρ n))))
  if o.rowPoisoned vs ρ then { full with flags := full.flags ||| fPOISON } else full

/-! ### The scan of R66 -/

/-- The block scale that an element gives to the scan: none for 0x80 and for a poisoned scale byte (R66). -/
def Elem.scanScale (x : Elem) : Option Int := if x.scaleBad ∨ x.scale = 0x80#8 then none else some x.scale.toInt

/-- The largest sum of block scales over pairs of rows, columns and reduction indices (R66). -/
def scanBox (x w : Nat → Nat → Elem) (rows ks ns : List Nat) : Option Int :=
  maxInt? (ks.filterMap (fun k =>
    match maxInt? (rows.filterMap (fun r => (x r k).scanScale)), maxInt? (ns.filterMap (fun n => (w k n).scanScale)) with
    | some a, some b => some (a + b)
    | _, _ => none))

/-- Rows that are fed, among the rows of a batch. -/
def OpRec.fedRows (o : OpRec) (g : Gemm) (b : Nat) : List Nat :=
  ((List.range g.m).map (fun i => b * g.m + i)).filter (fun ρ => !o.masked ρ)

/-- The largest value of R66 over one column block and one pitch, as the core that takes it reads its scales (R67): the base
pairs, and in the last pitch the adapters' pairs. -/
def OpRec.spanScan (o : OpRec) (g : Gemm) (x : Plan) (C : Nat) (vs : Variants) (b sp : Nat) : Option Int :=
  let c := x.spanCore C b sp
  let ns := ((List.range x.cols).map (b * x.cols + ·)).filter (· < g.n)
  let ks := ((List.range pitchLen).map (pitchLen * sp + ·)).filter (· < g.k)
  let base := (List.range g.nb).filterMap (fun q => (scanBox (g.x c) (g.w c q) (o.fedRows g q) ks ns).map (· + g.tops))
  let more := if sp + 1 = x.pitches then vs.list.filterMap (fun a =>
      (scanBox a.u (a.y c g.n) (a.us.map (·.1)) (List.range a.rank) ns).map (· + a.tops)) else []
  maxInt? (base ++ more)

/-- The largest value of R66 in the share of a core, by partition index (R67). -/
def OpRec.shareScan (o : OpRec) (g : Gemm) (x : Plan) (vs : Variants) (C c : Nat) : Option Int :=
  maxInt? ((List.range x.blocks).flatMap (fun b =>
    ((List.range x.pitches).filter (fun sp => x.spanCore C b sp = c)).filterMap (o.spanScan g x C vs b)))

/-- The scan of R66 over the whole operation: none when no pair remains. -/
def OpRec.scanAll (o : OpRec) (g : Gemm) (x : Plan) (C : Nat) (vs : Variants) : Option Int :=
  maxInt? ((List.range x.blocks).flatMap (fun b => (List.range x.pitches).filterMap (o.spanScan g x C vs b)))

/-- The scanned anchor. -/
def OpRec.scanAnchor (o : OpRec) (g : Gemm) (x : Plan) (C : Nat) (vs : Variants) : Int := (o.scanAll g x C vs).getD g.tops

/-- The anchor of a MATMUL (R97); none when the REF word reads poisoned. -/
def State.anchorOf (s : State) (p : Nat) (o : OpRec) (g : Gemm) (vs : Variants) : Option Int × State :=
  match o.anchor, dMode o.desc with
  | some a, _ => (some a, s)
  | none, 0 => (some (o.scanAnchor g (o.plan g) (s.coreCount p) vs), s)
  | none, 1 => (some (dAnchor o.desc), s)
  | none, _ =>
    let r := s.loadRaw p o (dD o.desc) (dField o.desc 32 4) 4
    (if anyBad r.1 then none else some (signedNat 10 (leVal (plainBytes r.1) % 1024)), r.2)

/-! ### The adapter passes (R61) -/

/-- One row of u_v in its format: one block scale for every 32 indices of r (R61, R86). An element that carries POISON
enters the main product as an operand read poisoned (DESIGN CHOICE, log 61). -/
def encodeU (f : Fmt) (a : Int) (row : List Slot) : List UElem :=
  let vals := row.map (outClass a)
  (List.range row.length).map (fun j =>
    let blk := blockScale f (((vals.drop (j / 32 * 32)).take 32).map OutVal.exact)
    let v := vals.getD j .keep
    ⟨((v.encode f blk.1 blk.2 true).1).getD 0, scaleByte blk.1, decide (v = .poison)⟩)

/-- An element of u_v as the main product reads it. -/
def UElem.elem (f : Fmt) (u : UElem) : Elem := ⟨u.code, u.scale, decodeLg f u.code (some u.scale), u.poison, false⟩

/-- The destination rows of a variant that are fed. -/
def OpRec.variantRows (o : OpRec) (g : Gemm) (v : Nat) : List Nat :=
  (List.range g.rows).filter (fun ρ => decide (varIndex o.vars (ρ / 16) = some v) && !o.masked ρ)

/-- The operation as the pass of variant v sees it: every other row is masked, and it names no variant. -/
def OpRec.passOp (o : OpRec) (g : Gemm) (v : Nat) : OpRec :=
  { o with
    vars := []
    mask := (List.range (ceilDiv g.rows 8)).map (fun b =>
      some (BitVec.ofNat 8 (sumNat ((List.range 8).map (fun i => if (o.variantRows g v).contains (8 * b + i) then 0 else 2 ^ i))))) }

/-- The product x · A_v, or x · B_vᵀ, of a pass. -/
def Gemm.pass (g : Gemm) (fe : Entry) (fs : Nat → List Elem) (tb : Bool) (rank : Nat) : Gemm :=
  { g with n := rank, we := fe, ws := fs, tb := tb }

/-- The rows of u_v, under a scan of the pass's own (R61). -/
def OpRec.uRows (o : OpRec) (g h : Gemm) (C : Nat) (v : Nat) (f : Fmt) : List (Nat × List UElem) :=
  let b := o.passOp g v
  let x := b.plan h
  let a := b.scanAnchor h x C ⟨[], []⟩
  (o.variantRows g v).map (fun ρ => (ρ, encodeU f a ((List.range h.n).map (fun j => b.elemSlot h x C ⟨[], []⟩ a ρ j))))

/-- What a variant-table entry comes to (R99). -/
inductive VarEntry where
  | refused
  | poisoned
  | serves (rank : Nat) (ufmt : Fmt) (first second : Nat)
deriving DecidableEq, Repr

/-- Judge the 16 bytes of a variant-table entry. -/
def OpRec.judgeVariant (o : OpRec) (g : Gemm) (bs : List (Option Byte)) : VarEntry :=
  if anyBad bs then .poisoned
  else
    let b := plainBytes bs
    let ha := fieldLe b 0 2
    let hb := fieldLe b 2 2
    let rank := fieldLe b 4 1
    let ea := o.ent ha
    let eb := o.ent hb
    let dims := if g.tb then decide (eDims ea = [rank, g.n, 1, 1] ∧ eDims eb = [g.k, rank, 1, 1])
      else decide (eDims ea = [rank, g.k, 1, 1] ∧ eDims eb = [g.n, rank, 1, 1])
    match Fmt.ofCode (fieldLe b 5 1) with
    | some f =>
      if fieldLe b 6 1 % 2 = 1 ∧ o.names ha ∧ o.names hb ∧ (eFmt ea).isLg ∧ (eFmt eb).isLg ∧ dims ∧ f.isLg ∧ 1 ≤ rank ∧ rank ≤ 64 then
        (if g.tb then .serves rank f hb ha else .serves rank f ha hb)
      else .refused
    | none => .refused

/-- What the entry of variant v comes to, and the product of its pass where it serves. -/
def State.passOf (s : State) (p : Nat) (o : OpRec) (g : Gemm) (v : Nat) : (VarEntry × Gemm) × State :=
  let t := s.loadRaw p o 1 (16 * v) 16
  match o.judgeVariant g t.1 with
  | .serves rank f h1 h2 =>
    let a := t.2.loadTensorBy p o h1
    ((.serves rank f h1 h2, g.pass (o.ent h1) a.1 g.tb rank), a.2)
  | x => ((x, g), t.2)

/-- The rows of u_v that the scratchpads hold, once the pass of variant v has run. -/
def OpRec.heldRows (o : OpRec) (v : Nat) : List (Nat × List UElem) := (o.uv.filter (fun x => x.1 = v)).map (·.2)

/-- One more variant: none when it cannot serve. Its u_v is what its pass left (R61). -/
def State.addVariant (s : State) (p : Nat) (o : OpRec) (g : Gemm) (vs : Variants) (v : Nat) : Option Variants × State :=
  let t := s.loadRaw p o 1 (16 * v) 16
  match o.judgeVariant g t.1 with
  | .refused => (none, t.2)
  | .poisoned => (some { vs with bad := vs.bad ++ (List.range (ceilDiv g.rows 16)).filter (fun j => varIndex o.vars j = some v) }, t.2)
  | .serves rank f h1 h2 =>
    let u := if o.adapters.contains v then (o.heldRows v, t.2)
      else let a := t.2.loadTensorBy p o h1; (o.uRows g (g.pass (o.ent h1) a.1 g.tb rank) (s.coreCount p) v f, a.2)
    let b := u.2.loadTensorBy p o h2
    (some { vs with list := vs.list ++ [⟨v, rank, f, o.ent h2, g.tb, b.1, u.1.map (fun x => (x.1, x.2.map (UElem.elem f)))⟩] }, b.2)

/-- The variants that the rows of an operation name, in the order of their first rows. -/
def OpRec.namedVariants (o : OpRec) (g : Gemm) : List Nat :=
  (((List.range (ceilDiv g.rows 16)).filterMap (varIndex o.vars)).filter (· ≠ 0xFFFF)).eraseDups

/-- The variants that an operation's rows name; none ends it with BAD_HANDLE (R99). -/
def State.variants (s : State) (p : Nat) (o : OpRec) (g : Gemm) : Option Variants × State :=
  if dVar o.desc = 0 then (some ⟨[], []⟩, s)
  else
    let bad := (List.range (ceilDiv g.rows 16)).filter (fun j => (varIndex o.vars j).isNone)
    if (o.namedVariants g).any (fun v => decide (4096 ≤ v)) then (none, s)
    else (o.namedVariants g).foldl (fun (t : Option Variants × State) v =>
      match t.1 with
      | none => t
      | some vs => t.2.addVariant p o g vs v) (some ⟨[], bad⟩, s)

/-! ### Tiles of a product -/

/-- LEN of a tile (R79). -/
def OpRec.tileLen (o : OpRec) (g : Gemm) (vs : Variants) (y : Entry) (t : Nat) : Nat :=
  let ranks := (tileIx y t).filterMap (fun i => (o.variantAt vs (slotRow y t i)).map (·.rank))
  addLen g.k (ranks.foldl max 0)

/-- The partial of tile t; `ev` are event bits that its pitches have left (RETRIED). -/
def OpRec.productTile (o : OpRec) (g : Gemm) (x : Plan) (C : Nat) (vs : Variants) (y : Entry) (a : Int) (ev : FlagWord) (t : Nat) : WTile :=
  let slots := (tileIx y t).foldl (fun m i =>
    let ρ := slotRow y t i
    if o.masked ρ then m else Sparse.set Slot.zero m i (o.elemSlot g x C vs a ρ ((eTileBox y t).1 + i % 64))) []
  let len := o.tileLen g vs y t
  ⟨some a, false, tileFlags (ev ||| (if o.tileMasked y t then fMASKED else 0#16)) len slots, len, slots⟩

end Sys2Proof.Machine
end

