-- ==== Sys2Proof/Machine/Matmul.lean ====
section
/-! DEFINITION. Array operations: one at a time on a partition's array, and what its engines count (R21, R50, R53, R56, R73),
MATMUL (R106), ANCHOR_SCAN (R107), the adapter passes and the scan phase (R61, R67), REDUCE (R108). -/

namespace Sys2Proof.Machine

/-! ### The array of a partition (R21, R54, R56) -/

/-- The operation multiplies: MATMUL or ANCHOR_SCAN. -/
def isArray (d : Desc) : Bool := decide (dOp d = 1 ∨ dOp d = 2)

/-- An engine works on a pitch of an operation, or holds its first load. -/
def Eng.worksFor (e : Eng) (p seq : Nat) : Bool :=
  e.job.any (fun j => j.part = p && j.seq = seq) || e.next.any (fun j => j.part = p && j.seq = seq)

/-- Some engine works on an operation. -/
def State.engaged (s : State) (p seq : Nat) : Bool := s.engs.any (fun (e : Nat × Eng) => e.2.worksFor p seq)

/-- Every pitch of an operation that feeds some row has been written back. -/
def State.allPitches (s : State) (p : Nat) (o : OpRec) : Bool :=
  let g := o.shape
  let x := o.plan g
  (s.pitchesOf p o g x).all (fun c => o.pitches.contains (x.pitchId c.group c.block c.span))

/-- An array operation streams: it has begun its pitches and has more of them. -/
def State.streams (s : State) (p : Nat) (o : OpRec) : Bool :=
  isArray o.desc && !o.done && (s.engaged p o.seq || (decide (o.pitches ≠ []) && !s.allPitches p o))

/-- No other array operation of the partition streams (R21). -/
def State.arrayFree (s : State) (p seq : Nat) : Bool := (s.prt p).ops.all (fun a => a.seq = seq || !s.streams p a)

/-- Change every entry of n keys from `lo` on. -/
def Sparse.mapRange {α : Type} [DecidableEq α] (d : α) (m : Sparse α) (lo n : Nat) (f : α → α) : Sparse α :=
  m.filter (fun e => e.1 < lo)
    ++ (List.range n).filterMap (fun i => let v := f (Sparse.get d m (lo + i)); if v = d then none else some (lo + i, v))
    ++ m.filter (fun e => decide (lo + n ≤ e.1))

/-- The formats of SHAPE.FORMAT (Table 18.11). -/
def modeCode (f : Fmt) : BitVec 2 := BitVec.ofNat 2 f.code

/-- Every engine of the partition takes an operation's shape and stationary mode (R21, R56). -/
def State.takeShape (s : State) (p : Nat) (x : Plan) : State :=
  let lo := 16 * s.coreAt p 0
  let first := s.eng (s.coreAt p 0) 0
  if first.wide = x.wide ∧ first.format = modeCode x.mode then s
  else { s with engs := Sparse.mapRange Eng.zero s.engs lo (16 * s.coreCount p) (fun e => { e with wide := x.wide, format := modeCode x.mode }) }

/-- Gated products of a pitch (R50): positions outside the tensors hold +0 (R52). -/
def OpRec.gatedOf (o : OpRec) (x : Plan) (g : Gemm) (vs : Variants) (c group block span : Nat) : Nat :=
  sumNat ((o.loadsOf x g vs group span).map (fun ld =>
    let f := loadElems g vs c ld
    sumNat ((o.loadRows x g vs group ld).map (fun r =>
      sumNat ((List.range x.idx).map (fun i =>
        ((List.range x.cols).filter (fun n =>
          let a := f.1 r.1 i
          let w := f.2 (group / x.groups) i (block * x.cols + n)
          gated (a.poisoned || w.poisoned) a.x w.x)).length))))))

/-- What an engine counts as it runs the loads of a pitch (R50, R53). -/
def Eng.ran (e : Eng) (loads gated : Nat) : Eng :=
  { e with zeroGated := satAdd e.zeroGated gated, bankSel := xor e.bankSel (decide (loads % 2 = 1)) }

/-- What the engine of a pitch counts for it (R50, R53, R73, Table 3.6). -/
def State.countPitch (s : State) (p : Nat) (o : OpRec) (x : Plan) (g : Gemm) (vs : Variants) (words : List (Nat × FlagWord)) (y : Entry)
    (c : Pitch) : State :=
  let loads := (o.loadsOf x g vs c.group c.span).length
  let word := ((x.tilesOf g y c.group c.block).filterMap (fun t => (words.find? (fun w => w.1 = t)).map (·.2))).getLast?
  let steps := sumNat ((o.loadsOf x g vs c.group c.span).map (fun l => 4096 * (o.loadRows x g vs c.group l).length))
  ((s.spendEnergy p 0 steps).updEng c.core c.engine (fun e =>
    { e.ran loads (o.gatedOf x g vs (c.core - s.coreAt p 0) c.group c.block c.span) with
      pitchCount := e.pitchCount + 1
      tileFlags := if c.span + 1 = x.pitches then word.getD e.tileFlags else e.tileFlags })).progress (pageEng c.core c.engine) (loads + 1)

/-- What the engines count for the pass of variant v (R61): an array pass in the operation's shape. -/
def State.countPass (s : State) (p : Nat) (o : OpRec) (g : Gemm) (v : Nat) : State :=
  let r := s.passOf p o g v
  match r.1.1 with
  | .serves _ _ _ _ =>
    let b := o.passOp g v
    let x := b.plan r.1.2
    (s.pitchesOf p b r.1.2 x).foldl (fun t c => t.countPitch p b x r.1.2 ⟨[], []⟩ [] (o.ent (dC o.desc)) c) s
  | _ => s

/-- The engines let go of an operation: their open foot tiles and loads go, their counts stay. -/
def State.releaseEngines (s : State) (p seq : Nat) : State :=
  { s with engs := s.engs.map (fun (x : Nat × Eng) =>
      if x.2.worksFor p seq then
        (x.1, { Eng.zero with
          state := if x.2.state = 7#4 then 7#4 else 0#4, wide := x.2.wide, format := x.2.format, bankSel := x.2.bankSel,
          pitchCount := x.2.pitchCount, tileFlags := x.2.tileFlags, zeroGated := x.2.zeroGated, residueFail := x.2.residueFail,
          bank0 := x.2.bank0, bank1 := x.2.bank1 })
      else x) }

/-! ### MATMUL -/

/-- Event bits that the steps of an operation have left on a tile: RETRIED (R335). -/
def State.stepEvents (s : State) (p seq t : Nat) : FlagWord :=
  ((s.partials.filter (fun x => x.part = p && x.seq = seq && x.tile = t)).foldl (fun f x => f ||| x.tr.flags) 0#16) &&& fRETRIED

/-- The whole product of an operation whose tiles are ready: the adapter passes that have not run, the pitches that no
engine has run, and the tiles that are not written yet (R106). It waits while an engine works on one of its pitches, or
another array operation streams (R21). -/
def State.runMatmul (s : State) (p : Nat) (o : OpRec) : State :=
  if s.engaged p o.seq ∨ (!s.arrayFree p o.seq ∧ !s.allPitches p o) then s
  else
    let a := s.gemm p o
    let g := a.1
    let vr := a.2.variants p o g
    match vr.1 with
    | none => vr.2.finishOp p o.seq stBadHandle 0#16
    | some vs =>
      let an := vr.2.anchorOf p o g vs
      match an.1 with
      | none => an.2.finishOp p o.seq stPoisoned 0#16
      | some A =>
        let y := o.ent (dC o.desc)
        let x := o.plan g
        let s0 := ((o.namedVariants g).filter (fun v => !o.adapters.contains v)).foldl (fun t v => t.countPass p o g v) (an.2.takeShape p x)
        let todo := (List.range (eTiles y)).filter (fun t => !o.tilesDone.contains t)
        let w := s0.storePartials p o (dC o.desc) (dAccum o.desc)
          (todo.map (fun t => (t, o.productTile g x (s0.coreCount p) vs y A (s0.stepEvents p o.seq t) t)))
        let mine := (s.pitchesOf p o g x).filter (fun c => !o.pitches.contains (x.pitchId c.group c.block c.span)
          && (x.tilesOf g y c.group c.block).any todo.contains)
        let s1 := mine.foldl (fun t c => t.countPitch p o x g vs w.words y c) w.st
        let k := w.work
        let fl := k.flags ||| o.flags
        s1.finishOp p o.seq (worse o.status (workStatus o.desc fl k.poisoned)) fl

/-- MATMUL (R106). -/
def execMatmul (p seq : Nat) (s : State) : Host.Outcome State Fault Refusal :=
  .next (s.runOp p seq 0x01 (fun _ => true) (s.runMatmul p))

/-! ### ANCHOR_SCAN -/

/-- ANCHOR_SCAN over its operands: the anchor goes into the result word, alone or as a maximum (R107). -/
def State.runScan (s : State) (p : Nat) (o : OpRec) (isMax : Bool) : State :=
  let a := s.gemm p o
  let vr := a.2.variants p o a.1
  let passes := (o.namedVariants a.1).filter (fun v => !o.adapters.contains v)
  if dVar o.desc ≠ 0 ∧ passes ≠ [] ∧ !s.arrayFree p o.seq then s else
  match vr.1 with
  | none => vr.2.finishOp p o.seq stBadHandle 0#16
  | some vs =>
    let x := o.plan a.1
    let A := match o.anchor with | some x => x | none => o.scanAnchor a.1 x (s.coreCount p) vs
    let off := dField o.desc 32 4
    let t := if dVar o.desc = 0 then vr.2 else passes.foldl (fun t v => t.countPass p o a.1 v) (vr.2.takeShape p x)
    let r := if isMax then t.loadRaw p o (dC o.desc) off 4 else ([], t)
    if anyBad r.1 then r.2.finishOp p o.seq stPoisoned 0#16
    else
      let v := if isMax then max A (signedNat 32 (leVal (plainBytes r.1))) else A
      let w := r.2.storeRaw p o (dC o.desc) off (leBytes 4 (BitVec.ofInt 32 v).toNat)
      w.1.finishOp p o.seq (if w.2 then stPoisoned else stOK) 0#16

/-- ANCHOR_SCAN_WRITE (R107). -/
def execAnchorScanWrite (p seq : Nat) (s : State) : Host.Outcome State Fault Refusal :=
  .next (s.runOp p seq 0x02 (· = 0) (fun o => s.runScan p o false))

/-- ANCHOR_SCAN_MAX (R107). -/
def execAnchorScanMax (p seq : Nat) (s : State) : Host.Outcome State Fault Refusal :=
  .next (s.runOp p seq 0x02 (· = 1) (fun o => s.runScan p o true))

/-! ### The steps before the first product (R61, R67) -/

/-- Run a step of an array operation that may run. -/
def State.arrayStep (s : State) (p seq : Nat) (f : OpRec → Gemm → State → State) : State :=
  match (s.prt p).op seq with
  | none => s
  | some o =>
    if isArray o.desc ∧ (s.prt p).mayRun o ∧ !(s.prt p).readsVoid o then let a := s.gemm p o; f o a.1 a.2 else s

/-- ADAPTER_PASS (R61, R99, R157): an array pass leaves u_v of one variant in the scratchpads, or the operation ends with
BAD_HANDLE. No other array operation streams meanwhile (R21). -/
def execAdapterPass (p seq variant : Nat) (s : State) : Host.Outcome State Fault Refusal :=
  .next (s.arrayStep p seq (fun o g t =>
    if o.adapters.contains variant ∨ dVar o.desc = 0 ∨ !(o.namedVariants g).contains variant ∨ !t.arrayFree p seq then t
    else if 4096 ≤ variant then t.finishOp p seq stBadHandle 0#16
    else
      let r := t.passOf p o g variant
      match r.1.1 with
      | .refused => r.2.finishOp p seq stBadHandle 0#16
      | .poisoned => r.2.updOp p seq (fun o => { o with adapters := o.adapters ++ [variant] })
      | .serves _ f _ _ =>
        let rows := o.uRows g r.1.2 (t.coreCount p) variant f
        let u := ((r.2.takeShape p (o.plan g)).countPass p o g variant)
        u.updOp p seq (fun o => { o with
          adapters := o.adapters ++ [variant], uv := o.uv ++ rows.map (fun x => (variant, x.1, x.2)) })))

/-- Every adapter pass of the operation has run (R61). -/
def OpRec.passesDone (o : OpRec) (g : Gemm) : Bool :=
  decide (dVar o.desc = 0) || (List.range (ceilDiv g.rows 16)).all (fun j =>
    match varIndex o.vars j with | some v => decide (v = 0xFFFF) || o.adapters.contains v | none => true)

/-- ANCHOR_SCAN_PHASE (R67): a core delivers the largest value of its share. -/
def execAnchorScanPhase (p seq core : Nat) (s : State) : Host.Outcome State Fault Refusal :=
  .next (s.arrayStep p seq (fun o g t =>
    if (dOp o.desc = 1 ∧ dMode o.desc ≠ 0) ∨ !o.passesDone g ∨ o.anchor.isSome ∨ !(t.partCores p).contains core
      ∨ o.scans.any (fun x => x.1 = core) then t
    else
      let r := t.variants p o g
      match r.1 with
      | none => r.2.finishOp p seq stBadHandle 0#16
      | some vs =>
        let v := o.shareScan g (o.plan g) vs (t.coreCount p) (core - t.coreAt p 0)
        r.2.updOp p seq (fun o => { o with scans := o.scans ++ [(core, v)] })))

/-- ANCHOR_AGREE (R67, R97): the anchor goes to every core: the maximum over all cores, or the supplied one. -/
def execAnchorAgree (p seq : Nat) (s : State) : Host.Outcome State Fault Refusal :=
  .next (s.arrayStep p seq (fun o g t =>
    let set (t : State) (A : Int) : State := t.updOp p seq (fun o => { o with anchor := some A })
    if o.anchor.isSome ∨ !o.passesDone g then t
    else if dOp o.desc = 2 ∨ dMode o.desc = 0 then
      (if (t.partCores p).all (fun c => o.scans.any (fun x => x.1 = c)) then
        set t ((maxInt? (o.scans.filterMap (·.2))).getD g.tops) else t)
    else
      let r := t.anchorOf p o g ⟨[], []⟩
      match r.1 with | some A => set r.2 A | none => r.2.finishOp p seq stPoisoned 0#16))

/-! ### REDUCE -/

/-- Tile t of the left fold of REDUCE's sources (R108, R138). -/
def State.foldSources (s : State) (p : Nat) (o : OpRec) (t : Nat) : WTile × State :=
  match reduceSources o.desc with
  | [] => (.zero, s)
  | h :: hs =>
    let c := s.homeIx p (o.ent (dC o.desc)) t
    let a := s.loadTile p c o h t
    hs.foldl (fun (x : WTile × State) h => let r := x.2.loadTile p c o h t; (WTile.merge (tileIx (o.ent (dC o.desc)) t) x.1 r.1, r.2)) a

/-- REDUCE (R108). -/
def State.runReduce (s : State) (p : Nat) (o : OpRec) : State :=
  let r := (List.range (eTiles (o.ent (dC o.desc)))).foldl (fun (x : List (Nat × WTile) × State) t =>
    let y := x.2.foldSources p o t
    (x.1 ++ [(t, y.1)], y.2)) ([], s)
  (r.2.storePartials p o (dC o.desc) false r.1).work.finish p o

/-- REDUCE (R108). -/
def execReduce (p seq : Nat) (s : State) : Host.Outcome State Fault Refusal :=
  .next (s.runOp p seq 0x13 (fun _ => true) (s.runReduce p))

end Sys2Proof.Machine
end

