-- ==== Sys2Proof/Machine/Engines.lean ====
section
/-! DEFINITION. The engines step by step (Table 3.2): stationary loads and SWAP (R52, R53, R63), cells and feet
(R49, R50, R71, R72), residue checks, retries and captures (R334, R335, R340), write-back (R73), merges at a tile's home
core (R136, R137) and output conversion (R139, R337). -/

namespace Sys2Proof.Machine

/-! ### Where a cell lies -/

/-- Rows of one chain (Table 3.1). -/
def chainLen (wide : Bool) : Nat := if wide then 16 else 64

/-- The foot column of cell (k, n); none for the cells of a gang that carry no chain (R49). -/
def footColumn (f : Fmt) (wide : Bool) (k n : Nat) : Option Nat :=
  let g := if wide then k / 16 else 0
  if f = .lg16 then (if n % 4 = 0 then some (16 * g + n / 4) else none) else some (64 * g + n)

/-- The reduction index offsets of a cell row within a load: one, or the packed pair of LG4 (R49). -/
def rowIndex (f : Fmt) (wide : Bool) (k : Nat) : Nat := (if f = .lg4 then 2 else 1) * (k % chainLen wide)

/-- The bank of an engine that feeds the products. -/
def Eng.active (e : Eng) : Sparse Weight := if e.bankSel then e.bank1 else e.bank0

/-- Replace the shadow bank. -/
def Eng.setShadow (e : Eng) (w : Sparse Weight) : Eng := if e.bankSel then { e with bank0 := w } else { e with bank1 := w }

/-- The formats of the elements that a load brings: activations and weights. -/
def loadFormats (g : Gemm) (vs : Variants) (load : Nat) : Fmt × Fmt :=
  if load < 2 ^ 32 then (eFmt g.xe, eFmt g.we)
  else match vs.list.find? (fun a => a.v + 1 = load / 2 ^ 32) with
    | some a => (a.ufmt, eFmt a.e2)
    | none => (eFmt g.xe, eFmt g.we)

/-- The format that the cells compute in for a load: the operation's mode, or the widest format that an adapter load brings
(R51; DEDUCED, log 61: a cell forms the product of the two formats, whatever the mode that gives the foot its shape). -/
def loadMode (x : Plan) (g : Gemm) (vs : Variants) (load : Nat) : Fmt :=
  let wider (a b : Fmt) : Fmt := if a.code < b.code then b else a
  let f := loadFormats g vs load
  wider x.mode (wider f.1 f.2)

/-- The weight that a load puts into cell (k, n) of an engine of core `core` of the partition (R52). -/
def loadWeight (x : Plan) (g : Gemm) (vs : Variants) (core b block load k n : Nat) : Weight :=
  match footColumn x.mode x.wide k n with
  | none => .zero
  | some c =>
    let w := (loadElems g vs core load).2 b
    let i := rowIndex x.mode x.wide k
    let u := w i (block * x.cols + c)
    let v := if x.mode = .lg4 then w (i + 1) (block * x.cols + c) else .pad
    let wide (e : Elem) : Nat := widenCode (loadFormats g vs load).2 (loadMode x g vs load) e.code
    ⟨wide u, u.scale, wide v, v.scale, u.poisoned, v.poisoned⟩

/-- Every cell of an engine with the weights of a load. -/
def loadBank (x : Plan) (g : Gemm) (vs : Variants) (core b block load : Nat) : Sparse Weight :=
  (List.range 4096).foldl (fun m i =>
    Sparse.set Weight.zero m i (loadWeight x g vs core b block load (i / 64) (i % 64))) []

/-! ### Operations on engines -/

/-- What an engine's job works on: operation, plan, operands, variants, and the partition's first core and number of cores.
-/
structure Work2 where
  o : OpRec
  g : Gemm
  x : Plan
  vs : Variants
  lo : Nat
  C : Nat

/-- The work behind a MATMUL that may run. -/
def State.workOf (s : State) (p seq : Nat) : Option (Work2 × State) :=
  match (s.prt p).op seq with
  | none => none
  | some o =>
    if dOp o.desc = 1 ∧ (s.prt p).mayRun o ∧ !(s.prt p).readsVoid o ∧ o.passesDone (s.gemm p o).1 then
      let a := s.gemm p o
      let r := a.2.variants p o a.1
      r.1.map (fun vs => (⟨o, a.1, o.plan a.1, vs, s.coreAt p 0, s.coreCount p⟩, r.2))
    else none

/-- Span of a load. -/
def Plan.spanOf (x : Plan) (load : Nat) : Nat := if load < 2 ^ 32 then load / pitchLen else x.pitches - 1

/-- Some engine works on a pitch, or holds its first load. -/
def State.pitchTaken (s : State) (x : Plan) (p seq group block span : Nat) : Bool :=
  let is (j : Job) : Bool := decide (j.part = p ∧ j.seq = seq ∧ j.group = group ∧ j.block = block ∧ x.spanOf j.nextK0 = span)
  s.engs.any (fun (e : Nat × Eng) => e.2.job.any is || e.2.next.any is)

/-- The load after `load` in its pitch. -/
def nextLoad (loads : List Nat) (load : Nat) : Option Nat := ((loads.dropWhile (· ≠ load)).drop 1).head?

/-- The work of an engine's job. -/
def State.jobWork (s : State) (core e : Nat) : Option (Job × Work2 × State) :=
  match (s.eng core e).job with
  | none => none
  | some j => (s.workOf j.part j.seq).map (fun w => (j, w.1, w.2))

/-- The loads of the pitch of a job. -/
def Work2.pitchLoads (w : Work2) (j : Job) : List Nat := w.o.loadsOf w.x w.g w.vs j.group (w.x.spanOf j.k0)

/-- An engine streams the last load of its pitch, and no other load stands behind it. -/
def State.lastLoad (s : State) (core e : Nat) : Bool :=
  match s.jobWork core e with
  | some (j, w, _) => decide ((s.eng core e).state = 3#4 ∧ nextLoad (w.pitchLoads j) j.k0 = none) && !(s.eng core e).shadowFull
  | none => false

/-- Shadow-bank loads of an operation may begin (R21, R54): no other array operation streams, or the one that does streams
its last loads, in the same shape and mode, and this one is the next accepted. -/
def State.mayBegin (s : State) (p : Nat) (w : Work2) : Bool :=
  (s.prt p).ops.all (fun a => a.seq = w.o.seq || !s.streams p a ||
    (let g := a.shape
     let x := a.plan g
     decide (x.wide = w.x.wide ∧ x.mode = w.x.mode)
      && (s.pitchesOf p a g x).all (fun c =>
        a.pitches.contains (x.pitchId c.group c.block c.span) || s.pitchTaken x p a.seq c.group c.block c.span)
      && s.engs.all (fun (e : Nat × Eng) => !e.2.worksFor p a.seq || s.lastLoad (e.1 / 16) (e.1 % 16))
      && (s.prt p).ops.all (fun b => !isArray b.desc || b.done || decide (b.seq ≤ a.seq ∨ w.o.seq ≤ b.seq))))

/-- The engine may receive a load for a row group (R21, R52, R54, R57, R63): the next load of the pitch it works on; or the
first load of a pitch of its core's share that no engine has taken, idle or while it streams the last load of its pitch. -/
def State.mayLoad (s : State) (p : Nat) (w : Work2) (core e group block load : Nat) : Bool :=
  let v := s.eng core e
  let span := w.x.spanOf load
  let loads := w.o.loadsOf w.x w.g w.vs group span
  let fresh := !w.o.pitches.contains (w.x.pitchId group block span) && !(s.pitchTaken w.x p w.o.seq group block span)
    && decide (loads.head? = some load)
  decide (e < 16 ∧ (s.partCores p).contains core ∧ group < w.g.nb * w.x.groups ∧ block < w.x.blocks)
    && !(s.hdr (pageCore core)).suspect && v.state ≠ 7#4 && v.state ≠ 6#4 && v.state ≠ 5#4 && !v.shadowFull
    && !(w.o.groupFed w.x w.g group).isEmpty
    && decide (s.coreAt p (w.x.spanCore w.C block span) = core)
    && (match v.job with
      | none => s.takes (pageEng core e) && s.takes (pageCore core) && fresh && s.mayBegin p w
      | some j =>
        decide (j.part = p ∧ j.seq = w.o.seq ∧ j.group = group ∧ j.block = block ∧ nextLoad loads j.k0 = some load)
          || (s.lastLoad core e && fresh && s.mayBegin p w))

/-- A load goes into the shadow banks of an engine: the next of its pitch, or the first of another pitch. -/
def Eng.takeLoad (e : Eng) (bank : Sparse Weight) (j : Job) (first : Bool) : Eng :=
  let f := { e.setShadow bank with shadowFull := true }
  match e.job with
  | none => { f with state := 2#4, job := some j }
  | some k => if first then { f with next := some j } else { f with job := some { k with nextK0 := j.nextK0 } }

/-- STATIONARY_LOAD (R52, R63): one load goes into the shadow banks of every engine of a team; the i-th engine of the team
takes row group `group` + i, all of one W batch. The whole array takes the operation's shape with its first load (R56). -/
def State.loadTeam (s : State) (p seq core : Nat) (team : List Nat) (block group load : Nat) : State :=
  match s.workOf p seq with
  | none => s
  | some (w, t) =>
    let ts := (List.range team.length).map (fun i => (team.getD i 0, group + i))
    let one (gr : Nat) : Nat := if eDim w.g.we 2 * eDim w.g.we 3 = 1 then 0 else gr / w.x.groups
    if ts.isEmpty ∨ !team.Nodup ∨ !(ts.all (fun y => t.mayLoad p w core y.1 y.2 block load && decide (one y.2 = one group))) then s
    else
      let bank := loadBank w.x w.g w.vs (core - w.lo) (group / w.x.groups) block load
      ts.foldl (fun t y =>
        let first := decide ((w.o.loadsOf w.x w.g w.vs y.2 (w.x.spanOf load)).head? = some load)
        t.updEng core y.1 (fun e => e.takeLoad bank ⟨p, seq, block, y.2, load, load, w.x.idx, 0⟩ first)) (t.takeShape p w.x)

/-- STATIONARY_LOAD (R63). -/
def execStationaryLoad (p seq core : Nat) (team : List Nat) (block group k0 : Nat) (s : State) : Host.Outcome State Fault Refusal :=
  .next (s.loadTeam p seq core team block group k0)

/-- Chain values that the load in the active bank sends to the feet. -/
def Work2.expected (w : Work2) (j : Job) : Nat := (w.o.loadRows w.x w.g w.vs j.group j.k0).length * w.x.cols

/-- SWAP (R53): an operation's first products wait until no other array operation streams (R21); behind the last row of the
current load every cell exchanges its banks (log 29: in one step), and the first SWAP carries the anchor. -/
def State.swapBanks (s : State) (core e : Nat) : State :=
  match s.jobWork core e with
  | none => s
  | some (j, w, t) =>
    let v := s.eng core e
    if !v.shadowFull ∨ v.next.isSome ∨ !((v.state = 2#4 ∧ s.arrayFree j.part j.seq) ∨ (v.state = 3#4 ∧ j.added = w.expected j)) then s
    else
      match w.o.anchor with
      | none => s
      | some a =>
        (t.updEng core e (fun v =>
          { v with state := 3#4, bankSel := !v.bankSel, shadowFull := false, fed := [], anchor := some a,
                   foot := if v.footOpen then v.foot else [], footOpen := true,
                   job := some { j with k0 := j.nextK0, added := 0 } })).progress (pageEng core e) 1

/-- SWAP (R53). -/
def execSwap (core engine : Nat) (s : State) : Host.Outcome State Fault Refusal := .next (s.swapBanks core engine)

/-- Flip bits of a w-bit two's complement value: a physical upset. -/
def upsetInt (w : Nat) (v : Int) (u : Upset) : Int := (BitVec.ofInt w v ^^^ u.setWidth w).toInt

/-- The activation that the feeder of a core gives to cell row k for a row (R49, R51, R58). -/
def Work2.feed (w : Work2) (core load k ρ row : Nat) : Act :=
  let i := rowIndex w.x.mode w.x.wide k
  let x := (loadElems w.g w.vs (core - w.lo) load).1 ρ
  let u := x i
  let v := if w.x.mode = .lg4 then x (i + 1) else .pad
  let wide (e : Elem) : Nat := widenCode (loadFormats w.g w.vs load).1 (loadMode w.x w.g w.vs load) e.code
  ⟨row, wide u, u.scale, wide v, v.scale, u.poisoned, v.poisoned⟩

/-- One product of a cell: what enters the chain, its flag, and whether the cell is gated (R50, R71). -/
def cellProduct (f : Fmt) (a : Int) (xc : Nat) (xs : BitVec 8) (xb : Bool) (wc : Nat) (ws : BitVec 8) (wb : Bool) :
    Int × FlagWord × Bool :=
  let x := operandX f xc xs
  let w := operandX f wc ws
  let q := product a (xb || wb) x w
  (q.1, q.2, gated (xb || wb) x w)

/-- The chain value that leaves a cell, and how many products were gated (R49, R50, R72); `two`: LG4 mode, two products a
cell. -/
def cellChain (f : Fmt) (two : Bool) (a : Int) (act : Act) (w : Weight) (c : Chain) (u : Upset) : Chain × Nat :=
  let p := cellProduct f a act.code act.scale act.poison w.code w.scale w.poison
  let q := cellProduct f a act.code2 act.scale2 act.poison2 w.code2 w.scale2 w.poison2
  let v := c.value + p.1 + (if two then q.1 else 0)
  let r := (c.residue + residueOf p.1 + (if two then residueOf q.1 else 0)) % 65535
  let fl := c.flags ||| p.2.1 ||| (if two then q.2.1 else 0#16)
  (⟨c.row, upsetInt 48 v u, r, fl⟩, (if p.2.2 then 1 else 0) + (if two && q.2.2 then 1 else 0))

/-- CELL_STEP (R49, R50): cell (k, n) passes the activation of a row on and adds its product to the chain. -/
def State.stepCell (s : State) (core e k n row : Nat) (u : Upset) : State :=
  match s.jobWork core e with
  | none => s
  | some (j, w, t0) =>
    let t := t0.spendEnergy j.part 0 1
    let v := s.eng core e
    let rows := w.o.loadRows w.x w.g w.vs j.group j.k0
    let act : Option Act :=
      if n = 0 then
        (match rows[Sparse.get 0 v.fed k]? with
          | some r => if r.2 = row then some (w.feed core j.k0 k r.1 row) else none
          | none => none)
      else (Sparse.get none v.acts (64 * k + n)).filter (fun a => a.row = row)
    let first := decide (k % chainLen w.x.wide = 0)
    let last := decide (k % chainLen w.x.wide + 1 = chainLen w.x.wide)
    let chain : Option Chain := if first then some ⟨row, 0, 0, 0#16⟩
      else (Sparse.get none v.chains (64 * k + n)).filter (fun c => c.row = row)
    let passOk := decide (n = 63) || (Sparse.get none v.acts (64 * k + n + 1)).isNone
    match v.anchor, act with
    | some a, some act =>
      if v.state ≠ 3#4 ∨ 64 ≤ k ∨ 64 ≤ n ∨ !passOk then s
      else
        let moved (v : Eng) : Eng :=
          let acts := if n = 0 then v.acts else Sparse.set none v.acts (64 * k + n) none
          { v with
            acts := if n = 63 then acts else Sparse.set none acts (64 * k + n + 1) (some act)
            fed := if n = 0 then Sparse.modify 0 v.fed k (· + 1) else v.fed }
        match footColumn w.x.mode w.x.wide k n, chain with
        | none, _ => t.updEng core e moved
        | some _, none => s
        | some col, some c =>
          let free := if last then (Sparse.get none v.feet col).isNone else (Sparse.get none v.chains (64 * (k + 1) + n)).isNone
          if !free then s
          else
            let r := cellChain (loadMode w.x w.g w.vs j.k0) (decide (w.x.mode = .lg4)) a act (Sparse.get Weight.zero v.active (64 * k + n)) c u
            t.updEng core e (fun v =>
              let v1 := moved v
              let chains := if first then v1.chains else Sparse.set none v1.chains (64 * k + n) none
              { v1 with
                chains := if last then chains else Sparse.set none chains (64 * (k + 1) + n) (some r.1)
                feet := if last then Sparse.set none v1.feet col (some r.1) else v1.feet
                zeroGated := satAdd v1.zeroGated r.2 })
    | _, _ => s

/-- CELL_STEP (R49). -/
def execCellStep (core engine k n row : Nat) (upset : Upset) (s : State) : Host.Outcome State Fault Refusal :=
  .next (s.stepCell core engine k n row upset)

/-! ### Residue checks (R334) and captures (R340) -/

/-- The syndrome of a value and the residue beside it. -/
def syndrome (value : Int) (residue : Nat) : Nat := (residue + 65535 - residueOf value) % 65535

/-- Capture blocks that the buffer holds (R340). -/
def captureRoom : Nat := 14

/-- The capture block of a failing chain (Table 15.5, bytes 96 to 383): weights and row elements of the column, their scales,
the chain value and its residue. -/
def Work2.capture (w : Work2) (core : Nat) (e : Eng) (j : Job) (col : Nat) (c : Chain) : List Byte :=
  let len := chainLen w.x.wide
  let g := if w.x.wide then (if w.x.mode = .lg16 then col / 16 else col / 64) else 0
  let n := if w.x.mode = .lg16 then 4 * (if w.x.wide then col % 16 else col) else (if w.x.wide then col % 64 else col)
  let ks := (List.range len).map (fun i => g * 16 + i)
  let ws := ks.map (fun k => Sparse.get Weight.zero e.active (64 * k + n))
  let ρ := ((w.x.groupRows w.g j.group).find? (fun r => r.2 = c.row)).elim 0 (·.1)
  let xs := ks.map (fun k => w.feed core j.k0 k ρ c.row)
  let bytes (a b : Nat) : List Byte :=
    match w.x.mode with | .lg4 => [BitVec.ofNat 8 (a % 16 + 16 * (b % 16))] | .lg16 => leBytes 2 a | _ => leBytes 1 a
  let scales (l : List (BitVec 8)) : List Byte := (List.range 8).map (fun i => l.getD (8 * i) 0#8)
  sliceBytes (ws.flatMap (fun x => bytes x.code x.code2)) 0 128 ++ sliceBytes (xs.flatMap (fun x => bytes x.code x.code2)) 0 128
    ++ scales (ws.map (·.scale)) ++ scales (xs.map (·.scale)) ++ leBytes 8 (BitVec.ofInt 64 c.value).toNat ++ leBytes 2 c.residue
    ++ zeros 6

/-- The event of a residue FAIL on an engine (R346). -/
def State.failEvent (s : State) (core e : Nat) (v : Eng) (row col : Nat) (load syn jseq : Nat) (cap : List Byte) : CperEvent :=
  let formats := match v.job with
    | some j => (match (s.prt j.part).op j.seq with
      | some o => (eFmt (o.ent (dB o.desc))).code + 16 * (eFmt (o.ent (dA o.desc))).code
      | none => 0)
    | none => 0
  { CperEvent.base 1#8 0#8 (pageEng core e) with
    row := BitVec.ofNat 8 row, column := BitVec.ofNat 8 col, load := BitVec.ofNat 16 load, syndrome := BitVec.ofNat 16 syn,
    jseq := jseq, anchor := v.anchor.getD 0, format := BitVec.ofNat 8 formats, capture := cap }

/-- Count a residue FAIL of an engine (R334, R362, R399). -/
def State.countFail (s : State) (core e : Nat) : State :=
  ((s.updEng core e (fun v => { v with residueFail := satAdd v.residueFail 1 })).raiseErr (pageEng core e) 2
    (s.eng core e).pitchCount).riskEvent 2 1

/-- A FAIL at a foot or at write-back: the foot tile is discarded, and the pitch is to be run again (R335). `cap` is the
capture block; it is taken for the first FAIL of a pitch while the buffer has room (R340). -/
def State.failPitch (s : State) (core e : Nat) (row col load syn jseq : Nat) (cap : List Byte) : State :=
  let s1 := s.countFail core e
  let take := (s.eng core e).fails.isEmpty && decide (cap ≠ [] ∧ s.hlt.captures < captureRoom)
  let s2 := if take then s1.updHlt (fun h => { h with captures := h.captures + 1 }) else s1
  s2.updEng core e (fun v =>
    { v with state := 5#4, foot := [], feet := [], chains := [], acts := [], fed := [], shadowFull := false, next := none,
             fails := v.fails ++ [s.failEvent core e v row col load syn jseq (if take then cap else [])] })

/-- Index of a load within its pitch. -/
def loadOrdinal (loads : List Nat) (load : Nat) : Nat := (loads.takeWhile (· ≠ load)).length

/-- FOOT_ADDITION (R72, R334): the chain value at a foot is checked and added into its slot. -/
def State.addFoot (s : State) (core e col : Nat) (u : Upset) : State :=
  match s.jobWork core e with
  | none => s
  | some (j, w, t) =>
    let v := s.eng core e
    match Sparse.get none v.feet col with
    | none => s
    | some c =>
      let syn := syndrome c.value c.residue
      if syn ≠ 0 then
        t.failPitch core e c.row col (loadOrdinal (w.pitchLoads j) j.k0) syn j.seq
          (w.capture core v j col c)
      else
        t.updEng core e (fun v =>
          let k := c.row * w.x.cols + col
          let a := (Sparse.get Slot.zero v.foot k).add ⟨c.value, c.residue, c.flags⟩
          { v with feet := Sparse.set none v.feet col none,
                   foot := Sparse.set Slot.zero v.foot k { a with value := upsetInt 72 a.value u },
                   job := some { j with added := j.added + 1 } })

/-- FOOT_ADDITION (R72). -/
def execFootAddition (core engine column : Nat) (upset : Upset) (s : State) : Host.Outcome State Fault Refusal :=
  .next (s.addFoot core engine column upset)

/-! ### Write-back (R73) -/

/-- A partial that core `core` holds for a tile. -/
def State.partialAt (s : State) (p seq core t : Nat) : Option Partial :=
  s.partials.find? (fun x => x.part = p && x.seq = seq && x.core = core && x.tile = t)

/-- Replace a partial. -/
def State.setPartial (s : State) (x : Partial) : State :=
  { s with partials := s.partials.filter (fun y => !(y.part = x.part && y.seq = x.seq && y.core = x.core && y.tile = x.tile)) ++ [x] }

/-- The partial before its first pitch. -/
def Partial.new (p seq core t : Nat) (a : Int) : Partial := ⟨p, seq, core, t, 0, ⟨a, false, 0#16, 0⟩, []⟩

/-- The slots of a foot tile that lie in tile t: index in the tile and slot, for the fed rows of a row group (R60, R93). -/
def Work2.footSlots (w : Work2) (y : Entry) (v : Eng) (group block t : Nat) : List (Nat × Slot) :=
  (w.o.groupFed w.x w.g group).flatMap (fun r =>
    ((List.range w.x.cols).filter (fun c => block * w.x.cols + c < w.g.n)).filterMap (fun c =>
      let q := eTileOf y (block * w.x.cols + c) r.1
      if q.1 = t then some (q.2, Sparse.get Slot.zero v.foot (r.2 * w.x.cols + c)) else none))

/-- Add a pitch of an engine into a partial. -/
def Partial.addPitch (x : Partial) (engine : Nat) (slots : List (Nat × Slot)) (retried : Bool) : Partial :=
  { x with
    engine := engine
    tr := { x.tr with len := x.tr.len + 1, flags := x.tr.flags ||| (if retried then fRETRIED else 0#16) }
    slots := slots.foldl (fun m y => Sparse.set Slot.zero m y.1 ((Sparse.get Slot.zero m y.1).add y.2)) x.slots }

/-- A vector engine repeats an addition or a merge whose residue failed once; a second failure makes it suspect (Table
15.1). -/
def State.repeatAdd (s : State) (core : Nat) (bad : Bool) : State :=
  let s1 := s.riskEvent 2 1
  if bad then (s1.report { CperEvent.base 1#8 3#8 (pageVec core) with fatal := true }).makeSuspect (pageVec core)
  else s1.report (CperEvent.base 1#8 1#8 (pageVec core))

/-- An upset of an addition that the residue check sees. -/
def upsetSeen (u : Upset) : Bool := decide (residueOf (upsetInt 72 0 u) ≠ 0)

/-- The pitch of an engine is complete: its last load has reached the feet. -/
def Work2.pitchDone (w : Work2) (v : Eng) (j : Job) : Bool :=
  decide (v.state = 3#4 ∧ j.added = w.expected j
    ∧ nextLoad (w.pitchLoads j) j.k0 = none) && (!v.shadowFull || v.next.isSome)

/-- Close the foot tile of an engine and let it go, to the pitch whose first load it holds, if any. -/
def Eng.closePitch (v : Eng) : Eng :=
  let u := { v with footOpen := false, foot := [], feet := [], chains := [], acts := [], fed := [], anchor := none, fails := [],
                    retried := false, next := none }
  if v.next.isSome ∧ v.state ≠ 7#4 then { u with state := 2#4, job := v.next }
  else { u with state := if v.state = 7#4 then 7#4 else 0#4, shadowFull := false, job := none }

/-- WRITE_BACK (R73, R334): the foot tile is checked and added into the core's partials; `upset` and `again` strike the sum
and its repeat. -/
def State.writeBack (s : State) (core e : Nat) (u u2 : Upset) : State :=
  match s.jobWork core e with
  | none => s
  | some (j, w, t) =>
    let v := s.eng core e
    let y := w.o.ent (dC w.o.desc)
    if !w.pitchDone v j then s
    else
      match (v.foot.find? (fun (x : Nat × Slot) => syndrome x.2.value x.2.residue ≠ 0)) with
      | some x => t.failPitch core e (x.1 / w.x.cols) (x.1 % w.x.cols) 0 (syndrome x.2.value x.2.residue) j.seq []
      | none =>
        let seen := upsetSeen u
        let t1 := if seen then t.repeatAdd core (upsetSeen u2) else t
        if seen && upsetSeen u2 then t1
        else
          let t2 := (w.x.tilesOf w.g y j.group j.block).foldl (fun t tile =>
            let old := (t.partialAt j.part j.seq core tile).getD (Partial.new j.part j.seq core tile (v.anchor.getD 0))
            t.setPartial (old.addPitch e (w.footSlots y v j.group j.block tile) v.retried)) t1
          let t3 := t2.updOp j.part j.seq (fun o => { o with pitches := o.pitches ++ [w.x.pitchId j.group j.block (w.x.spanOf j.k0)] })
          (t3.updEng core e (fun v => { v.closePitch with pitchCount := v.pitchCount + 1 })).progress (pageEng core e) 1

/-- WRITE_BACK (R73). -/
def execWriteBack (core engine : Nat) (upset again : Upset) (s : State) : Host.Outcome State Fault Refusal :=
  .next (s.writeBack core engine upset again)

/-! ### Retries (R335) -/

/-- The foot tile that a pitch gives on a sound engine of a core. -/
def Work2.soundFoot (w : Work2) (core : Nat) (j : Job) (a : Int) : Sparse Slot :=
  (w.pitchLoads j).foldl (fun m ld =>
    let f := loadElems w.g w.vs (core - w.lo) ld
    (w.o.loadRows w.x w.g w.vs j.group ld).foldl (fun m r =>
      (List.range w.x.cols).foldl (fun m c =>
        let d := chainSlot a (List.range w.x.idx) (f.1 r.1) (fun i => f.2 (j.group / w.x.groups) i (j.block * w.x.cols + c))
        Sparse.set Slot.zero m (r.2 * w.x.cols + c) ((Sparse.get Slot.zero m (r.2 * w.x.cols + c)).add d)) m) m) []

/-- What an engine counts as it runs the loads of a pitch again (R50, R53, R335). -/
def Work2.ranAgain (w : Work2) (core : Nat) (j : Job) (v : Eng) : Eng :=
  v.ran (w.pitchLoads j).length (w.o.gatedOf w.x w.g w.vs (core - w.lo) j.group j.block (w.x.spanOf j.k0))

/-- An engine of a core that stands ready to write a rerun pitch back; a load that it held for another pitch is lost. -/
def Work2.rerun (w : Work2) (core : Nat) (v : Eng) (j : Job) : Eng :=
  let lastLoad := (w.pitchLoads j).getLast?.getD j.k0
  let k := { j with k0 := lastLoad, nextK0 := lastLoad }
  { w.ranAgain core j v with
    state := 3#4, footOpen := true, foot := w.soundFoot core j (v.anchor.getD 0), fails := [], retried := true, shadowFull := false,
    next := none, job := some { k with added := w.expected k } }

/-- Hand the FAILs of a pitch over with their outcome. -/
def State.reportFails (s : State) (fs : List CperEvent) (outcome : BitVec 8) (fatal : Bool) : State :=
  fs.foldl (fun t f => t.report { f with outcome := outcome, fatal := fatal }) s

/-- A pitch that the core cannot compute: its tiles are not written, and the operation is to end with RESIDUE_LASTING
(R335). -/
def Work2.dropPitch (w : Work2) (s : State) (j : Job) : State :=
  s.updOp j.part j.seq (fun o => { o with
    status := worse o.status stResidue
    pitches := o.pitches ++ [w.x.pitchId j.group j.block (w.x.spanOf j.k0)]
    tilesDone := o.tilesDone ++ w.x.tilesOf w.g (o.ent (dC o.desc)) j.group j.block })

/-- PITCH_RETRY (R335): the pitch again on the same engine, then on the lowest-numbered other engine that is not suspect. -/
def State.retryPitch (s : State) (core e : Nat) (same other : Bool) : State :=
  match s.jobWork core e with
  | none => s
  | some (j, w, t) =>
    let v := s.eng core e
    if v.state ≠ 5#4 then s
    else if same then (t.reportFails v.fails 1#8 false).updEng core e (fun v => w.rerun core v j)
    else
      let t := t.updEng core e (w.ranAgain core j)
      match (List.range 16).find? (fun k => k ≠ e ∧ (t.eng core k).state ≠ 7#4) with
      | none =>
        let t1 := ((t.countFail core e).reportFails (v.fails ++ [t.failEvent core e v 0 0 0 0 j.seq []]) 3#8 true).makeSuspect (pageCore core)
        w.dropPitch (t1.updEng core e Eng.closePitch) j
      | some k =>
        if (t.eng core k).job.isSome ∧ (t.eng core k).state ≠ 2#4 then s
        else
          let second := v.fails ++ [t.failEvent core e v 0 0 0 0 j.seq []]
          let t1 := t.countFail core e
          if other then
            let t2 := (t1.reportFails second 2#8 true).updEng core k (fun u => w.rerun core { u with anchor := v.anchor } j)
            (t2.updEng core e Eng.closePitch).makeSuspect (pageEng core e)
          else
            let t2 := ((t1.updEng core k (w.ranAgain core j)).countFail core k).reportFails (second ++ [t.failEvent core k v 0 0 0 0 j.seq []]) 3#8 true
            w.dropPitch ((t2.makeSuspect (pageCore core)).updEng core e Eng.closePitch) j

/-- PITCH_RETRY (R335). -/
def execPitchRetry (core engine : Nat) (samePasses otherPasses : Bool) (s : State) : Host.Outcome State Fault Refusal :=
  .next (s.retryPitch core engine samePasses otherPasses)

/-! ### Home cores (R136, R137, R139) -/

/-- Pitches of an operation that touch a tile, on one core or on all. -/
def State.tilePitches (s : State) (p : Nat) (w : Work2) (t : Nat) : List Pitch :=
  (s.pitchesOf p w.o w.g w.x).filter (fun c => (w.x.tilesOf w.g (w.o.ent (dC w.o.desc)) c.group c.block).contains t)

/-- The mark of a partial that a home core has merged. -/
def mergedMark : Nat := 256

/-- A core's part of a tile, computed again (R137). -/
def Work2.recomputed (w : Work2) (x : Partial) (ps : List Pitch) : Sparse Slot :=
  let y := w.o.ent (dC w.o.desc)
  (tileIx y x.tile).foldl (fun m i =>
    let ρ := slotRow y x.tile i
    let n := (eTileBox y x.tile).1 + i % 64
    let spans := (ps.filter (fun c => c.block = n / w.x.cols && (w.o.groupFed w.x w.g c.group).any (fun r => r.1 = ρ))).map (·.span)
    Sparse.set Slot.zero m i (sumSlots (spans.map (w.o.pitchSlot w.g w.x w.C w.vs x.tr.anchor ρ n)))) []

/-- The residue FAIL of a contribution (R137, R334): it counts at the engine that wrote the partial's last pitch. -/
def State.failPartial (s : State) (x : Partial) (outcome : BitVec 8) (fatal : Bool) : State :=
  (s.countFail x.core x.engine).report { s.failEvent x.core x.engine (s.eng x.core x.engine) 0 0 0 0 x.seq [] with
    anchor := x.tr.anchor, outcome := outcome, fatal := fatal }

/-- CONFLUENCE_MERGE (R136, R137): after its last pitch a core's partial is checked and merged at the tile's home core.
`upset` strikes the partial on its way: it is computed again and resent, and `again` strikes that. Where both fail the
engine is suspect, and the merge waits for the partial of another (R335; DEDUCED, log 29). -/
def State.mergePartial (s : State) (p seq core tile : Nat) (u u2 : Upset) : State :=
  match s.workOf p seq with
  | none => s
  | some (w, t) =>
    match t.partialAt p seq core tile with
    | none => s
    | some x =>
      let ps := (t.tilePitches p w tile).filter (fun c => c.core = core)
      if core = mergedMark ∨ x.tr.len ≠ ps.length then s
      else
        let fail := upsetSeen u || x.slots.any (fun (y : Nat × Slot) => syndrome y.2.value y.2.residue ≠ 0)
        let x1 := if fail then { x with slots := w.recomputed x ps, tr := { x.tr with flags := x.tr.flags ||| fRETRIED } } else x
        if fail && upsetSeen u2 then
          ((((t.failPartial x 2#8 true).countFail core x.engine).updEng core x.engine (fun v => ({ v with next := none }).closePitch)).makeSuspect
            (pageEng core x.engine)).setPartial x1
        else
          let t1 := if fail then t.failPartial x 1#8 false else t
          let old := (t1.partialAt p seq mergedMark tile).getD (Partial.new p seq mergedMark tile x.tr.anchor)
          let ix := tileIx (w.o.ent (dC w.o.desc)) tile
          let sum := { old with
            tr := { old.tr with len := old.tr.len + x1.tr.len, flags := old.tr.flags ||| x1.tr.flags }
            slots := ix.foldl (fun m i => Sparse.set Slot.zero m i ((Sparse.get Slot.zero old.slots i).add (Sparse.get Slot.zero x1.slots i))) [] }
          let t2 := { t1 with partials := t1.partials.filter (fun y => !(y.part = p && y.seq = seq && y.core = core && y.tile = tile)) }
          t2.setPartial sum

/-- CONFLUENCE_MERGE (R136). -/
def execConfluenceMerge (p seq core tile : Nat) (upset again : Upset) (s : State) : Host.Outcome State Fault Refusal :=
  .next (s.mergePartial p seq core tile upset again)

/-- The batch of a tile, with its index along the scale axis DIM2 or DIM3 in whole blocks (R139). -/
def batchBlock (e : Entry) (b : Nat) : Nat × Nat :=
  let d := eDim e 2
  if eAxis e = 2 then (b / d, b % d / 32) else (b % d, b / d / 32)

/-- The tiles that are converted together with tile t (R139): itself, or the tiles with which its elements share blocks. -/
def blockTiles (e : Entry) (t : Nat) : List Nat :=
  if eScaled e ∧ 2 ≤ eAxis e then
    let n := (eGrid e).1 * (eGrid e).2
    (List.range (eTiles e)).filter (fun u => decide (u % n = t % n ∧ batchBlock e (u / n) = batchBlock e (t / n)))
  else [t]

/-- Every contribution of a tile has been merged (R136). -/
def State.tileComplete (s : State) (p : Nat) (w : Work2) (t : Nat) : Bool :=
  let n := (s.tilePitches p w t).length
  match s.partialAt p w.o.seq mergedMark t with | some x => x.tr.len = n | none => n = 0

/-- The final partial of a tile, with the poisoned rows of R98 and R99 marked. -/
def State.finalPartial (s : State) (p : Nat) (w : Work2) (a : Int) (t : Nat) : WTile :=
  let y := w.o.ent (dC w.o.desc)
  let x := (s.partialAt p w.o.seq mergedMark t).getD (Partial.new p w.o.seq mergedMark t a)
  let slots := (tileIx y t).foldl (fun m i =>
    let ρ := slotRow y t i
    let z := Sparse.get Slot.zero x.slots i
    if w.o.masked ρ then m
    else Sparse.set Slot.zero m i (if w.o.rowPoisoned w.vs ρ then { z with flags := z.flags ||| fPOISON } else z)) []
  let len := w.o.tileLen w.g w.vs y t
  ⟨some a, false, tileFlags (x.tr.flags ||| (if w.o.tileMasked y t then fMASKED else 0#16)) len slots, len, slots⟩

/-- A comparison of duplicated work failed (R337): once it is repeated and reported as transient; twice the vector engine is
suspect. -/
def State.compareFail (s : State) (core mismatches : Nat) : State :=
  if mismatches = 0 then s
  else
    let pg := pageVec core
    let s1 := ({ s with vecFails := Sparse.modify 0#32 s.vecFails core (fun c => satAdd c mismatches) }.raiseErr pg 2 0#32).riskEvent 2 mismatches
    if mismatches = 1 then s1.report (CperEvent.base 2#8 1#8 pg)
    else (s1.report { CperEvent.base 2#8 3#8 pg with fatal := true }).makeSuspect pg

/-- OUTPUT_CONVERSION (R134, R139, R141): the final partial of a tile is written into the destination; `mismatches` counts
the comparisons of R337 that fail. -/
def State.convertTile (s : State) (p seq tile mismatches : Nat) : State :=
  match s.workOf p seq with
  | none => s
  | some (w, t) =>
    let y := w.o.ent (dC w.o.desc)
    let ts := (blockTiles y tile).filter (fun u => !w.o.tilesDone.contains u)
    match w.o.anchor with
    | none => s
    | some a =>
      if eTiles y ≤ tile ∨ w.o.tilesDone.contains tile ∨ !ts.all (t.tileComplete p w) then s
      else
        let t1 := t.compareFail (t.homeCore p y tile) mismatches
        if 2 ≤ mismatches then t1
        else
          let r := t1.storePartials p w.o (dC w.o.desc) (dAccum w.o.desc) (ts.map (fun u => (u, t1.finalPartial p w a u)))
          let k := r.work
          let o := w.o
          let fl := o.flags ||| k.flags
          let st := worse o.status (if k.poisoned then stPoisoned else stOK)
          let done := o.tilesDone ++ ts
          let t2 := r.st.updOp p seq (fun o => { o with tilesDone := done, flags := fl, status := st })
          let t3 := { t2 with partials := t2.partials.filter (fun z => !(z.part = p && z.seq = seq && ts.contains z.tile)) }
          if (List.range (eTiles y)).all done.contains then t3.finishOp p seq (worse st (workStatus o.desc fl false)) fl else t3

/-- OUTPUT_CONVERSION (R139). -/
def execOutputConversion (p seq tile mismatches : Nat) (s : State) : Host.Outcome State Fault Refusal :=
  .next (s.convertTile p seq tile mismatches)

end Sys2Proof.Machine
end

