-- ==== Sys2Proof/Machine/Vec.lean ====
section
/-! DEFINITION. The vector engine's operations: sources as FP32 lanes (R109, R125), the elementwise built-ins and row
operations of Table 6.2 (R126-R128), vector programs (R129), and the gradients of softmax and normalisation (R110, R140). -/

namespace Sys2Proof.Machine

/-! ### Sources -/

/-- A source element in a lane: FP32 pattern, exact value, the flags its conversion raised, poison. -/
structure Lane where
  v : F32
  x : XVal
  fl : FlagWord
  bad : Bool
deriving DecidableEq, Repr

/-- A lane that holds +0. -/
def Lane.zero : Lane := ⟨f0, .zero, 0#16, false⟩

/-- A poisoned element. -/
def Lane.poison : Lane := ⟨fNaN, .nan, fPOISON, true⟩

/-- An element converted to FP32 (R42, R109, Table 2.5). -/
def Elem.lane (f : Fmt) (x : Elem) : Lane :=
  if x.poisoned then .poison
  else if f = .fp32 then ⟨BitVec.ofNat 32 x.code, x.x, 0#16, false⟩
  else let r := toFp 23 true x.x; ⟨BitVec.ofNat 32 r.1, x.x, r.2, false⟩

/-- Element q of a RAW source: bit q as 1.0 or +0 (R109). -/
def bitLane (bs : List Elem) (q : Nat) : Lane :=
  let b := bs.getD (q / 8) .pad
  if b.poisoned then .poison
  else if b.code / 2 ^ (q % 8) % 2 = 1 then ⟨f1, XVal.ofInt 1 0, 0#16, false⟩ else .zero

/-- A source tensor as each of the partition's C cores reads it. -/
structure Src where
  e : Entry
  C : Nat
  xs : Nat → List Elem

/-- Element k of a source on core c. -/
def Src.lane (a : Src) (c k : Nat) : Lane := match (a.xs c)[k]? with | some x => x.lane (eFmt a.e) | none => .poison

/-- Linear index in a source of column i of destination row ρ: an extent of 1 is broadcast (R109). -/
def srcIndex (e y : Entry) (i ρ : Nat) : Nat :=
  let k (j v : Nat) : Nat := if eDim e j = 1 then 0 else v
  k 0 i + eDim e 0 * (k 1 (ρ % eDim y 1)
    + eDim e 1 * (k 2 (ρ / eDim y 1 % eDim y 2) + eDim e 2 * k 3 (ρ / (eDim y 1 * eDim y 2))))

/-- What a source gives on core c to column i of destination row ρ. -/
def Src.on (a : Src) (c : Nat) (y : Entry) (i ρ : Nat) : Lane :=
  if eFmt a.e = .raw then bitLane (a.xs c) (ρ * eDim y 0 + i) else a.lane c (srcIndex a.e y i ρ)

/-- What a source gives to column i of destination row ρ, on the core of the row: ρ mod C (R126). -/
def Src.at (a : Src) (y : Entry) (i ρ : Nat) : Lane := a.on (ρ % a.C) y i ρ

/-- The core, by partition index, of destination element q of an elementwise operation (R126): its row's, or its group's
where the destination has one row only. -/
def elemCore (C : Nat) (y : Entry) (q : Nat) : Nat := if eRows y = 1 then q / 512 % C else q / eDim y 0 % C

/-- What a source gives to destination element q of an elementwise operation. -/
def Src.elem (a : Src) (y : Entry) (q : Nat) : Lane := a.on (elemCore a.C y q) y (q % eDim y 0) (q / eDim y 0)

/-- Read the source behind a handle. -/
def State.loadSrc (s : State) (p : Nat) (o : OpRec) (h : Nat) : Src × State :=
  let r := s.loadTensorBy p o h
  (⟨o.ent h, s.coreCount p, r.1⟩, r.2)

/-- Read several sources. -/
def State.loadSrcs (s : State) (p : Nat) (o : OpRec) (hs : List Nat) : List Src × State :=
  hs.foldl (fun (t : List Src × State) h => let r := t.2.loadSrc p o h; (t.1 ++ [r.1], r.2)) ([], s)

/-! ### Elementwise built-ins (Table 6.2) -/

/-- Flags of a step whose result is not written itself: an infinity is marked where it is written (R407). -/
def stepFlags (f : FlagWord) : FlagWord := f &&& ~~~(fINFP ||| fINFN)

/-- The built-in of SUBOP code `sub` on operands A, B, D. -/
def vecOp (sub : Nat) (compat : Bool) (k : Int) (a b d : F32) : FRes :=
  match sub with
  | 0x01 => fAdd a b
  | 0x02 => fSub a b
  | 0x03 => fMul a b
  | 0x04 => fFma a b d
  | 0x05 => fMax compat a b
  | 0x06 => fMin compat a b
  | 0x07 => fAbs a
  | 0x08 => fScale2 a k
  | 0x09 => fExp a
  | 0x0A => fLog a
  | 0x0B => fRsqrt a
  | 0x0C => fSigmoid a
  | 0x0D => fTanh a
  | _ => (a, 0#16)

/-- A lane result as it is written. -/
def laneOut (v : F32) (fl : FlagWord) : OutVal := .val (decodeFp 23 v.toNat) fl

/-- Flags of a result: MAX, MIN and ROWMAX under MINMAX_COMPAT ignore a NaN operand, which leaves NAN with a NaN result only
(R45). -/
def OpRec.resultFlags (o : OpRec) (v : F32) (fl : FlagWord) : FlagWord :=
  if o.compat ∧ dOp o.desc = 0x10 ∧ [0x05, 0x06, 0x13].contains (dSub o.desc) ∧ fval v ≠ .nan then fl &&& ~~~fNAN else fl

/-- One destination element of an elementwise built-in. -/
def elemOut (o : OpRec) (y : Entry) (srcs : List Src) (f : F32 → F32 → F32 → FRes) (q : Nat) : OutVal :=
  let ls := srcs.map (fun a => a.elem y q)
  let r := f (ls.getD 0 .zero).v (ls.getD 1 .zero).v (ls.getD 2 .zero).v
  o.applyMask (q / eDim y 0) (if ls.any (·.bad) then .poison
    else laneOut r.1 (o.resultFlags r.1 (ls.foldl (fun w l => w ||| l.fl) (stepFlags r.2))))

/-- An elementwise built-in over the whole destination. -/
def State.vecElems (s : State) (p : Nat) (o : OpRec) : State :=
  let y := o.ent (dC o.desc)
  let r := s.loadSrcs p o (vecSources o.desc)
  let f := vecOp (dSub o.desc) o.compat (signedNat 32 (dField o.desc 32 4))
  (r.2.storeElems p o (dC o.desc) false true ((List.range (eCount y)).map (elemOut o y r.1 f))).finish p o

/-- Run an elementwise built-in. `fails` names the destination elements whose comparison of duplicated work fails, twice
where the repeat fails too (R337): each on the core that R126 gives it. -/
def State.runVec (s : State) (p seq sub : Nat) (fails : List Nat) : State :=
  s.runOp p seq 0x10 (· = sub) (fun o =>
    let core (q : Nat) : Nat := s.coreAt p (elemCore (s.coreCount p) (o.ent (dC o.desc)) q)
    let s1 := fails.eraseDups.foldl (fun t q => t.compareFail (core q) (fails.count q)) s
    if fails.any (fun q => 2 ≤ fails.count q) then s1 else s1.vecElems p o)

/-- COPY of one element: conversion from the exact value (R41), or output conversion of a WP72 element (R85). -/
def copyOut (o : OpRec) (y : Entry) (a : Src) (q : Nat) : OutVal :=
  let l := a.elem y q
  o.applyMask (q / eDim y 0) (if l.bad then .poison else .val l.x 0#16)

/-- The tile of a WP72 source behind destination element q of a COPY, and the slot in it. -/
def copyFrom (y e : Entry) (q : Nat) : Nat × Nat :=
  let i := srcIndex e y (q % eDim y 0) (q / eDim y 0)
  eTileOf e (i % eDim e 0) (i / eDim e 0)

/-- COPY of one element of a WP72 source, and the element flags that R85 carries into the destination's flag word. -/
def copyWp (o : OpRec) (y e : Entry) (tiles : List WTile) (q : Nat) : OutVal × FlagWord :=
  let t := copyFrom y e q
  let w := tiles.getD t.1 .zero
  let x := w.slot t.2
  (o.applyMask (q / eDim y 0) (outClass (w.anchor.getD 0) x), if o.masked (q / eDim y 0) then 0#16 else x.flags &&& elemMask)

/-- Read every tile of a WP72 tensor, each at its home core. -/
def State.loadTiles (s : State) (p : Nat) (o : OpRec) (h : Nat) : List WTile × State :=
  (List.range (eTiles (o.ent h))).foldl (fun (t : List WTile × State) i =>
    let r := t.2.loadTile p (s.homeIx p (o.ent h) i) o h i; (t.1 ++ [r.1], r.2)) ([], s)

/-- Work with more flags. -/
def Work.flagged (w : Work) (fl : FlagWord) : Work := ⟨w.st, w.flags ||| fl, w.poisoned || hasFlag fl fPOISON⟩

/-- COPY (R109, Table 2.5). -/
def State.runCopy (s : State) (p : Nat) (o : OpRec) : State :=
  let y := o.ent (dC o.desc)
  let e := o.ent (dA o.desc)
  let ix := List.range (eCount y)
  if eFmt e = .wp72 then
    let t := s.loadTiles p o (dA o.desc)
    let r := ix.map (copyWp o y e t.1)
    ((t.2.storeElems p o (dC o.desc) true true (r.map (·.1))).flagged (r.foldl (fun f x => f ||| x.2) 0#16)).finish p o
  else
    let t := s.loadSrc p o (dA o.desc)
    (t.2.storeElems p o (dC o.desc) (eFmt e).isLg true (ix.map (copyOut o y t.1))).finish p o

/-- VEC_COPY (R109). -/
def execVecCopy (p seq : Nat) (s : State) : Host.Outcome State Fault Refusal := .next (s.runOp p seq 0x10 (· = 0) (s.runCopy p))
/-- VEC_ADD (R128). -/
def execVecAdd (p seq : Nat) (s : State) : Host.Outcome State Fault Refusal := .next (s.runVec p seq 0x01 [])
/-- VEC_SUB (R128). -/
def execVecSub (p seq : Nat) (s : State) : Host.Outcome State Fault Refusal := .next (s.runVec p seq 0x02 [])
/-- VEC_MUL (R128). -/
def execVecMul (p seq : Nat) (s : State) : Host.Outcome State Fault Refusal := .next (s.runVec p seq 0x03 [])
/-- VEC_FMA (R128). -/
def execVecFma (p seq : Nat) (s : State) : Host.Outcome State Fault Refusal := .next (s.runVec p seq 0x04 [])
/-- VEC_MAX (R44, R45). -/
def execVecMax (p seq : Nat) (s : State) : Host.Outcome State Fault Refusal := .next (s.runVec p seq 0x05 [])
/-- VEC_MIN (R44, R45). -/
def execVecMin (p seq : Nat) (s : State) : Host.Outcome State Fault Refusal := .next (s.runVec p seq 0x06 [])
/-- VEC_ABS (R128). -/
def execVecAbs (p seq : Nat) (s : State) : Host.Outcome State Fault Refusal := .next (s.runVec p seq 0x07 [])
/-- VEC_SCALE2 (R128). -/
def execVecScale2 (p seq : Nat) (s : State) : Host.Outcome State Fault Refusal := .next (s.runVec p seq 0x08 [])
/-- VEC_EXP (R128, R337). -/
def execVecExp (p seq : Nat) (fails : List Nat) (s : State) : Host.Outcome State Fault Refusal := .next (s.runVec p seq 0x09 fails)
/-- VEC_LOG (R128, R337). -/
def execVecLog (p seq : Nat) (fails : List Nat) (s : State) : Host.Outcome State Fault Refusal := .next (s.runVec p seq 0x0A fails)
/-- VEC_RSQRT (R128). -/
def execVecRsqrt (p seq : Nat) (s : State) : Host.Outcome State Fault Refusal := .next (s.runVec p seq 0x0B [])
/-- VEC_SIGMOID (R128, R337). -/
def execVecSigmoid (p seq : Nat) (fails : List Nat) (s : State) : Host.Outcome State Fault Refusal :=
  .next (s.runVec p seq 0x0C fails)
/-- VEC_TANH (R128, R337). -/
def execVecTanh (p seq : Nat) (fails : List Nat) (s : State) : Host.Outcome State Fault Refusal := .next (s.runVec p seq 0x0D fails)

/-! ### Row operations (R126-R128) -/

/-- What a row operation gives for one row: its elements, its statistics (NORM's auxiliary destination), its flags. -/
structure RowRes where
  out : List F32
  stats : List F32
  flags : FlagWord
deriving Repr

/-- The OR of the step flags of results. -/
def orSteps (rs : List FRes) : FlagWord := rs.foldl (fun f r => f ||| stepFlags r.2) 0#16

/-- The row maximum under R44 or R45. -/
def rowMax (compat : Bool) : List F32 → FRes
  | [] => (f0, 0#16)
  | x :: xs =>
    let r := xs.foldl (fun (m : FRes) v => let r := fMax compat m.1 v; (r.1, m.2 ||| r.2)) (x, 0#16)
    (r.1, if compat then (if fval r.1 = .nan then fNAN else 0#16) else r.2)

/-- ROWSUM of a row (R127). -/
def rowSum (xs : List F32) : RowRes := let r := (rowAcc xs).round; ⟨[r.1], [], stepFlags r.2⟩

/-- ROWMAX of a row. -/
def rowMaxRes (compat : Bool) (xs : List F32) : RowRes := let r := rowMax compat xs; ⟨[r.1], [], stepFlags r.2⟩

/-- SOFTMAX of a row (Table 6.2). -/
def softmaxRow (compat : Bool) (xs : List F32) : RowRes :=
  let m := rowMax compat xs
  if xs.any (fun x => fval x = .nan) || m.1 = fInf false then ⟨xs.map (fun _ => fNaN), [], stepFlags m.2⟩
  else
    let d := xs.map (fun x => fSub x m.1)
    let t := d.map (fun x => fExp x.1)
    let sum := (rowAcc (t.map (·.1))).round
    let y := t.map (fun x => fDiv x.1 sum.1)
    ⟨y.map (·.1), [], orSteps (m :: sum :: d ++ t ++ y)⟩

/-- NORM of a row, kind 0 or 1 (Table 6.2); the statistics in the order of H_D (R140). -/
def normRow (kind : Nat) (eps : F32) (xs : List F32) : RowRes :=
  let n := xs.length
  let mu := if kind = 0 then (f0, 0#16) else (rowAcc xs).div n
  let c := if kind = 0 then xs.map (fun x => (x, 0#16)) else xs.map (fun x => fSub x mu.1)
  let sq := c.map (fun x => fMul x.1 x.1)
  let v := (rowAcc (sq.map (·.1))).div n
  let w := fAdd v.1 eps
  let r := fRsqrt w.1
  let y := c.map (fun x => fMul x.1 r.1)
  ⟨y.map (·.1), if kind = 0 then [r.1] else [mu.1, r.1], orSteps (mu :: v :: w :: r :: c ++ sq ++ y)⟩

/-- The results of every row that is not masked: its lanes through a row function; none for a masked row. -/
def rowResults (o : OpRec) (y : Entry) (lanes : Nat → List Lane) (f : Nat → List F32 → RowRes) : List (Option (RowRes × Bool)) :=
  (List.range (eRows y)).map (fun ρ =>
    if o.masked ρ then none
    else
      let ls := lanes ρ
      let r := f ρ (ls.map (·.v))
      let fl := ls.foldl (fun w l => w ||| l.fl) r.flags
      some ({ r with flags := o.resultFlags (r.out.headD fNaN) fl }, ls.any (·.bad) || o.maskBad ρ))

/-- The destination elements of row results. -/
def rowVals (o : OpRec) (y : Entry) (rs : List (Option (RowRes × Bool))) : List OutVal :=
  (List.range (eRows y)).flatMap (fun ρ => match rs.getD ρ none with
    | none => List.replicate (eDim y 0) (o.applyMask ρ .keep)
    | some r => (List.range (eDim y 0)).map (fun i => if r.2 then .poison else laneOut (r.1.out.getD i f0) r.1.flags))

/-- Write an auxiliary destination; it is not folded into a HIST table (R141 names H_C). -/
def State.storeAux (s : State) (p : Nat) (o : OpRec) (h : Nat) (vals : List OutVal) : Work :=
  let enc := encodeTensor (o.ent h) false vals
  let w := s.storeEncoded p o h enc
  let fl := enc.flags.foldl (· ||| ·) 0#16
  ⟨w.1, fl, w.2 || hasFlag fl fPOISON⟩

/-- Both parts of an operation's work. -/
def Work.and (a b : Work) : Work := ⟨b.st, a.flags ||| b.flags, a.poisoned || b.poisoned⟩

/-- The statistics of NORM in the elements of H_D. -/
def statVals (e : Entry) (kind : Nat) (rs : List (Option (RowRes × Bool))) : List OutVal :=
  (List.range (eCount e)).map (fun q => match rs.getD (q / (1 + kind)) none with
    | none => .keep
    | some r => if r.2 then .poison else laneOut (r.1.stats.getD (q % (1 + kind)) f0) 0#16)

/-- A row operation of VEC. -/
def State.vecRows (s : State) (p : Nat) (o : OpRec) (f : List F32 → RowRes) : State :=
  let d := o.desc
  let y := o.ent (dC d)
  let a := s.loadSrc p o (dA d)
  let n := if dSub d = 0x12 ∨ dSub d = 0x13 then (if eFmt a.1.e = .raw then 1 else eDim a.1.e 0) else eDim y 0
  let rs := rowResults o y (fun ρ => (List.range n).map (fun i => a.1.at y i ρ)) (fun _ => f)
  let w := a.2.storeElems p o (dC d) false true (rowVals o y rs)
  if dSub d = 0x11 ∧ dD d ≠ 0 then
    (w.and (w.st.storeAux p o (dD d) (statVals (o.ent (dD d)) (dField d 36 1) rs))).finish p o
  else w.finish p o

/-- VEC_SOFTMAX (R128). -/
def execVecSoftmax (p seq : Nat) (s : State) : Host.Outcome State Fault Refusal :=
  .next (s.runOp p seq 0x10 (· = 0x10) (fun o => s.vecRows p o (softmaxRow o.compat)))
/-- VEC_NORM (R128, R140). -/
def execVecNorm (p seq : Nat) (s : State) : Host.Outcome State Fault Refusal :=
  .next (s.runOp p seq 0x10 (· = 0x11) (fun o => s.vecRows p o (normRow (dField o.desc 36 1) (dFp o.desc 32))))
/-- VEC_ROWSUM (R127). -/
def execVecRowsum (p seq : Nat) (s : State) : Host.Outcome State Fault Refusal :=
  .next (s.runOp p seq 0x10 (· = 0x12) (fun o => s.vecRows p o rowSum))
/-- VEC_ROWMAX (R44, R45). -/
def execVecRowmax (p seq : Nat) (s : State) : Host.Outcome State Fault Refusal :=
  .next (s.runOp p seq 0x10 (· = 0x13) (fun o => s.vecRows p o (rowMaxRes o.compat)))

/-! ### Vector programs (R129) -/

/-- A register of one lane. -/
structure VReg where
  v : F32
  bad : Bool
deriving DecidableEq, Repr

/-- What one lane of a program holds: V0 to V31, its flags, what it last stored. -/
structure VLane where
  regs : List VReg
  fl : FlagWord
  out : Option VReg
deriving Repr

/-- Registers start at +0. -/
def VLane.start : VLane := ⟨List.replicate 32 ⟨f0, false⟩, 0#16, none⟩

/-- One instruction in one lane (Tables 6.3 and 6.4). -/
def VLane.step (l : VLane) (compat : Bool) (arg : Nat → F32) (ld : Nat → Lane) (w : BitVec 64) : VLane :=
  let r (i : BitVec 5) : VReg := l.regs.getD i.toNat ⟨f0, false⟩
  let a := r (bitsAt w 16 5)
  let b := r (bitsAt w 21 5)
  let c := r (bitsAt w 26 5)
  let imm := (bitsAt w 32 8).toNat
  let put (v : F32) (bad : Bool) (fl : FlagWord) : VLane :=
    { l with regs := listSet l.regs (bitsAt w 8 5).toNat ⟨v, bad⟩, fl := l.fl ||| fl }
  match (bitsAt w 0 8).toNat with
  | 0x20 => let x := ld imm; put x.v x.bad x.fl
  | 0x21 => { l with out := some a }
  | 0x22 => put (arg imm) false 0#16
  | 0x23 => let x := if fLt f0 c.v then a else b; put x.v (a.bad || b.bad || c.bad) 0#16
  | 0x24 => put (if fLt a.v b.v then f1 else f0) (a.bad || b.bad) 0#16
  | op =>
    let x := vecOp op compat (signedNat 8 imm) a.v b.v c.v
    let uses (k : Nat) : Bool := decide (k = 2 ∧ op = 4) || (decide (k = 1) && [1, 2, 3, 4, 5, 6].contains op)
    put x.1 (a.bad || (uses 1 && b.bad) || (uses 2 && c.bad)) (stepFlags x.2)

/-- Run the program in the lane of destination element q. -/
def progLane (o : OpRec) (y : Entry) (srcs : List Src) (prog : List (BitVec 64)) (q : Nat) : VLane :=
  let ld (i : Nat) : Lane := match srcs[i]? with | some a => a.elem y q | none => .zero
  prog.foldl (fun l w => l.step o.compat (fun i => dFp o.desc (56 + 4 * i)) ld w) .start

/-- What the program writes into destination element q. -/
def progOut (o : OpRec) (y : Entry) (srcs : List Src) (prog : List (BitVec 64)) (q : Nat) : OutVal :=
  let l := progLane o y srcs prog q
  match l.out with
  | none => .keep
  | some r => o.applyMask (q / eDim y 0) (if r.bad then .poison else laneOut r.v l.fl)

/-- A vector program over every element group of the destination; without ST it writes nothing and reports no flags
(R124, R129). -/
def State.runProgram (s : State) (p : Nat) (o : OpRec) : State :=
  let d := o.desc
  let y := o.ent (dC d)
  let h := dProg d
  let r := s.loadRaw p o h 0 (min 512 (eDataBytes (o.ent h)))
  if anyBad r.1 then r.2.finishOp p o.seq stPoisoned 0#16
  else
    let n := progLength r.1
    let ws := (List.range n).map (progWord r.1)
    let prog := ws.takeWhile (fun w => bitsAt w 0 8 ≠ 0xFF#8)
    let a := r.2.loadSrcs p o ((List.range 10).map (progHandle d))
    if prog.any (fun w => bitsAt w 0 8 = 0x21#8) then
      (a.2.storeElems p o (dC d) false true ((List.range (eCount y)).map (progOut o y a.1 prog))).finish p o
    else a.2.finishOp p o.seq stOK 0#16

/-- VEC_PROGRAM (R129). -/
def execVecProgram (p seq : Nat) (s : State) : Host.Outcome State Fault Refusal :=
  .next (s.runOp p seq 0x10 (· = 0xF0) (s.runProgram p))

/-! ### Gradients (R110, R140) -/

/-- SOFTMAX_BWD of a row from Y and dY (Table 6.5). -/
def softmaxBwdRow (ys ds : List F32) : RowRes :=
  let pr := List.zipWith (fun y d => fMul d y) ys ds
  let r := (rowAcc (pr.map (·.1))).round
  let df := ds.map (fun d => fSub d r.1)
  let x := List.zipWith (fun y d => fMul y d.1) ys df
  ⟨x.map (·.1), [], orSteps (r :: pr ++ df ++ x)⟩

/-- NORM_BWD of a row from the normalised input, dY, γ and ρ (Table 6.5). -/
def normBwdRow (kind : Nat) (rho : F32) (xs ds gs : List F32) : RowRes :=
  let n := xs.length
  let g := List.zipWith fMul ds gs
  let gx := List.zipWith (fun (a : FRes) x => fMul a.1 x) g xs
  let b := (rowAcc (gx.map (·.1))).div n
  let a := if kind = 0 then (f0, 0#16) else (rowAcc (g.map (·.1))).div n
  let c := if kind = 0 then g else g.map (fun x => fSub x.1 a.1)
  let xb := xs.map (fun x => fMul x b.1)
  let df := List.zipWith (fun (u v : FRes) => fSub u.1 v.1) c xb
  let y := df.map (fun v => fMul rho v.1)
  ⟨y.map (·.1), [], orSteps (b :: a :: g ++ gx ++ (if kind = 0 then [] else c) ++ xb ++ df ++ y)⟩

/-- SOFTMAX_BWD. -/
def State.runSoftmaxBwd (s : State) (p : Nat) (o : OpRec) : State :=
  let d := o.desc
  let y := o.ent (dC d)
  let a := s.loadSrcs p o [dA d, dB d]
  let row (k ρ : Nat) : List Lane :=
    match a.1[k]? with | some x => (List.range (eDim y 0)).map (fun i => x.at y i ρ) | none => []
  let rs := rowResults o y (fun ρ => row 0 ρ ++ row 1 ρ) (fun _ vs => softmaxBwdRow (vs.take (eDim y 0)) (vs.drop (eDim y 0)))
  (a.2.storeElems p o (dC d) false true (rowVals o y rs)).finish p o

/-- SOFTMAX_BWD (R110, R140). -/
def execSoftmaxBwd (p seq : Nat) (s : State) : Host.Outcome State Fault Refusal :=
  .next (s.runOp p seq 0x11 (fun _ => true) (s.runSoftmaxBwd p))

/-- The scale gradient of column i: the exact sum of dY × x̂ over the rows that take part, rounded once (R140). -/
def gammaGrad (o : OpRec) (y : Entry) (x dy : Nat → Nat → Lane) (i : Nat) : OutVal :=
  let rows := (List.range (eRows y)).filter (fun ρ => !o.masked ρ)
  if rows.any (fun ρ => (x i ρ).bad || (dy i ρ).bad || o.maskBad ρ) then .poison
  else
    let t := rows.map (fun ρ => fMul (dy i ρ).v (x i ρ).v)
    let r := (rowAcc (t.map (·.1))).round
    laneOut r.1 (orSteps (r :: t))

/-- NORM_BWD. -/
def State.runNormBwd (s : State) (p : Nat) (o : OpRec) : State :=
  let d := o.desc
  let y := o.ent (dC d)
  let kind := dField d 36 1
  let hg := dField d 32 2
  let hdg := dField d 34 2
  let a := s.loadSrcs p o ([dA d, dB d, dD d] ++ (if hg = 0 then [] else [hg]))
  let n := eDim y 0
  let src (k i ρ : Nat) : Lane := match a.1[k]? with | some x => x.at y i ρ | none => .zero
  let gamma (ρ i : Nat) : Lane :=
    if hg = 0 then ⟨f1, XVal.ofInt 1 0, 0#16, false⟩ else match a.1[3]? with | some x => x.lane (ρ % x.C) i | none => .zero
  let rho (ρ : Nat) : Lane :=
    match a.1[2]? with | some x => x.lane (ρ % x.C) (ρ * (1 + kind) + kind) | none => .poison
  let cols := List.range n
  let lanes (ρ : Nat) : List Lane := rho ρ :: (cols.map (src 0 · ρ) ++ cols.map (src 1 · ρ) ++ cols.map (gamma ρ))
  let rs := rowResults o y lanes (fun _ vs =>
    let w := vs.drop 1
    normBwdRow kind (vs.headD fNaN) (w.take n) ((w.drop n).take n) (w.drop (2 * n)))
  let w := a.2.storeElems p o (dC d) false true (rowVals o y rs)
  if hdg = 0 then w.finish p o
  else (w.and (w.st.storeAux p o hdg (cols.map (gammaGrad o y (src 0) (src 1))))).finish p o

/-- NORM_BWD (R110, R140). -/
def execNormBwd (p seq : Nat) (s : State) : Host.Outcome State Fault Refusal :=
  .next (s.runOp p seq 0x12 (fun _ => true) (s.runNormBwd p))

end Sys2Proof.Machine
end

