-- ==== Sys2Proof/Machine/Tables.lean ====
section
/-! DEFINITION. HIST_READ (R48, R111) and RNG_FILL (R112, R158). -/

namespace Sys2Proof.Machine

/-- Write the record of a HIST table (R48, R111); `clear` then empties it. -/
def State.readHist (s : State) (p : Nat) (o : OpRec) (clear : Bool) : State :=
  let id := eHistId (o.ent (dA o.desc))
  let w := s.storeRaw p o (dC o.desc) 0 (Sparse.get Hist.zero (s.prt p).hists id).record
  let s1 := if clear then w.1.updHist p id Hist.clear else w.1
  s1.finishOp p o.seq (if w.2 then stPoisoned else stOK) 0#16

/-- HIST_READ (R111). -/
def execHistRead (p seq : Nat) (s : State) : Host.Outcome State Fault Refusal :=
  .next (s.runOp p seq 0x14 (· = 0) (fun o => s.readHist p o false))

/-- READ_CLEAR (R111). -/
def execReadClear (p seq : Nat) (s : State) : Host.Outcome State Fault Refusal :=
  .next (s.runOp p seq 0x14 (· = 1) (fun o => s.readHist p o true))

/-- HIST_INIT (R47, R111): BASE is a 10-bit integer. -/
def execHistInit (p seq : Nat) (s : State) : Host.Outcome State Fault Refusal :=
  .next (s.runOp p seq 0x14 (· = 2) (fun o =>
    (s.updHist p (eHistId (o.ent (dA o.desc))) (fun _ =>
      { Hist.zero with base := signedNat 10 (dField o.desc 32 2 % 1024) })).finishOp p o.seq stOK 0#16))

/-- The key of stream n (R158). -/
def streamKey (seed : List Byte) (n : Nat) : List Byte := (sm3 (seed ++ leBytes 2 n)).take 16

/-- Block c of stream n under its key (R158). -/
def streamBlock (key : List Byte) (n c : Nat) : List Byte := sm4 key (leBytes 8 c ++ leBytes 2 n ++ zeros 6)

/-- The first k words of stream n from counter c on. -/
def streamWords (seed : List Byte) (n c k : Nat) : List Nat :=
  let key := streamKey seed n
  ((List.range (ceilDiv k 4)).flatMap (fun j =>
    let b := streamBlock key n (c + j)
    (List.range 4).map (fun i => fieldLe b (4 * i) 4))).take k

/-- The threshold floor(P × 2^32) of BERNOULLI. -/
def bernoulliThreshold (p : BitVec 32) : Nat :=
  match decodeFp 23 p.toNat with | .dy _ m e => scaledFloor m 1 (e + 32) | _ => 0

/-- The FP32 pattern of UNIFORM: (w shifted right by 8) × 2^−24, which is exact. -/
def uniformCode (w : Nat) : Nat := (toFp 23 false (XVal.ofInt ((w / 256 : Nat) : Int) (-24))).1

/-- The destination bytes of RNG_FILL from the words of the stream (R112). -/
def rngBytes (d : Desc) (y : Entry) (ws : List Nat) : List Byte :=
  match dSub d with
  | 0 => (ws.flatMap (leBytes 4)).take (eDataBytes y)
  | 1 => ws.flatMap (fun w => leBytes 4 (uniformCode w))
  | _ =>
    let t := bernoulliThreshold (dFp d 32)
    (List.range (eDataBytes y)).map (fun b =>
      BitVec.ofNat 8 (sumNat ((List.range 8).map (fun i => if ws.getD (8 * b + i) 0 < t then 2 ^ i else 0))))

/-- RNG_FILL from the counter that acceptance gave it (R100, R112). -/
def State.runRng (s : State) (p : Nat) (o : OpRec) : State :=
  let d := o.desc
  let y := o.ent (dC d)
  let seed := match (s.prt p).party with | some q => q.seed.getD (zeros 32) | none => zeros 32
  let w := s.storeRaw p o (dC d) 0 (rngBytes d y (streamWords seed (dStream d) o.rngStart (rngWords d y)))
  w.1.finishOp p o.seq (if w.2 then stPoisoned else stOK) 0#16

/-- RNG_FILL_BITS (R112). -/
def execRngFillBits (p seq : Nat) (s : State) : Host.Outcome State Fault Refusal :=
  .next (s.runOp p seq 0x15 (· = 0) (s.runRng p))

/-- RNG_FILL_UNIFORM (R112). -/
def execRngFillUniform (p seq : Nat) (s : State) : Host.Outcome State Fault Refusal :=
  .next (s.runOp p seq 0x15 (· = 1) (s.runRng p))

/-- RNG_FILL_BERNOULLI (R112). -/
def execRngFillBernoulli (p seq : Nat) (s : State) : Host.Outcome State Fault Refusal :=
  .next (s.runOp p seq 0x15 (· = 2) (s.runRng p))

end Sys2Proof.Machine
end

