-- ==== Sys2Proof/Machine/Collectives.lean ====
section
/-! DEFINITION. COLLECTIVE and STEP_COMMIT (R113, R114, R252-R258, R260, R373): descriptor checks, anchors, messages, the merge
by owners, staging and its copy, and commits. -/

namespace Sys2Proof.Machine

/-! ### Members, owners, messages -/

/-- This device's rope position. -/
def State.me (s : State) : Nat := s.dev.ropePos.toNat

/-- Rows of tile t that member q receives of the sum (R113, R253), by their place in the tile. -/
def ownedRows (o : OpRec) (t q : Nat) : List Nat :=
  let d := o.desc
  let e := o.ent (dA d)
  let ms := dMembers d
  let box := eTileBox e t
  if dSub d = 0 then (if ms.getD (t % ms.length) 0 = q then List.range 64 else [])
  else (List.range box.2.2.2).filter (fun r => ms.getD ((box.2.1 + r) / ceilDiv (eRows e) ms.length) 0 = q)

/-- Tiles of which member q receives rows. -/
def ownedTiles (o : OpRec) (q : Nat) : List Nat := (List.range (eTiles (o.ent (dA o.desc)))).filter (fun t => ownedRows o t q ≠ [])

/-- Bytes of one DATA message of a copied source (log 26). -/
def chunkBytes : Nat := 49280

/-- Messages of a source that is sent unchanged: tiles of a WP72 source, pieces of the data and scales of another (R254). -/
def sourceMsgs (e : Entry) : Nat := if eFmt e = .wp72 then eTiles e else ceilDiv (eDataBytes e + eScaleBytes e) chunkBytes

/-- The messages that this member expects from member q. -/
def collExpects (o : OpRec) (me q : Nat) : List Nat :=
  let e := o.ent (dA o.desc)
  match dSub o.desc with
  | 0 => (List.range (eTiles e)).filter (fun t => ownedRows o t me ≠ [] || ownedRows o t q ≠ [])
  | 1 => ownedTiles o me
  | 2 => List.range (sourceMsgs e)
  | _ => if q = dField o.desc 34 1 then List.range (sourceMsgs e) else []

/-- The rows of a tile message from member q. -/
def msgRows (o : OpRec) (me t : Nat) : List Nat := if dSub o.desc = 1 then ownedRows o t me else List.range 64

/-! ### Tiles as messages (R254) -/

/-- The bytes of a tile message: the record, then the slots of the rows sent. -/
def tileMsg (w : WTile) (free : Int) (rows : List Nat) : List Byte :=
  leBytes 8 (recWord (w.anchorOr (if w.empty then 0 else free)) w.empty w.flags w.len)
    ++ rows.flatMap (fun r => (List.range 64).flatMap (fun c => (w.slot (64 * r + c)).bytes))

/-- The tile in a message. -/
def tileOfMsg (bs : List Byte) (rows : List Nat) : WTile :=
  let ix := rows.flatMap (fun r => (List.range 64).map (64 * r + ·))
  WTile.ofStored ((sliceBytes bs 0 8).map some) ix (fun i =>
    Slot.ofBytes ((sliceBytes bs (8 + 12 * (64 * ((rows.takeWhile (· ≠ i / 64)).length) + i % 64)) 12).map some))

/-- Every slot of a message agrees with its residue (R254, R334). -/
def msgSound (bs : List Byte) (rows : List Nat) : Bool :=
  (List.range (64 * rows.length)).all (fun k =>
    let x := Slot.ofBytes ((sliceBytes bs (8 + 12 * k) 12).map some)
    decide (residueOf x.value = x.residue))

/-- The bytes of a message that has arrived. -/
def CollMsg.data (m : CollMsg) (n : Nat) : List Byte := Sparse.getMany 0#8 m.bytes 0 n

/-- The message with a number from a peer. -/
def Coll.msg? (c : Coll) (q m : Nat) : Option CollMsg := c.msgs.find? (fun x => x.peer = q ∧ x.msg = m)

/-- A message has arrived and passed its check. -/
def Coll.has (c : Coll) (q m : Nat) : Bool := c.msgs.any (fun x => x.peer = q && x.msg = m && x.passed)

/-! ### This member's contribution -/

/-- The agreed anchor of a tile (R253): none when every member's is EMPTY. -/
def OpRec.agreed (o : OpRec) (t : Nat) (own : WTile) : Option Int :=
  maxInt? ((match own.anchor with | some a => [a] | none => [])
    ++ (o.coll.anchors.filter (fun x => x.2.1 = t)).filterMap (fun x => x.2.2))

/-- Tile t of the source, read once more without a charge, at its home core. -/
def State.sourceTile (s : State) (p : Nat) (o : OpRec) (t : Nat) : WTile :=
  (s.loadTile p (s.homeIx p (o.ent (dA o.desc)) t) o (dA o.desc) t).1

/-- The partial of tile t after the shift (R253): under the agreed anchor, which a tile with a poisoned record takes as it
stands (R408). -/
def State.ownPartial (s : State) (p : Nat) (o : OpRec) (t : Nat) : WTile :=
  let w := s.sourceTile p o t
  match o.agreed t w with
  | some a => if w.empty then w else w.regrid (tileIx (o.ent (dA o.desc)) t) a
  | none => w

/-- A member's partial as it was received: where no anchor was agreed, a poisoned partial brings none (R408). -/
def OpRec.plain (o : OpRec) (t : Nat) (own : WTile) (w : WTile) : WTile :=
  if (o.agreed t own).isNone then { w with anchor := none } else w

/-- The merged tile at its owner: every member's partial in member order (R253). -/
def State.mergedTile (s : State) (p : Nat) (o : OpRec) (t : Nat) : WTile :=
  let me := s.me
  let rows := msgRows o me t
  (dMembers o.desc).foldl (fun w q =>
    let x := if q = me then s.ownPartial p o t
      else match o.coll.msg? q t with
        | some m => o.plain t (s.sourceTile p o t) (tileOfMsg (m.data (8 + 768 * rows.length)) rows) | none => .zero
    WTile.merge (tileIx (o.ent (dA o.desc)) t) w x) .zero

/-- The anchor sent for tile t where none was agreed (R408): a free value (log 22). -/
def State.freeAnchor (s : State) (p : Nat) (o : OpRec) (t : Nat) : Int := anyAnchor s.draws (freeIndex p o.seq 1 (2 * t))

/-- The source's data and scales, or a poisoned byte as a free value (log 31). -/
def State.sourceStream (s : State) (p : Nat) (o : OpRec) : List Byte × Bool :=
  let h := dA o.desc
  let a := (s.loadData p 0 o h).1 ++ (s.loadScales p 0 o h).1
  ((List.range a.length).map (fun i => (a.getD i none).getD (Config.undefinedByte s.draws (freeIndex p o.seq 2 i))), anyBad a)

/-- The bytes of message m that this member sends to member q: a partial of R253, or source bytes. -/
def State.collMsg (s : State) (p : Nat) (o : OpRec) (q m : Nat) : List Byte :=
  let e := o.ent (dA o.desc)
  match dSub o.desc with
  | 0 => tileMsg (if ownedRows o m s.me ≠ [] then s.mergedTile p o m else s.ownPartial p o m) (s.freeAnchor p o m) (List.range 64)
  | 1 => tileMsg (s.ownPartial p o m) (s.freeAnchor p o m) (ownedRows o m q)
  | _ =>
    if eFmt e = .wp72 then tileMsg (s.sourceTile p o m) (s.freeAnchor p o m) (List.range 64)
    else ((s.sourceStream p o).1.drop (chunkBytes * m)).take chunkBytes

/-! ### Sending -/

/-- A flit of an operation to member q (R248, R252). -/
def State.collFlit (s : State) (p : Nat) (o : OpRec) (q type msg off : Nat) (last prov : Bool) (payload : List Byte) : State :=
  let i := s.peerPort q
  let x := (s.lnk i).sa p
  s.sendFlit i p { FlitHdr.basic type x.peerPart.toNat x.peerCtx.toNat with
    prov := prov, msg := msg % 65536, coll := (Sparse.get 0 o.coll.ordinals q + 255) % 256, offset := off, last := last } payload

/-- DATA flits of a message. -/
def dataFlits (bs : List Byte) : Nat := ceilDiv bs.length 224

/-- The DATA flits of a message from number `lo` on, n of them. -/
def State.sendPart (s : State) (p : Nat) (o : OpRec) (q msg : Nat) (prov : Bool) (bs : List Byte) (lo n : Nat) : State :=
  (List.range n).foldl (fun t k => t.collFlit p o q 0x10 msg (224 * (lo + k)) (decide (lo + k + 1 = dataFlits bs)) prov
    ((bs.drop (224 * (lo + k))).take 224)) s

/-- A message in DATA flits. -/
def State.sendData (s : State) (p : Nat) (o : OpRec) (q msg : Nat) (bs : List Byte) : State := s.sendPart p o q msg false bs 0 (dataFlits bs)

/-- The descriptor digest of DESC_CHECK (R252; field widths: log 26). -/
def checkDigest (d : Desc) (e : Entry) : List Byte :=
  (sm3 (leBytes 1 (dSub d) ++ leBytes 2 (dGroup d) ++ leBytes 1 (dField d 34 1) ++ leBytes 8 (dStep d)
    ++ (eDims e).flatMap (leBytes 4) ++ leBytes 1 (eFmt e).code ++ leBytes 1 (bit (eScaled e)) ++ leBytes 1 (eAxis e))).take 8

/-- Send DESC_CHECK to every other member, once. -/
def State.sendChecks (s : State) (p seq : Nat) : State :=
  match (s.prt p).op seq with
  | none => s
  | some o =>
    if o.coll.sentCheck then s
    else ((s.peersOf o.desc).foldl (fun t q =>
        t.collFlit p o q 0x16 0 0 true false (checkDigest o.desc (o.ent (dA o.desc)))) s).updOp p seq
      (fun o => { o with coll := { o.coll with sentCheck := true } })

/-- End a collective with a status: nothing is written, shadows and staging go (R255). -/
def State.endColl (s : State) (p seq : Nat) (st : BitVec 8) : State := s.loseOps p st (fun o => o.seq = seq)

/-! ### What arrives -/

/-- An operation that exchanges with peers and has not ended. -/
def OpRec.exchanges (o : OpRec) : Bool := !o.done && (dOp o.desc = 0x20 || dOp o.desc = 0x21)

/-- The collective of a partition with an ordinal towards member q. -/
def Prt.collAt (v : Prt) (q c : Nat) : Option OpRec :=
  v.ops.find? (fun o => o.exchanges && decide (dOp o.desc = 0x20 ∧ Sparse.get 0 o.coll.ordinals q = c + 1))

/-- A message of q with number h.msg that is still awaited. -/
def awaited (o : OpRec) (me q : Nat) (h : FlitHdr) : Option Nat :=
  (collExpects o me q).find? (fun m => decide (m % 65536 = h.msg) && !o.coll.has q m)

/-- Change the message m from member q. -/
def Coll.setMsg (c : Coll) (q m : Nat) (x : Option CollMsg) : Coll :=
  { c with msgs := c.msgs.filter (fun y => !(y.peer = q && y.msg = m)) ++ (match x with | some y => [y] | none => []) }

/-- The length of message m from member q. -/
def msgLen (o : OpRec) (me m : Nat) : Nat :=
  let e := o.ent (dA o.desc)
  if dSub o.desc < 2 ∨ eFmt e = .wp72 then 8 + 768 * (msgRows o me m).length
  else min chunkBytes (eDataBytes e + eScaleBytes e - chunkBytes * m)

/-- A complete message that is not provisional, or whose VERDICT has come, is checked (R254, R256): passed, or RESEND. -/
def State.checkMsg (s : State) (p : Nat) (o : OpRec) (q : Nat) (m : CollMsg) : State :=
  let set (s : State) (x : Option CollMsg) : State := s.updOp p o.seq (fun o => { o with coll := o.coll.setMsg q m.msg x })
  let tiles := decide (dSub o.desc < 2 ∨ eFmt (o.ent (dA o.desc)) = .wp72)
  if !m.complete ∨ (m.prov ∧ !m.verdict) then set s (some m)
  else if !tiles || msgSound (m.data (msgLen o s.me m.msg)) (msgRows o s.me m.msg) then set s (some { m with passed := true })
  else set (s.collFlit p o q 0x14 m.msg 0 true false []) none

/-- DATA of a collective (R253, R256). -/
def State.takeData (s : State) (p : Nat) (o : OpRec) (q : Nat) (h : FlitHdr) (pl : List Byte) : State :=
  match awaited o s.me q h with
  | none => s
  | some m =>
    let old := match o.coll.msg? q m with
      | some x => if h.offset = 0 then { x with bytes := [], complete := false, verdict := false } else x
      | none => ⟨q, m, [], false, false, false, false⟩
    let room := msgLen o s.me m - h.offset
    s.checkMsg p o q { old with
      bytes := Sparse.setMany 0#8 old.bytes h.offset (pl.take room), complete := h.last, prov := h.prov }

/-- ANCHOR of a collective: 112 tiles from the first that has not come (R253). -/
def State.takeAnchors (s : State) (p : Nat) (o : OpRec) (q : Nat) (h : FlitHdr) (pl : List Byte) : State :=
  let base := (o.coll.anchors.filter (fun x => x.1 = q)).length
  let lo := base + (h.msg + 65536 - base % 65536) % 65536
  let n := min 112 (eTiles (o.ent (dA o.desc)) - lo)
  s.updOp p o.seq (fun o => { o with coll := { o.coll with
    anchors := o.coll.anchors ++ (List.range n).map (fun k =>
      let v := fieldLe pl (2 * k) 2
      (q, lo + k, if v / 1024 % 2 = 1 then none else some (signedNat 10 (v % 1024)))) } })

/-- Deliver a flit of a collective to its operation (Table 11.5). -/
def State.deliverColl (s : State) (p : Nat) (o : OpRec) (q : Nat) (h : FlitHdr) (pl : List Byte) : State :=
  match h.type with
  | 0x16 =>
    if pl.take 8 = checkDigest o.desc (o.ent (dA o.desc)) then
      s.updOp p o.seq (fun o => { o with coll := { o.coll with checked := o.coll.checked ++ [q] } })
    else (s.sendChecks p o.seq).endColl p o.seq stInvalid
  | 0x11 => s.takeAnchors p o q h pl
  | 0x10 => s.takeData p o q h pl
  | 0x12 => (match (awaited o s.me q h).bind (o.coll.msg? q) with
      | some m => s.checkMsg p o q { m with verdict := true }
      | none => s)
  | 0x13 =>
    if fieldLe pl 0 1 % 2 = 1 then s.endColl p o.seq stRetracted
    else (match awaited o s.me q h with
      | some m => s.updOp p o.seq (fun o => { o with coll := o.coll.setMsg q m none })
      | none => s)
  | _ => s

/-- The flits of collective c of member q that came before its acceptance. -/
def State.deliverEarly (s : State) (p q c : Nat) : State :=
  ((s.prt p).earlyColl.filter (fun x => x.1 = q ∧ x.2.1 = c)).foldl (fun t x =>
    match (t.prt p).collAt q c with
    | some o => t.deliverColl p o q (FlitHdr.ofBytes x.2.2.2) (x.2.2.2.drop 16)
    | none => t) (s.updPrt p (fun v => { v with earlyColl := v.earlyColl.filter (fun x => !(x.1 = q && x.2.1 = c)) }))

/-- A collective's flit from member q: to its operation, or kept until the operation is accepted; one of an operation that
has ended is dropped. -/
def State.receiveColl (s : State) (p q : Nat) (h : FlitHdr) (pl : List Byte) : State :=
  let s1 := s.deliverEarly p q h.coll
  match (s1.prt p).collAt q h.coll with
  | some o => s1.deliverColl p o q h pl
  | none =>
    if (h.coll + 256 - (s1.assoc p q).colls % 256) % 256 < 128 then
      s1.updPrt p (fun v => { v with earlyColl := v.earlyColl ++ [(q, h.coll, h.type, h.bytes ++ pl)] })
    else s1

/-- RESEND of a message by member q (R254, R257): it is recomputed and sent again; `lasting`: the recomputation fails for
good. -/
def State.resendMsg (s : State) (p q : Nat) (h : FlitHdr) (lasting : Bool) : State :=
  match (s.prt p).collAt q h.coll with
  | none => s
  | some o =>
    match (collExpects o q s.me).find? (fun m => m % 65536 = h.msg) with
    | none => s
    | some m =>
      let s1 := s.repeatAdd (s.homeCore p (o.ent (dA o.desc)) m) lasting
      if lasting then (s1.collFlit p o q 0x13 m 0 true false [1#8]).endColl p o.seq stResidue
      else s1.sendData p o q m (s1.collMsg p o q m)

/-! ### The phases -/

/-- Ordinals for the operations that wait for the association to member q, once it is OPEN (R252, R260). -/
def State.numberWaiting (s : State) (p q : Nat) : State :=
  (((s.prt p).ops.filter (fun o => o.exchanges && (s.peersOf o.desc).contains q)).map (·.seq)).foldl (fun t seq =>
    match (t.prt p).op seq with
    | none => t
    | some o =>
      if Sparse.get 0 o.coll.ordinals q ≠ 0 ∨ !(t.assoc p q).serves then t
      else
        let c := (t.assoc p q).colls
        let ord := Sparse.set 0 o.coll.ordinals q (c % 256 + 1)
        (t.updOp p seq (fun o => { o with coll := { o.coll with
          ordinals := ord, waiting := (t.peersOf o.desc).any (fun r => Sparse.get 0 ord r = 0) } })).updSa
            (t.peerPort q) p (fun a => { a with colls := a.colls + 1 })) s

/-- Every peer of an operation has its ordinal (R260). -/
def State.numbered (s : State) (o : OpRec) : Bool := (s.peersOf o.desc).all (fun q => Sparse.get 0 o.coll.ordinals q ≠ 0)

/-- Pages of the staging region that a collective needs (R255). -/
def stageNeed (o : OpRec) : Nat := let e := o.ent (dC o.desc); ceilDiv (eDataBytes e + eScaleBytes e) 4096

/-- The collective may take its staging pages: they fit, and no earlier collective still waits for its own (R255). -/
def State.stageFree (s : State) (p : Nat) (o : OpRec) : Bool :=
  let v := s.prt p
  let live := v.ops.filter (fun a => decide (dOp a.desc = 0x20) && !a.done)
  (live.filter (fun a => a.seq < o.seq)).all (fun a => a.coll.stagePages ≠ 0)
    && decide (sumNat (live.map (·.coll.stagePages)) + stageNeed o ≤ v.stagePages)

/-- The bytes of the staging region take free values while collectives use it (log 30). -/
def State.fillStage (s : State) (p : Nat) : State :=
  let v := s.prt p
  let s1 := s.storePool p v.stage.addr.toNat 0 ((List.range (4096 * v.stagePages)).map (fun i => wPut (Config.undefinedByte s.draws i)))
  { s1 with draws := s1.draws + 1 }

/-- Anchors of the source in ANCHOR flits to every other member. -/
def State.sendAnchors (s : State) (p : Nat) (o : OpRec) : State :=
  let n := eTiles (o.ent (dA o.desc))
  let a := (List.range n).foldl (fun (t : List Byte × State) i =>
    let r := t.2.loadTile p (t.2.homeIx p (o.ent (dA o.desc)) i) o (dA o.desc) i
    let v := match r.1.anchor with | some x => (BitVec.ofInt 10 x).toNat | none => 1024
    (t.1 ++ leBytes 2 v, r.2)) ([], s)
  (s.peersOf o.desc).foldl (fun t q =>
    (List.range (ceilDiv n 112)).foldl (fun t k => t.collFlit p o q 0x11 (112 * k) 0 true false ((a.1.drop (224 * k)).take 224)) t) a.2

/-- The anchors of every tile have come from every other member (R253). -/
def State.anchorsIn (s : State) (o : OpRec) : Bool :=
  (s.peersOf o.desc).all (fun q => decide ((o.coll.anchors.filter (fun x => x.1 = q)).length = eTiles (o.ent (dA o.desc))))

/-- What this member sends without waiting for another's data. -/
def firstMsgs (o : OpRec) (me q : Nat) : List Nat :=
  match dSub o.desc with
  | 0 => ownedTiles o q
  | 1 => ownedTiles o q
  | 2 => List.range (sourceMsgs (o.ent (dA o.desc)))
  | _ => if me = dField o.desc 34 1 then List.range (sourceMsgs (o.ent (dA o.desc))) else []

/-- Source bytes to every other member. -/
def State.sendSources (s : State) (p : Nat) (o : OpRec) : State :=
  (s.peersOf o.desc).foldl (fun t q => (firstMsgs o s.me q).foldl (fun t m => t.sendData p o q m (t.collMsg p o q m)) t) s

/-- Provisional flits to one member whose verdict may be outstanding (R256). -/
def provRoom : Nat := 64

/-- Provisional flits to the members, to each as many as may stand without a verdict: message by message, with how many of
its flits have left (R256). -/
def State.sendProvisional (s : State) (p : Nat) (o : OpRec) : State × List (Nat × Nat × Nat) :=
  (s.peersOf o.desc).foldl (fun (x : State × List (Nat × Nat × Nat)) q =>
    let r := (firstMsgs o s.me q).foldl (fun (y : (State × List (Nat × Nat × Nat)) × Nat) m =>
      let bs := y.1.1.collMsg p o q m
      let n := min y.2 (dataFlits bs)
      ((y.1.1.sendPart p o q m true bs 0 n, y.1.2 ++ [(q, m, n)]), y.2 - n)) (x, provRoom)
    r.1) (s, [])

/-- The verdict on a message of which n provisional flits have left (R256, R257): VERDICT and the rest of it; RETRACT, and
the recomputed message without PROV; or the final RETRACT. With n = 0 nothing provisional was sent. -/
def State.giveVerdict (s : State) (p : Nat) (o : OpRec) (fails : List (Nat × Bool)) (q m n : Nat) : State :=
  let bs := s.collMsg p o q m
  match fails.find? (fun f => f.1 = m) with
  | some (_, true) => s.collFlit p o q 0x13 m 0 true false [1#8]
  | some (_, false) => (if n = 0 then s else s.collFlit p o q 0x13 m 0 true false [0#8]).sendData p o q m bs
  | none =>
    if n = 0 then s.sendData p o q m bs
    else (s.collFlit p o q 0x12 m 0 true false []).sendPart p o q m true bs n (dataFlits bs - n)

/-- This member's own residue verdicts on its partials (R256, R257): those that fail are computed again, and where one fails
for good the collective ends with RESIDUE_LASTING. -/
def State.giveVerdicts (s : State) (p : Nat) (o : OpRec) (fails : List (Nat × Bool)) (sent : List (Nat × Nat × Nat)) : State :=
  let mine := fails.filter (fun f => sent.any (fun x => x.2.1 = f.1))
  let s1 := mine.foldl (fun t f => t.repeatAdd (t.homeCore p (o.ent (dA o.desc)) f.1) f.2) s
  let s2 := sent.foldl (fun t x => t.giveVerdict p o fails x.1 x.2.1 x.2.2) s1
  if mine.any (·.2) then s2.endColl p o.seq stResidue else s2

/-- Partial tiles to every other member. With PROV_OK their flits leave before the verdicts, which come at the collective's
next run; else after them (R256; that a member sends so wherever it may, and when its verdicts fall: DESIGN CHOICE, log 26).
-/
def State.sendPartials (s : State) (p : Nat) (o : OpRec) (fails : List (Nat × Bool)) : State :=
  if dProvOk o.desc then
    let r := s.sendProvisional p o
    r.1.updOp p o.seq (fun o => { o with coll := { o.coll with prov := r.2 } })
  else
    s.giveVerdicts p o fails ((s.peersOf o.desc).flatMap (fun q => (firstMsgs o s.me q).map (fun m => (q, m, 0))))

/-- Tiles of an ALL_REDUCE that this member owns, whose partials are in, and whose merged value has not left. -/
def State.mergeable (s : State) (o : OpRec) : List Nat :=
  if dSub o.desc ≠ 0 then []
  else (ownedTiles o s.me).filter (fun t => !o.coll.merged.contains t && (s.peersOf o.desc).all (fun q => o.coll.has q t))

/-- Every message that the collective expects has come and passed (R255). -/
def State.allIn (s : State) (o : OpRec) : Bool :=
  (s.peersOf o.desc).all (fun q => (collExpects o s.me q).all (o.coll.has q))
    && (decide (dSub o.desc ≠ 0) || (ownedTiles o s.me).all o.coll.merged.contains)

/-- Change the collective side of an operation. -/
def State.updColl (s : State) (p seq : Nat) (f : Coll → Coll) : State := s.updOp p seq (fun o => { o with coll := f o.coll })

/-- Run one phase of a collective that has not ended, when its condition holds. -/
def State.phase (s : State) (p seq : Nat) (ok : State → OpRec → Bool) (f : State → OpRec → State) : State :=
  match (s.prt p).op seq with
  | some o => if !o.done && ok s o then f s o else s
  | none => s

/-- Advance a collective as far as what has arrived allows (R252-R257). -/
def State.runColl (s : State) (p : Nat) (fails : List (Nat × Bool)) (o : OpRec) : State :=
  let seq := o.seq
  let peers := s.peersOf o.desc
  if !s.numbered o then s
  else
    let s0 := peers.foldl (fun t q => t.deliverEarly p q (Sparse.get 0 o.coll.ordinals q - 1)) s
    let busy (s : State) : Nat :=
      (((s.prt p).ops.filter (fun a => decide (dOp a.desc = 0x20) && !a.done && a.coll.sentCheck)).length)
    let s1 := s0.phase p seq (fun s o => !o.coll.sentCheck && decide (busy s < 16)) (fun s o => s.sendChecks p o.seq)
    let ready (o : OpRec) : Bool := o.coll.sentCheck && peers.all o.coll.checked.contains
    let s2 := s1.phase p seq (fun s o => ready o && decide (o.coll.stagePages = 0) && s.stageFree p o)
      (fun s o => (s.updColl p seq (fun c => { c with stagePages := stageNeed o })).fillStage p)
    let staged (o : OpRec) : Bool := ready o && decide (o.coll.stagePages ≠ 0)
    let s3 := s2.phase p seq (fun _ o => staged o && decide (dSub o.desc < 2) && !o.coll.sentAnchors)
      (fun s o => (s.sendAnchors p o).updColl p seq (fun c => { c with sentAnchors := true }))
    let s3b := s3.phase p seq (fun _ o => o.coll.prov ≠ []) (fun s o =>
      (s.updColl p seq (fun c => { c with prov := [] })).giveVerdicts p o fails o.coll.prov)
    let s4 := s3b.phase p seq (fun s o => staged o && !o.coll.sentData && (decide (2 ≤ dSub o.desc) || (o.coll.sentAnchors && s.anchorsIn o)))
      (fun s o => (if dSub o.desc < 2 then s.sendPartials p o fails else s.sendSources p o).updColl p seq (fun c => { c with sentData := true }))
    let s5 := s4.phase p seq (fun _ o => o.coll.sentData && o.coll.prov.isEmpty) (fun s o =>
      (s.mergeable o).foldl (fun t m =>
        (peers.foldl (fun t q => t.sendData p o q m (t.collMsg p o q m)) t).updColl p seq (fun c => { c with merged := c.merged ++ [m] })) s)
    s5.phase p seq (fun s o => o.coll.sentData && o.coll.prov.isEmpty && s.allIn o) (fun s _ => s.updColl p seq (fun c => { c with stageReady := true }))

/-- ALL_REDUCE (R113, R253). -/
def execAllReduce (p : Nat) (run : MergeRun) (s : State) : Host.Outcome State Fault Refusal :=
  .next (s.runOp p run.seq 0x20 (· = 0) (s.runColl p run.fails))
/-- REDUCE_SCATTER (R113, R253). -/
def execReduceScatter (p : Nat) (run : MergeRun) (s : State) : Host.Outcome State Fault Refusal :=
  .next (s.runOp p run.seq 0x20 (· = 1) (s.runColl p run.fails))
/-- ALL_GATHER (R113, R254). -/
def execAllGather (p seq : Nat) (s : State) : Host.Outcome State Fault Refusal :=
  .next (s.runOp p seq 0x20 (· = 2) (s.runColl p []))
/-- BROADCAST (R113, R254). -/
def execBroadcast (p seq : Nat) (s : State) : Host.Outcome State Fault Refusal :=
  .next (s.runOp p seq 0x20 (· = 3) (s.runColl p []))

/-! ### Staging into the destination -/

/-- Rows that a REDUCE_SCATTER leaves to other members, as mask bytes. -/
def foreignRows (o : OpRec) (me : Nat) : List (Option Byte) :=
  let n := (dMembers o.desc).length
  let rows := eRows (o.ent (dA o.desc))
  let foreign (ρ : Nat) : Bool := decide ((dMembers o.desc).getD (ρ / ceilDiv rows n) 0 ≠ me)
  (List.range (ceilDiv rows 8)).map (fun b =>
    some (BitVec.ofNat 8 (sumNat ((List.range 8).map (fun i => if foreign (8 * b + i) then 2 ^ i else 0)))))

/-- The sum's tiles, as this member holds them (R253). -/
def State.sumTiles (s : State) (p : Nat) (o : OpRec) : List (Nat × WTile) :=
  let me := s.me
  (List.range (eTiles (o.ent (dA o.desc)))).filterMap (fun t =>
    if ownedRows o t me ≠ [] then some (t, s.mergedTile p o t)
    else if dSub o.desc = 0 then
      (match (dMembers o.desc).find? (fun q => ownedRows o t q ≠ []) with
        | some q => (o.coll.msg? q t).map (fun m => (t, tileOfMsg (m.data 49160) (List.range 64)))
        | none => none)
    else none)

/-- The source bytes of member q: this member's own, or the messages that came. -/
def State.memberStream (s : State) (p : Nat) (o : OpRec) (q : Nat) : List Byte :=
  if q = s.me then (s.sourceStream p o).1
  else (List.range (sourceMsgs (o.ent (dA o.desc)))).flatMap (fun m =>
    match o.coll.msg? q m with | some x => x.data (msgLen o s.me m) | none => [])

/-- Tile m of member q's WP72 source, as its message. -/
def State.memberTile (s : State) (p : Nat) (o : OpRec) (q m : Nat) : List Byte :=
  if q = s.me then s.collMsg p o q m else match o.coll.msg? q m with | some x => x.data 49160 | none => []

/-- Members whose sources are stacked: all of them, or ROOT alone. -/
def gatherFrom (d : Desc) : List Nat := if dSub d = 2 then dMembers d else [dField d 34 1]

/-- Copy the stacked tiles of WP72 sources (R113). -/
def State.copyTiles (s : State) (p : Nat) (o : OpRec) : Work :=
  let a := o.ent (dA o.desc)
  let c := o.ent (dC o.desc)
  let ga := eGrid a
  let gc := eGrid c
  (gatherFrom o.desc).zipIdx.foldl (fun (w : Work) q =>
    (List.range (eTiles a)).foldl (fun (w : Work) m =>
      let b := m / (ga.1 * ga.2)
      let t := b * (gc.1 * gc.2) + (q.2 * ga.2 + m % (ga.1 * ga.2) / ga.1) * gc.1 + m % ga.1
      let bs := s.memberTile p o q.1 m
      let x := tileOfMsg bs (List.range 64)
      let r := w.st.storeTile p o (dC o.desc) t x (fun _ => false)
      let s1 := if eHistEn c then r.1.updHist p (eHistId c) (o.foldTile c t x) else r.1
      ⟨s1, w.flags ||| x.flags, w.poisoned || r.2 || hasFlag x.flags fPOISON⟩) w) ⟨s, 0#16, false⟩

/-- Element code q of packed data (R29). -/
def codeAt (f : Fmt) (bs : List Byte) (q : Nat) : Nat :=
  if f = .lg4 then fieldLe bs (q / 2) 1 / 16 ^ (q % 2) % 16 else fieldLe bs (f.bits / 8 * q) (f.bits / 8)

/-- The member and its element behind element q of the destination. -/
def gatherAt (a c : Entry) (q : Nat) : Nat × Nat :=
  let i1 := eIndex c q 1
  (i1 / eDim a 1, eIndex c q 0 + eDim a 0 * (i1 % eDim a 1 + eDim a 1 * (eIndex c q 2 + eDim a 2 * eIndex c q 3)))

/-- Copy the stacked elements and block scales of other sources (R113). Such data holds no WP72 values, so a HIST_EN
destination folds nothing and counts no tile (R46; DESIGN CHOICE, log 26). -/
def State.copyStreams (s : State) (p : Nat) (o : OpRec) : Work :=
  let a := o.ent (dA o.desc)
  let c := o.ent (dC o.desc)
  let data := (gatherFrom o.desc).map (s.memberStream p o)
  let ix := List.range (eCount c)
  let codes := ix.map (fun q => let x := gatherAt a c q; some (codeAt (eFmt a) (data.getD x.1 []) x.2))
  let scales := if eScaled c then
      ix.foldl (fun (l : List WByte) q =>
        let x := gatherAt a c q
        listSet l (eScaleIndex c q) (wPut (BitVec.ofNat 8 (fieldLe (data.getD x.1 []) (eDataBytes a + eScaleIndex a x.2) 1))))
        (List.replicate (eScaleBytes c) none)
    else []
  let w := s.storeEncoded p o (dC o.desc) ⟨codes, scales, []⟩
  let bad := decide ((gatherFrom o.desc).contains s.me) && (s.sourceStream p o).2
  ⟨w.1, if bad then fPOISON else 0#16, w.2 || bad⟩

/-- The sum's rows for a WP72 destination of REDUCE_SCATTER: in a tile that holds other members' rows they move to the
anchor that stands there, so that those rows stay as they are (R113; DESIGN CHOICE, log 26). -/
def State.ownRows (s : State) (p : Nat) (o : OpRec) (x : Nat × WTile) : Nat × WTile :=
  let e := o.ent (dC o.desc)
  if eFmt e ≠ .wp72 ∨ !o.tileHidden e x.1 then x
  else match (s.loadTile p (s.homeIx p e x.1) o (dC o.desc) x.1).1.anchor with
    | some b => (x.1, x.2.regrid (tileIx e x.1) b)
    | none => x

/-- STAGING_COPY (R255): the destination is written from staging, and the operation has done its work. -/
def State.copyStage (s : State) (p seq : Nat) : State :=
  match (s.prt p).op seq with
  | none => s
  | some o =>
    if dOp o.desc ≠ 0x20 ∨ o.done ∨ !o.coll.stageReady then s
    else
      let w := if dSub o.desc < 2 then
          (let r := if dSub o.desc = 1 then { o with mask := foreignRows o s.me } else o
           s.storePartials p r (dC o.desc) false (if dSub o.desc = 1 then (s.sumTiles p o).map (s.ownRows p r) else s.sumTiles p o)).work
        else if eFmt (o.ent (dA o.desc)) = .wp72 then s.copyTiles p o
        else s.copyStreams p o
      w.finish p o

/-- STAGING_COPY (R255). -/
def execStagingCopy (p seq : Nat) (s : State) : Host.Outcome State Fault Refusal := .next (s.copyStage p seq)

/-! ### STEP_COMMIT (R114, R258, R367, R373) -/

/-- The loss record as the STEP_COMMIT reads it at its acceptance position: none when it is not named or poisoned. -/
def State.lossRecord (s : State) (p : Nat) (o : OpRec) : Option (List Byte) × State :=
  if o.names 3 ∧ eFmt (o.ent 3) = .raw ∧ 64 ≤ eDataBytes (o.ent 3) then
    let r := s.loadRaw p o 3 0 64
    (if anyBad r.1 then none else some (plainBytes r.1), r.2)
  else (none, s)

/-- Give the loss record to the belays that wait for this step (R367). -/
def State.noteLoss (s : State) (p : Nat) (step : Nat) (loss : List Byte) : State :=
  s.updPrt p (fun v => { v with ops := v.ops.map (fun o => match o.belay with
    | some b => if b.step = step ∧ b.kind ≠ 2#8 then { o with belay := some { b with loss := loss } } else o
    | none => o) })

/-- COMMITs that came before the STEP_COMMIT was accepted. -/
def State.takeCommits (s : State) (p : Nat) (o : OpRec) : State :=
  let early := (s.peersOf o.desc).filter (fun q => !o.coll.commits.contains q && (s.prt p).earlyCommits.contains (q, dStep o.desc))
  (s.updColl p o.seq (fun c => { c with commits := c.commits ++ early })).updPrt p (fun v =>
    { v with earlyCommits := early.foldl (fun l q => l.erase (q, dStep o.desc)) v.earlyCommits })

/-- A STEP_COMMIT past the comparison of R373: COMMIT goes out once every earlier collective of the STEP has ended well, and
OK follows when every other member's has come. -/
def State.commitStep (s : State) (p : Nat) (o : OpRec) : State :=
  let v := s.prt p
  let step := dStep o.desc
  if v.ops.any (fun a => decide (a.seq < o.seq ∧ dOp a.desc = 0x20 ∧ dStep a.desc = step)) then s
  else
    let bad := (v.collEnds.filter (fun c => c.1 < o.seq ∧ c.2.1 = step ∧ c.2.2 ≠ stOK ∧ c.2.2 ≠ stFlagged)).map (fun c => c.2.2)
    match bad with
    | b :: bs => s.finishOp p o.seq (bs.foldl worse b) 0#16
    | [] =>
      let s1 := if o.coll.sentCommit then s
        else ((s.peersOf o.desc).foldl (fun t q => t.collFlit p o q 0x15 0 0 true false (leBytes 8 step)) s).updColl p o.seq
          (fun c => { c with sentCommit := true })
      let s2 := s1.takeCommits p o
      s2.phase p o.seq (fun s o => (s.peersOf o.desc).all o.coll.commits.contains) (fun s o => s.finishOp p o.seq stOK 0#16)

/-- STEP_COMMIT. -/
def State.runCommit (s : State) (p : Nat) (o : OpRec) : State :=
  if !s.numbered o then s
  else
    let v := s.prt p
    let r := s.lossRecord p o
    let s1 := match r.1 with | some l => r.2.noteLoss p (dStep o.desc) l | none => r.2
    if v.restoreState = 1#3 ∧ v.restoreStep = dStep o.desc then
      (if r.1 = some v.restoreLoss then (s1.updPrt p (fun v => { v with restoreState := 2#3 })).commitStep p o
       else (s1.updPrt p (fun v => { v with restoreState := 3#3 })).finishOp p o.seq stPoisoned 0#16)
    else s1.commitStep p o

/-- STEP_COMMIT (R114, R258). -/
def execStepCommit (p seq : Nat) (s : State) : Host.Outcome State Fault Refusal :=
  .next (s.runOp p seq 0x21 (fun _ => true) (s.runCommit p))

/-- COMMIT from member q (R258). -/
def State.receiveCommit (s : State) (p q step : Nat) : State :=
  match (s.prt p).ops.find? (fun o => o.exchanges && decide (dOp o.desc = 0x21 ∧ dStep o.desc = step)
      && (s.peersOf o.desc).contains q && !o.coll.commits.contains q) with
  | some o => s.updColl p o.seq (fun c => { c with commits := c.commits ++ [q] })
  | none => s.updPrt p (fun v => { v with earlyCommits := v.earlyCommits ++ [(q, step)] })

end Sys2Proof.Machine
end

