-- ==== Sys2Proof/Machine/Moves.lean ====
section
/-! DEFINITION. MOVE, OFFLOAD and PREFETCH (R115, R116, R151, R155, R206, R207, R230-R234). -/

namespace Sys2Proof.Machine

/-! ### The two byte runs of a tensor -/

/-- Every slice of the partition holds the bytes of a place (R193). -/
def Place.mirror (r : Place) : Bool := decide (r.tier = 0 ∧ poolPlace r.addr = 2)

/-- The core, by partition index, that moves byte i of a destination (R206): the owner of the byte; in the basin the first
core of its group's unit, and core 0 in the host tier (DESIGN CHOICE, log 56). -/
def State.mover (s : State) (p : Nat) (r : Place) (i : Nat) : Nat :=
  match r.tier with
  | 0 => s.poolKey p 0 r.addr i / 2 ^ 31 - s.coreAt p 0
  | 1 => 32 * (s.basinSite p ((r.addr + i) / 128)).1 - s.coreAt p 0
  | 3 => (r.addr + i) / spdSize
  | _ => 0

/-- n bytes of a source for a destination: of a MIRROR source, each from the slice of the core that moves it (R193, R206). -/
def State.loadFor (s : State) (p : Nat) (o : OpRec) (r dst : Place) (n : Nat) : List (Option Byte) × State :=
  if r.mirror && !dst.mirror then
    ((List.range n).map (fun i => s.poolByte (s.poolKey p (s.mover p dst i) r.addr i)), s)
  else s.loadRun p 0 o.inbuf r 0 n

/-- Write what was read of a source; from MIRROR to MIRROR each core moves its own slice. -/
def State.storeFor (s : State) (p : Nat) (o : OpRec) (r dst : Place) (bs : List (Option Byte)) : State × Bool :=
  if r.mirror && dst.mirror then
    let ks := (List.range bs.length).flatMap (fun i => (List.range (s.coreCount p)).map (fun c =>
      (s.poolKey p c dst.addr i, s.poolByte (s.poolKey p c r.addr i))))
    ({ s with pool := storeBytes s.pool ks, poolBad := storePoison 64 s.poolBad ks }, ks.any (fun k => k.2.isNone))
  else s.storeRun p o.inbuf dst 0 (asWrite bs)

/-- Block scales or tile records of version slot `ver`, those of scratchpad tiles from the directory (R130). -/
def State.loadSide (s : State) (p : Nat) (o : OpRec) (h ver : Nat) (dst : Place) : List (Option Byte) × State :=
  let e := o.ent h
  if eFmt e = .wp72 ∧ eTier e = 3 then
    ((List.range (eTiles e)).flatMap (fun t => s.dirBytes (s.dirKey p e t)), s)
  else s.loadFor p o (o.scalesAt h ver) dst (eScaleBytes e)

/-- Write what was read of a source's side `r`. -/
def State.storeSide (s : State) (p : Nat) (o : OpRec) (h ver : Nat) (r : Place) (bs : List (Option Byte)) : State × Bool :=
  let e := o.ent h
  if eFmt e = .wp72 ∧ eTier e = 3 then
    ((List.range (eTiles e)).foldl (fun t i =>
      let b := (bs.drop (8 * i)).take 8
      t.setDir (t.dirKey p e i) (anyBad b) (if anyBad b then 0 else leVal (plainBytes b))) s, false)
  else s.storeFor p o r (o.scalesAt h ver) bs

/-- The OR of the flag words in tile records; a poisoned record has POISON (R124, R408). -/
def recordFlags (bs : List (Option Byte)) : FlagWord :=
  (List.range (bs.length / 8)).foldl (fun f i =>
    let b := (bs.drop (8 * i)).take 8
    f ||| (if anyBad b then fPOISON else BitVec.ofNat 16 (fieldLe (plainBytes b) 2 2) &&& tileMask)) 0#16

/-- What was read of a tensor. -/
structure Read2 where
  data : List (Option Byte)
  side : List (Option Byte)
  flags : FlagWord
  bad : Bool
  st : State

/-- Read the data and the scales or records of a source for two places: its flag words, with POISON when a byte is poisoned
(R77, R124). -/
def State.readBoth (s : State) (p : Nat) (o : OpRec) (h ver : Nat) (dd ds : Place) : Read2 :=
  let a := s.loadFor p o (o.dataAt h ver) dd (eDataBytes (o.ent h))
  let b := a.2.loadSide p o h ver ds
  let bad := anyBad a.1 || anyBad b.1
  ⟨a.1, b.1, (if eFmt (o.ent h) = .wp72 then recordFlags b.1 else 0#16) ||| (if bad then fPOISON else 0#16), bad, b.2⟩

/-- Copy H_A to H_C bit for bit, poison with it (R115, R206, R207). -/
def State.runMove (s : State) (p : Nat) (o : OpRec) : State :=
  let h := dC o.desc
  let v := o.writeVer h
  let a := dA o.desc
  let r := s.readBoth p o a (o.ver a) (o.dataAt h v) (o.scalesAt h v)
  let x := r.st.storeFor p o (o.dataAt a (o.ver a)) (o.dataAt h v) r.data
  let y := x.1.storeSide p o h v (o.scalesAt a (o.ver a)) r.side
  Work.finish ⟨y.1, r.flags, r.bad || x.2 || y.2 || hasFlag r.flags fPOISON⟩ p o

/-- MOVE (R115). -/
def execMove (p seq : Nat) (s : State) : Host.Outcome State Fault Refusal :=
  .next (s.runOp p seq 0x30 (fun _ => true) (s.runMove p))

/-- PREFETCH (R116, R234): its source lines were verified against the buffer record as they came. -/
def execPrefetch (p seq : Nat) (s : State) : Host.Outcome State Fault Refusal :=
  .next (s.runOp p seq 0x32 (fun _ => true) (s.runMove p))

/-- The next SEQ of a host slot goes into a buffer record with its slot, and COUNT rises (R232). -/
def State.claimBuf (s : State) (p buf : Nat) (port : Bool) (k : Nat) : State :=
  let m := mceOfPort port
  let n := ((s.mce m).slot k).offSeq + 1
  (s.updKey m k (fun x => { x with offSeq := n })).updPrt p (fun v =>
    { v with offbufs := Sparse.modify OffBuf.zero v.offbufs buf (fun b => ⟨b.count + 1, port, k, n⟩) })

/-- Write a byte run in the offload form of a buffer record (R233). True: the port is not UP, or a line was poisoned. -/
def State.storeOffload (s : State) (p buf : Nat) (r : Place) (bs : List (Option Byte)) : State × Bool :=
  let b := (s.prt p).offBuf buf
  let x := (s.mce (mceOfPort b.port)).slot b.slot
  if !s.vfSends b.port p then (s, true)
  else (List.range (ceilDiv bs.length 128)).foldl (fun t q =>
    let here := (bs.drop (128 * q)).take 128
    if anyBad here then let z := t.1.poisonHost; (z.2.postHostLine p r q z.1, true)
    else (t.1.postHostLine p r q (sealOffload x.key x.nonce b.seq buf q (r.hostKey % 2) (sliceBytes (plainBytes here) 0 128)), t.2))
    (s, false)

/-- OFFLOAD: the record advances before the first line is written (R232, R204). -/
def State.runOffload (s : State) (p : Nat) (o : OpRec) : State :=
  let h := dC o.desc
  let e := o.ent h
  let port := hostPort (eAddr e)
  let buf := dField o.desc 32 4
  let r := s.readBoth p o (dA o.desc) (o.ver (dA o.desc)) (o.dataAt h 0) (o.scalesAt h 0)
  let s1 := r.st.claimBuf p buf port ((r.st.mce (mceOfPort port)).writeSlot (eKey e))
  let x := s1.storeOffload p buf (o.dataAt h 0) r.data
  let y := x.1.storeOffload p buf (o.scalesAt h 0) r.side
  Work.finish ⟨y.1, r.flags, r.bad || x.2 || y.2 || hasFlag r.flags fPOISON⟩ p o

/-- OFFLOAD (R116, R232, R233). -/
def execOffload (p seq : Nat) (s : State) : Host.Outcome State Fault Refusal :=
  .next (s.runOp p seq 0x31 (fun _ => true) (s.runOffload p))

end Sys2Proof.Machine
end

