-- ==== Sys2Proof/Machine/RvFloat.lean ====
section
/-! DEFINITION. The binary32 and binary64 arithmetic of the update dies' harts (R168: the F and D extensions and the
floating-point part of V): IEEE 754 with the rounding modes of frm and the accrued exception flags, as the RISC-V
unprivileged ISA defines them. A result is a pair: the bits, and the flags that it raises
(16 NV, 8 DZ, 4 OF, 2 UF, 1 NX). -/

namespace Sys2Proof.Machine

/-- A floating-point format: width of the exponent and of the fraction. -/
structure RvFmt where
  ew : Nat
  mw : Nat
deriving DecidableEq, Repr

/-- binary32. -/
def rvSingle : RvFmt := ⟨8, 23⟩
/-- binary64. -/
def rvDouble : RvFmt := ⟨11, 52⟩

/-- Bits of a value. -/
def RvFmt.width (t : RvFmt) : Nat := t.ew + t.mw + 1
/-- The exponent bias. -/
def RvFmt.bias (t : RvFmt) : Nat := 2 ^ (t.ew - 1) - 1
/-- The sign bit of a value. -/
def RvFmt.sign (t : RvFmt) (neg : Bool) : Nat := if neg then 2 ^ (t.ew + t.mw) else 0
/-- A signed infinity. -/
def RvFmt.inf (t : RvFmt) (neg : Bool) : Nat := t.sign neg + (2 ^ t.ew - 1) * 2 ^ t.mw
/-- The canonical NaN. -/
def RvFmt.qnan (t : RvFmt) : Nat := t.inf false + 2 ^ (t.mw - 1)

/-- What the bits of a value say: a NaN (quiet or not), an infinity, or ± m × 2^e. -/
inductive RvNum where
  | nan (quiet : Bool)
  | inf (neg : Bool)
  | fin (neg : Bool) (m : Nat) (e : Int)
deriving DecidableEq, Repr

/-- Read the bits of a value. -/
def RvFmt.unpack (t : RvFmt) (v : Nat) : RvNum :=
  let m := v % 2 ^ t.mw
  let x := v / 2 ^ t.mw % 2 ^ t.ew
  let neg := decide (v / 2 ^ (t.ew + t.mw) % 2 = 1)
  if x = 2 ^ t.ew - 1 then (if m = 0 then .inf neg else .nan (decide (2 ^ (t.mw - 1) ≤ m)))
  else if x = 0 then .fin neg m (1 - (t.bias : Int) - t.mw)
  else .fin neg (m + 2 ^ t.mw) ((x : Int) - t.bias - t.mw)

/-- A signalling NaN. -/
def RvFmt.signals (t : RvFmt) (v : Nat) : Bool := match t.unpack v with | .nan false => true | _ => false

/-- A NaN. -/
def RvFmt.isNan (t : RvFmt) (v : Nat) : Bool := match t.unpack v with | .nan _ => true | _ => false

/-- NV when one of the operands is a signalling NaN. -/
def RvFmt.nv (t : RvFmt) (vs : List Nat) : Nat := if vs.any t.signals then 16 else 0

/-- Whether a magnitude is rounded away from its truncation `q`; `rem` of `unit` was cut off. Rounding mode 0 to 4 as in
frm; 5 stands for the round to odd of VFNCVT.ROD. -/
def rvRoundsUp (rm : Nat) (neg : Bool) (q rem unit : Nat) : Bool :=
  decide (rem ≠ 0) && (match rm with
    | 0 => decide (unit < 2 * rem) || (decide (2 * rem = unit) && decide (q % 2 = 1))
    | 1 => false
    | 2 => neg
    | 3 => !neg
    | 4 => decide (unit ≤ 2 * rem)
    | _ => decide (q % 2 = 0))

/-- m × 2^e as a multiple of 2^q, and whether that is inexact. -/
def rvRoundAt (rm : Nat) (neg : Bool) (m : Nat) (e q : Int) : Nat × Bool :=
  if q ≤ e then (m * 2 ^ (e - q).toNat, false)
  else
    let u := 2 ^ (q - e).toNat
    (m / u + (if rvRoundsUp rm neg (m / u) (m % u) u then 1 else 0), decide (m % u ≠ 0))

/-- The result of an overflow. -/
def RvFmt.over (t : RvFmt) (rm : Nat) (neg : Bool) : Nat × Nat :=
  let big := match rm with | 0 => false | 1 => true | 2 => !neg | 3 => neg | 4 => false | _ => true
  (if big then t.inf neg - 1 else t.inf neg, 5)

/-- Round ± m × 2^e to the format; tininess is detected after rounding. -/
def RvFmt.round (t : RvFmt) (rm : Nat) (neg : Bool) (m : Nat) (e : Int) : Nat × Nat :=
  if m = 0 then (t.sign neg, 0)
  else
    let top := e + Nat.log2 m
    let lo : Int := 1 - (t.bias : Int) - t.mw
    let q := max (top - t.mw) lo
    let r := rvRoundAt rm neg m e q
    let tiny := decide (top < lo + t.mw)
      && !(decide (top = lo + t.mw - 1) && decide ((rvRoundAt rm neg m e (top - t.mw)).1 = 2 ^ (t.mw + 1)))
    let bits := (q - lo).toNat * 2 ^ t.mw + r.1
    if t.inf false ≤ bits then t.over rm neg
    else (t.sign neg + bits, (if r.2 then 1 else 0) + (if tiny && r.2 then 2 else 0))

/-- The rounded sum of two finite values; an exact zero is −0 when both are, and when opposite signs meet rounding down. -/
def RvFmt.sum (t : RvFmt) (rm : Nat) (na : Bool) (ma : Nat) (ea : Int) (nb : Bool) (mb : Nat) (eb : Int) : Nat × Nat :=
  let e := min ea eb
  let a : Int := (if na then -1 else 1) * ((ma * 2 ^ (ea - e).toNat : Nat) : Int)
  let b : Int := (if nb then -1 else 1) * ((mb * 2 ^ (eb - e).toNat : Nat) : Int)
  if a + b = 0 then (t.sign (if na = nb then na else decide (rm = 2)), 0)
  else t.round rm (decide (a + b < 0)) (a + b).natAbs e

/-- FADD. -/
def RvFmt.add (t : RvFmt) (rm a b : Nat) : Nat × Nat :=
  match t.unpack a, t.unpack b with
  | .nan _, _ => (t.qnan, t.nv [a, b])
  | _, .nan _ => (t.qnan, t.nv [a, b])
  | .inf x, .inf y => if x = y then (t.inf x, 0) else (t.qnan, 16)
  | .inf x, _ => (t.inf x, 0)
  | _, .inf y => (t.inf y, 0)
  | .fin x m e, .fin y n f => t.sum rm x m e y n f

/-- The value with its sign turned. -/
def RvFmt.neg (t : RvFmt) (v : Nat) : Nat := Nat.xor (v % 2 ^ t.width) (2 ^ (t.ew + t.mw))

/-- FSUB. -/
def RvFmt.sub (t : RvFmt) (rm a b : Nat) : Nat × Nat :=
  if t.isNan b then t.add rm a b else t.add rm a (t.neg b)

/-- FMUL. -/
def RvFmt.mul (t : RvFmt) (rm a b : Nat) : Nat × Nat :=
  match t.unpack a, t.unpack b with
  | .nan _, _ => (t.qnan, t.nv [a, b])
  | _, .nan _ => (t.qnan, t.nv [a, b])
  | .inf x, .inf y => (t.inf (x != y), 0)
  | .inf x, .fin y n _ => if n = 0 then (t.qnan, 16) else (t.inf (x != y), 0)
  | .fin x m _, .inf y => if m = 0 then (t.qnan, 16) else (t.inf (x != y), 0)
  | .fin x m e, .fin y n f => t.round rm (x != y) (m * n) (e + f)

/-- FMADD: a × b + c, rounded once. ∞ × 0 is invalid beside a quiet NaN too. -/
def RvFmt.fma (t : RvFmt) (rm a b c : Nat) : Nat × Nat :=
  let addInf (x : Bool) : Nat × Nat :=
    match t.unpack c with
    | .nan _ => (t.qnan, t.nv [c])
    | .inf z => if x = z then (t.inf x, 0) else (t.qnan, 16)
    | .fin _ _ _ => (t.inf x, 0)
  match t.unpack a, t.unpack b with
  | .nan _, _ => (t.qnan, t.nv [a, b, c])
  | _, .nan _ => (t.qnan, t.nv [a, b, c])
  | .inf x, .inf y => addInf (x != y)
  | .inf x, .fin y n _ => if n = 0 then (t.qnan, 16) else addInf (x != y)
  | .fin x m _, .inf y => if m = 0 then (t.qnan, 16) else addInf (x != y)
  | .fin x m e, .fin y n f =>
    match t.unpack c with
    | .nan _ => (t.qnan, t.nv [c])
    | .inf z => (t.inf z, 0)
    | .fin z k g => t.sum rm (x != y) (m * n) (e + f) z k g

/-- FDIV: the quotient to two bits beyond the format and a sticky bit, then one rounding. -/
def RvFmt.div (t : RvFmt) (rm a b : Nat) : Nat × Nat :=
  match t.unpack a, t.unpack b with
  | .nan _, _ => (t.qnan, t.nv [a, b])
  | _, .nan _ => (t.qnan, t.nv [a, b])
  | .inf _, .inf _ => (t.qnan, 16)
  | .inf x, .fin y _ _ => (t.inf (x != y), 0)
  | .fin x _ _, .inf y => (t.sign (x != y), 0)
  | .fin x m e, .fin y n f =>
    if n = 0 then (if m = 0 then (t.qnan, 16) else (t.inf (x != y), 8))
    else if m = 0 then (t.sign (x != y), 0)
    else
      let k := 2 * t.mw + 6
      let q := m * 2 ^ k / n
      t.round rm (x != y) (2 * q + (if m * 2 ^ k % n = 0 then 0 else 1)) (e - f - k - 1)

/-- FSQRT. -/
def RvFmt.sqrt (t : RvFmt) (rm a : Nat) : Nat × Nat :=
  match t.unpack a with
  | .nan _ => (t.qnan, t.nv [a])
  | .inf neg => if neg then (t.qnan, 16) else (t.inf false, 0)
  | .fin neg m e =>
    if m = 0 then (t.sign neg, 0)
    else if neg then (t.qnan, 16)
    else
      let k := t.mw + 4
      let odd := (e % 2).toNat
      let x := m * 2 ^ (2 * k + odd)
      let r := iroot 2 x
      t.round rm false (2 * r + (if r * r = x then 0 else 1)) ((e - odd) / 2 - k - 1)

/-- a < b of two values that are no NaN; −0 counts as less than +0 where `zeros` says so. -/
def RvFmt.less (t : RvFmt) (zeros : Bool) (a b : Nat) : Bool :=
  match t.unpack a, t.unpack b with
  | .inf x, .inf y => x && !y
  | .inf x, .fin _ _ _ => x
  | .fin _ _ _, .inf y => !y
  | .fin x m e, .fin y n f =>
    let c := min e f
    let u : Int := (if x then -1 else 1) * ((m * 2 ^ (e - c).toNat : Nat) : Int)
    let v : Int := (if y then -1 else 1) * ((n * 2 ^ (f - c).toNat : Nat) : Int)
    decide (u < v) || (zeros && decide (u = v) && x && !y)
  | _, _ => false

/-- FMIN and FMAX: of a number and a NaN, the number. -/
def RvFmt.minMax (t : RvFmt) (max : Bool) (a b : Nat) : Nat × Nat :=
  let f := t.nv [a, b]
  match t.isNan a, t.isNan b with
  | true, true => (t.qnan, f)
  | true, false => (b, f)
  | false, true => (a, f)
  | false, false => (if t.less true a b != max then a else b, f)

/-- FEQ: quiet. -/
def RvFmt.eq (t : RvFmt) (a b : Nat) : Bool × Nat :=
  if t.isNan a || t.isNan b then (false, t.nv [a, b]) else (!t.less false a b && !t.less false b a, 0)

/-- FLT: any NaN is invalid. -/
def RvFmt.lt (t : RvFmt) (a b : Nat) : Bool × Nat :=
  if t.isNan a || t.isNan b then (false, 16) else (t.less false a b, 0)

/-- FLE: any NaN is invalid. -/
def RvFmt.le (t : RvFmt) (a b : Nat) : Bool × Nat :=
  if t.isNan a || t.isNan b then (false, 16) else (!t.less false b a, 0)

/-- FSGNJ (0), FSGNJN (1), FSGNJX (2). -/
def RvFmt.signInject (t : RvFmt) (k a b : Nat) : Nat :=
  let h := 2 ^ (t.ew + t.mw)
  let sb := b / h % 2
  let sg := match k with | 0 => sb | 1 => 1 - sb | _ => Nat.xor (a / h % 2) sb
  a % h + sg * h

/-- FCLASS. -/
def RvFmt.classify (t : RvFmt) (a : Nat) : Nat :=
  match t.unpack a with
  | .nan q => if q then 2 ^ 9 else 2 ^ 8
  | .inf neg => if neg then 1 else 2 ^ 7
  | .fin neg m _ =>
    if m = 0 then (if neg then 2 ^ 3 else 2 ^ 4)
    else if m < 2 ^ t.mw then (if neg then 2 ^ 2 else 2 ^ 5)
    else if neg then 2 else 2 ^ 6

/-- Float to integer of `w` bits: an invalid conversion gives the nearest bound, a NaN the largest value. -/
def RvFmt.toInt (t : RvFmt) (rm w : Nat) (signed : Bool) (a : Nat) : Nat × Nat :=
  let lo : Int := if signed then -(2 ^ (w - 1) : Nat) else 0
  let hi : Int := if signed then (2 ^ (w - 1) : Nat) - 1 else (2 ^ w : Nat) - 1
  let put (i : Int) : Nat := (i % (2 ^ w : Nat)).toNat
  match t.unpack a with
  | .nan _ => (put hi, 16)
  | .inf neg => (put (if neg then lo else hi), 16)
  | .fin neg m e =>
    let r := rvRoundAt rm neg m e 0
    let i : Int := if neg then -(r.1 : Int) else r.1
    if i < lo then (put lo, 16) else if hi < i then (put hi, 16) else (put i, if r.2 then 1 else 0)

/-- Integer to float. -/
def RvFmt.ofInt (t : RvFmt) (rm : Nat) (i : Int) : Nat × Nat := t.round rm (decide (i < 0)) i.natAbs 0

/-- One format to another. -/
def RvFmt.convert (src dst : RvFmt) (rm a : Nat) : Nat × Nat :=
  match src.unpack a with
  | .nan _ => (dst.qnan, src.nv [a])
  | .inf neg => (dst.inf neg, 0)
  | .fin neg m e => dst.round rm neg m e

/-! ### The 7-bit estimates of V -/

/-- The entry of the table of VFREC7 at a 7-bit index. -/
def rvRecTable (i : Nat) : Nat :=
  ([127, 125, 123, 121, 119, 117, 116, 114, 112, 110, 109, 107, 105, 104, 102, 100,
    99, 97, 96, 94, 93, 91, 90, 88, 87, 85, 84, 83, 81, 80, 79, 77] ++
   [76, 75, 74, 72, 71, 70, 69, 68, 66, 65, 64, 63, 62, 61, 60, 59,
    58, 57, 56, 55, 54, 53, 52, 51, 50, 49, 48, 47, 46, 45, 44, 43] ++
   [42, 41, 40, 40, 39, 38, 37, 36, 35, 35, 34, 33, 32, 31, 31, 30,
    29, 28, 28, 27, 26, 25, 25, 24, 23, 23, 22, 21, 21, 20, 19, 19] ++
   [18, 17, 17, 16, 15, 15, 14, 14, 13, 12, 12, 11, 11, 10, 9, 9,
    8, 8, 7, 7, 6, 5, 5, 4, 4, 3, 3, 2, 2, 1, 1, 0]).getD i 0

/-- The entry of the table of VFRSQRT7: the exponent's lowest bit above six bits of the fraction. -/
def rvRsqrtTable (i : Nat) : Nat :=
  ([52, 51, 50, 48, 47, 46, 44, 43, 42, 41, 40, 39, 38, 36, 35, 34,
    33, 32, 31, 30, 30, 29, 28, 27, 26, 25, 24, 23, 23, 22, 21, 20] ++
   [19, 19, 18, 17, 16, 16, 15, 14, 14, 13, 12, 12, 11, 10, 10, 9,
    9, 8, 7, 7, 6, 6, 5, 4, 4, 3, 3, 2, 2, 1, 1, 0] ++
   [127, 125, 123, 121, 119, 118, 116, 114, 113, 111, 109, 108, 106, 105, 103, 102,
    100, 99, 97, 96, 95, 93, 92, 91, 90, 88, 87, 86, 85, 84, 83, 82] ++
   [80, 79, 78, 77, 76, 75, 74, 73, 72, 71, 70, 70, 69, 68, 67, 66,
    65, 64, 63, 63, 62, 61, 60, 59, 59, 58, 57, 56, 56, 55, 54, 53]).getD i 0

/-- The biased exponent of a finite nonzero value and its fraction below the leading one, subnormal values normalised. -/
def RvFmt.normal (t : RvFmt) (m : Nat) (e : Int) : Int × Nat :=
  let b := Nat.log2 m
  (e + b + t.bias, m * 2 ^ (t.mw - b) % 2 ^ t.mw)

/-- VFREC7. -/
def RvFmt.rec7 (t : RvFmt) (rm a : Nat) : Nat × Nat :=
  match t.unpack a with
  | .nan _ => (t.qnan, t.nv [a])
  | .inf neg => (t.sign neg, 0)
  | .fin neg m e =>
    if m = 0 then (t.inf neg, 8)
    else
      let n := t.normal m e
      if n.1 < -1 then t.over rm neg
      else
        let s := rvRecTable (n.2 / 2 ^ (t.mw - 7)) * 2 ^ (t.mw - 7)
        let x := 2 * (t.bias : Int) - 1 - n.1
        let out := if x = 0 then s / 2 + 2 ^ (t.mw - 1) else if x = -1 then (s / 2 + 2 ^ (t.mw - 1)) / 2 else s
        (t.sign neg + x.toNat * 2 ^ t.mw + out, 0)

/-- VFRSQRT7. -/
def RvFmt.rsqrt7 (t : RvFmt) (a : Nat) : Nat × Nat :=
  match t.unpack a with
  | .nan _ => (t.qnan, t.nv [a])
  | .inf neg => if neg then (t.qnan, 16) else (0, 0)
  | .fin neg m e =>
    if m = 0 then (t.inf neg, 8)
    else if neg then (t.qnan, 16)
    else
      let n := t.normal m e
      let s := rvRsqrtTable ((n.1 % 2).toNat * 64 + n.2 / 2 ^ (t.mw - 6))
      (((3 * (t.bias : Int) - 1 - n.1) / 2).toNat * 2 ^ t.mw + s * 2 ^ (t.mw - 7), 0)

end Sys2Proof.Machine
end

