-- ==== Sys2Proof/Machine/RvHart.lean ====
section
/-! DEFINITION. What an instruction of a hart reaches (R168-R175): registers, the die-local address map of Table 8.4 with
its rights, misaligned and access-fault exceptions, and the CSRs of user mode. -/

namespace Sys2Proof.Machine

/-! ### Registers -/

/-- Integer register r; x0 is 0. -/
def Hart.gx (h : Hart) (r : Nat) : BitVec 64 := if r = 0 then 0#64 else h.x.getD r 0#64

/-- Write integer register r; x0 discards. -/
def Hart.px (h : Hart) (r : Nat) (v : BitVec 64) : Hart := if r = 0 then h else { h with x := listSet h.x r v }

/-- Floating-point register r, 64 bits. -/
def Hart.gd (h : Hart) (r : Nat) : Nat := (h.f.getD r 0#64).toNat

/-- A 64-bit value as a 32-bit operand: one that is not NaN-boxed reads as the canonical NaN. -/
def rvUnbox (v : Nat) : Nat := if v / 2 ^ 32 = 2 ^ 32 - 1 then v % 2 ^ 32 else 0x7FC00000

/-- A 32-bit value NaN-boxed. -/
def rvBox (v : Nat) : Nat := (2 ^ 32 - 1) * 2 ^ 32 + v % 2 ^ 32

/-- Write floating-point register r. -/
def Hart.pd (h : Hart) (r v : Nat) : Hart := { h with f := listSet h.f r (BitVec.ofNat 64 v) }

/-- Accrue exception flags. -/
def Hart.accrue (h : Hart) (fl : Nat) : Hart := { h with fflags := h.fflags ||| BitVec.ofNat 5 fl }

/-- Byte k of the vector register file: register k / 128. -/
def Hart.vByte (h : Hart) (k : Nat) : Byte := (h.v.getD (k / 128) []).getD (k % 128) 0#8

/-- Write a byte of the vector register file. -/
def Hart.vPutByte (h : Hart) (k : Nat) (b : Byte) : Hart :=
  { h with v := listSet h.v (k / 128) (listSet (h.v.getD (k / 128) []) (k % 128) b) }

/-- Element i, of `w` bits, of the register group at r. -/
def Hart.el (h : Hart) (r w i : Nat) : Nat :=
  leVal ((List.range (w / 8)).map (fun j => h.vByte (128 * r + w / 8 * i + j)))

/-- Write element i. -/
def Hart.putEl (h : Hart) (r w i v : Nat) : Hart :=
  (List.range (w / 8)).foldl (fun t j => t.vPutByte (128 * r + w / 8 * i + j) (BitVec.ofNat 8 (v / 256 ^ j))) h

/-- Bit i of mask register r. -/
def Hart.vBit (h : Hart) (r i : Nat) : Bool := (h.vByte (128 * r + i / 8)).getLsbD (i % 8)

/-- Write bit i of mask register r. -/
def Hart.putBit (h : Hart) (r i : Nat) (b : Bool) : Hart :=
  let k := 128 * r + i / 8
  let x := (h.vByte k).toNat
  h.vPutByte k (BitVec.ofNat 8 (x - x / 2 ^ (i % 8) % 2 * 2 ^ (i % 8) + (if b then 2 ^ (i % 8) else 0)))

/-! ### The die-local address map (Table 8.4) -/

/-- What one call reaches: the loaded image, its text, the hart's own stack (with the die's stacks by offset in their
region), the stream buffers, and which of their runs are inputs and which outputs of the call. -/
structure RvMem where
  image : List Byte
  text : Nat
  hart : Nat
  stack : Sparse Byte
  bufs : Sparse (Option Byte)
  reads : List (Nat × Nat)
  writes : List (Nat × Nat)
deriving DecidableEq, Repr

/-- The base of the stacks. -/
def rvStackBase : Nat := 0x100000
/-- Bytes of one stack. -/
def rvStackSize : Nat := 0x10000

/-- Bytes [a, a + n) lie within a run. -/
def rvWithin (a n : Nat) (r : Nat × Nat) : Bool := decide (r.1 ≤ a ∧ a + n ≤ r.1 + r.2)

/-- The hart's own stack. -/
def RvMem.ownStack (m : RvMem) (a n : Nat) : Bool := rvWithin a n (rvStackBase + rvStackSize * m.hart, rvStackSize)

/-- Reads are allowed (DESIGN CHOICE, log 12: the whole image reads, its header and padding with it). -/
def RvMem.mayRead (m : RvMem) (a n : Nat) : Bool :=
  rvWithin a n (0, m.image.length) || m.ownStack a n || m.reads.any (rvWithin a n)

/-- Writes are allowed. -/
def RvMem.mayWrite (m : RvMem) (a n : Nat) : Bool := m.ownStack a n || m.writes.any (rvWithin a n)

/-- Two bytes of text may be executed. -/
def RvMem.mayFetch (m : RvMem) (a : Nat) : Bool := rvWithin a 2 (32, m.text)

/-- A byte as a load returns it. -/
def RvMem.byte (m : RvMem) (a : Nat) : Byte :=
  if a < rvStackBase then m.image.getD a 0#8
  else if a < rvStackBase + 16 * rvStackSize then Sparse.get 0#8 m.stack (a - rvStackBase)
  else (Sparse.get none m.bufs a).getD 0#8

/-- Bytes [a, a + n) as a number. -/
def RvMem.read (m : RvMem) (a n : Nat) : Nat := leVal ((List.range n).map (fun i => m.byte (a + i)))

/-- Store `n` bytes. -/
def RvMem.write (m : RvMem) (a n v : Nat) : RvMem :=
  let bs := leBytes n v
  if a < rvStackBase + 16 * rvStackSize then { m with stack := Sparse.setMany 0#8 m.stack (a - rvStackBase) bs }
  else { m with bufs := Sparse.setMany none m.bufs a (bs.map some) }

/-! ### Outcomes -/

/-- What one instruction does: it retires, or it raises an exception with a cause. The hart is as the instruction leaves it:
pc is its successor's, or on an exception its own. -/
inductive RvOut where
  | ok (h : Hart) (m : RvMem)
  | trap (cause : Nat) (h : Hart) (m : RvMem)

/-- An illegal instruction (R168). -/
def rvIllegal (h : Hart) (m : RvMem) : RvOut := .trap 2 h m

/-- The exception that a load of `n` bytes at `a` raises: misaligned first (R169), then the rights (R172). -/
def RvMem.loadTrap (m : RvMem) (a n : Nat) : Option Nat :=
  if a % n ≠ 0 then some 4 else if m.mayRead a n then none else some 5

/-- The exception that a store raises. -/
def RvMem.storeTrap (m : RvMem) (a n : Nat) : Option Nat :=
  if a % n ≠ 0 then some 6 else if m.mayWrite a n then none else some 7

/-- The address x[r] + offset, modulo 2^64. -/
def Hart.addr (h : Hart) (r : Nat) (off : Int) : Nat := (h.gx r + BitVec.ofInt 64 off).toNat

/-! ### Control and status registers (R168, R169, R172) -/

/-- vtype as its CSR reads. -/
def Hart.vtypeCsr (h : Hart) : Nat := if h.vill then 2 ^ 63 else h.vtype.toNat

/-- A CSR as user mode reads it; none is an illegal access. cycle, time and the counters read 0. -/
def Hart.csr (h : Hart) (n : Nat) : Option Nat :=
  if n = 0x001 then some h.fflags.toNat
  else if n = 0x002 then some h.frm.toNat
  else if n = 0x003 then some (h.frm.toNat * 32 + h.fflags.toNat)
  else if n = 0x008 then some h.vstart
  else if n = 0x009 then some (if h.vxsat then 1 else 0)
  else if n = 0x00A then some h.vxrm.toNat
  else if n = 0x00F then some (h.vxrm.toNat * 2 + (if h.vxsat then 1 else 0))
  else if n = 0xC02 then some (h.instret % 2 ^ 64)
  else if n = 0xC20 then some h.vl
  else if n = 0xC21 then some h.vtypeCsr
  else if n = 0xC22 then some 128
  else if 0xC00 ≤ n ∧ n ≤ 0xC1F then some 0
  else none

/-- Write a CSR; none is an illegal access (a read-only or an absent one). vstart holds the 10 bits that an element index
of VLEN 1,024 needs. -/
def Hart.putCsr (h : Hart) (n v : Nat) : Option Hart :=
  if n = 0x001 then some { h with fflags := BitVec.ofNat 5 v }
  else if n = 0x002 then some { h with frm := BitVec.ofNat 3 v }
  else if n = 0x003 then some { h with fflags := BitVec.ofNat 5 v, frm := BitVec.ofNat 3 (v / 32) }
  else if n = 0x008 then some { h with vstart := v % 1024 }
  else if n = 0x009 then some { h with vxsat := decide (v % 2 = 1) }
  else if n = 0x00A then some { h with vxrm := BitVec.ofNat 2 v }
  else if n = 0x00F then some { h with vxsat := decide (v % 2 = 1), vxrm := BitVec.ofNat 2 (v / 2) }
  else none

/-- The rounding mode of an instruction: its own, or frm; none where that is reserved. -/
def Hart.rm (h : Hart) (rm : Nat) : Option Nat :=
  let r := if rm = 7 then h.frm.toNat else rm
  if r < 5 then some r else none

/-- Field of `n` bits at bit `lo` of an instruction. -/
def rvBits (w lo n : Nat) : Nat := w / 2 ^ lo % 2 ^ n

/-- The integer of a `w`-bit two's complement field. -/
def rvSigned (w v : Nat) : Int := signedNat w (v % 2 ^ w)

/-- The `w`-bit two's complement code of an integer. -/
def rvCode (w : Nat) (i : Int) : Nat := (i % ((2 ^ w : Nat) : Int)).toNat

end Sys2Proof.Machine
end

