-- ==== Sys2Proof/Machine/RvScalar.lean ====
section
/-! DEFINITION. RV64I with M, A, F, D, C, Zicsr and Zifencei on a hart of an update die (R168, R169). The base words are
those of the RISC-V unprivileged ISA (Table 0.2); a reserved encoding raises an illegal instruction (log 12). -/

namespace Sys2Proof.Machine

/-! ### Fields of a 32-bit instruction -/

/-- I immediate. -/
def rvImmI (w : Nat) : Int := rvSigned 12 (rvBits w 20 12)
/-- S immediate. -/
def rvImmS (w : Nat) : Int := rvSigned 12 (rvBits w 25 7 * 32 + rvBits w 7 5)
/-- B immediate. -/
def rvImmB (w : Nat) : Int :=
  rvSigned 13 (rvBits w 31 1 * 4096 + rvBits w 7 1 * 2048 + rvBits w 25 6 * 32 + rvBits w 8 4 * 2)
/-- U immediate, sign-extended. -/
def rvImmU (w : Nat) : Int := rvSigned 32 (rvBits w 12 20 * 4096)
/-- J immediate. -/
def rvImmJ (w : Nat) : Int :=
  rvSigned 21 (rvBits w 31 1 * 1048576 + rvBits w 12 8 * 4096 + rvBits w 20 1 * 2048 + rvBits w 21 10 * 2)
/-- rd. -/
def rvRd (w : Nat) : Nat := rvBits w 7 5
/-- rs1. -/
def rvRs1 (w : Nat) : Nat := rvBits w 15 5
/-- rs2. -/
def rvRs2 (w : Nat) : Nat := rvBits w 20 5
/-- funct3. -/
def rvF3 (w : Nat) : Nat := rvBits w 12 3

/-! ### Integer arithmetic -/

/-- The low word of a result, sign-extended (the W forms). -/
def rvWord (v : BitVec 64) : BitVec 64 := (v.extractLsb' 0 32).signExtend 64

/-- DIV and REM of `n` bits: by zero −1 and the dividend; the most negative by −1 wraps, with remainder 0. -/
def rvDiv (n : Nat) (signed rem : Bool) (a b : BitVec n) : BitVec n :=
  if b = 0#n then (if rem then a else BitVec.allOnes n)
  else match signed, rem with
    | true, false => a.sdiv b
    | true, true => a.srem b
    | false, false => a.udiv b
    | false, true => a.umod b

/-- OP with funct7 1 (M). -/
def rvMul (f3 : Nat) (a b : BitVec 64) : BitVec 64 :=
  let hi (x y : Int) : BitVec 64 := BitVec.ofInt 64 (x * y / 2 ^ 64)
  match f3 with
  | 0 => a * b
  | 1 => hi a.toInt b.toInt
  | 2 => hi a.toInt b.toNat
  | 3 => hi a.toNat b.toNat
  | 4 => rvDiv 64 true false a b
  | 5 => rvDiv 64 false false a b
  | 6 => rvDiv 64 true true a b
  | _ => rvDiv 64 false true a b

/-- OP and OP-IMM: `alt` is SUB or SRA. -/
def rvAlu (f3 : Nat) (alt : Bool) (a b : BitVec 64) : BitVec 64 :=
  match f3 with
  | 0 => if alt then a - b else a + b
  | 1 => a <<< (b.toNat % 64)
  | 2 => if a.slt b then 1#64 else 0#64
  | 3 => if a.ult b then 1#64 else 0#64
  | 4 => a ^^^ b
  | 5 => if alt then a.sshiftRight (b.toNat % 64) else a >>> (b.toNat % 64)
  | 6 => a ||| b
  | _ => a &&& b

/-- The W forms of ADD, SUB and the shifts. -/
def rvAluW (f3 : Nat) (alt : Bool) (a b : BitVec 64) : BitVec 64 :=
  let x := a.extractLsb' 0 32
  let k := b.toNat % 32
  match f3 with
  | 0 => rvWord (if alt then a - b else a + b)
  | 1 => (x <<< k).signExtend 64
  | _ => (if alt then x.sshiftRight k else x >>> k).signExtend 64

/-- The W forms of M. -/
def rvMulW (f3 : Nat) (a b : BitVec 64) : BitVec 64 :=
  let x := a.extractLsb' 0 32
  let y := b.extractLsb' 0 32
  match f3 with
  | 0 => (x * y).signExtend 64
  | 4 => (rvDiv 32 true false x y).signExtend 64
  | 5 => (rvDiv 32 false false x y).signExtend 64
  | 6 => (rvDiv 32 true true x y).signExtend 64
  | _ => (rvDiv 32 false true x y).signExtend 64

/-- Whether a branch is taken; none is reserved. -/
def rvTaken (f3 : Nat) (a b : BitVec 64) : Option Bool :=
  match f3 with
  | 0 => some (decide (a = b))
  | 1 => some (decide (a ≠ b))
  | 4 => some (a.slt b)
  | 5 => some (!a.slt b)
  | 6 => some (a.ult b)
  | 7 => some (!a.ult b)
  | _ => none

/-! ### Loads, stores and atomics -/

/-- The next instruction after one of `len` bytes. -/
def Hart.next (h : Hart) (len : Nat) : Hart := { h with pc := h.pc + BitVec.ofNat 64 len }

/-- Retire at the next instruction. -/
def rvDone (len : Nat) (h : Hart) (m : RvMem) : RvOut := .ok (h.next len) m

/-- Load `n` bytes at `a` and go on. -/
def rvLoad (h : Hart) (m : RvMem) (a n : Nat) (put : Nat → Hart) (len : Nat) : RvOut :=
  match m.loadTrap a n with
  | some c => .trap c h m
  | none => rvDone len (put (m.read a n)) m

/-- Store `n` bytes at `a` and go on. -/
def rvStore (h : Hart) (m : RvMem) (a n v len : Nat) : RvOut :=
  match m.storeTrap a n with
  | some c => .trap c h m
  | none => rvDone len h (m.write a n v)

/-- LOAD. -/
def rvLoadX (h : Hart) (m : RvMem) (w len : Nat) : RvOut :=
  let f3 := rvF3 w
  let n := 2 ^ (f3 % 4)
  if f3 = 7 then rvIllegal h m
  else rvLoad h m (h.addr (rvRs1 w) (rvImmI w)) n (fun v =>
    h.px (rvRd w) (if f3 < 4 then BitVec.ofInt 64 (signedNat (8 * n) v) else BitVec.ofNat 64 v)) len

/-- STORE. -/
def rvStoreX (h : Hart) (m : RvMem) (w len : Nat) : RvOut :=
  if 3 < rvF3 w then rvIllegal h m
  else rvStore h m (h.addr (rvRs1 w) (rvImmS w)) (2 ^ rvF3 w) (h.gx (rvRs2 w)).toNat len

/-- The value that an AMO stores. -/
def rvAmo (f5 n old src : Nat) : Option Nat :=
  let so := signedNat (8 * n) old
  let ss := signedNat (8 * n) src
  match f5 with
  | 0x00 => some (old + src)
  | 0x01 => some src
  | 0x04 => some (Nat.xor old src)
  | 0x08 => some (Nat.lor old src)
  | 0x0C => some (Nat.land old src)
  | 0x10 => some (if so ≤ ss then old else src)
  | 0x14 => some (if so ≤ ss then src else old)
  | 0x18 => some (min old src)
  | 0x1C => some (max old src)
  | _ => none

/-- LR, SC and the AMOs: on the hart's own stack alone (R169). SC succeeds on the bytes that LR reserved. -/
def rvAtomic (h : Hart) (m : RvMem) (w len : Nat) : RvOut :=
  let n := 2 ^ rvF3 w
  let f5 := rvBits w 27 5
  let a := (h.gx (rvRs1 w)).toNat
  let rs2 := rvRs2 w
  let put (h : Hart) (v : Nat) : Hart := h.px (rvRd w) (BitVec.ofInt 64 (signedNat (8 * n) v))
  let src := (h.gx rs2).toNat % 2 ^ (8 * n)
  if n ≠ 4 ∧ n ≠ 8 then rvIllegal h m
  else if f5 = 0x02 then
    if rs2 ≠ 0 then rvIllegal h m
    else if a % n ≠ 0 then .trap 4 h m
    else if !m.ownStack a n then .trap 5 h m
    else rvDone len { put h (m.read a n) with reserved := some (a, n) } m
  else if f5 = 0x03 then
    if a % n ≠ 0 then .trap 6 h m
    else if !m.ownStack a n then .trap 7 h m
    else if h.reserved = some (a, n) then rvDone len { h.px (rvRd w) 0#64 with reserved := none } (m.write a n src)
    else rvDone len { h.px (rvRd w) 1#64 with reserved := none } m
  else match rvAmo f5 n (m.read a n) src with
    | none => rvIllegal h m
    | some v =>
      if a % n ≠ 0 then .trap 6 h m
      else if !m.ownStack a n then .trap 7 h m
      else rvDone len (put h (m.read a n)) (m.write a n v)

/-! ### CSRs -/

/-- Zicsr: a form that writes nothing (CSRRS and CSRRC of x0 or 0) may name a read-only CSR. -/
def rvCsr (h : Hart) (m : RvMem) (w len : Nat) : RvOut :=
  let n := rvBits w 20 12
  let f3 := rvF3 w
  let src := if f3 < 4 then (h.gx (rvRs1 w)).toNat else rvRs1 w
  match h.csr n with
  | none => rvIllegal h m
  | some old =>
    let put (h : Hart) : RvOut := rvDone len (h.px (rvRd w) (BitVec.ofNat 64 old)) m
    let write (v : Nat) : RvOut := match h.putCsr n v with | some t => put t | none => rvIllegal h m
    match f3 % 4 with
    | 1 => write src
    | 2 => if rvRs1 w = 0 then put h else write (Nat.lor old src)
    | 3 => if rvRs1 w = 0 then put h else write (old - Nat.land old src)
    | _ => rvIllegal h m

/-- SYSTEM in user mode: ECALL and EBREAK trap; WFI may end at once; MRET and the rest of machine mode are illegal. -/
def rvSystem (h : Hart) (m : RvMem) (w len : Nat) : RvOut :=
  if rvF3 w ≠ 0 then rvCsr h m w len
  else if w = 0x00000073 then .trap 8 h m
  else if w = 0x00100073 then .trap 3 h m
  else if w = 0x10500073 then rvDone len h m
  else rvIllegal h m

/-! ### F and D -/

/-- The format that a fmt field names: single or double alone. -/
def rvFmtOf (k : Nat) : Option RvFmt := match k with | 0 => some rvSingle | 1 => some rvDouble | _ => none

/-- A floating-point register as an operand of a format. -/
def Hart.gf (h : Hart) (t : RvFmt) (r : Nat) : Nat := if t.mw = 23 then rvUnbox (h.gd r) else h.gd r

/-- Write a result of a format, with its flags. -/
def Hart.pf (h : Hart) (t : RvFmt) (r : Nat) (v : Nat × Nat) : Hart :=
  (h.pd r (if t.mw = 23 then rvBox v.1 else v.1)).accrue v.2

/-- FLW and FLD. -/
def rvLoadF (h : Hart) (m : RvMem) (w len : Nat) : RvOut :=
  let n := 2 ^ rvF3 w
  rvLoad h m (h.addr (rvRs1 w) (rvImmI w)) n (fun v => h.pd (rvRd w) (if n = 4 then rvBox v else v)) len

/-- FSW and FSD. -/
def rvStoreF (h : Hart) (m : RvMem) (w len : Nat) : RvOut :=
  rvStore h m (h.addr (rvRs1 w) (rvImmS w)) (2 ^ rvF3 w) (h.gd (rvRs2 w)) len

/-- FMADD, FMSUB, FNMSUB and FNMADD by opcode. -/
def rvFused (h : Hart) (m : RvMem) (w len : Nat) : RvOut :=
  match rvFmtOf (rvBits w 25 2), h.rm (rvF3 w) with
  | some t, some rm =>
    let a := h.gf t (rvRs1 w)
    let b := h.gf t (rvRs2 w)
    let c := h.gf t (rvBits w 27 5)
    let r := match rvBits w 2 2 with
      | 0 => t.fma rm a b c
      | 1 => t.fma rm a b (t.neg c)
      | 2 => t.fma rm (t.neg a) b c
      | _ => t.fma rm (t.neg a) b (t.neg c)
    rvDone len (h.pf t (rvRd w) r) m
  | _, _ => rvIllegal h m

/-- The forms of OP-FP that round by rm. -/
def rvFpRound (t : RvFmt) (h : Hart) (w rm : Nat) : Option Hart :=
  let a := h.gf t (rvRs1 w)
  let b := h.gf t (rvRs2 w)
  let rs2 := rvRs2 w
  let put (v : Nat × Nat) : Option Hart := some (h.pf t (rvRd w) v)
  match rvBits w 27 5 with
  | 0x00 => put (t.add rm a b)
  | 0x01 => put (t.sub rm a b)
  | 0x02 => put (t.mul rm a b)
  | 0x03 => put (t.div rm a b)
  | 0x0B => if rs2 = 0 then put (t.sqrt rm a) else none
  | 0x08 => match rvFmtOf rs2 with
    | some src => if src = t then none else put (src.convert t rm (h.gf src (rvRs1 w)))
    | none => none
  | 0x18 =>
    if 4 ≤ rs2 then none
    else
      let n := if rs2 < 2 then 32 else 64
      let r := t.toInt rm n (decide (rs2 % 2 = 0)) a
      some ((h.px (rvRd w) (BitVec.ofInt 64 (signedNat n r.1))).accrue r.2)
  | 0x1A =>
    if 4 ≤ rs2 then none
    else
      let n := if rs2 < 2 then 32 else 64
      let x := (h.gx (rvRs1 w)).toNat % 2 ^ n
      put (t.ofInt rm (if rs2 % 2 = 0 then signedNat n x else (x : Int)))
  | _ => none

/-- The forms of OP-FP whose rm field selects the operation. -/
def rvFpSelect (t : RvFmt) (h : Hart) (w : Nat) : Option Hart :=
  let a := h.gf t (rvRs1 w)
  let b := h.gf t (rvRs2 w)
  let k := rvF3 w
  let rs2 := rvRs2 w
  let put (v : Nat × Nat) : Option Hart := some (h.pf t (rvRd w) v)
  let flag (v : Bool × Nat) : Option Hart := some ((h.px (rvRd w) (if v.1 then 1#64 else 0#64)).accrue v.2)
  match rvBits w 27 5 with
  | 0x04 => if k < 3 then put (t.signInject k a b, 0) else none
  | 0x05 => if k < 2 then put (t.minMax (decide (k = 1)) a b) else none
  | 0x14 => match k with
    | 0 => flag (t.le a b)
    | 1 => flag (t.lt a b)
    | 2 => flag (t.eq a b)
    | _ => none
  | 0x1C =>
    if rs2 ≠ 0 then none
    else match k with
    | 0 => some (h.px (rvRd w) (if t.mw = 23 then rvWord (BitVec.ofNat 64 (h.gd (rvRs1 w)))
        else BitVec.ofNat 64 (h.gd (rvRs1 w))))
    | 1 => some (h.px (rvRd w) (BitVec.ofNat 64 (t.classify a)))
    | _ => none
  | 0x1E => if rs2 = 0 ∧ k = 0 then put ((h.gx (rvRs1 w)).toNat % 2 ^ t.width, 0) else none
  | _ => none

/-- OP-FP. -/
def rvFp (h : Hart) (m : RvMem) (w len : Nat) : RvOut :=
  match rvFmtOf (rvBits w 25 2) with
  | none => rvIllegal h m
  | some t =>
    let r := if (rvBits w 27 5) ∈ [0x04, 0x05, 0x14, 0x1C, 0x1E] then rvFpSelect t h w
      else (h.rm (rvF3 w)).bind (rvFpRound t h w)
    match r with
    | some g => rvDone len g m
    | none => rvIllegal h m

/-! ### The base -/

/-- OP-IMM. -/
def rvOpImm (h : Hart) (m : RvMem) (w len : Nat) : RvOut :=
  let f3 := rvF3 w
  let f6 := rvBits w 26 6
  let a := h.gx (rvRs1 w)
  let put (v : BitVec 64) : RvOut := rvDone len (h.px (rvRd w) v) m
  if f3 = 1 ∨ f3 = 5 then
    if f6 = 0 ∨ (f3 = 5 ∧ f6 = 0x10) then put (rvAlu f3 (decide (f6 ≠ 0)) a (BitVec.ofNat 64 (rvBits w 20 6)))
    else rvIllegal h m
  else put (rvAlu f3 false a (BitVec.ofInt 64 (rvImmI w)))

/-- OP-IMM-32. -/
def rvOpImmW (h : Hart) (m : RvMem) (w len : Nat) : RvOut :=
  let f3 := rvF3 w
  let f7 := rvBits w 25 7
  let a := h.gx (rvRs1 w)
  let put (v : BitVec 64) : RvOut := rvDone len (h.px (rvRd w) v) m
  if f3 = 0 then put (rvAluW 0 false a (BitVec.ofInt 64 (rvImmI w)))
  else if (f3 = 1 ∧ f7 = 0) ∨ (f3 = 5 ∧ (f7 = 0 ∨ f7 = 0x20)) then
    put (rvAluW f3 (decide (f7 ≠ 0)) a (BitVec.ofNat 64 (rvRs2 w)))
  else rvIllegal h m

/-- OP. -/
def rvOp (h : Hart) (m : RvMem) (w len : Nat) : RvOut :=
  let f3 := rvF3 w
  let a := h.gx (rvRs1 w)
  let b := h.gx (rvRs2 w)
  let put (v : BitVec 64) : RvOut := rvDone len (h.px (rvRd w) v) m
  match rvBits w 25 7 with
  | 0x00 => put (rvAlu f3 false a b)
  | 0x20 => if f3 = 0 ∨ f3 = 5 then put (rvAlu f3 true a b) else rvIllegal h m
  | 0x01 => put (rvMul f3 a b)
  | _ => rvIllegal h m

/-- OP-32. -/
def rvOpW (h : Hart) (m : RvMem) (w len : Nat) : RvOut :=
  let f3 := rvF3 w
  let a := h.gx (rvRs1 w)
  let b := h.gx (rvRs2 w)
  let put (v : BitVec 64) : RvOut := rvDone len (h.px (rvRd w) v) m
  match rvBits w 25 7 with
  | 0x00 => if f3 = 0 ∨ f3 = 1 ∨ f3 = 5 then put (rvAluW f3 false a b) else rvIllegal h m
  | 0x20 => if f3 = 0 ∨ f3 = 5 then put (rvAluW f3 true a b) else rvIllegal h m
  | 0x01 => if f3 = 0 ∨ 4 ≤ f3 then put (rvMulW f3 a b) else rvIllegal h m
  | _ => rvIllegal h m

/-- A branch. -/
def rvBranch (h : Hart) (m : RvMem) (w len : Nat) : RvOut :=
  match rvTaken (rvF3 w) (h.gx (rvRs1 w)) (h.gx (rvRs2 w)) with
  | none => rvIllegal h m
  | some t => if t then .ok { h with pc := h.pc + BitVec.ofInt 64 (rvImmB w) } m else rvDone len h m

/-- JAL and JALR: the link is the next instruction; a target's lowest bit is 0. -/
def rvJump (h : Hart) (m : RvMem) (w len : Nat) (target : BitVec 64) : RvOut :=
  .ok { h.px (rvRd w) (h.pc + BitVec.ofNat 64 len) with pc := target &&& ~~~1#64 } m

/-- One instruction of every extension but V: a 32-bit word, or a 16-bit one as it expands, which is `len` bytes long. -/
def rvScalar (h : Hart) (m : RvMem) (w len : Nat) : RvOut :=
  let put (v : BitVec 64) : RvOut := rvDone len (h.px (rvRd w) v) m
  match w % 128 with
  | 0x37 => put (BitVec.ofInt 64 (rvImmU w))
  | 0x17 => put (h.pc + BitVec.ofInt 64 (rvImmU w))
  | 0x6F => rvJump h m w len (h.pc + BitVec.ofInt 64 (rvImmJ w))
  | 0x67 => if rvF3 w = 0 then rvJump h m w len (h.gx (rvRs1 w) + BitVec.ofInt 64 (rvImmI w)) else rvIllegal h m
  | 0x63 => rvBranch h m w len
  | 0x03 => rvLoadX h m w len
  | 0x23 => rvStoreX h m w len
  | 0x13 => rvOpImm h m w len
  | 0x1B => rvOpImmW h m w len
  | 0x33 => rvOp h m w len
  | 0x3B => rvOpW h m w len
  | 0x0F => if rvF3 w < 2 then rvDone len h m else rvIllegal h m
  | 0x73 => rvSystem h m w len
  | 0x2F => rvAtomic h m w len
  | 0x07 => rvLoadF h m w len
  | 0x27 => rvStoreF h m w len
  | 0x43 => rvFused h m w len
  | 0x47 => rvFused h m w len
  | 0x4B => rvFused h m w len
  | 0x4F => rvFused h m w len
  | 0x53 => rvFp h m w len
  | _ => rvIllegal h m

/-! ### C: the 16-bit words by what they expand to -/

/-- An I-form word. -/
def rvEncI (op f3 rd rs1 : Nat) (imm : Int) : Nat := rvCode 12 imm * 2 ^ 20 + rs1 * 2 ^ 15 + f3 * 2 ^ 12 + rd * 2 ^ 7 + op
/-- An R-form word. -/
def rvEncR (op f3 f7 rd rs1 rs2 : Nat) : Nat := f7 * 2 ^ 25 + rs2 * 2 ^ 20 + rs1 * 2 ^ 15 + f3 * 2 ^ 12 + rd * 2 ^ 7 + op
/-- An S-form word; the offsets of C are not negative. -/
def rvEncS (op f3 rs1 rs2 imm : Nat) : Nat :=
  imm / 32 * 2 ^ 25 + rs2 * 2 ^ 20 + rs1 * 2 ^ 15 + f3 * 2 ^ 12 + imm % 32 * 2 ^ 7 + op
/-- A branch against x0. -/
def rvEncB (f3 rs1 : Nat) (imm : Int) : Nat :=
  let i := rvCode 13 imm
  rvBits i 12 1 * 2 ^ 31 + rvBits i 5 6 * 2 ^ 25 + rs1 * 2 ^ 15 + f3 * 2 ^ 12 + rvBits i 1 4 * 2 ^ 8 + rvBits i 11 1 * 2 ^ 7 + 0x63
/-- JAL x0. -/
def rvEncJ (imm : Int) : Nat :=
  let i := rvCode 21 imm
  rvBits i 20 1 * 2 ^ 31 + rvBits i 1 10 * 2 ^ 21 + rvBits i 11 1 * 2 ^ 20 + rvBits i 12 8 * 2 ^ 12 + 0x6F

/-- Quadrant 0. -/
def rvExpand0 (w : Nat) : Option Nat :=
  let rd := 8 + rvBits w 2 3
  let rs := 8 + rvBits w 7 3
  let o8 := rvBits w 5 2 * 64 + rvBits w 10 3 * 8
  let o4 := rvBits w 5 1 * 64 + rvBits w 10 3 * 8 + rvBits w 6 1 * 4
  match rvBits w 13 3 with
  | 0 =>
    let k := rvBits w 7 4 * 64 + rvBits w 11 2 * 16 + rvBits w 5 1 * 8 + rvBits w 6 1 * 4
    if k = 0 then none else some (rvEncI 0x13 0 rd 2 k)
  | 1 => some (rvEncI 0x07 3 rd rs o8)
  | 2 => some (rvEncI 0x03 2 rd rs o4)
  | 3 => some (rvEncI 0x03 3 rd rs o8)
  | 5 => some (rvEncS 0x27 3 rs rd o8)
  | 6 => some (rvEncS 0x23 2 rs rd o4)
  | 7 => some (rvEncS 0x23 3 rs rd o8)
  | _ => none

/-- The arithmetic of quadrant 1 on x8 to x15. -/
def rvExpandArith (w : Nat) : Option Nat :=
  let rd := 8 + rvBits w 7 3
  let rs := 8 + rvBits w 2 3
  let k := rvBits w 12 1 * 32 + rvBits w 2 5
  match rvBits w 10 2 with
  | 0 => some (rvEncI 0x13 5 rd rd k)
  | 1 => some (rvEncI 0x13 5 rd rd (0x400 + k))
  | 2 => some (rvEncI 0x13 7 rd rd (rvSigned 6 k))
  | _ => match rvBits w 12 1 * 4 + rvBits w 5 2 with
    | 0 => some (rvEncR 0x33 0 0x20 rd rd rs)
    | 1 => some (rvEncR 0x33 4 0 rd rd rs)
    | 2 => some (rvEncR 0x33 6 0 rd rd rs)
    | 3 => some (rvEncR 0x33 7 0 rd rd rs)
    | 4 => some (rvEncR 0x3B 0 0x20 rd rd rs)
    | 5 => some (rvEncR 0x3B 0 0 rd rd rs)
    | _ => none

/-- Quadrant 1. -/
def rvExpand1 (w : Nat) : Option Nat :=
  let rd := rvBits w 7 5
  let k := rvBits w 12 1 * 32 + rvBits w 2 5
  let imm := rvSigned 6 k
  let rs := 8 + rvBits w 7 3
  let off := rvSigned 9 (rvBits w 12 1 * 256 + rvBits w 5 2 * 64 + rvBits w 2 1 * 32 + rvBits w 10 2 * 8 + rvBits w 3 2 * 2)
  match rvBits w 13 3 with
  | 0 => some (rvEncI 0x13 0 rd rd imm)
  | 1 => if rd = 0 then none else some (rvEncI 0x1B 0 rd rd imm)
  | 2 => some (rvEncI 0x13 0 rd 0 imm)
  | 3 =>
    if k = 0 then none
    else if rd = 2 then some (rvEncI 0x13 0 2 2 (rvSigned 10 (rvBits w 12 1 * 512 + rvBits w 3 2 * 128 + rvBits w 5 1 * 64
      + rvBits w 2 1 * 32 + rvBits w 6 1 * 16)))
    else some (rvCode 20 imm * 2 ^ 12 + rd * 2 ^ 7 + 0x37)
  | 4 => rvExpandArith w
  | 5 => some (rvEncJ (rvSigned 12 (rvBits w 12 1 * 2048 + rvBits w 8 1 * 1024 + rvBits w 9 2 * 256 + rvBits w 6 1 * 128
      + rvBits w 7 1 * 64 + rvBits w 2 1 * 32 + rvBits w 11 1 * 16 + rvBits w 3 3 * 2)))
  | 6 => some (rvEncB 0 rs off)
  | _ => some (rvEncB 1 rs off)

/-- Quadrant 2. -/
def rvExpand2 (w : Nat) : Option Nat :=
  let rd := rvBits w 7 5
  let rs2 := rvBits w 2 5
  let l8 := rvBits w 2 3 * 64 + rvBits w 12 1 * 32 + rvBits w 5 2 * 8
  let l4 := rvBits w 2 2 * 64 + rvBits w 12 1 * 32 + rvBits w 4 3 * 4
  let s8 := rvBits w 7 3 * 64 + rvBits w 10 3 * 8
  let s4 := rvBits w 7 2 * 64 + rvBits w 9 4 * 4
  match rvBits w 13 3 with
  | 0 => some (rvEncI 0x13 1 rd rd (rvBits w 12 1 * 32 + rs2))
  | 1 => some (rvEncI 0x07 3 rd 2 l8)
  | 2 => if rd = 0 then none else some (rvEncI 0x03 2 rd 2 l4)
  | 3 => if rd = 0 then none else some (rvEncI 0x03 3 rd 2 l8)
  | 4 =>
    if rvBits w 12 1 = 0 then
      if rs2 ≠ 0 then some (rvEncR 0x33 0 0 rd 0 rs2) else if rd = 0 then none else some (rvEncI 0x67 0 0 rd 0)
    else if rs2 ≠ 0 then some (rvEncR 0x33 0 0 rd rd rs2)
    else if rd = 0 then some 0x00100073
    else some (rvEncI 0x67 0 1 rd 0)
  | 5 => some (rvEncS 0x27 3 2 rs2 s8)
  | 6 => some (rvEncS 0x23 2 2 rs2 s4)
  | _ => some (rvEncS 0x23 3 2 rs2 s8)

/-- The 32-bit instruction that a 16-bit word stands for; none is a reserved word (the zero word among them). -/
def rvExpand (w : Nat) : Option Nat :=
  match w % 4 with
  | 0 => rvExpand0 w
  | 1 => rvExpand1 w
  | 2 => rvExpand2 w
  | _ => none

end Sys2Proof.Machine
end

