-- ==== Sys2Proof/Machine/RvVector.lean ====
section
/-! DEFINITION. The V extension 1.0 on a hart of an update die (R168, R169): VLEN 1,024, ELEN 64. Configuration, register
groups with their overlap rules, element order, masks, tails, memory instructions. Reserved forms raise an illegal
instruction (log 12). The arithmetic is in RvVecOps. -/

namespace Sys2Proof.Machine

/-! ### Configuration -/

/-- SEW of a vtype. -/
def rvSewOf (t : BitVec 8) : Nat := 8 * 2 ^ (bitsAt t 3 3).toNat

/-- log2 LMUL of a vtype. -/
def rvLmulOf (t : BitVec 8) : Int := signedNat 3 (bitsAt t 0 3).toNat

/-- Elements of `w` bits in a group of 2^k registers. -/
def rvElems (k : Int) (w : Nat) : Nat := 1024 * 2 ^ (k + 3).toNat / 8 / w

/-- A vtype is supported: no reserved bit, SEW at most 64 and at most LMUL × ELEN, LMUL not reserved. -/
def rvTypeOk (v : Nat) : Bool :=
  let t := BitVec.ofNat 8 v
  decide (v < 256) && decide (rvSewOf t ≤ 64) && decide (rvLmulOf t ≠ -4) && decide (rvSewOf t ≤ 64 * 2 ^ (rvLmulOf t + 3).toNat / 8)

/-- VLMAX of a vtype. -/
def rvVlmax (t : BitVec 8) : Nat := rvElems (rvLmulOf t) (rvSewOf t)

/-- vl for an AVL: AVL up to VLMAX, VLMAX from 2 × VLMAX on, and between them any value from half of AVL to VLMAX (a free
value, log 12). -/
def rvVl (avl vlmax : Nat) : Nat :=
  if avl ≤ vlmax then avl
  else if 2 * vlmax ≤ avl then vlmax
  else ceilDiv avl 2 + Config.vlBetween avl vlmax % (vlmax - ceilDiv avl 2 + 1)

/-- Take a vtype and an AVL; an unsupported vtype sets vill. -/
def Hart.setVl (h : Hart) (v : Nat) (avl : Nat → Option Nat) : Hart × Nat :=
  let t := BitVec.ofNat 8 v
  match (if rvTypeOk v then avl (rvVlmax t) else none) with
  | some n => ({ h with vill := false, vtype := t, vl := n, vstart := 0 }, n)
  | none => ({ h with vill := true, vtype := 0#8, vl := 0, vstart := 0 }, 0)

/-- VSETVLI, VSETIVLI, VSETVL. With both registers x0 the vl stays, where VLMAX does; otherwise vill is set. -/
def rvSetVl (h : Hart) (m : RvMem) (w len : Nat) : RvOut :=
  let rd := rvRd w
  let rs := rvRs1 w
  let put (r : Hart × Nat) : RvOut := rvDone len (r.1.px rd (BitVec.ofNat 64 r.2)) m
  let avl (mx : Nat) : Option Nat :=
    if rs ≠ 0 then some (rvVl (h.gx rs).toNat mx)
    else if rd ≠ 0 then some mx
    else if !h.vill && decide (rvVlmax h.vtype = mx) then some h.vl else none
  if rvBits w 31 1 = 0 then put (h.setVl (rvBits w 20 11) avl)
  else if rvBits w 30 2 = 3 then put (h.setVl (rvBits w 20 10) (fun mx => some (rvVl rs mx)))
  else if rvBits w 25 7 = 0x40 then put (h.setVl (h.gx (rvRs2 w)).toNat avl)
  else rvIllegal h m

/-! ### Register groups -/

/-- A vector operand: first register, element width, log2 of the registers in its group. -/
structure RvGroup where
  r : Nat
  w : Nat
  k : Int
deriving DecidableEq, Repr

/-- Registers of a group. -/
def RvGroup.regs (g : RvGroup) : Nat := if g.k ≤ 0 then 1 else 2 ^ g.k.toNat

/-- Its size is one that exists, and its first register a multiple of it. -/
def RvGroup.ok (g : RvGroup) : Bool :=
  decide (-3 ≤ g.k) && decide (g.k ≤ 3) && decide (g.r % g.regs = 0) && decide (g.r + g.regs ≤ 32)
    && decide (8 ≤ g.w) && decide (g.w ≤ 64)

/-- Two groups share a register. -/
def RvGroup.meets (a b : RvGroup) : Bool := decide (a.r < b.r + b.regs ∧ b.r < a.r + a.regs)

/-- A destination may share registers with this source: of one width; narrower, in the lowest part of the source; wider, over
the destination's highest part with a source group of at least one whole register. -/
def RvGroup.mayOverlap (d s : RvGroup) : Bool :=
  !d.meets s || decide (d.w = s.w) || (decide (d.w < s.w) && decide (d.r = s.r))
    || (decide (s.w < d.w) && decide (0 ≤ s.k) && decide (s.r + s.regs = d.r + d.regs))

/-- A mask destination may share registers with this source: the lowest of them. -/
def rvMaskOverlap (vd : Nat) (s : RvGroup) : Bool := !(RvGroup.meets ⟨vd, 8, 0⟩ s) || decide (vd = s.r)

/-- SEW in force. -/
def Hart.sew (h : Hart) : Nat := rvSewOf h.vtype
/-- log2 LMUL in force. -/
def Hart.lmul (h : Hart) : Int := rvLmulOf h.vtype
/-- The group of SEW elements at r. -/
def Hart.grp (h : Hart) (r : Nat) : RvGroup := ⟨r, h.sew, h.lmul⟩
/-- The group at r of elements f times as wide, f = 2^j. -/
def Hart.wide (h : Hart) (r j : Nat) : RvGroup := ⟨r, h.sew * 2 ^ j, h.lmul + j⟩
/-- The group at r of elements of `w` bits, as many as SEW elements (EMUL of an EEW). -/
def Hart.grpOf (h : Hart) (r w : Nat) : RvGroup := ⟨r, w, h.lmul + Nat.log2 w - Nat.log2 h.sew⟩
/-- Element i of a group. -/
def Hart.at (h : Hart) (g : RvGroup) (i : Nat) : Nat := h.el g.r g.w i

/-- The instruction is masked. -/
def rvMasked (w : Nat) : Bool := decide (rvBits w 25 1 = 0)

/-- Element i is active. -/
def Hart.active (h : Hart) (w i : Nat) : Bool := !rvMasked w || h.vBit 0 i

/-- An agnostic element keeps its value or is filled with ones, freely (log 12). -/
def Hart.agnostic (h : Hart) (i ones old : Nat) : Nat := if Config.agnosticOnes h.instret i then ones else old

/-- What becomes of element i of a destination: body elements that are active take `new`; masked-off ones follow the mask
policy, those from vl on the tail policy; elements before vstart stay. -/
def Hart.elemOut (h : Hart) (w i ones old : Nat) (tailAgn : Bool) (new : Nat) : Nat :=
  if i < h.vstart then old
  else if h.vl ≤ i then (if tailAgn then h.agnostic i ones old else old)
  else if h.active w i then new
  else if bitAt h.vtype 7 then h.agnostic i ones old else old

/-- Write a destination group element by element; nothing is written when vstart reaches vl. -/
def Hart.putGroup (h : Hart) (w : Nat) (g : RvGroup) (f : Nat → Nat) : Hart :=
  if h.vl ≤ h.vstart then h
  else (List.range (rvElems (max g.k 0) g.w)).foldl (fun t i =>
    t.putEl g.r g.w i (h.elemOut w i (2 ^ g.w - 1) (h.at g i) (bitAt h.vtype 6) (f i))) h

/-- Write a mask destination bit by bit; its tail is always agnostic. -/
def Hart.putMask (h : Hart) (w vd : Nat) (f : Nat → Bool) : Hart :=
  if h.vl ≤ h.vstart then h
  else (List.range 1024).foldl (fun t i =>
    t.putBit vd i (decide (h.elemOut w i 1 (if h.vBit vd i then 1 else 0) true (if f i then 1 else 0) = 1))) h

/-- Active body elements. -/
def Hart.body (h : Hart) (w : Nat) : List Nat := (List.range h.vl).filter (fun i => decide (h.vstart ≤ i) && h.active w i)

/-- A destination does not cover the mask of a masked instruction. -/
def rvMaskFree (w : Nat) (d : RvGroup) : Bool := !rvMasked w || decide (d.r ≠ 0)

/-- Retire a vector instruction: vstart becomes 0. -/
def rvVDone (len : Nat) (h : Hart) (m : RvMem) : RvOut := rvDone len { h with vstart := 0 } m

/-- What an element operation gives: the value, floating-point flags, saturation. -/
structure RvElem where
  v : Nat
  fl : Nat := 0
  sat : Bool := false

/-- An elementwise instruction: destination, sources, and the value of each active element. `apart`: the destination shares
no register with a source. -/
def rvEach (h : Hart) (m : RvMem) (w len : Nat) (d : RvGroup) (srcs : List RvGroup) (apart : Bool) (f : Nat → RvElem) : RvOut :=
  if h.vill || !d.ok || !srcs.all RvGroup.ok || !rvMaskFree w d
      || !srcs.all (fun s => if apart then !d.meets s else d.mayOverlap s) then rvIllegal h m
  else
    let rs := (h.body w).map f
    rvVDone len { ((h.putGroup w d (fun i => (f i).v)).accrue (rs.foldl (fun a x => Nat.lor a x.fl) 0)) with
      vxsat := h.vxsat || rs.any (·.sat) } m

/-- An instruction that writes a mask from elements of its sources. -/
def rvCompare (h : Hart) (m : RvMem) (w len vd : Nat) (srcs : List RvGroup) (f : Nat → Bool × Nat) : RvOut :=
  if h.vill || !srcs.all RvGroup.ok || !srcs.all (rvMaskOverlap vd) then rvIllegal h m
  else rvVDone len ((h.putMask w vd (fun i => (f i).1)).accrue ((h.body w).foldl (fun a i => Nat.lor a (f i).2) 0)) m

/-- Write element 0 of a scalar destination; the rest of its register is tail. -/
def Hart.putFirst (h : Hart) (r w v : Nat) : Hart :=
  (List.range (1024 / w)).foldl (fun t i =>
    t.putEl r w i (if i = 0 then v else if bitAt h.vtype 6 then h.agnostic i (2 ^ w - 1) (h.el r w i) else h.el r w i)) h

/-- A reduction: the scalar operand is element 0 of vs1; vstart is 0; nothing happens when vl is 0. -/
def rvReduce (h : Hart) (m : RvMem) (w len : Nat) (src : RvGroup) (dw : Nat) (f : Nat → Nat → RvElem) : RvOut :=
  if h.vill || !src.ok || decide (64 < dw) || decide (h.vstart ≠ 0) then rvIllegal h m
  else if h.vl = 0 then rvVDone len h m
  else
    let r := (h.body w).foldl (fun (a : RvElem) i => let x := f a.v (h.at src i); ⟨x.v, Nat.lor a.fl x.fl, false⟩)
      ⟨h.el (rvRs1 w) dw 0, 0, false⟩
    rvVDone len ((h.putFirst (rvRd w) dw r.v).accrue r.fl) m

/-! ### Memory instructions -/

/-- One access of a vector memory instruction: segment i, address, bytes, and the place of the element in the register file.
-/
structure RvAccess where
  i : Nat
  addr : Nat
  n : Nat
  byte : Nat
deriving DecidableEq, Repr

/-- Perform loads in order; an exception leaves vstart at its element and what came before it done. `first`: a fault beyond
element 0 only shortens vl (VLE<n>FF). -/
def rvLoads (first : Bool) (m : RvMem) (len : Nat) : List RvAccess → Hart → RvOut
  | [], h => rvVDone len h m
  | a :: as, h =>
    match m.loadTrap a.addr a.n with
    | some c =>
      if first ∧ 0 < a.i then rvVDone len { h with vl := a.i } m
      else .trap c { h with vstart := a.i } m
    | none => rvLoads first m len as ((List.range a.n).foldl (fun t j => t.vPutByte (a.byte + j) (m.byte (a.addr + j))) h)

/-- Perform stores in order. -/
def rvStores (len : Nat) (h : Hart) : List RvAccess → RvMem → RvOut
  | [], m => rvVDone len h m
  | a :: as, m =>
    match m.storeTrap a.addr a.n with
    | some c => .trap c { h with vstart := a.i } m
    | none => rvStores len h as (m.write a.addr a.n (leVal ((List.range a.n).map (fun j => h.vByte (a.byte + j)))))

/-- The accesses of `nf` fields for the active segments, field f of segment i at `at i + f × n`. -/
def Hart.accesses (h : Hart) (w nf n : Nat) (d : RvGroup) (segs : List Nat) (at_ : Nat → Nat) : List RvAccess :=
  (segs.filter (h.active w)).flatMap (fun i => (List.range nf).map (fun f =>
    ⟨i, (at_ i + f * n) % 2 ^ 64, n, 128 * (d.r + f * d.regs) + n * i⟩))

/-- Tail and masked-off elements of a load's fields, by their policies. -/
def Hart.settle (h : Hart) (w nf : Nat) (d : RvGroup) : Hart :=
  (List.range nf).foldl (fun t f =>
    let g : RvGroup := { d with r := d.r + f * d.regs }
    t.putGroup w g (fun i => t.at g i)) h

/-- EEW of a memory instruction. -/
def rvEew (w : Nat) : Nat := match rvF3 w with | 0 => 8 | 5 => 16 | 6 => 32 | _ => 64

/-- Run the accesses of a load (which first settles the elements that it does not load) or of a store. -/
def rvAccessAll (h : Hart) (m : RvMem) (w len nf : Nat) (load first : Bool) (d : RvGroup) (l : List RvAccess) : RvOut :=
  if load then
    match rvLoads first m len l h with
    | .ok g x => .ok ({ { g with vstart := h.vstart }.settle w nf d with vstart := 0 }) x
    | r => r
  else rvStores len h l m

/-- Body segments. -/
def Hart.segments (h : Hart) : List Nat := (List.range h.vl).filter (fun i => decide (h.vstart ≤ i))

/-- Unit-stride, strided and indexed accesses, with segments; mask and whole-register transfers. -/
def rvVMem (h : Hart) (m : RvMem) (w len : Nat) : RvOut :=
  let load := decide (w % 128 = 0x07)
  let nf := rvBits w 29 3 + 1
  let mop := rvBits w 26 2
  let umop := rvBits w 20 5
  let eew := rvEew w
  let vd := rvRd w
  let base := (h.gx (rvRs1 w)).toNat
  let fits (d : RvGroup) : Bool := d.ok && decide (nf * d.regs ≤ 8) && decide (vd + nf * d.regs ≤ 32)
    && (!load || !rvMasked w || decide (vd ≠ 0))
  if rvBits w 28 1 = 1 then rvIllegal h m
  else if mop = 0 ∧ umop = 8 then
    -- whole registers: independent of vtype and vl
    if rvMasked w ∨ (nf ≠ 1 ∧ nf ≠ 2 ∧ nf ≠ 4 ∧ nf ≠ 8) ∨ vd % nf ≠ 0 ∨ (!load ∧ eew ≠ 8) then rvIllegal h m
    else
      let n := eew / 8
      let l := ((List.range (nf * 128 / n)).filter (fun i => decide (h.vstart ≤ i))).map (fun i =>
        (⟨i, (base + n * i) % 2 ^ 64, n, 128 * vd + n * i⟩ : RvAccess))
      if load then rvLoads false m len l h else rvStores len h l m
  else if h.vill then rvIllegal h m
  else if mop = 0 ∧ umop = 11 then
    if rvMasked w ∨ nf ≠ 1 ∨ eew ≠ 8 then rvIllegal h m
    else
      let l := ((List.range (ceilDiv h.vl 8)).filter (fun i => decide (h.vstart ≤ i))).map (fun i =>
        (⟨i, (base + i) % 2 ^ 64, 1, 128 * vd + i⟩ : RvAccess))
      if load then
        match rvLoads false m len l h with
        | .ok g x => .ok { ({ g with vstart := h.vstart, vl := ceilDiv h.vl 8, vtype := 0x40#8 }.putGroup (2 ^ 25)
            ⟨vd, 8, 0⟩ (fun i => g.el vd 8 i)) with vstart := 0, vl := h.vl, vtype := h.vtype } x
        | r => r
      else rvStores len h l m
  else if mop = 0 then
    let d := h.grpOf vd eew
    let first := decide (umop = 16)
    if !fits d || (decide (umop ≠ 0) && !(first && load)) then rvIllegal h m
    else rvAccessAll h m w len nf load first d
      (h.accesses w nf (eew / 8) d h.segments (fun i => base + nf * (eew / 8) * i))
  else if mop = 2 then
    let d := h.grpOf vd eew
    if !fits d then rvIllegal h m
    else rvAccessAll h m w len nf load false d
      (h.accesses w nf (eew / 8) d h.segments (fun i => base + (h.gx (rvRs2 w)).toNat * i))
  else
    let d := h.grp vd
    let x := h.grpOf (rvRs2 w) eew
    let clash := load && (if nf = 1 then !d.mayOverlap x
      else (List.range nf).any (fun f => RvGroup.meets { d with r := vd + f * d.regs } x))
    if !fits d || !x.ok || clash then rvIllegal h m
    else rvAccessAll h m w len nf load false d
      (h.accesses w nf (h.sew / 8) d h.segments (fun i => base + h.at x i))

end Sys2Proof.Machine
end

