-- ==== Sys2Proof/Machine/RvVecOps.lean ====
section
/-! DEFINITION. The arithmetic of the V extension 1.0 (R168, R169): integer, fixed-point, floating-point, reductions, masks
and permutations, by the funct6 tables of the extension. -/

namespace Sys2Proof.Machine

/-! ### Integer and fixed point -/

/-- `v / 2^d` rounded by vxrm: to nearest with halves up, to nearest even, down, to odd. -/
def rvRoundoff (xrm : Nat) (v : Int) (d : Nat) : Int :=
  let u : Int := 2 ^ d
  let q := v / u
  let r := v % u
  match xrm with
  | 0 => if u ≤ 2 * r then q + 1 else q
  | 1 => if u < 2 * r ∨ (2 * r = u ∧ 0 < r ∧ q % 2 = 1) then q + 1 else q
  | 2 => q
  | _ => if r ≠ 0 ∧ q % 2 = 0 then q + 1 else q

/-- An integer held to the range of `w` bits, signed or not; vxsat when it does not fit. -/
def rvClip (w : Nat) (signed : Bool) (i : Int) : RvElem :=
  let lo : Int := if signed then -(2 ^ (w - 1) : Nat) else 0
  let hi : Int := if signed then (2 ^ (w - 1) : Nat) - 1 else (2 ^ w : Nat) - 1
  if i < lo then ⟨rvCode w lo, 0, true⟩ else if hi < i then ⟨rvCode w hi, 0, true⟩ else ⟨rvCode w i, 0, false⟩

/-- A result that wraps to `w` bits. -/
def rvWrap (w : Nat) (i : Int) : RvElem := ⟨rvCode w i, 0, false⟩

/-- Elementwise OPI operations on a = vs2[i] and b = vs1[i], rs1 or the immediate, of `w` bits. -/
def rvOpI (f6 w xrm a b : Nat) : Option RvElem :=
  let x := rvSigned w a
  let y := rvSigned w b
  let k := b % w
  match f6 with
  | 0x00 => some (rvWrap w (x + y))
  | 0x02 => some (rvWrap w (x - y))
  | 0x03 => some (rvWrap w (y - x))
  | 0x04 => some ⟨min a b, 0, false⟩
  | 0x05 => some (rvWrap w (min x y))
  | 0x06 => some ⟨max a b, 0, false⟩
  | 0x07 => some (rvWrap w (max x y))
  | 0x09 => some ⟨Nat.land a b, 0, false⟩
  | 0x0A => some ⟨Nat.lor a b, 0, false⟩
  | 0x0B => some ⟨Nat.xor a b, 0, false⟩
  | 0x20 => some (rvClip w false ((a : Int) + b))
  | 0x21 => some (rvClip w true (x + y))
  | 0x22 => some (rvClip w false ((a : Int) - b))
  | 0x23 => some (rvClip w true (x - y))
  | 0x25 => some (rvWrap w (x * 2 ^ k))
  | 0x27 => some (rvClip w true (rvRoundoff xrm (x * y) (w - 1)))
  | 0x28 => some ⟨a / 2 ^ k, 0, false⟩
  | 0x29 => some (rvWrap w (x / 2 ^ k))
  | 0x2A => some (rvWrap w (rvRoundoff xrm a k))
  | 0x2B => some (rvWrap w (rvRoundoff xrm x k))
  | _ => none

/-- The forms that exist of an elementwise OPI operation: vector, scalar, immediate. -/
def rvOpIForm (f6 form : Nat) : Bool :=
  match form with
  | 0 => !([0x03] : List Nat).contains f6
  | 4 => true
  | _ => !([0x02, 0x04, 0x05, 0x06, 0x07, 0x22, 0x23, 0x27] : List Nat).contains f6

/-- The compares. -/
def rvCmpI (f6 w a b : Nat) : Option Bool :=
  let x := rvSigned w a
  let y := rvSigned w b
  match f6 with
  | 0x18 => some (decide (a = b))
  | 0x19 => some (decide (a ≠ b))
  | 0x1A => some (decide (a < b))
  | 0x1B => some (decide (x < y))
  | 0x1C => some (decide (a ≤ b))
  | 0x1D => some (decide (x ≤ y))
  | 0x1E => some (decide (b < a))
  | 0x1F => some (decide (y < x))
  | _ => none

/-- The forms of a compare. -/
def rvCmpIForm (f6 form : Nat) : Bool :=
  match form with
  | 0 => decide (f6 < 0x1E)
  | 4 => true
  | _ => !([0x1A, 0x1B] : List Nat).contains f6

/-- Narrowing shifts and clips: a has 2 × w bits. -/
def rvNarrow (f6 w xrm a b : Nat) : RvElem :=
  let k := b % (2 * w)
  let x := rvSigned (2 * w) a
  match f6 with
  | 0x2C => ⟨a / 2 ^ k % 2 ^ w, 0, false⟩
  | 0x2D => rvWrap w (x / 2 ^ k)
  | 0x2E => rvClip w false (rvRoundoff xrm a k)
  | _ => rvClip w true (rvRoundoff xrm x k)

/-- Elementwise OPM operations; d is the destination element as it stood. -/
def rvOpM (f6 w xrm a b d : Nat) : Option RvElem :=
  let x := rvSigned w a
  let y := rvSigned w b
  let z := rvSigned w d
  match f6 with
  | 0x08 => some (rvWrap w (rvRoundoff xrm ((a : Int) + b) 1))
  | 0x09 => some (rvWrap w (rvRoundoff xrm (x + y) 1))
  | 0x0A => some (rvWrap w (rvRoundoff xrm ((a : Int) - b) 1))
  | 0x0B => some (rvWrap w (rvRoundoff xrm (x - y) 1))
  | 0x20 => some ⟨(rvDiv w false false (BitVec.ofNat w a) (BitVec.ofNat w b)).toNat, 0, false⟩
  | 0x21 => some ⟨(rvDiv w true false (BitVec.ofNat w a) (BitVec.ofNat w b)).toNat, 0, false⟩
  | 0x22 => some ⟨(rvDiv w false true (BitVec.ofNat w a) (BitVec.ofNat w b)).toNat, 0, false⟩
  | 0x23 => some ⟨(rvDiv w true true (BitVec.ofNat w a) (BitVec.ofNat w b)).toNat, 0, false⟩
  | 0x24 => some (rvWrap w ((a : Int) * b / 2 ^ w))
  | 0x25 => some (rvWrap w (x * y))
  | 0x26 => some (rvWrap w (x * b / 2 ^ w))
  | 0x27 => some (rvWrap w (x * y / 2 ^ w))
  | 0x29 => some (rvWrap w (y * z + x))
  | 0x2B => some (rvWrap w (x - y * z))
  | 0x2D => some (rvWrap w (x * y + z))
  | 0x2F => some (rvWrap w (z - x * y))
  | _ => none

/-- Widening OPM operations on SEW = w: a of w bits, or of 2 × w in the .w forms. -/
def rvWidenM (f6 w a b d : Nat) : Option RvElem :=
  let x := rvSigned w a
  let y := rvSigned w b
  let p (i : Int) : Option RvElem := some (rvWrap (2 * w) i)
  match f6 with
  | 0x30 => p ((a : Int) + b)
  | 0x31 => p (x + y)
  | 0x32 => p ((a : Int) - b)
  | 0x33 => p (x - y)
  | 0x34 => p ((a : Int) + b)
  | 0x35 => p ((a : Int) + y)
  | 0x36 => p ((a : Int) - b)
  | 0x37 => p ((a : Int) - y)
  | 0x38 => p ((a : Int) * b)
  | 0x3A => p (x * b)
  | 0x3B => p (x * y)
  | 0x3C => p ((a : Int) * b + d)
  | 0x3D => p (x * y + d)
  | 0x3E => p (x * b + d)
  | 0x3F => p ((a : Int) * y + d)
  | _ => none

/-! ### Floating point -/

/-- The format of SEW-wide elements. -/
def rvFpOf (w : Nat) : Option RvFmt := if w = 32 then some rvSingle else if w = 64 then some rvDouble else none

/-- A flagged result as an element. -/
def rvF (r : Nat × Nat) : RvElem := ⟨r.1, r.2, false⟩

/-- Elementwise OPF operations on a = vs2[i], b = vs1[i] or f[rs1], d = vd[i]. -/
def rvOpF (f6 : Nat) (t : RvFmt) (rm a b d : Nat) : Option RvElem :=
  match f6 with
  | 0x00 => some (rvF (t.add rm a b))
  | 0x02 => some (rvF (t.sub rm a b))
  | 0x04 => some (rvF (t.minMax false a b))
  | 0x06 => some (rvF (t.minMax true a b))
  | 0x08 => some ⟨t.signInject 0 a b, 0, false⟩
  | 0x09 => some ⟨t.signInject 1 a b, 0, false⟩
  | 0x0A => some ⟨t.signInject 2 a b, 0, false⟩
  | 0x20 => some (rvF (t.div rm a b))
  | 0x21 => some (rvF (t.div rm b a))
  | 0x24 => some (rvF (t.mul rm a b))
  | 0x27 => some (rvF (t.sub rm b a))
  | 0x28 => some (rvF (t.fma rm d b a))
  | 0x29 => some (rvF (t.fma rm (t.neg d) b (t.neg a)))
  | 0x2A => some (rvF (t.fma rm d b (t.neg a)))
  | 0x2B => some (rvF (t.fma rm (t.neg d) b a))
  | 0x2C => some (rvF (t.fma rm a b d))
  | 0x2D => some (rvF (t.fma rm (t.neg a) b (t.neg d)))
  | 0x2E => some (rvF (t.fma rm a b (t.neg d)))
  | 0x2F => some (rvF (t.fma rm (t.neg a) b d))
  | _ => none

/-- The compares of OPF. -/
def rvCmpF (f6 : Nat) (t : RvFmt) (a b : Nat) : Option (Bool × Nat) :=
  match f6 with
  | 0x18 => some (t.eq a b)
  | 0x19 => some (t.le a b)
  | 0x1B => some (t.lt a b)
  | 0x1C => some (let r := t.eq a b; (!r.1, r.2))
  | 0x1D => some (t.lt b a)
  | 0x1F => some (t.le b a)
  | _ => none

/-- Widening OPF operations: operands of binary32 as binary64 (exact), a as binary64 already in the .w forms. -/
def rvWidenF (f6 rm a b d : Nat) : Option RvElem :=
  let up (v : Nat) : Nat := (rvSingle.convert rvDouble 0 v).1
  let nv (l : List Nat) (r : Nat × Nat) : Option RvElem := some ⟨r.1, Nat.lor (rvSingle.nv l) r.2, false⟩
  let t := rvDouble
  match f6 with
  | 0x30 => nv [a, b] (t.add rm (up a) (up b))
  | 0x32 => nv [a, b] (t.sub rm (up a) (up b))
  | 0x34 => nv [b] (t.add rm a (up b))
  | 0x36 => nv [b] (t.sub rm a (up b))
  | 0x38 => nv [a, b] (t.mul rm (up a) (up b))
  | 0x3C => nv [a, b] (t.fma rm (up a) (up b) d)
  | 0x3D => nv [a, b] (t.fma rm (t.neg (up a)) (up b) (t.neg d))
  | 0x3E => nv [a, b] (t.fma rm (up a) (up b) (t.neg d))
  | 0x3F => nv [a, b] (t.fma rm (t.neg (up a)) (up b) d)
  | _ => none

/-- A conversion of VFUNARY0: widths of source and destination, and the operation on one element. -/
structure RvConv where
  sw : Nat
  dw : Nat
  op : Nat → RvElem

/-- The conversions by vs1 at SEW = w; none is reserved. -/
def rvConvOf (k w rm : Nat) : Option RvConv :=
  let toI (t : RvFmt) (dw r : Nat) (signed : Bool) : Option RvConv :=
    some ⟨t.width, dw, fun a => rvF (t.toInt r dw signed a)⟩
  let ofI (sw : Nat) (t : RvFmt) (signed : Bool) : Option RvConv :=
    some ⟨sw, t.width, fun a => rvF (t.ofInt rm (if signed then rvSigned sw a else (a : Int)))⟩
  let one (f : RvFmt → Option RvConv) : Option RvConv := (rvFpOf w).bind f
  let two (f : RvFmt → Option RvConv) : Option RvConv := (rvFpOf (2 * w)).bind f
  match k with
  | 0x00 => one (fun t => toI t w rm false)
  | 0x01 => one (fun t => toI t w rm true)
  | 0x02 => one (fun t => ofI w t false)
  | 0x03 => one (fun t => ofI w t true)
  | 0x06 => one (fun t => toI t w 1 false)
  | 0x07 => one (fun t => toI t w 1 true)
  | 0x08 => if w = 32 then toI rvSingle 64 rm false else none
  | 0x09 => if w = 32 then toI rvSingle 64 rm true else none
  | 0x0A => two (fun t => ofI w t false)
  | 0x0B => two (fun t => ofI w t true)
  | 0x0C => if w = 32 then some ⟨32, 64, fun a => rvF (rvSingle.convert rvDouble rm a)⟩ else none
  | 0x0E => if w = 32 then toI rvSingle 64 1 false else none
  | 0x0F => if w = 32 then toI rvSingle 64 1 true else none
  | 0x10 => two (fun t => toI t w rm false)
  | 0x11 => two (fun t => toI t w rm true)
  | 0x12 => if w = 32 then ofI 64 rvSingle false else none
  | 0x13 => if w = 32 then ofI 64 rvSingle true else none
  | 0x14 => if w = 32 then some ⟨64, 32, fun a => rvF (rvDouble.convert rvSingle rm a)⟩ else none
  | 0x15 => if w = 32 then some ⟨64, 32, fun a => rvF (rvDouble.convert rvSingle 5 a)⟩ else none
  | 0x16 => two (fun t => toI t w 1 false)
  | 0x17 => two (fun t => toI t w 1 true)
  | _ => none

/-! ### The four operand classes -/

/-- The second operand of element i: vs1, x[rs1] or the immediate, to `ew` bits. -/
def Hart.src1 (h : Hart) (w form ew i : Nat) : Nat :=
  match form with
  | 0 => h.el (rvRs1 w) ew i
  | 4 => (h.gx (rvRs1 w)).toNat % 2 ^ ew
  | _ => rvCode ew (rvSigned 5 (rvRs1 w))

/-- Slides, from element `off` up or down. A slide up leaves the elements below `off` as they are, masked or not. -/
def rvSlide (h : Hart) (m : RvMem) (w len : Nat) (up : Bool) (off : Nat) : RvOut :=
  let d := h.grp (rvRd w)
  let s := h.grp (rvRs2 w)
  let g := if off < h.vl then { h with vstart := max h.vstart off } else h
  if up then rvEach g m w len d [s] true (fun i => ⟨if i < off then h.at d i else h.at s (i - off), 0, false⟩)
  else rvEach h m w len d [s] false (fun i => ⟨if i + off < rvVlmax h.vtype then h.at s (i + off) else 0, 0, false⟩)

/-- VADC, VSBC: the carry is v0 and every body element is written. -/
def rvCarry (h : Hart) (m : RvMem) (w len form : Nat) (sub : Bool) : RvOut :=
  let d := h.grp (rvRd w)
  let c (i : Nat) : Int := if h.vBit 0 i then 1 else 0
  let srcs := h.grp (rvRs2 w) :: (if form = 0 then [h.grp (rvRs1 w)] else [])
  if !rvMasked w || decide (rvRd w = 0) then rvIllegal h m
  else rvEach h m (w + 2 ^ 25) len d srcs false (fun i =>
    let a : Int := h.at (h.grp (rvRs2 w)) i
    let b : Int := h.src1 w form h.sew i
    rvWrap h.sew (if sub then a - b - c i else a + b + c i))

/-- VMADC, VMSBC: carry or borrow out, with v0 as carry in when vm is 0. -/
def rvCarryOut (h : Hart) (m : RvMem) (w len form : Nat) (sub : Bool) : RvOut :=
  let srcs := h.grp (rvRs2 w) :: (if form = 0 then [h.grp (rvRs1 w)] else [])
  let c (i : Nat) : Int := if rvMasked w && h.vBit 0 i then 1 else 0
  rvCompare h m (if rvMasked w then w + 2 ^ 25 else w) len (rvRd w) srcs (fun i =>
    let a : Int := h.at (h.grp (rvRs2 w)) i
    let b : Int := h.src1 w form h.sew i
    (if sub then decide (a - b - c i < 0) else decide (((2 ^ h.sew : Nat) : Int) ≤ a + b + c i), 0))

/-- VMERGE (vm = 0) and VMV.V (vm = 1). -/
def rvMerge (h : Hart) (m : RvMem) (w len form : Nat) : RvOut :=
  let d := h.grp (rvRd w)
  let v1 := if form = 0 then [h.grp (rvRs1 w)] else []
  let b (i : Nat) : Nat := h.src1 w form h.sew i
  if rvMasked w then
    if rvRd w = 0 then rvIllegal h m
    else rvEach h m (w + 2 ^ 25) len d (h.grp (rvRs2 w) :: v1) false (fun i =>
      ⟨if h.vBit 0 i then b i else h.at (h.grp (rvRs2 w)) i, 0, false⟩)
  else if rvRs2 w ≠ 0 then rvIllegal h m
  else rvEach h m w len d v1 false (fun i => ⟨b i, 0, false⟩)

/-- VMV<n>R: whole registers, as elements of SEW from vstart on. -/
def rvMoveRegs (h : Hart) (m : RvMem) (w len : Nat) : RvOut :=
  let n := rvRs1 w + 1
  if h.vill ∨ rvMasked w ∨ (n ≠ 1 ∧ n ≠ 2 ∧ n ≠ 4 ∧ n ≠ 8) ∨ rvRd w % n ≠ 0 ∨ rvRs2 w % n ≠ 0 then rvIllegal h m
  else rvVDone len (((List.range (1024 * n / h.sew)).filter (fun i => decide (h.vstart ≤ i))).foldl
    (fun t i => t.putEl (rvRd w) h.sew i (h.el (rvRs2 w) h.sew i)) h) m

/-- OPIVV, OPIVX and OPIVI (`form` is funct3: 0, 4, 3). -/
def rvOpi (h : Hart) (m : RvMem) (w len form : Nat) : RvOut :=
  let f6 := rvBits w 26 6
  let d := h.grp (rvRd w)
  let s := h.grp (rvRs2 w)
  let v1 := if form = 0 then [h.grp (rvRs1 w)] else []
  let x := (if form = 4 then (h.gx (rvRs1 w)).toNat else rvRs1 w)
  let xrm := h.vxrm.toNat
  -- shifts and slides take the 5-bit immediate unsigned
  let sh (ew i : Nat) : Nat := if form = 3 then rvRs1 w else h.src1 w form ew i
  let gather (ix : RvGroup) : RvOut := rvEach h m w len d [s, ix] true (fun i =>
    let k := h.at ix i
    ⟨if k < rvVlmax h.vtype then h.at s k else 0, 0, false⟩)
  match f6 with
  | 0x0C =>
    if form = 0 then gather (h.grp (rvRs1 w))
    else rvEach h m w len d [s] true (fun _ => ⟨if x < rvVlmax h.vtype then h.at s x else 0, 0, false⟩)
  | 0x0E => if form = 0 then gather (h.grpOf (rvRs1 w) 16) else rvSlide h m w len true x
  | 0x0F => if form = 0 then rvIllegal h m else rvSlide h m w len false x
  | 0x10 => rvCarry h m w len form false
  | 0x11 => rvCarryOut h m w len form false
  | 0x12 => if form = 3 then rvIllegal h m else rvCarry h m w len form true
  | 0x13 => if form = 3 then rvIllegal h m else rvCarryOut h m w len form true
  | 0x17 => rvMerge h m w len form
  | 0x27 =>
    if form = 3 then rvMoveRegs h m w len
    else rvEach h m w len d (s :: v1) false (fun i => (rvOpI 0x27 h.sew xrm (h.at s i) (h.src1 w form h.sew i)).getD ⟨0, 0, false⟩)
  | 0x30 => if form = 0 then rvReduce h m w len s (2 * h.sew) (fun a b => ⟨(a + b) % 2 ^ (2 * h.sew), 0, false⟩) else rvIllegal h m
  | 0x31 =>
    if form = 0 then rvReduce h m w len s (2 * h.sew) (fun a b => rvWrap (2 * h.sew) ((a : Int) + rvSigned h.sew b)) else rvIllegal h m
  | _ =>
    if 0x2C ≤ f6 ∧ f6 ≤ 0x2F then
      let s2 := h.wide (rvRs2 w) 1
      rvEach h m w len d (s2 :: v1) false (fun i => rvNarrow f6 h.sew xrm (h.at s2 i) (sh h.sew i))
    else if 0x18 ≤ f6 ∧ f6 ≤ 0x1F then
      if rvCmpIForm f6 form then
        rvCompare h m w len (rvRd w) (s :: v1) (fun i =>
          ((rvCmpI f6 h.sew (h.at s i) (h.src1 w form h.sew i)).getD false, 0))
      else rvIllegal h m
    else match rvOpI f6 8 0 0 0 with
      | none => rvIllegal h m
      | some _ =>
        if rvOpIForm f6 form then
          rvEach h m w len d (s :: v1) false (fun i =>
            let b := if f6 = 0x25 ∨ (0x28 ≤ f6 ∧ f6 ≤ 0x2B) then sh h.sew i else h.src1 w form h.sew i
            (rvOpI f6 h.sew xrm (h.at s i) b).getD ⟨0, 0, false⟩)
        else rvIllegal h m

/-- VMUNARY0 and the other mask operations with one source. -/
def rvMaskUnary (h : Hart) (m : RvMem) (w len : Nat) : RvOut :=
  let s := rvRs2 w
  let vd := rvRd w
  let first := (h.body w).find? (h.vBit s)
  -- an inactive element neither sets nor stops
  let before (f : Nat → Nat → Bool) (none_ : Bool) (i : Nat) : Bool × Nat :=
    (match first with | some k => f i k | none => none_, 0)
  let set (f : Nat → Nat → Bool) (none_ : Bool) : RvOut :=
    if h.vill ∨ h.vstart ≠ 0 ∨ vd = s ∨ (rvMasked w ∧ vd = 0) then rvIllegal h m
    else rvCompare h m w len vd [] (before f none_)
  let d := h.grp vd
  match rvRs1 w with
  | 0x01 => set (fun i k => decide (i < k)) true
  | 0x02 => set (fun i k => decide (i = k)) false
  | 0x03 => set (fun i k => decide (i ≤ k)) true
  | 0x10 =>
    if h.vstart ≠ 0 then rvIllegal h m
    else rvEach h m w len d [⟨s, 8, 0⟩] true (fun i =>
      ⟨((h.body w).filter (fun j => decide (j < i) && h.vBit s j)).length % 2 ^ h.sew, 0, false⟩)
  | 0x11 => if s = 0 then rvEach h m w len d [] false (fun i => ⟨i % 2 ^ h.sew, 0, false⟩) else rvIllegal h m
  | _ => rvIllegal h m

/-- The mask-register logical operations. -/
def rvMaskLogic (f6 : Nat) (a b : Bool) : Bool :=
  match f6 with
  | 0x18 => a && !b
  | 0x19 => a && b
  | 0x1A => a || b
  | 0x1B => a != b
  | 0x1C => a || !b
  | 0x1D => !(a && b)
  | 0x1E => !(a || b)
  | _ => a == b

/-- Zero- and sign-extension of elements of SEW / 2, / 4, / 8. -/
def rvExtend (h : Hart) (m : RvMem) (w len : Nat) : RvOut :=
  let k := rvRs1 w
  let j : Nat := match k / 2 with | 1 => 3 | 2 => 2 | _ => 1
  let s : RvGroup := ⟨rvRs2 w, h.sew / 2 ^ j, h.lmul - Int.ofNat j⟩
  if k < 2 ∨ 7 < k then rvIllegal h m
  else rvEach h m w len (h.grp (rvRd w)) [s] false (fun i =>
    ⟨if k % 2 = 0 then h.at s i else rvCode h.sew (rvSigned s.w (h.at s i)), 0, false⟩)

/-- The reductions of OPM. -/
def rvRedM (f6 w a b : Nat) : RvElem :=
  let x := rvSigned w a
  let y := rvSigned w b
  match f6 with
  | 0 => rvWrap w (x + y)
  | 1 => ⟨Nat.land a b, 0, false⟩
  | 2 => ⟨Nat.lor a b, 0, false⟩
  | 3 => ⟨Nat.xor a b, 0, false⟩
  | 4 => ⟨min a b, 0, false⟩
  | 5 => rvWrap w (min x y)
  | 6 => ⟨max a b, 0, false⟩
  | _ => rvWrap w (max x y)

/-- VCOMPRESS: the elements that vs1 selects, packed; what follows them is tail. -/
def rvCompress (h : Hart) (m : RvMem) (w len : Nat) : RvOut :=
  let d := h.grp (rvRd w)
  let s := h.grp (rvRs2 w)
  if h.vill || rvMasked w || decide (h.vstart ≠ 0) || !d.ok || !s.ok || d.meets s || d.meets ⟨rvRs1 w, 8, 0⟩ then rvIllegal h m
  else
    let ks := (List.range h.vl).filter (h.vBit (rvRs1 w))
    if h.vl = 0 then rvVDone len h m
    else
      let g := { h with vl := ks.length }
      rvVDone len { (if ks = [] then { h with vl := 1 }.putGroup w d (fun i =>
          if bitAt h.vtype 6 then h.agnostic i (2 ^ d.w - 1) (h.at d i) else h.at d i)
        else g.putGroup w d (fun i => h.at s (ks.getD i 0))) with vl := h.vl } m

/-- VMV.X.S, VCPOP, VFIRST. -/
def rvToX (h : Hart) (m : RvMem) (w len : Nat) : RvOut :=
  let put (v : Int) : RvOut := rvVDone len (h.px (rvRd w) (BitVec.ofInt 64 v)) m
  let hits := (h.body w).filter (h.vBit (rvRs2 w))
  if h.vill then rvIllegal h m
  else match rvRs1 w with
  | 0x00 => if rvMasked w then rvIllegal h m else put (rvSigned h.sew (h.el (rvRs2 w) h.sew 0))
  | 0x10 => if h.vstart ≠ 0 then rvIllegal h m else put hits.length
  | 0x11 => if h.vstart ≠ 0 then rvIllegal h m else put (match hits with | [] => -1 | k :: _ => k)
  | _ => rvIllegal h m

/-- VMV.S.X and VFMV.S.F: element 0, unless vstart has passed it or vl is 0. -/
def rvToFirst (h : Hart) (m : RvMem) (w len v : Nat) : RvOut :=
  if h.vill ∨ rvMasked w ∨ rvRs2 w ≠ 0 then rvIllegal h m
  else rvVDone len (if h.vl ≤ h.vstart then h else h.putFirst (rvRd w) h.sew v) m

/-- VSLIDE1UP and VSLIDE1DOWN with the scalar v. -/
def rvSlide1 (h : Hart) (m : RvMem) (w len v : Nat) (up : Bool) : RvOut :=
  let d := h.grp (rvRd w)
  let s := h.grp (rvRs2 w)
  if up then rvEach h m w len d [s] true (fun i => ⟨if i = 0 then v else h.at s (i - 1), 0, false⟩)
  else rvEach h m w len d [s] false (fun i => ⟨if i + 1 = h.vl then v else h.at s (i + 1), 0, false⟩)

/-- OPMVV and OPMVX (`form` 0 or 4). -/
def rvOpm (h : Hart) (m : RvMem) (w len form : Nat) : RvOut :=
  let f6 := rvBits w 26 6
  let vec := decide (form = 0)
  let d := h.grp (rvRd w)
  let s := h.grp (rvRs2 w)
  let v1 := if vec then [h.grp (rvRs1 w)] else []
  let b (i : Nat) : Nat := h.src1 w form h.sew i
  if f6 < 8 then (if vec then rvReduce h m w len s h.sew (rvRedM f6 h.sew) else rvIllegal h m)
  else if f6 = 0x0E ∨ f6 = 0x0F then
    (if vec then rvIllegal h m else rvSlide1 h m w len ((h.gx (rvRs1 w)).toNat % 2 ^ h.sew) (decide (f6 = 0x0E)))
  else if f6 = 0x10 then
    (if vec then rvToX h m w len
      else if rvRs2 w = 0 then rvToFirst h m w len ((h.gx (rvRs1 w)).toNat % 2 ^ h.sew) else rvIllegal h m)
  else if f6 = 0x12 then (if vec then rvExtend h m w len else rvIllegal h m)
  else if f6 = 0x14 then (if vec then rvMaskUnary h m w len else rvIllegal h m)
  else if f6 = 0x17 then (if vec then rvCompress h m w len else rvIllegal h m)
  else if 0x18 ≤ f6 ∧ f6 ≤ 0x1F then
    (if !vec ∨ rvMasked w ∨ h.vill then rvIllegal h m
      else rvVDone len (h.putMask w (rvRd w) (fun i => rvMaskLogic f6 (h.vBit (rvRs2 w) i) (h.vBit (rvRs1 w) i))) m)
  else if 0x30 ≤ f6 then
    let dd := h.wide (rvRd w) 1
    let ss := if 0x34 ≤ f6 ∧ f6 ≤ 0x37 then h.wide (rvRs2 w) 1 else s
    match rvWidenM f6 8 0 0 0 with
    | none => rvIllegal h m
    | some _ =>
      if f6 = 0x3E ∧ vec then rvIllegal h m
      else rvEach h m w len dd (ss :: v1) false (fun i =>
        (rvWidenM f6 h.sew (h.at ss i) (b i) (h.at dd i)).getD ⟨0, 0, false⟩)
  else match rvOpM f6 8 0 0 0 0 with
    | none => rvIllegal h m
    | some _ => rvEach h m w len d (s :: v1) false (fun i =>
        (rvOpM f6 h.sew h.vxrm.toNat (h.at s i) (b i) (h.at d i)).getD ⟨0, 0, false⟩)

/-- VFUNARY0: the conversions, each between groups of as many elements as SEW has. -/
def rvVConv (h : Hart) (m : RvMem) (w len rm : Nat) : RvOut :=
  match rvConvOf (rvRs1 w) h.sew rm with
  | none => rvIllegal h m
  | some c =>
    let s := h.grpOf (rvRs2 w) c.sw
    rvEach h m w len (h.grpOf (rvRd w) c.dw) [s] false (fun i => c.op (h.at s i))

/-- The floating-point instructions of binary32 or binary64 elements. -/
def rvOpfAt (h : Hart) (m : RvMem) (w len rm : Nat) (vec : Bool) (t : RvFmt) : RvOut :=
  let f6 := rvBits w 26 6
  let d := h.grp (rvRd w)
  let s := h.grp (rvRs2 w)
  let v1 := if vec then [h.grp (rvRs1 w)] else []
  let sc := h.gf t (rvRs1 w)
  let b (i : Nat) : Nat := if vec then h.el (rvRs1 w) t.width i else sc
  let wideOk := decide (t.mw = 23)
  match f6 with
  | 0x01 => if vec then rvReduce h m w len s h.sew (fun a x => rvF (t.add rm a x)) else rvIllegal h m
  | 0x03 => if vec then rvReduce h m w len s h.sew (fun a x => rvF (t.add rm a x)) else rvIllegal h m
  | 0x05 => if vec then rvReduce h m w len s h.sew (fun a x => rvF (t.minMax false a x)) else rvIllegal h m
  | 0x07 => if vec then rvReduce h m w len s h.sew (fun a x => rvF (t.minMax true a x)) else rvIllegal h m
  | 0x0E => if vec then rvIllegal h m else rvSlide1 h m w len sc true
  | 0x0F => if vec then rvIllegal h m else rvSlide1 h m w len sc false
  | 0x10 =>
    if !vec then rvToFirst h m w len sc
    else if h.vill ∨ rvMasked w ∨ rvRs1 w ≠ 0 then rvIllegal h m
    else rvVDone len (h.pf t (rvRd w) (h.el (rvRs2 w) t.width 0, 0)) m
  | 0x13 =>
    if !vec then rvIllegal h m
    else
      let un (f : Nat → Nat × Nat) : RvOut := rvEach h m w len d [s] false (fun i => rvF (f (h.at s i)))
      match rvRs1 w with
      | 0x00 => un (t.sqrt rm)
      | 0x04 => un t.rsqrt7
      | 0x05 => un (t.rec7 rm)
      | 0x10 => un (fun a => (t.classify a, 0))
      | _ => rvIllegal h m
  | 0x17 =>
    if vec then rvIllegal h m
    else if rvMasked w then
      if rvRd w = 0 then rvIllegal h m
      else rvEach h m (w + 2 ^ 25) len d [s] false (fun i => ⟨if h.vBit 0 i then sc else h.at s i, 0, false⟩)
    else if rvRs2 w = 0 then rvEach h m w len d [] false (fun _ => ⟨sc, 0, false⟩)
    else rvIllegal h m
  | 0x31 =>
    if vec ∧ wideOk then rvReduce h m w len s 64 (fun a x =>
      let r := rvDouble.add rm a (rvSingle.convert rvDouble 0 x).1
      ⟨r.1, Nat.lor (rvSingle.nv [x]) r.2, false⟩) else rvIllegal h m
  | 0x33 =>
    if vec ∧ wideOk then rvReduce h m w len s 64 (fun a x =>
      let r := rvDouble.add rm a (rvSingle.convert rvDouble 0 x).1
      ⟨r.1, Nat.lor (rvSingle.nv [x]) r.2, false⟩) else rvIllegal h m
  | _ =>
    if 0x18 ≤ f6 ∧ f6 ≤ 0x1F then
      if (vec && (decide (f6 = 0x1D) || decide (f6 = 0x1F))) || (rvCmpF f6 t 0 0).isNone then rvIllegal h m
      else rvCompare h m w len (rvRd w) (s :: v1) (fun i => (rvCmpF f6 t (h.at s i) (b i)).getD (false, 0))
    else if 0x30 ≤ f6 then
      let dd := h.wide (rvRd w) 1
      let ss := if f6 = 0x34 ∨ f6 = 0x36 then h.wide (rvRs2 w) 1 else s
      if !wideOk || (rvWidenF f6 0 0 0 0).isNone then rvIllegal h m
      else rvEach h m w len dd (ss :: v1) false (fun i =>
        (rvWidenF f6 rm (h.at ss i) (b i) (h.at dd i)).getD ⟨0, 0, false⟩)
    else if (rvOpF f6 t 0 0 0 0).isNone || (vec && (decide (f6 = 0x21) || decide (f6 = 0x27))) then rvIllegal h m
    else rvEach h m w len d (s :: v1) false (fun i => (rvOpF f6 t rm (h.at s i) (b i) (h.at d i)).getD ⟨0, 0, false⟩)

/-- OPFVV and OPFVF: a reserved frm makes every one of them illegal. -/
def rvOpf (h : Hart) (m : RvMem) (w len : Nat) (vec : Bool) : RvOut :=
  match h.rm 7 with
  | none => rvIllegal h m
  | some rm =>
    if rvBits w 26 6 = 0x12 then (if vec then rvVConv h m w len rm else rvIllegal h m)
    else match rvFpOf h.sew with
      | some t => rvOpfAt h m w len rm vec t
      | none => rvIllegal h m

/-- A vector instruction: the OP-V opcode, and the vector widths of LOAD-FP and STORE-FP. -/
def rvVector (h : Hart) (m : RvMem) (w len : Nat) : RvOut :=
  if w % 128 ≠ 0x57 then rvVMem h m w len
  else match rvF3 w with
    | 0 => rvOpi h m w len 0
    | 1 => rvOpf h m w len true
    | 2 => rvOpm h m w len 0
    | 3 => rvOpi h m w len 3
    | 4 => rvOpi h m w len 4
    | 5 => rvOpf h m w len false
    | 6 => rvOpm h m w len 4
    | _ => rvSetVl h m w len

end Sys2Proof.Machine
end

