-- ==== Sys2Proof/Machine/RvRun.lean ====
section
/-! DEFINITION. One call of party code on a hart of an update die (R168-R175): entry state, argument block, fetch, and the run
until the code returns, traps, or is still running when the die's watchdog finds it. -/

namespace Sys2Proof.Machine

/-! ### Fetch and step -/

/-- One instruction at pc: fetched from the text alone, 16 bits at a time, in user mode. -/
def rvStep (h : Hart) (m : RvMem) : RvOut :=
  let a := h.pc.toNat
  if !m.mayFetch a then .trap 1 h m
  else
    let lo := m.read a 2
    if lo % 4 ≠ 3 then
      match rvExpand lo with
      | some w => rvScalar h m w 2
      | none => rvIllegal h m
    else if !m.mayFetch (a + 2) then .trap 1 h m
    else
      let w := lo + 2 ^ 16 * m.read (a + 2) 2
      if w % 32 = 31 then rvIllegal h m
      else if w % 128 = 0x57 then rvVector h m w 4
      else if w % 128 = 0x07 ∨ w % 128 = 0x27 then
        match rvF3 w with
        | 2 => rvScalar h m w 4
        | 3 => rvScalar h m w 4
        | 1 => rvIllegal h m
        | 4 => rvIllegal h m
        | _ => rvVector h m w 4
      else rvScalar h m w 4

/-- How a call ended: it returned, it trapped with a cause, or it is still running. -/
inductive RvEnd where
  | returned (h : Hart) (m : RvMem)
  | trapped (cause : Byte) (h : Hart) (m : RvMem)
  | running (h : Hart) (m : RvMem)

/-- A trap takes the hart to machine mode, with its cause and pc saved (R168, R175). -/
def Hart.trap (h : Hart) (cause : Nat) : Hart :=
  { h with machine := true, mcause := BitVec.ofNat 8 cause, mepc := h.pc }

/-- Run until pc is the return address, a trap, or `fuel` instructions have retired. -/
def rvRun (ra : BitVec 64) : Nat → Hart → RvMem → RvEnd
  | 0, h, m => .running h m
  | fuel + 1, h, m =>
    if h.pc = ra then .returned h m
    else match rvStep h m with
      | .ok g x => rvRun ra fuel { g with instret := g.instret + 1 } x
      | .trap c g x => .trapped (BitVec.ofNat 8 c) (g.trap c) x

/-! ### The call (Tables 8.5 and 8.6) -/

/-- Where the arrays of a call stand. -/
structure RvPlaces where
  args : Nat
  w : Nat
  g : Nat
  m : Nat
  wOut : Nat
  mOut : Nat

/-- 448 slots of 64 KiB hold the 28 MiB of stream buffers; a call's block and arrays stand in six of them, from a free one on
(log 12). -/
def rvPlaces (b : Nat) : RvPlaces :=
  let at_ (i : Nat) : Nat := 0x200000 + 0x10000 * ((b + i) % 448)
  ⟨at_ 0, at_ 1, at_ 2, at_ 3, at_ 4, at_ 5⟩

/-- What the rule gets of a chunk: its elements, its first index, and the bytes of its FP32 arrays. -/
structure RvInput where
  n : Nat
  first : Nat
  w : List Byte
  g : List Byte
  /-- State as read; none when H_D is 0x0000. -/
  m : Option (List Byte)
  /-- LR, LAMBDA, BETA1, BETA2, 4 bytes each, then STEP, 8 bytes. -/
  scalars : List Byte
  step : List Byte

/-- The argument block (Table 8.6). -/
def rvArgs (a : RvPlaces) (x : RvInput) : List Byte :=
  let state (v : Nat) : List Byte := leBytes 8 (if x.m.isSome then v else 0)
  leBytes 8 a.w ++ leBytes 8 a.g ++ state a.m ++ leBytes 8 a.wOut ++ state a.mOut ++ leBytes 4 x.n ++ zeros 4 ++ x.scalars
    ++ x.step ++ leBytes 8 x.first ++ zeros 16

/-- Bytes that follow one another from an address. -/
def rvFill (b : Sparse (Option Byte)) (a : Nat) (bs : List Byte) : Sparse (Option Byte) := Sparse.setMany none b a (bs.map some)

/-- The memory of a call: the inputs in their buffers, nothing in the outputs. -/
def rvMemOf (image : List Byte) (hart : Nat) (stack : Sparse Byte) (a : RvPlaces) (x : RvInput) : RvMem :=
  let b := rvFill (rvFill (rvFill (rvFill [] a.args (rvArgs a x)) a.w x.w) a.g x.g) a.m (x.m.getD [])
  { image, text := fieldLe image 8 4, hart, stack, bufs := b,
    reads := [(a.args, 96), (a.w, 4 * x.n), (a.g, 4 * x.n)] ++ (if x.m.isSome then [(a.m, 4 * x.n)] else []),
    writes := (a.wOut, 4 * x.n) :: (if x.m.isSome then [(a.mOut, 4 * x.n)] else []) }

/-- A hart at entry (Table 8.5): user mode, every register not named there 0. -/
def rvEntry (image : List Byte) (hart args : Nat) (ra : BitVec 64) : Hart :=
  let h := { Hart.zero with pc := BitVec.ofNat 64 (fieldLe image 4 4), machine := false }
  (((h.px 1 ra).px 2 (BitVec.ofNat 64 (rvStackBase + rvStackSize * (hart + 1)))).px 10 (BitVec.ofNat 64 args)).px 11
    (BitVec.ofNat 64 hart)

/-- A word of an output buffer; the bytes that the call did not write are free (`free`, R174). -/
def rvOutWord (m : RvMem) (free : Nat → Byte) (a i : Nat) : BitVec 32 :=
  BitVec.ofNat 32 (leVal ((List.range 4).map (fun j => (Sparse.get none m.bufs (a + 4 * i + j)).getD (free (4 * i + j)))))

/-- What a call leaves: how it ended, the new weights and the new state by element. -/
structure RvResult where
  trap : Option Byte
  running : Bool
  w : Nat → BitVec 32
  m : Nat → BitVec 32
  stack : Sparse Byte
  hart : Hart

/-- Call the entry point once (R173). -/
def rvCall (fuel hart buf : Nat) (ra : BitVec 64) (image : List Byte) (stack : Sparse Byte) (free : Nat → Byte) (x : RvInput) :
    RvResult :=
  let a := rvPlaces buf
  let out (t : Option Byte) (run : Bool) (h : Hart) (m : RvMem) : RvResult :=
    ⟨t, run, rvOutWord m free a.wOut, rvOutWord m (fun i => free (2 ^ 20 + i)) a.mOut, m.stack, h⟩
  match rvRun ra fuel (rvEntry image hart a.args ra) (rvMemOf image hart stack a x) with
  | .returned h m => out none false h m
  | .trapped c h m => out (some c) false h m
  | .running h m => out none true h m

/-- The return address: an even one of the firmware's region, which party code cannot execute. -/
def rvReturn (k : Nat) : BitVec 64 := BitVec.ofNat 64 (0x1E00000 + 2 * (k % 0x100000))

end Sys2Proof.Machine
end

