-- ==== Sys2Proof/Machine/Sm2.lean ====
section
/-! DEFINITION. SM2 (GB/T 32918, named in 00_scope Table 0.2): signature, public-key encryption and key exchange
over its 256-bit curve. PRESUMED from the named standard: log 10. Coordinates and signature halves are 32-byte
big-endian strings, as the standard writes them. -/

namespace Sys2Proof.Machine

/-- The field prime. -/
def sm2P : Nat := 0xFFFFFFFEFFFFFFFFFFFFFFFFFFFFFFFFFFFFFFFF00000000FFFFFFFFFFFFFFFF
/-- The curve coefficient a. -/
def sm2A : Nat := 0xFFFFFFFEFFFFFFFFFFFFFFFFFFFFFFFFFFFFFFFF00000000FFFFFFFFFFFFFFFC
/-- The curve coefficient b. -/
def sm2B : Nat := 0x28E9FA9E9D9F5E344D5A9E4BCF6509A7F39789F515AB8F92DDBCBD414D940E93
/-- The order n of the base point (R323). -/
def sm2N : Nat := 0xFFFFFFFEFFFFFFFFFFFFFFFFFFFFFFFF7203DF6B21C6052B53BBF40939D54123
/-- The base point. -/
def sm2Gx : Nat := 0x32C4AE2C1F1981195F9904466A39C9948FE30BBFF2660BE1715A4589334C74C7
/-- The base point. -/
def sm2Gy : Nat := 0xBC3736A2F4F6779C59BDCEE36B692153D0A9877CC62A474002DF32E52139F0A0

/-- A point of the curve; `none` is the point at infinity. -/
abbrev Sm2Point := Option (Nat × Nat)

/-- `b^e mod m`, over the low `n` bits of `e`. -/
def powMod (m : Nat) : Nat → Nat → Nat → Nat → Nat
  | 0, _, _, acc => acc
  | n + 1, b, e, acc => powMod m n (b * b % m) (e / 2) (if e % 2 = 1 then acc * b % m else acc)

/-- The inverse modulo a prime. -/
def invMod (m a : Nat) : Nat := powMod m 256 (a % m) (m - 2) 1

/-- Point addition. -/
def sm2Add : Sm2Point → Sm2Point → Sm2Point
  | none, q => q
  | q, none => q
  | some (x1, y1), some (x2, y2) =>
    if x1 = x2 ∧ (y1 + y2) % sm2P = 0 then none
    else
      let l := if x1 = x2 then (3 * x1 * x1 + sm2A) * invMod sm2P (2 * y1) % sm2P
        else (y2 + sm2P - y1) * invMod sm2P (x2 + sm2P - x1) % sm2P
      let x3 := (l * l + 2 * sm2P - x1 - x2) % sm2P
      some (x3, (l * (x1 + sm2P - x3) + sm2P - y1) % sm2P)

/-- A point in Jacobian coordinates: (x / z², y / z³); z = 0 is the point at infinity. -/
structure Sm2Jac where
  x : Nat
  y : Nat
  z : Nat
deriving DecidableEq, Repr

/-- The double of a point. -/
def sm2JacDouble (q : Sm2Jac) : Sm2Jac :=
  let yy := q.y * q.y % sm2P
  let zz := q.z * q.z % sm2P
  let s := 4 * q.x * yy % sm2P
  let m := (3 * q.x * q.x + sm2A * (zz * zz % sm2P)) % sm2P
  let x := (m * m + 2 * (sm2P - s)) % sm2P
  ⟨x, (m * (s + sm2P - x) + 8 * (sm2P - yy * yy % sm2P)) % sm2P, 2 * q.y * q.z % sm2P⟩

/-- The sum of two points. -/
def sm2JacAdd (p q : Sm2Jac) : Sm2Jac :=
  if p.z = 0 then q
  else if q.z = 0 then p
  else
    let u := p.x * (q.z * q.z % sm2P) % sm2P
    let u2 := q.x * (p.z * p.z % sm2P) % sm2P
    let v := p.y * (q.z * q.z % sm2P * q.z % sm2P) % sm2P
    let v2 := q.y * (p.z * p.z % sm2P * p.z % sm2P) % sm2P
    if u = u2 then (if v = v2 then sm2JacDouble p else ⟨1, 1, 0⟩)
    else
      let h := (u2 + sm2P - u) % sm2P
      let r := (v2 + sm2P - v) % sm2P
      let hh := h * h % sm2P
      let w := h * hh % sm2P
      let t := u * hh % sm2P
      let x := (r * r + (sm2P - w) + 2 * (sm2P - t)) % sm2P
      ⟨x, (r * (t + sm2P - x) + (sm2P - v) * w) % sm2P, h * (p.z * q.z % sm2P) % sm2P⟩

/-- Scalar multiplication over the low `n` bits of the scalar. -/
def sm2MulBits : Nat → Nat → Sm2Jac → Sm2Jac → Sm2Jac
  | 0, _, _, acc => acc
  | n + 1, k, q, acc => sm2MulBits n (k / 2) (sm2JacDouble q) (if k % 2 = 1 then sm2JacAdd acc q else acc)

/-- The affine form of a point. -/
def Sm2Jac.affine (q : Sm2Jac) : Sm2Point :=
  if q.z = 0 then none
  else
    let i := invMod sm2P q.z
    some (q.x * (i * i % sm2P) % sm2P, q.y * (i * i % sm2P * i % sm2P) % sm2P)

/-- `k` times a point. -/
def sm2Mul (k : Nat) : Sm2Point → Sm2Point
  | none => none
  | some (x, y) => (sm2MulBits 256 k ⟨x, y, 1⟩ ⟨1, 1, 0⟩).affine

/-- `k` times the base point. -/
def sm2MulG (k : Nat) : Sm2Point := sm2Mul k (some (sm2Gx, sm2Gy))

/-- A point as x then y, 32 bytes each; infinity gives zeros. -/
def sm2Bytes : Sm2Point → List Byte
  | none => zeros 64
  | some (x, y) => beBytes 32 x ++ beBytes 32 y

/-- Read a point from 64 bytes; a pair off the curve gives none. -/
def sm2Parse (bs : List Byte) : Sm2Point :=
  let x := beVal (sliceBytes bs 0 32)
  let y := beVal (sliceBytes bs 32 32)
  if x < sm2P ∧ y < sm2P ∧ y * y % sm2P = (x * x * x + sm2A * x + sm2B) % sm2P then some (x, y) else none

/-- The default user identity of GB/T 32918.2 (R314, R331): the digits 1234567812345678. -/
def sm2UserId : List Byte := (beBytes 8 0x3132333435363738) ++ (beBytes 8 0x3132333435363738)

/-- The identity value Z of a public key. -/
def sm2Z (pub : Sm2Point) : List Byte :=
  sm3 ([0x00#8, 0x80#8] ++ sm2UserId ++ beBytes 32 sm2A ++ beBytes 32 sm2B ++ beBytes 32 sm2Gx ++ beBytes 32 sm2Gy ++ sm2Bytes pub)

/-- The signed digest e of a message under a public key. -/
def sm2E (pub : Sm2Point) (msg : List Byte) : Nat := beVal (sm3 (sm2Z pub ++ msg))

/-- Signature verification (GB/T 32918.2): r then s, 32 bytes each. -/
def sm2Verify (pubBytes msg sig : List Byte) : Bool :=
  let pub := sm2Parse pubBytes
  let r := beVal (sliceBytes sig 0 32)
  let s := beVal (sliceBytes sig 32 32)
  let t := (r + s) % sm2N
  match pub, sm2Add (sm2MulG s) (sm2Mul t pub) with
  | some _, some (x1, _) =>
    decide (0 < r ∧ r < sm2N ∧ 0 < s ∧ s < sm2N ∧ t ≠ 0 ∧ (sm2E pub msg + x1) % sm2N = r)
  | _, _ => false

/-- Signature under private key `d` with the random value `k` (GB/T 32918.2). -/
def sm2Sign (d k : Nat) (msg : List Byte) : List Byte :=
  let x1 := match sm2MulG k with | none => 0 | some (x, _) => x
  let r := (sm2E (sm2MulG d) msg + x1) % sm2N
  let s := invMod sm2N (1 + d) * (k + (sm2N - r * d % sm2N)) % sm2N
  beBytes 32 r ++ beBytes 32 s

/-- The key derivation of SM2: `n` blocks of SM3(Z ‖ counter). -/
def sm2KdfBlocks (z : List Byte) (n : Nat) : List Byte :=
  (List.range n).flatMap (fun i => sm3 (z ++ beBytes 4 (i + 1)))

/-- The first `klen` bytes of the SM2 key derivation. -/
def sm2Kdf (z : List Byte) (klen : Nat) : List Byte := (sm2KdfBlocks z (ceilDiv klen 32)).take klen

/-- Public-key decryption (GB/T 32918.4) of C1 ‖ C3 ‖ C2 with a C2 of `n` bytes; none when it does not verify. -/
def sm2Decrypt (d : Nat) (ct : List Byte) (n : Nat) : Option (List Byte) :=
  match sm2Parse (sliceBytes ct 0 64) with
  | none => none
  | c1 =>
    match sm2Mul d c1 with
    | none => none
    | some (x2, y2) =>
      let m := xorBytes (sliceBytes ct 96 n) (sm2Kdf (beBytes 32 x2 ++ beBytes 32 y2) n)
      if sm3 (beBytes 32 x2 ++ m ++ beBytes 32 y2) = sliceBytes ct 64 32 then some m else none

/-- The reduced x coordinate of the key exchange. -/
def sm2XBar (x : Nat) : Nat := 2 ^ 127 + x % 2 ^ 127

/-- Key exchange (GB/T 32918.3): 40 bytes shared by the two sides. `d`, `r` are the own static and ephemeral private
keys, `peer`, `peerR` the peer's public ones; Z values are taken initiator first. -/
def sm2Exchange (isInitiator : Bool) (d r : Nat) (peer peerR : Sm2Point) : List Byte :=
  let own := sm2MulG d
  let x1 := match sm2MulG r with | none => 0 | some (x, _) => x
  let t := (d + sm2XBar x1 * r) % sm2N
  let x2 := match peerR with | none => 0 | some (x, _) => x
  let u := sm2Mul t (sm2Add peer (sm2Mul (sm2XBar x2) peerR))
  let zs := if isInitiator then sm2Z own ++ sm2Z peer else sm2Z peer ++ sm2Z own
  sm2Kdf (sm2Bytes u ++ zs) 40

end Sys2Proof.Machine
end

