-- ==== Sys2Proof/Machine/Update.lean ====
section
/-! DEFINITION. UPDATE on the update dies (R118, R148-R154, R161-R186): chunks, party code, the update sequencer, matrix
preconditioning, frozen rows, reruns, and what an UPDATE that ends leaves in its version record and its replica digest. -/

namespace Sys2Proof.Machine

/-! ### Inputs of a chunk (R162, R163) -/

/-- Elements of one chunk. -/
def chunkSize : Nat := 4096

/-- Chunks of a tensor. -/
def eChunks (e : Entry) : Nat := ceilDiv (eCount e) chunkSize

/-- Elements of chunk j. -/
def chunkLen (e : Entry) (j : Nat) : Nat := min chunkSize (eCount e - chunkSize * j)

/-- Part of a tensor as read: data bytes, the first scale index and the scale bytes from it on, the elements in FP32. -/
structure Part where
  data : List (Option Byte)
  lo : Nat
  scales : List (Option Byte)
  lanes : List Lane
deriving Repr

/-- First scale index of elements q0 to q0 + n - 1, and how many bytes from it cover them. -/
def scaleSpan (e : Entry) (q0 n : Nat) : Nat × Nat :=
  if !eScaled e ∨ n = 0 then (0, 0)
  else
    let ks := (List.range n).map (fun i => eScaleIndex e (q0 + i))
    let lo := ks.foldl min (ks.headD 0)
    (lo, ks.foldl max 0 + 1 - lo)

/-- A WP72 element as the die presents it (R85-R87). -/
def slotLane (w : WTile) (i : Nat) : Lane :=
  let r := (outClass (w.anchor.getD 0) (w.slot i)).encode .fp32 0 true true
  let v := r.1.getD 0
  if hasFlag r.2 fPOISON then .poison else ⟨BitVec.ofNat 32 v, decodeFp 23 v, r.2, false⟩

/-- Read elements q0 to q0 + n - 1 of a tensor in the version that the operation reads. -/
def State.loadPart (s : State) (p : Nat) (o : OpRec) (h q0 n : Nat) : Part × State :=
  let e := o.ent h
  let f := eFmt e
  if f = .wp72 then
    let at_ (i : Nat) : Nat × Nat := eTileOf e ((q0 + i) % eDim e 0) ((q0 + i) / eDim e 0)
    let ts := ((List.range n).map (fun i => (at_ i).1)).eraseDups
    let r := ts.foldl (fun (t : Sparse WTile × State) k =>
      let x := t.2.loadTile p 0 o h k; (Sparse.set WTile.zero t.1 k x.1, x.2)) ([], s)
    (⟨[], 0, [], (List.range n).map (fun i => slotLane (Sparse.get WTile.zero r.1 (at_ i).1) (at_ i).2)⟩, r.2)
  else
    let a := s.loadRun p 0 o.inbuf (o.dataAt h (o.ver h)) (q0 * f.bits / 8) (ceilDiv (n * f.bits) 8)
    let sp := scaleSpan e q0 n
    let b := a.2.loadRun p 0 o.inbuf (o.scalesAt h (o.ver h)) sp.1 sp.2
    (⟨a.1, sp.1, b.1, (decodeFrom e q0 n sp.1 a.1 b.1).map (Elem.lane f)⟩, b.2)

/-- The state as read, or nothing when H_D is not named. -/
def State.loadState (s : State) (p : Nat) (o : OpRec) (q0 n : Nat) : Part × State :=
  if dD o.desc = 0 then (⟨[], 0, [], []⟩, s) else s.loadPart p o (dD o.desc) q0 n

/-! ### The update sequencer (R176, Tables 8.7 and 8.8) -/

/-- The registers of one element, its flags and what it has stored. -/
structure SeqLane where
  q : List F32
  fl : FlagWord
  w : F32
  m : F32
deriving Repr

/-- +1 or -1 by sign, +0 for 0, NaN for NaN (SIGN). -/
def fSign (a : F32) : FRes :=
  match fval a with
  | .nan => fBad
  | .inf neg => (if neg then 0xBF800000#32 else f1, 0#16)
  | .fin m _ => (if m = 0 then f0 else if m < 0 then 0xBF800000#32 else f1, 0#16)

/-- A + C × (B − A): the difference is rounded, then one fused multiply-add (LERP). -/
def fLerp (a b c : F32) : FRes :=
  let d := fSub b a
  let r := fFma c d.1 a
  (r.1, d.2 ||| r.2)

/-- A register is neither 0 nor NaN (SELECT). -/
def fTrue (c : F32) : Bool :=
  match fval c with | .nan => false | .inf _ => true | .fin m _ => decide (m ≠ 0)

/-- Scalars 8 to 13. -/
def seqScalar (d : Desc) (i : Nat) : F32 :=
  match i with
  | 8 => dFp d 36
  | 9 => dFp d 40
  | 10 => dFp d 44
  | 11 => dFp d 48
  | 12 => f1
  | _ => 0xBF800000#32

/-- One step on one element; `ld` gives the streams. -/
def SeqLane.step (l : SeqLane) (d : Desc) (compat : Bool) (ld : Nat → Lane) (w : BitVec 32) : SeqLane :=
  let r (b : BitVec 3) : F32 := l.q.getD b.toNat f0
  let a := r (bitsAt w 7 3)
  let b := r (bitsAt w 10 3)
  let c := r (bitsAt w 13 3)
  let imm := (bitsAt w 16 8).toNat
  let give (v : F32) (fl : FlagWord) : SeqLane := { l with q := listSet l.q (bitsAt w 4 3).toNat v, fl := l.fl ||| fl }
  let put (x : FRes) : SeqLane := give x.1 (stepFlags x.2)
  match (bitsAt w 0 4).toNat with
  | 0x0 => if imm < 3 then give (ld imm).v (ld imm).fl else give (seqScalar d imm) 0#16
  | 0x1 => if imm = 0 then { l with w := a } else { l with m := a }
  | 0x2 => put (fAdd a b)
  | 0x3 => put (fMul a b)
  | 0x4 => put (fFma a b c)
  | 0x5 => put (fSign a)
  | 0x6 => put (fAbs a)
  | 0x7 => put (fMax compat a b)
  | 0x8 => put (fMin compat a b)
  | 0x9 => put (fLerp a b c)
  | 0xA => put (fScale2 a (signedNat 8 imm))
  | 0xB => put (if fTrue c then a else b, 0#16)
  | _ => l

/-- The program on one element: registers start at +0. -/
def seqRun (d : Desc) (compat : Bool) (prog : List (BitVec 32)) (ld : Nat → Lane) : SeqLane :=
  prog.foldl (fun l w => l.step d compat ld w) ⟨List.replicate 8 f0, 0#16, f0, f0⟩

/-! ### What a rule gives for a chunk -/

/-- New weights and new state of a chunk; or the cause of a trap, or a call that has not returned. -/
structure RuleOut where
  w : List OutVal
  m : List OutVal
  trap : Option Byte
  running : Bool
deriving Repr

/-- The sequencer on a chunk (R165, R176). -/
def seqRule (o : OpRec) (prog : List (BitVec 32)) (w g m : List Lane) : RuleOut :=
  let rs := (List.range w.length).map (fun i =>
    let ld (k : Nat) : Lane := (match k with | 0 => w | 1 => g | _ => m).getD i .zero
    (seqRun o.desc o.compat prog ld, (ld 0).bad || (ld 1).bad || (ld 2).bad))
  ⟨rs.map (fun r => if r.2 then .poison else laneOut r.1.w r.1.fl),
    if m = [] then [] else rs.map (fun r => if r.2 then .poison else laneOut r.1.m r.1.fl), none, false⟩

/-- FP32 words in memory order. -/
def laneBytes (ls : List Lane) : List Byte := ls.flatMap (fun l => leBytes 4 l.v.toNat)

/-- What party code is given of a chunk (Table 8.6). -/
def codeInput (o : OpRec) (first : Nat) (w g m : List Lane) : RvInput :=
  { n := w.length, first, w := laneBytes w, g := laneBytes g, m := if m = [] then none else some (laneBytes m),
    scalars := (List.range 4).flatMap (fun i => leBytes 4 (dField o.desc (36 + 4 * i) 4)), step := leBytes 8 (dStep o.desc) }

/-- What a call gave for a chunk (R165, R173): fflags enter no flag. -/
def codeOut (r : RvResult) (w g m : List Lane) : RuleOut :=
  let bad (i : Nat) : Bool := (w.getD i .zero).bad || (g.getD i .zero).bad || (m.getD i .zero).bad
  let out (f : Nat → BitVec 32) : List OutVal :=
    (List.range w.length).map (fun i => if bad i then .poison else laneOut (f i) 0#16)
  ⟨out r.w, if m = [] then [] else out r.m, r.trap, r.running⟩

/-- Party code on chunk j, on one hart of die k (R173, R174): what it gives, and the die with what the call left. -/
def State.codeRule (s : State) (p : Nat) (o : OpRec) (k j : Nat) (image : List Byte) (w g m : List Lane) : RuleOut × State :=
  let hart := Config.hartOf o.seq j % 16
  let r := rvCall Config.callLimit hart (Config.bufferOf o.seq j) (rvReturn (Config.returnOf o.seq j)) image (s.upd k).stack
    (fun i => Config.undefinedByte s.draws (freeIndex p o.seq 3 (2 ^ 60 + 2 ^ 24 * j + i))) (codeInput o (chunkSize * j) w g m)
  (codeOut r w g m,
    s.updUpd k (fun u => { u with image := image, stack := r.stack, harts := Sparse.set Hart.zero u.harts hart r.hart }))

/-! ### Matrix preconditioning (R178-R180) -/

/-- A matrix of results with the flags that led to each. -/
abbrev Mat := List (List FRes)

/-- Element (i, j). -/
def Mat.at (a : Mat) (i j : Nat) : FRes := (a.getD i []).getD j (f0, 0#16)

/-- A matrix from its elements. -/
def matOf (r c : Nat) (f : Nat → Nat → FRes) : Mat := (List.range r).map (fun i => (List.range c).map (f i))

/-- A product: each element is a chain of FP32 fused multiply-adds in ascending index order (R179). -/
def Mat.mul (a b : Mat) (r n c : Nat) : Mat :=
  matOf r c (fun i j => (List.range n).foldl (fun (t : FRes) k =>
    let x := a.at i k
    let y := b.at k j
    let z := fFma x.1 y.1 t.1
    (z.1, t.2 ||| x.2 ||| y.2 ||| stepFlags z.2)) (f0, 0#16))

/-- The OR of the flags of its elements. -/
def Mat.flags (a : Mat) : FlagWord := a.flatten.foldl (fun f x => f ||| x.2) 0#16

/-- A step on a result: the flags that led to it stay. -/
def FRes.then (a : FRes) (f : F32 → FRes) : FRes := let r := f a.1; (r.1, a.2 ||| stepFlags r.2)

/-- The Frobenius norm: a sum of squares in the same order, and its root. -/
def Mat.norm (a : Mat) : FRes :=
  FRes.then (a.flatten.foldl (fun (t : FRes) x => (FRes.then t (fFma x.1 x.1))) (f0, a.flags)) fSqrt

/-- The fourth root, correctly rounded (R179 names the power and not its rounding; log 32). -/
def fRoot4 (a : F32) : F32 :=
  match fval a with
  | .nan => fNaN
  | .inf neg => if neg then fNaN else fInf false
  | .fin m e =>
    if m < 0 then fNaN else if m = 0 then f0
    else
      let p := scale2 m.toNat 1 e
      let k := 40 - ilog2 p.1 p.2 / 4
      let t := iroot 4 (scaledFloor p.1 p.2 (4 * k))
      (fRound (2 * t + (if p.2 * t ^ 4 = (scale2 p.1 1 (4 * k)).1 then 0 else 1)) (-k - 1)).1

/-- Largest |M − I| (R179). -/
def Mat.residual (a : Mat) (n : Nat) : FRes :=
  ((List.range n).flatMap (fun i => (List.range n).map (fun j =>
    FRes.then (FRes.then (a.at i j) (fun v => fSub v (if i = j then f1 else f0))) fAbs))).foldl
    (fun m x => FRes.then (m.1, m.2 ||| x.2) (fun v => fMax false v x.1)) (f0, 0#16)

/-- 2^-20. -/
def rootStop : F32 := 0x35800000#32
/-- 5.0. -/
def f5 : F32 := 0x40A00000#32

/-- A computed root: its elements, iterations, final residual, and every flag that the computation raised. -/
structure Root where
  x : Mat
  iter : Nat
  res : F32
  fl : FlagWord
deriving Repr

/-- The coupled Newton iteration from step k (R179). -/
def newton (n : Nat) : Nat → Nat → Mat → Mat → Root
  | 0, k, x, m => let r := m.residual n; ⟨x, k, r.1, x.flags ||| r.2⟩
  | fuel + 1, k, x, m =>
    let t := matOf n n (fun i j => FRes.then (FRes.then (m.at i j) (fun v => fSub (if i = j then f5 else f0) v)) (fScale2 · (-2)))
    let x1 := x.mul t n n n
    let t2 := t.mul t n n n
    let m1 := (t2.mul t2 n n n).mul m n n n
    let r := m1.residual n
    if fLt r.1 rootStop then ⟨x1, k + 1, r.1, x1.flags ||| r.2⟩ else newton n fuel (k + 1) x1 m1

/-- The inverse fourth root of S = statistics + EPS × I (R179). -/
def inverseRoot (eps : F32) (n : Nat) (stat : Nat → Nat → FRes) : Root :=
  let sm := matOf n n (fun i j => if i = j then FRes.then (stat i j) (fun v => fAdd v eps) else stat i j)
  let z := FRes.then (FRes.then sm.norm (fScale2 · 1)) (fDiv f5)
  let r := fRoot4 z.1
  newton n 40 0 (matOf n n (fun i j => (if i = j then r else f0, z.2)))
    (matOf n n (fun i j => FRes.then ((sm.at i j).1, (sm.at i j).2 ||| z.2) (fMul z.1)))

/-- The bytes of a matrix. -/
def matBytes (x : Mat) : List Byte := x.flatten.flatMap (fun v => leBytes 4 (fCanon v.1).1.toNat)

/-- Bytes of the precondition state H_D (Table 8.12) after a root computation. -/
def rootBytes (step : Nat) (l r : Root) : List Byte :=
  leBytes 8 1 ++ leBytes 8 step ++ leBytes 1 l.iter ++ leBytes 1 r.iter ++ zeros 6 ++ leBytes 4 l.res.toNat
    ++ leBytes 4 r.res.toNat ++ zeros 32 ++ matBytes l.x ++ matBytes r.x

/-- The preconditioned direction D of every element, whether an input was poisoned, and the flags of the roots the UPDATE
computed. -/
structure Direction where
  d : Mat
  bad : Bool
  roots : FlagWord
  st : State

/-- New roots are due: VALID is 0, or ROOT_T steps have passed (R179). -/
def rootsDue (d : Desc) (hdr : List Byte) : Bool :=
  decide (fieldLe hdr 0 1 = 0) || decide ((fieldLe hdr 8 8 : Int) + dField d 58 2 ≤ dStep d)

/-- Compute the roots and write them to H_D; the UPDATE keeps their flags for all its chunks (R165, R179). -/
def State.computeRoots (s : State) (p : Nat) (o : OpRec) (m n : Nat) : State × FlagWord :=
  let l := s.loadPart p o (dField o.desc 54 2) 0 (m * m)
  let r := l.2.loadPart p o (dField o.desc 56 2) 0 (n * n)
  let eps := dFp o.desc 60
  let bad := l.1.lanes.any (·.bad) || r.1.lanes.any (·.bad)
  let stat (x : Part) (n i j : Nat) : FRes := let a := x.lanes.getD (n * i + j) .zero; (a.v, a.fl)
  let rl := inverseRoot eps m (stat l.1 m)
  let rr := inverseRoot eps n (stat r.1 n)
  let w := r.2.storeRaw p o (dD o.desc) 0 (rootBytes (dStep o.desc) rl rr)
  let fl := rl.fl ||| rr.fl ||| (if bad || w.2 then fPOISON else 0#16)
  (w.1.updOp p o.seq (fun x => { x with rootFlags := x.rootFlags ||| fl }), fl)

/-- Read a stored root. -/
def rootMat (n : Nat) (bs : List (Option Byte)) : Mat :=
  matOf n n (fun i j => (BitVec.ofNat 32 (fieldLe (plainBytes bs) (4 * (n * i + j)) 4), 0#16))

/-- D = PL × G × PR (R180). -/
def State.direction (s : State) (p : Nat) (o : OpRec) : Direction :=
  let e := o.ent (dA o.desc)
  let m := eDim e 1
  let n := eDim e 0
  let h := s.loadRaw p o (dD o.desc) 0 64
  let due := !anyBad h.1 && rootsDue o.desc (plainBytes h.1)
  let c := if due then h.2.computeRoots p o m n else (h.2, o.rootFlags)
  let pl := c.1.loadRaw p o (dD o.desc) 64 (4 * m * m)
  let pr := pl.2.loadRaw p o (dD o.desc) (64 + 4 * m * m) (4 * n * n)
  let g := pr.2.loadPart p o (dB o.desc) 0 (m * n)
  let gm := matOf m n (fun i j => let x := g.1.lanes.getD (n * i + j) .zero; (x.v, x.fl))
  ⟨((rootMat m pl.1).mul gm m m n).mul (rootMat n pr.1) m n n,
    anyBad h.1 || hasFlag c.2 fPOISON || anyBad pl.1 || anyBad pr.1 || g.1.lanes.any (·.bad), c.2 &&& ~~~fPOISON, g.2⟩

/-- The preconditioned rule on the weights of a chunk (R165, R180). -/
def precondRule (o : OpRec) (n q0 : Nat) (x : Direction) (w : List Lane) : RuleOut :=
  ⟨(List.range w.length).map (fun i =>
    let l := w.getD i .zero
    let d := x.d.at ((q0 + i) / n) ((q0 + i) % n)
    let u := fFma (dFp o.desc 40) l.v d.1
    let r := fFma (fNeg (dFp o.desc 36)) u.1 l.v
    if x.bad || l.bad then .poison else laneOut r.1 (l.fl ||| x.roots ||| d.2 ||| stepFlags u.2 ||| stepFlags r.2)), [], none, false⟩

/-! ### Writing a chunk (R163, R164) -/

/-- Written bytes where there are any, else the bytes as read (a frozen row's, poison with them). -/
def overlay (ws : List WByte) (old : List (Option Byte)) : List WByte :=
  (List.range ws.length).map (fun i => match ws.getD i none with | some b => some b | none => some (old.getD i (some 0#8)))

/-- The rule's outputs of a chunk, with frozen rows left out (R153, R164) and the rows of a poisoned mask byte poisoned. -/
def freeze (o : OpRec) (e : Entry) (q0 : Nat) (vals : List OutVal) : List OutVal :=
  (List.range vals.length).map (fun i =>
    let ρ := (q0 + i) / eDim e 0
    if o.masked ρ then .keep else if o.maskBad ρ then .poison else vals.getD i .keep)

/-- Write the new weights of a chunk to slot NEW_VTAG mod 2: frozen rows bit for bit. -/
def State.writeWeights (s : State) (p : Nat) (o : OpRec) (q0 : Nat) (old : Part) (vals : List OutVal) : Work :=
  let h := dA o.desc
  let e := o.ent h
  let k := eFmt e |>.bits
  let enc := encodeFrom e q0 old.lo old.scales.length true (freeze o e q0 vals)
  let v := o.newTag % 2
  let a := s.storeRun p o.inbuf (o.dataAt h v) (q0 * k / 8) (overlay (packCodes (eFmt e) enc.codes []) old.data)
  let b := a.1.storeRun p o.inbuf (o.scalesAt h v) old.lo (overlay enc.scales old.scales)
  let copied := (List.range vals.length).any (fun i => o.masked ((q0 + i) / eDim e 0) && ((old.lanes.getD i .zero).bad))
  let fl := enc.flags.foldl (· ||| ·) 0#16
  ⟨b.1, fl ||| (if copied then fPOISON else 0#16), a.2 || b.2 || copied || hasFlag fl fPOISON⟩

/-- Write the new state of a chunk in place: nothing of a frozen row. -/
def State.writeMoments (s : State) (p : Nat) (o : OpRec) (q0 : Nat) (old : Part) (vals : List OutVal) : Work :=
  if vals = [] then ⟨s, 0#16, false⟩ else
  let h := dD o.desc
  let e := o.ent h
  let enc := encodeFrom e q0 old.lo old.scales.length true (freeze o e q0 vals)
  let a := s.storeRun p o.inbuf (o.dataAt h 0) (q0 * (eFmt e).bits / 8) (packCodes (eFmt e) enc.codes [])
  let b := a.1.storeRun p o.inbuf (o.scalesAt h 0) old.lo enc.scales
  let fl := enc.flags.foldl (· ||| ·) 0#16
  ⟨b.1, fl, a.2 || b.2 || hasFlag fl fPOISON⟩

/-! ### Keyed digests (R181, R182) -/

/-- p = 2^61 − 1. -/
def digestP : Nat := 2 ^ 61 - 1

/-- The key k (R182). -/
def Prt.digestKey (v : Prt) : Nat :=
  1 + fieldLe (match v.party with | some q => q.secret | none => []) 0 8 % (digestP - 1)

/-- The little-endian words of a byte string, padded with zero bytes. -/
def digestWords (bs : List Byte) : List Nat := (List.range (ceilDiv bs.length 4)).map (fun i => fieldLe bs (4 * i) 4)

/-- D (R181). -/
def keyedDigest (k : Nat) (data side : List Byte) : Nat :=
  let r := (digestWords data ++ digestWords side).foldl (fun (t : Nat × Nat) u => ((t.1 + u * t.2) % digestP, t.2 * k % digestP))
    ((data.length * k + side.length * (k * k)) % digestP, k * k % digestP * k % digestP)
  r.1

/-- No core of the partition owns the bytes of this place: what reads for it reads as core 0 (DESIGN CHOICE, log 56). -/
def Place.outside : Place := ⟨2, 0, 0, 0, 0, 0, 0⟩

/-- The bytes of one version of a tensor, as an update die or the BELAY reads them: data, then scales or records. -/
def State.tensorBytes (s : State) (p : Nat) (o : OpRec) (h ver : Nat) : Read2 := s.readBoth p o h ver .outside .outside

/-- Bytes as they stand in the dies, a poisoned one as a free value. -/
def State.freeBytes (s : State) (p : Nat) (o : OpRec) (lo : Nat) (bs : List (Option Byte)) : List Byte :=
  (List.range bs.length).map (fun i => (bs.getD i none).getD (Config.undefinedByte s.draws (freeIndex p o.seq 3 (lo + i))))

/-- The digest of what stands in a version. -/
def State.digestOf (s : State) (p : Nat) (o : OpRec) (h ver : Nat) : Nat :=
  if h = 0 then 0 else
  let r := s.tensorBytes p o h ver
  keyedDigest (s.prt p).digestKey (s.freeBytes p o (2 ^ 44 * h) r.data) (s.freeBytes p o (2 ^ 44 * h + 2 ^ 43) r.side)

/-- Add the contribution of the UPDATE with ordinal j to the open digest of its STEP (R183). -/
def Prt.addDigest (v : Prt) (step j dw ds : Nat) : Prt :=
  let k := v.digestKey
  let kj := powMod digestP 64 k (2 * j) 1
  { v with digests := v.digests.map (fun r =>
      if r.step = step then { r with sum := (r.sum + dw * kj + ds * (kj * k % digestP)) % digestP } else r) }

/-- The UPDATE's digest is still the one it opened: no earlier DIGEST that closed it stands between (log 33). -/
def Prt.digestCounts (v : Prt) (o : OpRec) : Bool :=
  !(v.before o).any (fun a => decide (dOp a.desc = 0x42 ∧ dSub a.desc = 1 ∧ dStep a.desc = dStep o.desc))

/-! ### The end of an UPDATE -/

/-- Mark the version that an UPDATE was to write as void (R150, R161, R175). -/
def Prt.voidNew (v : Prt) (o : OpRec) : Prt :=
  let h := dA o.desc
  if !o.updates h then v
  else match v.version? h with
    | some r =>
      if r.cur = o.newTag then v.updVersion h (fun r => { r with void0 := true })
      else if r.cur = (o.newTag + 1) % 65536 then v.updVersion h (fun r => { r with void1 := true })
      else { v with voids := (h, o.newTag) :: v.voids.filter (· ≠ (h, o.newTag)) }
    | none => v

/-- The contents of a void version's slot are undefined (R150): free values, with no traffic counted. -/
def State.forget (s : State) (p : Nat) (o : OpRec) (r : Place) : State :=
  let t := s.undefine p o r
  { t with weirs := s.weirs, hdrs := s.hdrs }

/-- The dies of a partition. -/
def State.dies (s : State) (p : Nat) : List Nat := s.partUnits p

/-- The die that processes chunk j (R162), or the one die of a PRECOND (R178). -/
def State.dieOf (s : State) (p : Nat) (o : OpRec) (j : Nat) : Nat :=
  let ds := s.dies p
  ds.getD ((if dSub o.desc = 1 then dA o.desc else j) % ds.length) 0

/-- The UPDATE has a chunk on die k. -/
def State.usesDie (s : State) (p : Nat) (o : OpRec) (k : Nat) : Bool :=
  (List.range (min 8 (eChunks (o.ent (dA o.desc))))).any (fun j => s.dieOf p o j = k)

/-- Die k has written a chunk of the UPDATE, or holds one. -/
def State.begunOn (s : State) (p : Nat) (o : OpRec) (k : Nat) : Bool :=
  o.chunks.any (fun j => s.dieOf p o j = k) || (match (s.upd k).chunk with | some c => decide (c.1 = o.seq) | none => false)

/-- A die drops the inputs of an UPDATE that has ended, and goes back to IDLE when it has begun no other. -/
def State.idleDies (s : State) (p : Nat) : State :=
  let ups := (s.prt p).ops.filter (fun o => decide (dOp o.desc = 0x40) && !o.done)
  (s.dies p).foldl (fun t k => t.updUpd k (fun u =>
    { u with
        state := if u.state = 7#4 ∨ ups.any (fun o => s.begunOn p o k) then u.state else 0#4
        chunk := match u.chunk with | some c => if ups.any (fun o => o.seq = c.1) then some c else none | none => none })) s

/-- End an UPDATE whose version is void. -/
def State.voidUpdate (s : State) (p : Nat) (o : OpRec) (st : BitVec 8) : State :=
  let s1 := (s.updPrt p (fun v => v.voidNew o)).finishOp p o.seq st o.flags
  let h := dA o.desc
  (if o.updates h then (s1.forget p o (o.dataAt h (o.newTag % 2))).forget p o (o.scalesAt h (o.newTag % 2)) else s1).idleDies p

/-- Rows that the mask freezes. -/
def OpRec.frozenCount (o : OpRec) : Nat := ((List.range (eRows (o.ent (dA o.desc)))).filter o.masked).length

/-- Count frozen rows on the partition's lowest-numbered die (R152, R153), and give the status of R154. -/
def State.countFrozen (s : State) (p n : Nat) : State × BitVec 8 :=
  let k := (s.dies p).headD 0
  (if n = 0 then s else s.updUpd k (fun u => { u with frozenSkips := satAdd u.frozenSkips n }),
    if 0 < n ∧ (s.upd k).strict then stFrozen else stOK)

/-- An UPDATE of a FROZEN tensor writes nothing (R152). -/
def State.skipUpdate (s : State) (p : Nat) (o : OpRec) : State :=
  let r := s.countFrozen p (eRows (o.ent (dA o.desc)))
  r.1.finishOp p o.seq r.2 0#16

/-- Every chunk has been written: frozen rows, digests, status (R154, R165, R183). -/
def State.finishUpdate (s : State) (p : Nat) (o : OpRec) : State :=
  let r := s.countFrozen p o.frozenCount
  let dw := r.1.digestOf p o (dA o.desc) (o.newTag % 2)
  let ds := r.1.digestOf p o (dD o.desc) 0
  let s1 := if (r.1.prt p).digestCounts o then r.1.updPrt p (fun v => v.addDigest (dStep o.desc) o.ordinal dw ds) else r.1
  (s1.finishOp p o.seq (worse (worse o.status (workStatus o.desc o.flags false)) r.2) o.flags).idleDies p

/-- A trap of party code ends the UPDATE (R175). -/
def State.trapUpdate (s : State) (p : Nat) (o : OpRec) (die : Nat) (cause : Byte) : State :=
  let s1 := (s.updUpd die (fun u => { u with trapCause := cause })).raiseErr (pageUpd die) 2 0#32
  let s2 := if dD o.desc = 0 then s1
    else (s1.undefine p o (o.dataAt (dD o.desc) 0)).undefine p o (o.scalesAt (dD o.desc) 0)
  s2.voidUpdate p o stInvalid

/-! ### Running chunks -/

/-- The UPDATE may be among the four that die k runs: it is, or a place is free and no earlier one that is ready waits for
the die (R166). -/
def State.takesUpdate (s : State) (p : Nat) (o : OpRec) (k : Nat) : Bool :=
  let v := s.prt p
  let ups := v.ops.filter (fun a => decide (dOp a.desc = 0x40) && !a.done && s.usesDie p a k)
  s.begunOn p o k ||
  (decide ((ups.filter (fun a => s.begunOn p a k)).length < 4)
    && (ups.filter (fun a => decide (a.seq < o.seq) && !s.begunOn p a k)).all (fun a => !v.mayRun a))

/-- What the rule of an UPDATE gives for chunk j, the state after its reads, and STATE of the die while it runs. -/
structure ChunkRun where
  out : RuleOut
  w : Part
  m : Part
  st : State
  die : BitVec 4

/-- The program or image that H_PROG names. -/
def State.loadProg (s : State) (p : Nat) (o : OpRec) : List (Option Byte) × State :=
  let h := dProg o.desc
  s.loadRaw p o h 0 (min (progRoom o.desc) (eDataBytes (o.ent h)))

/-- Run the rule on chunk j. -/
def State.ruleChunk (s : State) (p : Nat) (o : OpRec) (j : Nat) : ChunkRun :=
  let d := o.desc
  let e := o.ent (dA d)
  let q0 := chunkSize * j
  let n := chunkLen e j
  let k := s.dieOf p o j
  if dSub d = 1 then
    let x := s.direction p o
    let w := x.st.loadPart p o (dA d) q0 n
    ⟨precondRule o (eDim e 0) q0 x w.1.lanes, w.1, ⟨[], 0, [], []⟩, w.2, 4#4⟩
  else
    let w := s.loadPart p o (dA d) q0 n
    let g := w.2.loadPart p o (dB d) q0 n
    let m := g.2.loadState p o q0 n
    let pr := m.2.loadProg p o
    if dField d 32 1 = 0 then
      let img := imageBytes pr.1
      let r := pr.2.codeRule p o k j img w.1.lanes g.1.lanes m.1.lanes
      ⟨r.1, w.1, m.1, r.2, 2#4⟩
    else
      let len := (seqLength pr.1).getD 0
      ⟨seqRule o ((List.range len).map (seqWord pr.1)) w.1.lanes g.1.lanes m.1.lanes, w.1, m.1,
        pr.2.updUpd k (fun u => { u with progHandle := BitVec.ofNat 16 (dProg d), progSteps := BitVec.ofNat 6 (len + 1) }), 3#4⟩

/-- The die holds the inputs of chunk j (R166) and shows a STATE. -/
def State.holdChunk (s : State) (k seq j : Nat) (st : BitVec 4) : State :=
  s.updUpd k (fun u => { u with state := st, chunk := some (seq, j) })

/-- Process chunk j of an UPDATE (R162-R166): weights first, then the state, and only then do the inputs go; PROGRESS counts
it (R185). A call that has not returned writes nothing, and the die's watchdog finds it (R175). -/
def State.writeChunk (s : State) (p : Nat) (o : OpRec) (j : Nat) : State :=
  let k := s.dieOf p o j
  let r := s.ruleChunk p o j
  match r.out.trap with
  | some c => r.st.trapUpdate p o k c
  | none =>
    if r.out.running then r.st.holdChunk k o.seq j r.die else
    let a := r.st.writeWeights p o (chunkSize * j) r.w r.out.w
    let b := a.and (a.st.writeMoments p o (chunkSize * j) r.m r.out.m)
    ((b.st.updOp p o.seq (fun x => { x with
        chunks := x.chunks ++ [j], flags := x.flags ||| b.flags, status := if b.poisoned then stPoisoned else x.status })).updUpd k
      (fun u => { u with state := r.die, chunk := none })).progress (pageUpd k) 1

/-- Finish an UPDATE whose last chunk has been written. -/
def State.closeUpdate (s : State) (p seq : Nat) : State :=
  match (s.prt p).op seq with
  | some o => if !o.done && decide (o.chunks.length = eChunks (o.ent (dA o.desc))) then s.finishUpdate p o else s
  | none => s

/-- Die k may process chunk j of an UPDATE: the chunk is not written, and the die serves and takes the UPDATE. -/
def State.chunkOpen (s : State) (p : Nat) (o : OpRec) (j : Nat) : Bool :=
  let k := s.dieOf p o j
  !o.done && !o.chunks.contains j && decide (j < eChunks (o.ent (dA o.desc))) && !(s.hdr (pageUpd k)).suspect
    && s.takes (pageUpd k) && s.takesUpdate p o k

/-- Write chunk j of an accepted UPDATE if its die may. -/
def State.runChunk (s : State) (p seq j : Nat) : State :=
  match (s.prt p).op seq with
  | none => s
  | some o => if s.chunkOpen p o j then (s.writeChunk p o j).closeUpdate p seq else s

/-- What governs an UPDATE before it works: a STEP_COMMIT that ended without OK (R161). -/
def Prt.commitStatus (v : Prt) (o : OpRec) : Option (BitVec 8) :=
  match v.governing (dStep o.desc) o.seq with
  | some (some st) => if st = stOK then none else some (if st = stPoisoned then stPoisoned else stPeerLost)
  | _ => none

/-- Run an UPDATE of subop `sub` that may run (R148-R150, R152, R161). -/
def State.runUpdate (s : State) (p seq : Nat) (sub : Nat → Bool) (f : OpRec → State) : State :=
  match (s.prt p).op seq with
  | none => s
  | some o =>
    let v := s.prt p
    if dOp o.desc = 0x40 ∧ sub (dSub o.desc) ∧ v.tokensReady o then
      (match v.commitStatus o with
      | some st => s.voidUpdate p o st
      | none =>
        if !o.linesIn then s.askOp p seq
        else if v.readsVoid o then s.voidUpdate p o stPeerLost
        else if eFrozen (o.ent (dA o.desc)) then s.skipUpdate p o
        else f o)
    else s

/-- Every chunk of an UPDATE in order. -/
def State.runChunks (s : State) (p : Nat) (o : OpRec) : State :=
  (List.range (eChunks (o.ent (dA o.desc)))).foldl (fun t j => t.runChunk p o.seq j) s

/-- UPDATE_ELEMENT (R118, R162, R163). -/
def execUpdateElement (p seq : Nat) (s : State) : Host.Outcome State Fault Refusal :=
  .next (s.runUpdate p seq (· = 0) (s.runChunks p))

/-- UPDATE_PRECOND (R178-R180). -/
def execUpdatePrecond (p seq : Nat) (s : State) : Host.Outcome State Fault Refusal :=
  .next (s.runUpdate p seq (· = 1) (s.runChunks p))

/-- UPDATE_CHUNK (R163): one chunk of either kind. -/
def execUpdateChunk (p seq chunk : Nat) (s : State) : Host.Outcome State Fault Refusal :=
  .next (s.runUpdate p seq (fun _ => true) (fun _ => s.runChunk p seq chunk))

/-- The chunk that a die is processing: the one whose inputs it holds, else the next one it may process of the UPDATEs in
acceptance order. -/
def State.chunkOn (s : State) (p k : Nat) : Option (Nat × Nat) :=
  match (s.upd k).chunk with
  | some c => some c
  | none =>
    ((s.prt p).ops.filter (fun o => decide (dOp o.desc = 0x40) && (s.prt p).mayRun o)).findSome? (fun o =>
      ((List.range (eChunks (o.ent (dA o.desc)))).find? (fun j => s.dieOf p o j = k ∧ s.chunkOpen p o j)).map (fun j => (o.seq, j)))

/-- An uncorrectable error while a die processes a chunk (R185, Table 15.1): the rerun, from the inputs the die holds, writes
the bits that the chunk would have written; a second failure is lasting, and the chunk is not written. -/
def State.rerunChunk (s : State) (p k : Nat) (failsAgain : Bool) (c : Nat × Nat) : State :=
  let pg := pageUpd k
  let e := { CperEvent.base 6#8 (if failsAgain then 3#8 else 1#8) pg with jseq := c.1, fatal := failsAgain }
  if failsAgain then
    ((((s.holdChunk k c.1 c.2 5#4).countUe pg).raiseErr pg 1 0#32).riskEvent 1 1 |>.report e).makeSuspect pg
  else
    ((((s.countCe pg true).raiseErr pg 0 0#32).report e).holdChunk k c.1 c.2 5#4).runChunk p c.1 c.2

/-- CHUNK_RERUN (R185). -/
def State.rerunDie (s : State) (k : Nat) (failsAgain : Bool) : State :=
  match s.unitOwner k with
  | none => s
  | some p =>
    match s.chunkOn p k with
    | none => s
    | some c =>
      if (s.hdr (pageUpd k)).suspect then s
      else s.runUpdate p c.1 (fun _ => true) (fun _ => s.rerunChunk p k failsAgain c)

/-- CHUNK_RERUN (R185). -/
def execChunkRerun (die : Nat) (failsAgain : Bool) (s : State) : Host.Outcome State Fault Refusal :=
  .next (s.rerunDie die failsAgain)

/-! ### DIGEST (R120, R181-R184, R261, R342, R343) -/

/-- DIGEST of a tensor. -/
def State.digestTensor (s : State) (p : Nat) (o : OpRec) : State :=
  let h := dA o.desc
  let r := s.tensorBytes p o h (o.ver h)
  if r.bad then r.st.finishOp p o.seq stPoisoned 0#16
  else
    let d := keyedDigest (s.prt p).digestKey (plainBytes r.data) (plainBytes r.side)
    let w := r.st.storeRaw p o (dC o.desc) 0 (leBytes 8 d)
    w.1.finishOp p o.seq (if w.2 then stPoisoned else stOK) 0#16

/-- DIGEST_TENSOR (R120, R181). -/
def execDigestTensor (p seq : Nat) (s : State) : Host.Outcome State Fault Refusal :=
  .next (s.runOp p seq 0x42 (· = 0) (s.digestTensor p))

/-- A waiting UPDATE opens the digest of its STEP when there is room or an open one that nothing holds (R184). -/
def Prt.openHeld (v : Prt) (seq : Nat) : Prt :=
  match v.op seq with
  | none => v
  | some o =>
    let step := dStep o.desc
    let go (l : List RepDigest) : Prt := { v with digests := l, ops := v.ops.map (fun a => if a.seq = seq then { a with held := false } else a) }
    match v.digests.find? (fun r => r.step = step) with
    | some _ => go (v.digests.map (fun r => if r.step = step then { r with count := max r.count o.ordinal } else r))
    | none =>
      if v.digests.length < 4 then go (v.digests ++ [⟨step, 0, o.ordinal, 0⟩])
      else match v.digests.filter (fun r => r.held = 0) with
        | [] => v
        | x :: xs =>
          let low := xs.foldl (fun a b => if b.step < a.step then b else a) x
          go (v.digests.filter (fun r => r.step ≠ low.step) ++ [⟨step, 0, o.ordinal, 0⟩])

/-- A DIGEST closes the digest of its STEP (R184): it goes when no other DIGEST holds it, and waiting UPDATEs move up. -/
def Prt.closeDigest (v : Prt) (step : Nat) : Prt :=
  let l := v.digests.filterMap (fun r => if r.step = step then (if r.held ≤ 1 then none else some { r with held := r.held - 1 }) else some r)
  ((v.ops.filter (·.held)).map (·.seq)).foldl Prt.openHeld { v with digests := l }

/-- Outbound ports on which a replica of partition p is reached (R261). -/
def State.replicaPorts (s : State) (p : Nat) : List Nat :=
  (List.range 24).filter (fun i => ((s.lnk i).sa p).replica && ((s.lnk i).sa p).serves)

/-- The DIGEST flit (log 26): STEP and digest, 8 bytes each. -/
def State.sendDigest (s : State) (p i step own : Nat) : State :=
  let x := (s.lnk i).sa p
  s.sendFlit i p (FlitHdr.basic 0x17 x.peerPart.toNat x.peerCtx.toNat) (leBytes 8 step ++ leBytes 8 own)

/-- Close the digest, show it on the lowest die, and send it to every replica that can be reached. -/
def State.startReplica (s : State) (p : Nat) (o : OpRec) : State :=
  let step := dStep o.desc
  let own := match (s.prt p).digests.find? (fun r => r.step = step) with | some r => r.sum | none => 0
  let ports := s.replicaPorts p
  let s1 := (s.updPrt p (fun v => v.closeDigest step)).updUpd ((s.dies p).headD 0) (fun u =>
    { u with digest := BitVec.ofNat 64 own, digestStep := BitVec.ofNat 32 step })
  ports.foldl (fun t i => t.sendDigest p i step own) (s1.updOp p o.seq (fun x =>
    { x with digestW := own, coll := { x.coll with sentData := true, checked := ports } }))

/-- The digest that a replica has sent for a STEP; none when its association is not OPEN or nothing has come. -/
def State.peerDigest (s : State) (p i step : Nat) : Option Nat :=
  let x := (s.lnk i).sa p
  if x.serves then (x.digests.find? (fun d => d.1 = step)).map (·.2) else none

/-- A replica is still awaited. -/
def State.awaitsReplica (s : State) (p : Nat) (o : OpRec) : Bool :=
  o.coll.checked.any (fun i => ((s.lnk i).sa p).serves && (s.peerDigest p i (dStep o.desc)).isNone)

/-- A value stands in more than half of a list. -/
def majority (l : List Nat) (x : Nat) : Bool := decide (l.length < 2 * (l.filter (· = x)).length)

/-- The outcome of a comparison (R342). -/
def replicaOutcome (own : Nat) (peers : List Nat) : Nat :=
  let l := own :: peers
  if peers = [] then 0 else if peers.all (· = own) then 1
  else if majority l own then 2 else if peers.any (majority l) then 3 else 4

/-- The port that serves as the outbound port of a role: the port itself, or L23 while it stands in for it (R241). -/
def State.portOfRole (s : State) (r : Nat) : Nat :=
  if (s.lnk 23).takeoverEn ∧ (s.lnk 23).takeover.toNat = r then 23 else r

/-- PEER[r - 15] of the outcome record (Table 15.4), for the port that serves in role r. -/
def State.peerRecord (s : State) (p : Nat) (o : OpRec) (r : Nat) : List Byte :=
  let i := s.portOfRole r
  if !((s.lnk i).sa p).replica then zeros 16
  else match (if o.coll.checked.contains i then s.peerDigest p i (dStep o.desc) else none) with
    | none => leBytes 1 3 ++ zeros 15
    | some d => leBytes 1 (if d = o.digestW then 1 else 2) ++ zeros 7 ++ leBytes 8 d

/-- The CPER record of a mismatch (R343, R346). -/
def replicaEvent (p seq out : Nat) (rep : Bool) : CperEvent :=
  { CperEvent.base 8#8 (if rep then 6#8 else if out = 4 then 5#8 else 4#8) (pagePrt p) with jseq := seq, fatal := rep && decide (out = 3) }

/-- What follows the end of the DIGEST (R342, R343): a context reset after ODD_LOCAL and after a repeated SPLIT, a drain
after a repeated ODD_LOCAL. -/
def State.afterReplica (s : State) (p out : Nat) (rep : Bool) : State :=
  let s1 := if out = 3 ∨ (out = 4 ∧ rep) then s.startContextReset p true true else s
  if out = 3 ∧ rep then s1.drainCause 1 else s1

/-- Compare, write the outcome record, and complete (R261, R342). -/
def State.endReplica (s : State) (p : Nat) (o : OpRec) : State :=
  let step := dStep o.desc
  let got := o.coll.checked.filterMap (fun i => s.peerDigest p i step)
  let out := replicaOutcome o.digestW got
  let rep := decide ((out = 3 ∧ (s.prt p).lastOutcome = some 3#8) ∨ (out = 4 ∧ (s.prt p).lastOutcome = some 4#8))
  let rc := leBytes 8 step ++ leBytes 8 o.digestW ++ leBytes 1 out ++ leBytes 1 (bit rep) ++ leBytes 1 (1 + got.length)
    ++ leBytes 1 (1 + (got.filter (· = o.digestW)).length) ++ zeros 12 ++ (List.range 8).flatMap (fun i => s.peerRecord p o (15 + i))
  let odd := o.coll.checked.filter (fun i => match s.peerDigest p i step with | some d => decide (d ≠ o.digestW) | none => false)
  let w := s.storeRaw p o (dC o.desc) 0 rc
  let s1 := o.coll.checked.foldl (fun t i => t.updSa i p (fun x => { x with digests := x.digests.filter (fun d => d.1 ≠ step) })) w.1
  let s2 := s1.updPrt p (fun v => { v with lastOutcome := if out = 0 then v.lastOutcome else some (BitVec.ofNat 8 out) })
  let s3 := if 2 ≤ out then s2.report (replicaEvent p o.seq out rep) else s2
  let s4 := if out = 2 then odd.foldl (fun t i => t.sendClose i p 0 true) s3 else s3
  let s5 := (s4.finishOp p o.seq (if w.2 then stPoisoned else stOK) 0#16)
  if out = 3 ∨ (out = 4 ∧ rep) then (s5.completeOp p o.seq).afterReplica p out rep else s5

/-- DIGEST of a step: it waits for the earlier UPDATEs of its STEP, then for every replica. -/
def State.digestReplica (s : State) (p : Nat) (o : OpRec) : State :=
  if ((s.prt p).before o).any (fun a => decide (dOp a.desc = 0x40 ∧ dStep a.desc = dStep o.desc)) then s
  else
    let s1 := if o.coll.sentData then s else s.startReplica p o
    match (s1.prt p).op o.seq with
    | some x => if s1.awaitsReplica p x then s1 else s1.endReplica p x
    | none => s1

/-- DIGEST_REPLICA (R261, R342, R343). -/
def execDigestReplica (p seq : Nat) (s : State) : Host.Outcome State Fault Refusal :=
  .next (s.runOp p seq 0x42 (· = 1) (s.digestReplica p))

/-- A DIGEST flit (R261): held per association, up to four STEP values, a fifth in place of the oldest. -/
def State.receiveDigest (s : State) (i p : Nat) (payload : List Byte) : State :=
  let step := fieldLe payload 0 8
  s.updSa i p (fun x =>
    let l := x.digests.filter (fun d => d.1 ≠ step) ++ [(step, fieldLe payload 8 8)]
    { x with digests := l.drop (l.length - 4) })

end Sys2Proof.Machine
end

