-- ==== Sys2Proof/Machine/Belays.lean ====
section
/-! DEFINITION. Belays and restores (R121, R364-R373): the image, its targets, its seal, the receiving half of a peer
belay, and the two passes of a RESTORE. -/

namespace Sys2Proof.Machine

/-! ### The image (R366, Tables 16.8 and 16.9) -/

/-- Bytes of a header. -/
def headerSize : Nat := 256

/-- The checkpoint key of a partition's party (R329). -/
def Prt.kc (v : Prt) : List Byte := match v.party with | some q => q.kc.getD [] | none => []

/-- SM4 counter mode over the body (from block 0) or the loss record (from block 2^64 − 4) (R366). -/
def belayCrypt (kc nonce : List Byte) (block : Nat) (bs : List Byte) : List Byte :=
  xorBytes bs (sm4Stream (kdf kc nonce 9) (ceilDiv bs.length 16) (fun i => leBytes 8 (block + i) ++ nonce.take 8))

/-- First counter block of the loss record. -/
def lossBlock : Nat := 2 ^ 64 - 4

/-- A section: header of 16 bytes, then its content. -/
def section_ (type handle flags : Nat) (content : List Byte) : List Byte :=
  leBytes 2 type ++ leBytes 2 handle ++ leBytes 1 flags ++ zeros 3 ++ leBytes 8 content.length ++ content

/-- The header of an image up to HDR_MAC. -/
def headerBytes (v : Prt) (s : State) (ctx : Nat) (b : BelayRun) (isSealed : Bool) : List Byte :=
  let flags := bit isSealed + 2 * bit (b.loss ≠ []) + 4 * bit (b.kind = 2#8 ∧ b.dirty ≠ []) + 8 * bit b.poisoned
  leBytes 4 0x59414C42 ++ leBytes 2 1 ++ leBytes 1 b.kind.toNat ++ leBytes 1 flags ++ leBytes 8 b.size ++ leBytes 8 b.step
    ++ leBytes 8 b.jseq ++ sliceBytes (match v.party with | some q => q.digest | none => []) 0 32 ++ sliceBytes b.nonce 0 16
    ++ sliceBytes s.sec.bootId 0 16 ++ leBytes 2 ctx ++ leBytes 1 s.dev.ropePos.toNat ++ zeros 1 ++ leBytes 4 b.sections
    ++ sliceBytes b.digest 0 32 ++ (if b.loss = [] then zeros 64 else belayCrypt v.kc b.nonce lossBlock (sliceBytes b.loss 0 64))
    ++ zeros 48

/-- The sealed header with its MAC. -/
def sealedHeader (v : Prt) (s : State) (ctx : Nat) (b : BelayRun) : List Byte :=
  let h := headerBytes v s ctx b true
  h ++ (cmac (kdf v.kc b.nonce 0x0A) h).take 7 ++ [0#8]

/-! ### What is copied (R365, Table 16.7) -/

/-- Sections as they are formed. -/
structure Body where
  bytes : List Byte
  count : Nat
  bad : Bool
  st : State

/-- Add a section. -/
def Body.put (b : Body) (type handle flags : Nat) (content : List Byte) (bad : Bool) (st : State) : Body :=
  ⟨b.bytes ++ section_ type handle flags content, b.count + 1, b.bad || bad, st⟩

/-- The record that holds for a handle at the copy: the references as acceptance found them, VOID as the UPDATEs that it
waited for left it. -/
def Prt.versionNow (v : Prt) (r : VerRec) : VerRec :=
  { r with void0 := r.void0 || v.voidTag r.handle r.cur, void1 := r.void1 || v.voidTag r.handle ((r.cur + 65535) % 65536) }

/-- The 32 bytes of a version record (Table 16.9). -/
def VerRec.bytes (r : VerRec) : List Byte :=
  leBytes 2 r.handle ++ leBytes 2 r.cur ++ leBytes 1 (bit r.prevValid) ++ leBytes 1 (bit r.void0) ++ leBytes 1 (bit r.void1) ++ zeros 3
    ++ leBytes 4 r.ref0 ++ leBytes 4 r.ref1 ++ leBytes 4 r.ref2 ++ zeros 10

/-- Version slots of a tensor that a belay copies: those of the tags it holds that are not void; without a record, both
(log 34). -/
def OpRec.belaySlots (o : OpRec) (v : Prt) (h : Nat) : List Nat :=
  if !eVersions (o.ent h) then [0]
  else
    let tags := (o.refs.filter (fun x => x.1 = h)).map (·.2)
    if tags = [] then [0, 1]
    else
      let good := (tags.filter (fun t => !v.voidTag h t)).map (· % 2)
      [0, 1].filter good.contains

/-- One bit per 128-byte line of the data, 1 where a byte was read poisoned (Table 16.9). -/
def poisonMap (bs : List (Option Byte)) : List Bool :=
  (List.range (ceilDiv bs.length 128)).map (fun i => anyBad ((bs.drop (128 * i)).take 128))

/-- Bits packed into bytes. -/
def packBits (l : List Bool) : List Byte :=
  (List.range (ceilDiv l.length 8)).map (fun i =>
    BitVec.ofNat 8 (sumNat ((List.range 8).map (fun j => bit (l.getD (8 * i + j) false) * 2 ^ j))))

/-- A TENSOR section. -/
def Body.tensor (b : Body) (p : Nat) (o : OpRec) (h : Nat) : Body :=
  let e := o.ent h
  let slots := o.belaySlots (b.st.prt p) h
  let r := slots.foldl (fun (t : List Byte × List Bool × Bool × State) k =>
    let x := t.2.2.2.loadRun p 0 o.inbuf (o.dataAt h k) 0 (eDataBytes e)
    let y := x.2.loadRun p 0 o.inbuf (o.scalesAt h k) 0 (eScaleBytes e)
    (t.1 ++ plainBytes x.1 ++ plainBytes y.1, t.2.1 ++ poisonMap x.1, t.2.2.1 || anyBad x.1 || anyBad y.1, y.2)) ([], [], false, b.st)
  let map := r.2.1.any (· = true)
  b.put 6 h (bit (slots.contains 0) + 2 * bit (slots.contains 1) + 4 * bit map)
    (leBytes 64 e.toNat ++ r.1 ++ (if map then packBits r.2.1 else [])) r.2.2.1 r.2.2.2

/-- A FROZEN section. -/
def Body.frozen (b : Body) (p : Nat) (o : OpRec) (h : Nat) : Body :=
  let r := b.st.tensorBytes p o h 0
  b.put 7 h 0 (leBytes 64 (o.ent h).toNat
    ++ leBytes 8 (keyedDigest (b.st.prt p).digestKey (plainBytes r.data) (plainBytes r.side))) r.bad r.st

/-- The cursor: 256 bytes of handle 0x0002, from any tier (R160). -/
def Body.cursor (b : Body) (p : Nat) (o : OpRec) : Body :=
  if o.names 2 then
    let r := b.st.loadRaw p o 2 0 (min 256 (eDataBytes (o.ent 2)))
    b.put 2 2 0 (sliceBytes (plainBytes r.1) 0 256) (anyBad r.1) r.2
  else b.put 2 2 0 (zeros 256) false b.st

/-- Entry i of the format policy table, after the bytes copied so far; zeros where it has no address. -/
def copyFormat (p : Nat) (t : List Byte × Bool × State) (i : Nat) : List Byte × Bool × State :=
  if t.2.2.fmtLegal p i then let x := t.2.2.fmtEntry p i; (t.1 ++ plainBytes x.1, t.2.1 || anyBad x.1, x.2)
  else (t.1 ++ zeros 16, t.2.1, t.2.2)

/-- The format policy table. -/
def Body.formats (b : Body) (p : Nat) : Body :=
  let r := (List.range (b.st.prt p).fmtEntries).foldl (copyFormat p) ([], false, b.st)
  b.put 4 0 0 r.1 r.2.1 r.2.2

/-- The body in the order of Table 16.9. -/
def State.belayBody (s : State) (p : Nat) (o : OpRec) (b : BelayRun) : Body :=
  let v := s.prt p
  let ex := v.belayCfg.excludeFrom.toNat
  let hs := b.copies.filter (fun h => o.names h && decide (eTier (o.ent h) = 1 ∧ (ex = 0 ∨ h < ex)))
  let b1 := (Body.mk [] 0 false s).put 1 0 0 ((List.range 4096).flatMap (fun n => leBytes 8 (Sparse.get 0 b.streams n))) false s
  let b2 := b1.cursor p o
  let b3 := b2.put 3 0 0 (b.versions.flatMap (fun r => (v.versionNow r).bytes)) false b2.st
  let b4 := b3.formats p
  let b5 := b4.put 5 0 0 ((List.range 1024).flatMap (fun i => (Sparse.get Hist.zero v.hists i).record)) false b4.st
  let b6 := (hs.filter (fun h => !eFrozen (o.ent h))).foldl (fun t h => t.tensor p o h) b5
  let b7 := (hs.filter (fun h => eFrozen (o.ent h))).foldl (fun t h => t.frozen p o h) b6
  if b.kind = 2#8 then b7.put 8 0 0 (b.dirty.flatMap (leBytes 2)) false b7.st else b7

/-! ### Writing (R368) -/

/-- Change the belay side of an operation. -/
def State.updBelay (s : State) (p seq : Nat) (f : BelayRun → BelayRun) : State :=
  s.updOp p seq (fun o => { o with belay := o.belay.map f })

/-- The target of a belay, if its entry stands: RAW and of the tier that the belay names. -/
def OpRec.belayTarget (o : OpRec) : Option Place :=
  let h := dC o.desc
  let e := o.ent h
  if o.names h ∧ eFmt e = .raw ∧ eTier e = (if dSub o.desc = 2 then 2 else 1) then some (o.dataAt h 0) else none

/-- Bytes as a target takes them: a host line is written whole, its rest with zeros. -/
def padTarget (r : Place) (off : Nat) (bs : List Byte) : List WByte :=
  (if r.tier = 2 then bs ++ zeros (min (128 * ceilDiv (off + bs.length) 128) r.size - (off + bs.length)) else bs).map wPut

/-- A BELAY flit (log 26): message 0 announces an image by its size, 1 is the body, 2 the sealed header, 3 refuses. -/
def State.belayOut (s : State) (p q msg off : Nat) (last : Bool) (payload : List Byte) : State :=
  let i := s.peerPort q
  let x := (s.lnk i).sa p
  s.sendFlit i p { FlitHdr.basic 0x18 x.peerPart.toNat x.peerCtx.toNat with msg := msg, offset := off % 2 ^ 24, last := last } payload

/-- Bytes of one message in BELAY flits. -/
def State.belayMsg (s : State) (p q msg : Nat) (bs : List Byte) : State :=
  let n := ceilDiv bs.length 224
  (List.range n).foldl (fun t k => t.belayOut p q msg (224 * k) (decide (k + 1 = n)) ((bs.drop (224 * k)).take 224)) s

/-- The peer that a belay names. -/
def OpRec.belayPeer (o : OpRec) : Nat := dField o.desc 32 1

/-- The association towards the peer of a belay serves (R240, R260). -/
def State.peerServes (s : State) (p q : Nat) : Bool := decide (q < 16 ∧ q ≠ s.dev.ropePos.toNat) && (s.assoc p q).serves

/-- The header, sealed, as it follows the body. -/
def State.writeSeal (s : State) (p : Nat) (o : OpRec) (b : BelayRun) : State × Bool :=
  let h := sealedHeader (s.prt p) s ((s.prt p).ctxId p) b
  if dSub o.desc = 1 then (s.belayMsg p o.belayPeer 2 h, false)
  else match o.belayTarget with
    | some r => s.storeRun p o.inbuf r 0 (h.map wPut)
    | none => (s, true)

/-- Write the sealed header and end the belay (R367). -/
def State.sealBelay (s : State) (p : Nat) (o : OpRec) (b : BelayRun) : State :=
  let w := s.writeSeal p o b
  w.1.finishOp p o.seq (if b.poisoned || w.2 then stPoisoned else stOK) 0#16

/-- Write an image: a header of zeros and the body, then nothing of the copied tensors is held any more. A drain belay is
sealed at once (R367). -/
def State.writeImage (s : State) (p : Nat) (o : OpRec) (b : BelayRun) (body : Body) (target : Option Place) : State :=
  let n := body.st.drawRandom
  let nonce := n.1.take 16
  let ct := belayCrypt (s.prt p).kc nonce 0 body.bytes
  let w := match target with
    | some r =>
      let a := n.2.storeRun p o.inbuf r 0 (padTarget r 0 (zeros headerSize))
      let c := a.1.storeRun p o.inbuf r headerSize (padTarget r headerSize ct)
      (c.1, a.2 || c.2)
    | none => ((n.2.belayOut p o.belayPeer 0 0 true (leBytes 8 (headerSize + ct.length))).belayMsg p o.belayPeer 1 ct, false)
  let b1 := { b with nonce := nonce, sections := body.count, size := ct.length, digest := sm3 ct, poisoned := body.bad || w.2, copied := true }
  let keep := o.ents.filter (fun x => x.1 = dC o.desc)
  let s1 := w.1.updOp p o.seq (fun x => { x with belay := some b1, ents := keep, refs := [] })
  if b.kind = 2#8 then (match (s1.prt p).op o.seq with | some x => s1.sealBelay p x b1 | none => s1) else s1

/-- Copy the party's state into an image (R365-R368). -/
def State.copyBelay (s : State) (p : Nat) (o : OpRec) (b : BelayRun) : State :=
  let body := s.belayBody p o b
  if dSub o.desc = 1 then
    (if s.peerServes p o.belayPeer then s.writeImage p o b body none else s.finishOp p o.seq stPeerLost 0#16)
  else match o.belayTarget with
    | none => s.finishOp p o.seq stInvalid 0#16
    | some r =>
      if r.size < headerSize + body.bytes.length then body.st.finishOp p o.seq stInvalid 0#16
      else s.writeImage p o b body (some r)

/-- Run a BELAY of SUBOP `sub`: what it copies is ready, and it has not copied yet. -/
def State.runBelay (s : State) (p seq sub : Nat) : State :=
  match (s.prt p).op seq with
  | none => s
  | some o =>
    match o.belay with
    | none => s
    | some b =>
      if dOp o.desc = 0x50 ∧ dSub o.desc = sub ∧ !b.copied ∧ !o.done then
        (if sub = 1 ∧ !s.peerServes p o.belayPeer then s.finishOp p seq stPeerLost 0#16
         else if !(s.prt p).tokensReady o then s
         else if !o.linesIn then s.askOp p seq
         else s.copyBelay p o b)
      else s

/-- BELAY_LOCAL (R121, R368). -/
def execBelayLocal (p seq : Nat) (s : State) : Host.Outcome State Fault Refusal := .next (s.runBelay p seq 0)
/-- BELAY_PEER (R121, R260, R368). -/
def execBelayPeer (p seq : Nat) (s : State) : Host.Outcome State Fault Refusal := .next (s.runBelay p seq 1)
/-- BELAY_HOST (R121, R368). -/
def execBelayHost (p seq : Nat) (s : State) : Host.Outcome State Fault Refusal := .next (s.runBelay p seq 2)

/-- The STEP_COMMIT that seals a belay has ended: the first of its STEP accepted after it; its status (R367). -/
def Prt.sealStatus (v : Prt) (o : OpRec) (b : BelayRun) : Option (BitVec 8) :=
  match v.commits.find? (fun c => c.2.1 = b.step ∧ (if o.internal then b.jseq else o.seq) < c.1) with
  | some c => c.2.2
  | none => none

/-- BELAY_SEAL (R367). -/
def State.runSeal (s : State) (p seq : Nat) : State :=
  match (s.prt p).op seq with
  | none => s
  | some o =>
    match o.belay with
    | none => s
    | some b =>
      if !b.copied ∨ o.done then s
      else match (s.prt p).sealStatus o b with
        | none => s
        | some st =>
          let b1 := { b with loss := if st = stOK then b.loss else [] }
          s.sealBelay p o b1

/-- BELAY_SEAL (R367). -/
def execBelaySeal (p seq : Nat) (s : State) : Host.Outcome State Fault Refusal := .next (s.runSeal p seq)

/-! ### Receiving a peer belay (R369) -/

/-- The receiving tensor's entry, if peer belays from position q may come. -/
def State.rxTensor (s : State) (p q : Nat) : Option Entry × State :=
  let c := (s.prt p).belayCfg
  if !c.rxEn ∨ c.rxFrom.toNat ≠ q then (none, s)
  else
    let r := s.checkHandle p c.rxH.toNat
    match r.1 with
    | some e => (if eFmt e = .raw ∧ eTier e = 1 then some e else none, r.2)
    | none => (none, r.2)

/-- Write into the half that arrives. -/
def State.storeHalf (s : State) (p : Nat) (e : Entry) (off : Nat) (bs : List Byte) : State :=
  let half := eDataBytes e / 2
  let lo := if (s.prt p).rxHalf then half else 0
  (s.storeRun p [] (dataPlace (s.prt p).belayCfg.rxH.toNat e 0 7) (lo + off) ((bs.take (half - off)).map wPut)).1

/-- The peer has refused: the sending BELAY ends (R369). -/
def State.belayRefused (s : State) (p q : Nat) : State :=
  match (s.prt p).ops.find? (fun o => decide (dOp o.desc = 0x50 ∧ dSub o.desc = 1 ∧ o.belayPeer = q) && !o.done) with
  | some o => s.finishOp p o.seq stInvalid 0#16
  | none => s

/-- A BELAY flit from position q. -/
def State.receiveBelay (s : State) (p q : Nat) (h : FlitHdr) (payload : List Byte) : State :=
  if h.msg = 3 then s.belayRefused p q
  else
    let r := s.rxTensor p q
    match r.1 with
    | none => if h.msg = 0 then r.2.belayOut p q 3 0 true [] else r.2
    | some e =>
      let v := r.2.prt p
      if h.msg = 0 then
        (if eDataBytes e / 2 < fieldLe payload 0 8 then (r.2.updPrt p (fun v => { v with rxBytes := 0 })).belayOut p q 3 0 true []
         else
          let t := r.2.updPrt p (fun v => { v with rxHalf := !v.belayCfg.rxNewest, rxBytes := headerSize })
          t.storeHalf p e 0 (zeros headerSize))
      else if v.rxBytes < headerSize then r.2
      else if h.msg = 1 then
        (r.2.storeHalf p e v.rxBytes payload).updPrt p (fun v => { v with rxBytes := v.rxBytes + 224 })
      else if h.offset = 0 then r.2.storeHalf p e 0 payload
      else
        (r.2.storeHalf p e 224 (payload.take 32)).updPrt p (fun v =>
          { v with rxBytes := 0, belayCfg := { v.belayCfg with rxNewest := v.rxHalf } })

/-! ### Restore (R371-R373) -/

/-- An image as a RESTORE reads it. -/
abbrev Image := List (Option Byte)

/-- Bytes [off, off + n) of an image. -/
def Image.part (i : Image) (off n : Nat) : List (Option Byte) := (i.drop off).take n

/-- A section of a body. -/
structure Sect where
  type : Nat
  handle : Nat
  flags : Nat
  content : List Byte
deriving Repr

/-- The sections of a body. -/
def parseSections : Nat → List Byte → List Sect
  | 0, _ => []
  | n + 1, bs =>
    let len := fieldLe bs 8 8
    ⟨fieldLe bs 0 2, fieldLe bs 2 2, fieldLe bs 4 1, (bs.drop 16).take len⟩ :: parseSections n (bs.drop (16 + len))

/-- The header of an image may be restored (R371): MAGIC, VERSION, SEALED, HDR_MAC under the current Kc, POLICY_DIGEST. -/
def headerGood (v : Prt) (h : List Byte) : Bool :=
  decide (fieldLe h 0 4 = 0x59414C42 ∧ fieldLe h 4 2 = 1 ∧ fieldLe h 7 1 % 2 = 1)
    && decide ((cmac (kdf v.kc (sliceBytes h 64 16) 0x0A) (h.take 248)).take 7 = sliceBytes h 248 7)
    && (match v.party with | some q => decide (sliceBytes h 32 32 = q.digest) | none => false)

/-- A recorded entry and the current one agree (R371). -/
def sameTensor (a b : Entry) : Bool :=
  decide (eTier a = eTier b) && sameForm a b && decide (eVersioned a = eVersioned b ∧ eFrozen a = eFrozen b)

/-- What the first pass finds. -/
structure Verified where
  sections : List Sect
  ents : List (Nat × Entry)
  step : Nat
  lossValid : Bool
  loss : List Byte
deriving Repr

/-- The first pass over an image: the status it fails with, or what it verified. -/
def State.verifyImage (s : State) (p : Nat) (i : Image) (step : Nat) : Except (BitVec 8) Verified × State :=
  let v := s.prt p
  let ho := i.part 0 headerSize
  let h := sliceBytes (plainBytes ho) 0 headerSize
  if anyBad ho then (.error stPoisoned, s)
  else if !headerGood v h ∨ fieldLe h 16 8 ≠ step then (.error stInvalid, s)
  else
    let co := i.part headerSize (fieldLe h 8 8)
    let nonce := sliceBytes h 64 16
    if anyBad co ∨ sm3 (plainBytes co) ≠ sliceBytes h 104 32 then (.error stPoisoned, s)
    else
      let secs := parseSections (fieldLe h 100 4) (belayCrypt v.kc nonce 0 (plainBytes co))
      let ts := secs.filter (fun x => x.type = 6 ∨ x.type = 7)
      let c := s.checkHandles p (ts.map (·.handle))
      match c.1 with
      | none => (.error stInvalid, c.2)
      | some ents =>
        if !ts.all (fun x => match ents.find? (fun y => y.1 = x.handle) with
            | some y => sameTensor (BitVec.ofNat 512 (fieldLe x.content 0 64)) y.2 | none => false) then (.error stInvalid, c.2)
        else if !c.2.keysUsable p ents then (.error stKeyRetired, c.2)
        else (.ok ⟨secs, ents, step, decide (fieldLe h 7 1 / 2 % 2 = 1), belayCrypt v.kc nonce lossBlock (sliceBytes h 136 64)⟩, c.2)

/-- A version record from its 32 bytes. -/
def VerRec.ofBytes (bs : List Byte) : VerRec :=
  ⟨fieldLe bs 0 2, fieldLe bs 2 2, fieldLe bs 10 4, fieldLe bs 14 4, fieldLe bs 18 4, fieldLe bs 4 1 = 1, fieldLe bs 5 1 = 1, fieldLe bs 6 1 = 1⟩

/-- A HIST table from its record (Table 2.10). -/
def Hist.ofRecord (bs : List Byte) : Hist :=
  ⟨Sparse.setMany 0 [] 0 ((List.range 64).map (fun k => fieldLe bs (4 * k) 4)), signedNat 32 (fieldLe bs 256 4),
    fieldLe bs 260 4, fieldLe bs 264 4, fieldLe bs 268 4, fieldLe bs 272 4⟩

/-- Cut a byte string into records. -/
def cutRecords (n : Nat) (bs : List Byte) : List (List Byte) := (List.range (bs.length / n)).map (fun i => sliceBytes bs (n * i) n)

/-- Bits of a poison map. -/
def mapBit (bs : List Byte) (i : Nat) : Bool := bitAt (bs.getD (i / 8) 0#8) (i % 8)

/-- Write a recorded tensor to its current place; lines of the poison map become poisoned again (log 35). -/
def State.restoreTensor (s : State) (p : Nat) (e : Entry) (x : Sect) : State × Bool :=
  let slots := [0, 1].filter (fun k => x.flags / 2 ^ k % 2 = 1)
  let nd := eDataBytes e
  let ns := eScaleBytes e
  let map := x.content.drop (64 + slots.length * (nd + ns))
  (List.range slots.length).foldl (fun t i =>
    let k := slots.getD i 0
    let base := 64 + i * (nd + ns)
    let data := (List.range nd).map (fun j =>
      if x.flags / 4 % 2 = 1 ∧ mapBit map (i * ceilDiv nd 128 + j / 128) then some none else wPut (x.content.getD (base + j) 0#8))
    let a := t.1.storeRun p [] (dataPlace x.handle e k 7) 0 data
    let b := a.1.storeRun p [] (scalePlace x.handle e k 7) 0 ((sliceBytes x.content (base + nd) ns).map wPut)
    (b.1, t.2 || a.2 || b.2)) (s, false)

/-- Entry i of the format policy table from the section's content. -/
def restoreFormat (p : Nat) (v : Prt) (content : List Byte) (t : State × Bool) (i : Nat) : State × Bool :=
  if t.1.fmtLegal p i then
    let w := t.1.storeRun p [] ⟨1, v.fmt.addr.toNat, v.fmtKey.toNat, 0, 0, 7, 0⟩ (16 * i) ((sliceBytes content (16 * i) 16).map wPut)
    (w.1, t.2 || w.2)
  else t

/-- Write one section to its current place (R372). True: a write was not performed. -/
def State.restoreSection (s : State) (p : Nat) (ents : List (Nat × Entry)) (x : Sect) : State × Bool :=
  match x.type with
  | 1 => (s.updPrt p (fun v => { v with streams := Sparse.setMany 0 [] 0 ((cutRecords 8 x.content).map leVal) }), false)
  | 2 =>
    let r := s.checkHandle p 2
    (match r.1 with
      | some e => r.2.storeRun p [] (dataPlace 2 e 0 7) 0 ((x.content.take (eDataBytes e)).map wPut)
      | none => (r.2, false))
  | 3 => (s.updPrt p (fun v => { v with versions := (cutRecords 32 x.content).map VerRec.ofBytes }), false)
  | 4 => (List.range (min (s.prt p).fmtEntries (x.content.length / 16))).foldl (restoreFormat p (s.prt p) x.content) (s, false)
  | 5 => (s.updPrt p (fun v => { v with hists := Sparse.setMany Hist.zero [] 0 ((cutRecords 288 x.content).map Hist.ofRecord) }), false)
  | 6 => (match ents.find? (fun y => y.1 = x.handle) with | some y => s.restoreTensor p y.2 x | none => (s, false))
  | _ => (s, false)

/-- A FROZEN tensor in place differs from the recorded digest (R372). -/
def State.frozenDiffers (s : State) (p : Nat) (ents : List (Nat × Entry)) (x : Sect) : Bool :=
  match ents.find? (fun y => y.1 = x.handle) with
  | none => false
  | some y =>
    let o := { OpRec.new 0 0 0#1024 [y] false with internal := true }
    let r := s.tensorBytes p o y.1 0
    r.bad || decide (keyedDigest (s.prt p).digestKey (plainBytes r.data) (plainBytes r.side) ≠ fieldLe x.content 64 8)

/-- The second pass (R372, R373). -/
def State.restoreAll (s : State) (p : Nat) (o : OpRec) (w : Verified) : State :=
  let r := w.sections.foldl (fun t x => let y := t.1.restoreSection p w.ents x; (y.1, t.2 || y.2)) (s, false)
  let miss := (w.sections.filter (fun x => x.type = 7)).any (r.1.frozenDiffers p w.ents)
  let ok := !miss && !r.2
  (r.1.updPrt p (fun v => { v with
    offbufs := [], digests := [], voids := [], ordinals := [], frozenMismatch := miss,
    restoreState := if ok then (if w.lossValid then 1#3 else 4#3) else v.restoreState,
    restoreStep := if ok then w.step else v.restoreStep, restoreLoss := if ok then w.loss else v.restoreLoss })).finishOp p o.seq
      (if ok then stOK else stPoisoned) 0#16

/-- Both passes over an image. -/
def State.restoreImage (s : State) (p : Nat) (o : OpRec) (i : Image) : State :=
  let r := s.verifyImage p i (dStep o.desc)
  match r.1 with
  | .error st => r.2.finishOp p o.seq st 0#16
  | .ok w => r.2.restoreAll p o w

/-- RESTORE: the image at byte 0 of H_C. -/
def State.runRestore (s : State) (p : Nat) (o : OpRec) : State :=
  let h := dC o.desc
  let r := s.loadRaw p o h 0 (eDataBytes (o.ent h))
  r.2.restoreImage p o r.1

/-- RESTORE (R371-R373). -/
def execRestore (p seq : Nat) (s : State) : Host.Outcome State Fault Refusal :=
  .next (s.runOp p seq 0x50 (· = 3) (s.runRestore p))

/-- A half of the peer's tensor that RESTORE_PEER considers: sealed, with this device's position and the STEP (R371). -/
def State.candidate (s : State) (step : Nat) (h : List Byte) : Bool :=
  decide (fieldLe h 0 4 = 0x59414C42 ∧ fieldLe h 7 1 % 2 = 1 ∧ fieldLe h 98 1 = s.dev.ropePos.toNat ∧ fieldLe h 16 8 = step)

/-- RESTORE_PEER: `halves` are the two halves of the peer's tensor, none where the peer's registers do not serve this
device; `newest` is its NEWEST bit. -/
def State.runRestorePeer (s : State) (p : Nat) (halves : List (List Byte)) (newest : Bool) (o : OpRec) : State :=
  if !s.peerServes p o.belayPeer then s.finishOp p o.seq stPeerLost 0#16
  else
    let h0 := halves.getD 0 []
    let h1 := halves.getD 1 []
    let ok (h : List Byte) : Bool := s.candidate (dStep o.desc) h
    if ok h0 ∨ ok h1 then
      s.restoreImage p o ((if ok h0 ∧ (!ok h1 ∨ !newest) then h0 else h1).map some)
    else s.finishOp p o.seq stInvalid 0#16

/-- RESTORE_PEER (R371-R373). -/
def execRestorePeer (p seq : Nat) (halves : List (List Byte)) (newest : Bool) (s : State) : Host.Outcome State Fault Refusal :=
  .next (s.runOp p seq 0x50 (· = 4) (s.runRestorePeer p halves newest))

end Sys2Proof.Machine
end

