-- ==== Sys2Proof/Machine/Keys.lean ====
section
/-! DEFINITION. Key slots (R224-R229, R235), the sweep (R227), single accesses to basin lines with what the stacks answer
(R213-R216), the counter tree (R217-R223), scrub (R199, R200), storage tests (R336) and pool words (R194, R409). -/

namespace Sys2Proof.Machine

/-! ### Who owns a slot (Table 10.1, R225) -/

/-- The partition that holds slot k of engine m. -/
def State.slotHolder (s : State) (m k : Nat) : Option Nat := if m < 8 then s.unitOwner m else some (k / 8)

/-- The writer may command slot k of engine m: its partition through its VF, or the MGC. -/
def State.mayKey (s : State) (via : Via) (m k : Nat) : Bool :=
  match via with
  | .mgc => true
  | .pf0 _ => false
  | .vf _ part _ => decide (s.slotHolder m k = some part)

/-- A write to the page of engine m: MCE8 and MCE9 show KEY_SEL and KEY_CMD to every VF (Table 18.3). -/
def State.keyAccess (s : State) (via : Via) (m : Nat) : Access :=
  if 10 ≤ m then .ignore
  else match via with
    | .vf port part secured => if m < 8 then s.pageAccess via (pageMce m) else s.vfAccess port part secured true
    | _ => s.pageAccess via (pageMce m)

/-- KEY_STATE.CMD_ERR is set. -/
def State.refuseKey (s : State) (m : Nat) : State := s.updMce m (fun e => { e with cmdErr := true })

/-- KEY_SEL (R225, Table 10.7). -/
def State.writeKeySel (s : State) (via : Via) (m : Nat) (value : Reg) : State :=
  let k := (bitsAt value 0 6).toNat
  let j := (bitsAt value 8 6).toNat
  if !s.mayKey via m k || (bitAt value 14 && !s.mayKey via m j) then s.refuseKey m
  else s.updMce m (fun e => { e with
    selSlot := bitsAt value 0 6, selSucc := bitsAt value 8 6, selSuccEn := bitAt value 14, selHandle := bitsAt value 16 16 })

/-- KEY_SEL_WRITE (R225, R235). -/
def execKeySelWrite (via : Via) (m : Nat) (value : Reg) (s : State) : Host.Outcome State Fault Refusal :=
  .next (s.access (s.keyAccess via m) (fun s => s.writeKeySel via m value))

/-- A command to the selected slot by a writer that may command it (R224, R225). -/
def State.keyCommand (s : State) (via : Via) (m : Nat) (f : Nat → State → State) : State :=
  s.access (s.keyAccess via m) (fun s =>
    let k := (s.mce m).selSlot.toNat
    if s.mayKey via m k then f k s else s.refuseKey m)

/-! ### Commands (Table 10.5) -/

/-- The key that SEC holds for a handle of partition p's party (R327). -/
def State.secKey (s : State) (p handle : Nat) : Option (List Byte) :=
  match (s.prt p).party with
  | none => none
  | some q =>
    if handle / 8192 ≠ p then none
    else if handle / 4096 % 2 = 0 then
      match q.keys.find? (fun k => k.1 = handle / 256 % 16 ∧ k.2.1 = handle % 256) with
      | some k => k.2.2
      | none => none
    else if handle % 4096 = 0 then q.kc else none

/-- LOAD: the key and a new SLOT_NONCE; the offload sequence becomes 0. -/
def State.loadKey (s : State) (m k : Nat) : State :=
  let h := (s.mce m).selHandle.toNat
  let key := match s.slotHolder m k with | some p => s.secKey p h | none => none
  match key with
  | none => s.refuseKey m
  | some b =>
    if ((s.mce m).slot k).state = .free ∧ s.sec.entropyOk then
      let r := s.drawRandom
      r.2.updKey m k (fun x => { x with loaded := true, key := b, handle := h, nonce := r.1.take 16, offSeq := 0 })
    else s.refuseKey m

/-- KEY_LOAD (R224). -/
def execKeyLoad (via : Via) (m : Nat) (s : State) : Host.Outcome State Fault Refusal :=
  .next (s.keyCommand via m (fun k s => s.loadKey m k))

/-- ACTIVATE. -/
def State.activateKey (s : State) (m k : Nat) : State :=
  let x := (s.mce m).slot k
  if x.state = .free ∧ x.loaded then s.updKey m k (fun x => { x with state := .active }) else s.refuseKey m

/-- KEY_ACTIVATE (R224). -/
def execKeyActivate (via : Via) (m : Nat) (s : State) : Host.Outcome State Fault Refusal :=
  .next (s.keyCommand via m (fun k s => s.activateKey m k))

/-- Slots that drain with a successor. -/
def Mce.succDrains (e : Mce) : List Nat :=
  (List.range 64).filter (fun k => (e.slot k).state = .draining ∧ (e.slot k).succ.isSome)

/-- The selected successor may take over slot k (Table 10.5, R225). -/
def State.succOk (s : State) (m k j : Nat) : Bool :=
  let e := s.mce m
  decide ((e.slot j).state = .active) && decide (s.slotHolder m j = s.slotHolder m k) && decide (j ≠ k)
    && !(e.succDrains.any (fun x => (e.slot x).succ = some j)) && decide (e.succDrains.length < 4)

/-- DRAIN. -/
def State.drainKey (s : State) (m k : Nat) : State :=
  let e := s.mce m
  let j := e.selSucc.toNat
  if (e.slot k).state ≠ .active then s.refuseKey m
  else if !e.selSuccEn then s.updKey m k (fun x => { x with state := .draining, succ := none })
  else if s.succOk m k j then
    s.updKey m k (fun x => { x with state := .draining, succ := some j, sweepDone := false, sweepLine := 0, swept := false })
  else s.refuseKey m

/-- KEY_DRAIN (R224, R225). -/
def execKeyDrain (via : Via) (m : Nat) (s : State) : Host.Outcome State Fault Refusal :=
  .next (s.keyCommand via m (fun k s => s.drainKey m k))

/-- An entry of partition p names slot k of engine m (R205). -/
def State.entryNames (s : State) (p m k : Nat) (e : Entry) : Bool :=
  decide (eKey e = k) &&
    (if m < 8 then decide (eTier e = 1) && decide (s.unitOwner m = some p)
     else decide (eTier e = 2) && decide (mceOfPort (hostPort (eAddr e)) = m))

/-- References of accepted operations on slot k of engine m (R104). -/
def State.keyRefs (s : State) (m k : Nat) : Nat :=
  sumNat ((List.range 8).map (fun p =>
    ((s.prt p).ops.filter (fun o => o.ents.any (fun x => s.entryNames p m k x.2))).length))

/-- Host-tier reads on their way for slot k of engine m: those of accepted operations, and those of acceptance and of
operations that have ended, by their tensor's entry (R204, R224). -/
def State.keyReads (s : State) (m k : Nat) : Nat :=
  if m < 8 then 0 else
  ((s.hst (decide (m = 9))).reads.filter (fun r =>
    match (s.prt r.part).op r.seq with
    | some o => s.entryNames r.part m k (o.ent r.handle)
    | none => match (s.readEntry r.part r.handle).1 with
      | some e => s.entryNames r.part m k e
      | none => false)).length

/-- KEY_INFLIGHT.COUNT of slot k (Table 10.7). -/
def State.keyInflight (s : State) (m k : Nat) : Nat := s.keyRefs m k + s.keyReads m k

/-- RETIRE: the key bytes, the derived keys and SLOT_NONCE are erased. -/
def State.retireKey (s : State) (m k : Nat) : State :=
  let x := (s.mce m).slot k
  if x.state = .draining ∧ s.keyInflight m k = 0 ∧ (x.sweepDone ∨ x.succ = none) then
    s.updKey m k (fun x => { KeySlot.zero with state := .retired, handle := x.handle, sweepDone := x.sweepDone })
  else s.refuseKey m

/-- KEY_RETIRE (R224). -/
def execKeyRetire (via : Via) (m : Nat) (s : State) : Host.Outcome State Fault Refusal :=
  .next (s.keyCommand via m (fun k s => s.retireKey m k))

/-! ### What the stacks answer (R213, R221, R409) -/

/-- 128-byte lines of a group, counter tree included (R196, R199). -/
def groupLines : Nat := 6000000000
/-- An uncorrectable error of a page's block: its count, its error bit and its record (R346, R399). -/
def State.foundUe (s : State) (page : Nat) (bit : Option Nat) (info : Reg) : State :=
  let s1 := (s.countUe page).report (CperEvent.base 3#8 0#8 page)
  match bit with | some b => s1.raiseErr page b info | none => s1

/-- A line of group u fails its second read on the MCE's path (R213 step 5). -/
def State.losesLine (s : State) (u n : Nat) : State := (s.foundUe (pageMce u) none 0#32).poisonLine u n

/-- A line of the MCE's path was corrected, or verified on its second read (R213 steps 2 and 4, R221). -/
def State.mceRead (s : State) (u : Nat) (ecc : EccRead) (verified : Bool) : State :=
  match ecc with
  | .corrected => s.countCe (pageMce u) false
  | .transient => if verified then s.countCe (pageMce u) true else s
  | _ => s

/-- The MCE reads data line n with the outcome `ecc` of its storage: what it delivers (R213 steps 2 to 7). -/
def State.readBasin (s : State) (u n k : Nat) (ecc : EccRead) : Option (List Byte) × State :=
  if (s.mce u).beneathLoss n then (none, s)
  else match s.lineAt u n with
    | .data _ _ _ =>
      if ecc = .lasting then (none, s.losesLine u n)
      else
        let r := s.getLine u n k
        (r.1, r.2.mceRead u ecc r.1.isSome)
    | _ => (none, s)

/-! ### The sweep (R227) -/

/-- A token of the scrub activity of the partition that holds unit u (Table 13.5), or of the MGC's share of the unit's weir
when no partition does (R199, Table 13.4). -/
def State.chargeScrub (s : State) (u : Nat) : State :=
  match s.unitOwner u with | some p => s.takeTokens (40 + p) 5 1 | none => s.takeTokens (26 + u) 8 1

/-- What the sweep does with the line it has reached. -/
def State.sweepAt (s : State) (m k n : Nat) (ecc : EccRead) : State :=
  let e := s.mce m
  match s.lineAt m n with
  | .data ct mac _ =>
    if e.beneathLoss n then s
    else if ecc = .lasting then s.losesLine m n
    else match openBasin (e.slot k).key s.sec.devNonce m n (Sparse.get 0 e.ctr n) ct mac with
      | none => s.mceRead m ecc false
      | some pt => (((s.mceRead m ecc true).chargeScrub m).putLine m n k pt).1
  | _ => s

/-- SWEEP_STEP (R227): the next data line of a draining slot with a successor. -/
def execSweepStep (m slot : Nat) (ecc : EccRead) (s : State) : Host.Outcome State Fault Refusal :=
  let x := (s.mce m).slot slot
  .next (if m < 8 ∧ x.state = .draining ∧ x.succ.isSome ∧ !x.swept then
    (((s.chargeScrub m).sweepAt m slot x.sweepLine ecc).progress (pageMce m) 1).updKey m slot (fun x =>
      { x with sweepLine := x.sweepLine + 1, swept := decide (dataLines ≤ x.sweepLine + 1) })
  else s)

/-- SWEEP_FLUSH (R227): what was written under the old key has reached the stacks; MCE8 and MCE9 have no sweep. -/
def execSweepFlush (m slot : Nat) (s : State) : Host.Outcome State Fault Refusal :=
  let x := (s.mce m).slot slot
  .next (if x.state = .draining ∧ x.succ.isSome ∧ (8 ≤ m ∨ x.swept) then
    s.updKey m slot (fun x => { x with sweepDone := true }) else s)

/-! ### The counter tree (R217-R223) -/

/-- TREE_LOSS of line ℓ of level k (R221, R223): a 17th loss, or a loss of an on-die level, loses the group. -/
def State.loseTree (s : State) (u k l : Nat) : State :=
  (s.updMce u (fun e => { e with
    lossCount := satAdd e.lossCount 1
    lost := if k < 6 ∧ e.lost.length < 16 then e.lost ++ [(k, l)] else e.lost
    groupLost := e.groupLost || decide (6 ≤ k ∨ 16 ≤ e.lost.length)
    cache := e.cache.filter (fun t => !(t.level ≤ k ∧ l * 16 ^ (k - t.level) ≤ t.line ∧ t.line < (l + 1) * 16 ^ (k - t.level))) })).raiseErr
    (pageMce u) 3 (BitVec.ofNat 32 ((treeStart k + l) / 32))

/-- The MCE reads tree line (k, n's) on its way to the counter of line n (R220, R221); a cached line is not read. -/
def State.readTree (s : State) (u n k : Nat) (tree : EccRead) : State :=
  let l := n / 16 ^ (k + 1)
  let e := s.mce u
  if 8 < k ∨ e.beneathLoss n ∨ (k < 6 ∧ e.cache.any (fun t => t.level = k ∧ t.line = l)) then s
  else match tree with
    | .clean => s
    | .corrected => (s.countCe (pageMce u) false).raiseErr (pageMce u) 2 (BitVec.ofNat 32 ((treeStart k + l) / 32))
    | .transient => s.countCe (pageMce u) true
    | .lasting => ((s.countUe (pageMce u)).report (CperEvent.base 4#8 0#8 (pageMce u))).loseTree u k l

/-- BASIN_READ (R213): the counter path, the line, its MAC. -/
def execBasinRead (m line slot : Nat) (ecc tree : EccRead) (level : Nat) (s : State) : Host.Outcome State Fault Refusal :=
  .next (if m < 8 ∧ line < dataLines ∧ (s.mce m).usable slot then
    (((s.readTree m line level tree).readBasin m line slot ecc).2).progress (pageMce m) 1 else s)

/-- BASIN_WRITE (R210, R211, R214): a full line. -/
def execBasinWrite (m line slot : Nat) (data : List Byte) (s : State) : Host.Outcome State Fault Refusal :=
  .next (if m < 8 ∧ line < dataLines ∧ data.length = 128 ∧ (s.mce m).usable slot then
    ((s.putLine m line slot data).1).progress (pageMce m) 1 else s)

/-- A read-modify-write of part of a line (R214, R215): EMPTY merges into zeros; a line that does not verify stays. -/
def State.mergeLine (s : State) (u n k offset : Nat) (data : List Byte) (ecc : EccRead) : State :=
  let ws : List WByte := List.replicate offset none ++ data.map wPut
  match s.lineAt u n with
  | .empty => (s.putLine u n k (mergeBytes (zeros 128) ws)).1
  | _ =>
    let r := s.readBasin u n k ecc
    match r.1 with
    | some old => (r.2.putLine u n k (mergeBytes old ws)).1
    | none => r.2

/-- BASIN_PARTIAL_WRITE (R214): fewer than 128 bytes. -/
def execBasinPartialWrite (m line slot offset : Nat) (data : List Byte) (ecc : EccRead) (s : State) : Host.Outcome State Fault Refusal :=
  .next (if m < 8 ∧ line < dataLines ∧ 0 < data.length ∧ data.length < 128 ∧ offset + data.length ≤ 128 ∧ (s.mce m).usable slot then
    (s.mergeLine m line slot offset data ecc).progress (pageMce m) 1 else s)

/-- TREE_EVICTION (R220): a cached tree line without cached children leaves the cache; a changed one is written. -/
def execTreeEviction (m level line : Nat) (s : State) : Host.Outcome State Fault Refusal :=
  let e := s.mce m
  .next (match e.cache.find? (fun t => t.level = level ∧ t.line = line) with
    | none => s
    | some t =>
      if 8 ≤ m ∨ e.childCached level line then s
      else if e.treeAtLimit t then
        s.raiseErr (pageMce m) 4 (BitVec.ofNat 32 ((treeStart level + line) / 32))
      else s.updMce m (fun e => e.evict m t))

/-- Data lines beneath tree line (k, ℓ), and tree lines of level j beneath it: the first and how many. -/
def beneath (total first n : Nat) : Nat × Nat := (first, min n (total - first))

/-- The counters and MACs of a reinitialised subtree (R222): M + 1 everywhere, the lost line written last. -/
def Mce.reinit (e : Mce) (u k l : Nat) : Mce :=
  let v := e.maxCtr + 1
  let d := beneath dataLines (l * 16 ^ (k + 1)) (16 ^ (k + 1))
  let e1 := { e with ctr := Sparse.setMany 0 e.ctr d.1 (List.replicate d.2 v), maxCtr := v }
  let lines (j : Nat) := beneath (treeLines j) (l * 16 ^ (k - j)) (16 ^ (k - j))
  let e2 := (List.range k).foldl (fun (x : Mce) j =>
    { x with treeCtr := Sparse.setMany 0 x.treeCtr (treeKey j (lines j).1) (List.replicate (lines j).2 v) }) e1
  let e3 := (List.range k).foldl (fun (x : Mce) j =>
    { x with treeMac := Sparse.setMany none x.treeMac (treeKey j (lines j).1)
               ((List.range (lines j).2).map (fun i => some (x.treeMacOf u j ((lines j).1 + i) v)))
             treePoison := Sparse.dropKeys x.treePoison (fun y =>
               decide (treeStart j + (lines j).1 ≤ y ∧ y < treeStart j + (lines j).1 + (lines j).2)) }) e2
  e3.writeTree u k l

/-- SUBTREE_REINIT (R222): the oldest recorded loss of an engine; counters past their limit are not written (R211). -/
def execSubtreeReinit (m : Nat) (s : State) : Host.Outcome State Fault Refusal :=
  let e := s.mce m
  .next (match e.lost with
    | [] => s
    | (k, l) :: rest =>
      if e.groupLost then s
      else if 2 ^ 64 ≤ e.maxCtr + 1 then s.raiseErr (pageMce m) 4 (BitVec.ofNat 32 ((treeStart k + l) / 32))
      else
        let d := beneath dataLines (l * 16 ^ (k + 1)) (16 ^ (k + 1))
        let s1 := { s with basin := Sparse.dropKeys s.basin (fun x => decide (m * 2 ^ 33 + d.1 ≤ x ∧ x < m * 2 ^ 33 + d.1 + d.2)) }
        s1.updMce m (fun e => { e.reinit m k l with lost := rest }))

/-- GROUP_REBUILD (R212, R223): a lost group's tree as at start-up; every data line EMPTY, every counter 0. -/
def execGroupRebuild (m : Nat) (s : State) : Host.Outcome State Fault Refusal :=
  .next (if (s.mce m).groupLost then
    ({ s with basin := Sparse.dropKeys s.basin (fun x => decide (x / 2 ^ 33 = m)) }).updMce m (fun e =>
      { e with ctr := [], treeCtr := [], treeMac := [], cache := [], lost := [], groupLost := false, maxCtr := 0,
               treePoison := [] })
  else s)

/-! ### Scrub (R199, R200) -/

/-- The level and index of the tree line at line x of the group, if one lies there. -/
def treeAt (x : Nat) : Option (Nat × Nat) :=
  ((List.range 6).find? (fun k => treeStart k ≤ x ∧ x < treeStart k + treeLines k)).map (fun k => (k, x - treeStart k))

/-- Scrub finds an uncorrectable error in line n of group k (R199): BAS counts it, the MCE writes the POISON marker, which
no later pass counts again. A tree line that is not in the cache is lost with it; a cached one will be written again (log
37). -/
def State.scrubLoss (s : State) (k n : Nat) : State :=
  if n < dataLines then
    (match s.lineAt k n with
      | .data _ _ _ => (s.foundUe (pageBas k) (some 1) (BitVec.ofNat 32 (n / 32))).poisonLine k n
      | _ => s)
  else if Sparse.get false (s.mce k).treePoison n then s
  else
    let s1 := ((s.foundUe (pageBas k) (some 1) (BitVec.ofNat 32 (n / 32))).updMce k (fun e =>
      { e with poisonCount := satAdd e.poisonCount 1, treePoison := Sparse.set false e.treePoison n true })).raiseErr (pageMce k) 1
        (BitVec.ofNat 32 (n / 32))
    match treeAt n with
    | none => s1
    | some (j, l) =>
      if (s1.mce k).cache.any (fun t => t.level = j ∧ t.line = l) then
        s1.updMce k (fun e => { e with cache := cacheLine e.cache j l true })
      else if (s1.mce k).lost.contains (j, l) then s1
      else (s1.report (CperEvent.base 4#8 0#8 (pageMce k))).loseTree k j l

/-- SCRUB_STEP (R199): one line of group k, then on to the next. -/
def execScrubStep (k : Nat) (ecc : EccRead) (s : State) : Host.Outcome State Fault Refusal :=
  let b := s.bas k
  .next (if k < 8 ∧ b.state = 2#2 ∧ s.takes (pageBas k) then
    let info := BitVec.ofNat 32 (b.scrubLine / 32)
    let s1 := match ecc with
      | .clean => s
      | .corrected => (s.countCe (pageBas k) false).raiseErr (pageBas k) 0 info
      | .transient => (s.countCe (pageBas k) true).raiseErr (pageBas k) 0 info
      | .lasting => s.scrubLoss k b.scrubLine
    ((s1.chargeScrub k).progress (pageBas k) 1).updBas k (fun b =>
      if groupLines ≤ b.scrubLine + 1 then { b with scrubLine := 0, scrubPasses := b.scrubPasses + 1 }
      else { b with scrubLine := b.scrubLine + 1 })
  else s)

/-- LINE_TEST (R336): the storage of a poisoned line or word of a block is tested; a broken array makes the block suspect. -/
def execLineTest (page : Nat) (test : TestRead) (s : State) : Host.Outcome State Fault Refusal :=
  .next (match test, pageClass page with
    | .broken, some _ => if (s.hdr page).suspect then s else s.makeSuspect page
    | _, _ => s)

/-! ### Pool words (R194, R409) -/

/-- What a read of an SRAM word of block `page` counts (R409): `lost` is what its second failure leaves. -/
def State.sramRead (s : State) (page : Nat) (ce ue : Option Nat) (ecc : EccRead) (lost : State → State) : State :=
  let noted (t : State) (bit : Option Nat) : State := match bit with | some b => t.raiseErr page b 0#32 | none => t
  match ecc with
  | .clean => s
  | .corrected => noted (s.countCe page false) ce
  | .transient => noted (s.countCe page true) ce
  | .lasting => lost (s.foundUe page ue 0#32)

/-- The pages whose arrays Table 15.3 makes a suspect block or port: journal and slots, caches, key stores, eddy buffers; and
whether their ERR_STATUS has the CE and UE bits of Table 18.6. -/
def storePage (page : Nat) : Option Bool :=
  match pageClass page with
  | some (.prt, _) => some false
  | some (.jnl, _) => some true
  | some (.sec, _) => some true
  | some (.mce, _) => some false
  | some (.lnk, _) => some false
  | _ => none

/-- POOL_READ (R194, R409, Table 15.3): a pool word or scratchpad word is delivered, or poisoned after its second failure; a
word of another array makes its block suspect. A word that holds the poison pattern is no error. -/
def execPoolRead (array : SramArray) (offset : Nat) (ecc : EccRead) (s : State) : Host.Outcome State Fault Refusal :=
  .next (match array with
    | .pool core =>
      let w := (core * 2 ^ 31 + offset) / 64
      if core < 256 ∧ offset < 1500000000 ∧ !Sparse.get false s.poolBad w then
        s.sramRead (pagePool (core / 8)) (some 0) (some 1) ecc (fun t => { t with poolBad := Sparse.set false t.poolBad w true })
      else s
    | .scratchpad core =>
      let w := (core * 2 ^ 22 + offset) / 8
      if core < 256 ∧ offset < spdSize ∧ !Sparse.get false s.spdBad w then
        s.sramRead (pageSpd core) (some 0) (some 1) ecc (fun t => { t with spdBad := Sparse.set false t.spdBad w true })
      else s
    | .store => match storePage offset with
      | none => s
      | some bits =>
        if (s.hdr offset).suspect then s
        else s.sramRead offset (if bits then some 0 else none) (if bits then some 1 else none) ecc (fun t => t.makeSuspect offset))

/-- POOL_SCRUB (R194): a POOL block completes a scrub pass of its slices. -/
def execPoolScrub (block : Nat) (s : State) : Host.Outcome State Fault Refusal :=
  .next (if block < 32 ∧ s.takes (pagePool block) then { s with poolPasses := Sparse.modify 0#32 s.poolPasses block (· + 1) } else s)

/-- BASIN_REFRESH (R198): refresh keeps every line as it is. -/
def execBasinRefresh (_k : Nat) (s : State) : Host.Outcome State Fault Refusal := .next s

end Sys2Proof.Machine
end

