-- ==== Sys2Proof/Machine/Host.lean ====
section
/-! DEFINITION. Host ports: read completions and their failures (R204), link loss and return (R264), FLR and TDISP (R267,
R269), IDE streams (R268), SPDM (R270, R325), and the identity that SEC signs with (R323, R324). What a message of a named
standard holds beside the facts of the spec is PRESUMED from that standard: log 15. -/

namespace Sys2Proof.Machine

/-! ### Host-tier reads (R204) -/

/-- A line that was asked for an operation arrives: its plaintext, or poisoned (R204, R230). -/
def State.giveOp (s : State) (r : HostRead) (data : HostLine) : State :=
  match (s.prt r.part).op r.seq with
  | none => s
  | some o =>
    let e := o.ent r.handle
    let m := mceOfPort (hostPort (hostSide e r.partNo).1)
    let pt := match data with
      | none => none
      | some bs => s.openLine r.part o.desc e r.handle r.line r.partNo bs
    let s1 := if data.isSome && pt.isNone then
        (s.updMce m (fun e => { e with tagFail := satAdd e.tagFail 1 })).raiseErr (pageMce m) 0 0#32 else s
    (s1.chargeHost r.part (hostPort (hostSide e r.partNo).1) (activityOf (dOp o.desc)) false).updOp r.part r.seq (fun o =>
      { o with got := o.got + 1
               inbuf := Sparse.set [] o.inbuf ((2 * r.handle + r.partNo) * 2 ^ 40 + r.line) (pt.getD []) })

/-- A line that the acceptance of a queue's descriptor asked for arrives. -/
def State.giveQueue (s : State) (r : HostRead) (n : Nat) (data : HostLine) : State :=
  match ((s.prt r.part).queue n).held with
  | none => s
  | some d =>
    let c := s.readEntry r.part r.handle
    let e := c.1.getD 0#512
    let m := mceOfPort (hostPort (hostSide e r.partNo).1)
    let pt := match data with
      | none => none
      | some bs => c.2.openLine r.part d e r.handle r.line r.partNo bs
    let s1 := if data.isSome && pt.isNone then
        (c.2.updMce m (fun e => { e with tagFail := satAdd e.tagFail 1 })).raiseErr (pageMce m) 0 0#32 else c.2
    (s1.chargeHost r.part (hostPort (hostSide e r.partNo).1) 2 false).updQueue r.part n (fun q =>
      { q with got := q.got + 1
               inbuf := Sparse.set [] q.inbuf ((2 * r.handle + r.partNo) * 2 ^ 40 + r.line) (pt.getD []) })

/-- The read of tag t ends. Data of an old epoch or generation is dropped (R18, R355). -/
def State.endRead (s : State) (port : Bool) (r : HostRead) (data : HostLine) : State :=
  let s1 := s.updHst port (fun h => { h with reads := h.reads.filter (fun x => x.tag ≠ r.tag) })
  let v := s1.prt r.part
  if v.epoch ≠ r.epoch ∨ v.gen ≠ r.gen then s1
  else if (List.range 16).any (fun n => r.seq = queueSeq n) then s1.giveQueue r (r.seq - queueSeq 0) data
  else s1.giveOp r data

/-- HOST_READ_COMPLETION (R204): a line's ciphertext and tag, or an error completion; the tag returns to the port. -/
def execHostReadCompletion (port : Bool) (tag : Nat) (data : HostLine) (s : State) : Host.Outcome State Fault Refusal :=
  .next (match (s.hst port).reads.find? (fun r => r.tag = tag) with
    | none => s
    | some r => (s.endRead port r data).askAll.progress (pageHst port) 1)

/-- HOST_COMPLETION_TIMEOUT (R204): the read ends as an error. -/
def execHostCompletionTimeout (port : Bool) (tag : Nat) (s : State) : Host.Outcome State Fault Refusal :=
  .next (match (s.hst port).reads.find? (fun r => r.tag = tag) with
    | none => s
    | some r => ((s.endRead port r none).raiseErr (pageHst port) 4 0#32).askAll)

/-! ### The port's link (R264) -/

/-- Outstanding reads of a port end poisoned, those that `f` names. -/
def State.endReads (s : State) (port : Bool) (f : HostRead → Bool) : State :=
  ((s.hst port).reads.filter f).foldl (fun t r => t.endRead port r none) s

/-- The link of a host port leaves UP (R264): it trains again, as light allows. -/
def State.dropHostLink (s : State) (port : Bool) (dst : HostLink) : State :=
  if (s.hst port).link ≠ .up then s
  else
    let s1 := s.updHst port (fun h => { h with link := dst, downCount := satAdd h.downCount 1 })
    ((s1.raiseErr (pageHst port) 2 0#32).msix (!port) 0 5).endReads port (fun _ => true)

/-- HOST_LINK_DOWN (R264). -/
def execHostLinkDown (port : Bool) (s : State) : Host.Outcome State Fault Refusal :=
  .next ((s.dropHostLink port .down).askAll)

/-- A host port comes UP with its rate, lanes and FLIT mode (Table 12.7). -/
def State.raiseHostLink (s : State) (port : Bool) (speed width : BitVec 4) (flit : Bool) : State :=
  (s.updHst port (fun h => { h with link := .up, speed := speed, width := width, flit := flit })).msix (!port) 0 5

/-- HOST_LINK_UP (R264). -/
def execHostLinkUp (port : Bool) (speed width : BitVec 4) (flit : Bool) (s : State) : Host.Outcome State Fault Refusal :=
  .next (if (s.hst port).link ≠ .up ∧ !s.dev.outputsOff ∧ s.dev.state ≠ .boot ∧ 1 ≤ speed.toNat ∧ speed.toNat ≤ 6
      ∧ (width = 4#4 ∨ width = 8#4) then
    s.raiseHostLink port speed width flit else s)

/-! ### FLR and TDISP (R267, R269) -/

/-- Set the TDISP state of the VF of partition p on a port. -/
def State.setTdi (s : State) (port : Bool) (p : Nat) (t : Tdi) : State :=
  s.updHst port (fun h => { h with tdisp := Sparse.set Tdi.unlocked h.tdisp p t })

/-- The host is detached from partition p on a port (R267). -/
def State.detach (s : State) (port : Bool) (p : Nat) : State :=
  let s1 := s.setTdi port p .unlocked
  let s2 := (List.range 16).foldl (fun t n =>
    let q := (t.prt p).queue n
    if q.enable ∧ !q.loc ∧ q.port = port then t.stopQueue p n else t) s1
  let s3 := s2.updPrt p (fun v => { v with lend := (List.range 16).foldl (fun m n =>
    Sparse.modify Lend.zero m n (fun l => if l.port = port then { l with valid := false } else l)) v.lend })
  (s3.endReads port (fun r => r.part = p)).askAll

/-- An FLR of PF0 (R267): the masks and the pending bits of its MSI-X vectors. -/
def Hst.resetPf0 (h : Hst) : Hst :=
  { h with msixMask := h.msixMask.filter (fun x => decide (64 ≤ x.1)), msixPending := h.msixPending.filter (fun x => decide (64 ≤ x.1)) }

/-- FLR (R267): function 0 is PF0, function p + 1 the VF of partition p. Configuration space is out of scope (log 53). -/
def execFlr (port : Bool) (fn : Nat) (s : State) : Host.Outcome State Fault Refusal :=
  .next (if (s.hst port).link ≠ .up ∨ 8 < fn then s
    else if fn = 0 then s.updHst port Hst.resetPf0
    else s.detach port (fn - 1))

/-- TDISP requests reach a VF (1 to 8) while the port's link is UP. -/
def State.tdispReaches (s : State) (port : Bool) (vf : Nat) : Bool :=
  decide (1 ≤ vf ∧ vf ≤ 8 ∧ (s.hst port).link = .up)

/-- A TDISP error response. -/
def State.tdispError (s : State) (port : Bool) (vf : Nat) : State := s.emit (.tdisp port vf 0x7F [4#8])

/-- STOP_INTERFACE (R267): as an FLR of the VF. -/
def State.stopInterface (s : State) (port : Bool) (vf : Nat) : State :=
  if s.tdispReaches port vf then (s.detach port (vf - 1)).emit (.tdisp port vf 0x07 []) else s

/-- STOP_INTERFACE. -/
def execStopInterface (port : Bool) (vf : Nat) (s : State) : Host.Outcome State Fault Refusal := .next (s.stopInterface port vf)

/-- GET_TDISP_VERSION (R269): version 1.0. -/
def State.tdispVersion (s : State) (port : Bool) (vf : Nat) : State :=
  if s.tdispReaches port vf then s.emit (.tdisp port vf 0x01 [1#8, 0x10#8]) else s

/-- GET_TDISP_VERSION. -/
def execGetTdispVersion (port : Bool) (vf : Nat) (s : State) : Host.Outcome State Fault Refusal := .next (s.tdispVersion port vf)

/-- The TDISP requests supported, bits of their codes 0x81 to 0x87 (R269). -/
def tdispRequests : List Byte := [0xFE#8]

/-- GET_TDISP_CAPABILITIES (R269). -/
def State.tdispCapabilities (s : State) (port : Bool) (vf : Nat) : State :=
  if s.tdispReaches port vf then s.emit (.tdisp port vf 0x02 tdispRequests) else s

/-- GET_TDISP_CAPABILITIES. -/
def execGetTdispCapabilities (port : Bool) (vf : Nat) (s : State) : Host.Outcome State Fault Refusal :=
  .next (s.tdispCapabilities port vf)

/-- LOCK_INTERFACE (R269): from CONFIG_UNLOCKED to CONFIG_LOCKED, with a nonce that SEC draws. -/
def State.lockInterface (s : State) (port : Bool) (vf : Nat) : State :=
  if !s.tdispReaches port vf then s
  else if (s.hst port).tdi (vf - 1) ≠ .unlocked ∨ !s.sec.entropyOk then s.tdispError port vf
  else
    let r := s.drawRandom
    (r.2.setTdi port (vf - 1) .locked).emit (.tdisp port vf 0x03 r.1)

/-- LOCK_INTERFACE. -/
def execLockInterface (port : Bool) (vf : Nat) (s : State) : Host.Outcome State Fault Refusal := .next (s.lockInterface port vf)

/-- The interface report (R269): the VF's one BAR0 range of 32 MiB while its partition is assigned to the port, else none. -/
def State.tdispReport (s : State) (port : Bool) (p : Nat) : List Byte :=
  if (s.prt p).onPort port ∧ (s.prt p).state ≠ .unassigned then leBytes 4 1 ++ leBytes 8 0 ++ leBytes 4 8192 else leBytes 4 0

/-- GET_DEVICE_INTERFACE_REPORT (R269): in CONFIG_LOCKED and RUN. -/
def State.interfaceReport (s : State) (port : Bool) (vf : Nat) : State :=
  if !s.tdispReaches port vf then s
  else if (s.hst port).tdi (vf - 1) = .locked ∨ (s.hst port).tdi (vf - 1) = .run then
    s.emit (.tdisp port vf 0x04 (s.tdispReport port (vf - 1)))
  else s.tdispError port vf

/-- GET_DEVICE_INTERFACE_REPORT. -/
def execGetDeviceInterfaceReport (port : Bool) (vf : Nat) (s : State) : Host.Outcome State Fault Refusal :=
  .next (s.interfaceReport port vf)

/-- Codes of TDISP_STATE (Table 12.7). -/
def Tdi.code : Tdi → Nat
  | .unlocked => 0 | .locked => 1 | .run => 2 | .error => 3

/-- GET_DEVICE_INTERFACE_STATE (R269). -/
def State.interfaceState (s : State) (port : Bool) (vf : Nat) : State :=
  if s.tdispReaches port vf then s.emit (.tdisp port vf 0x05 (leBytes 1 ((s.hst port).tdi (vf - 1)).code)) else s

/-- GET_DEVICE_INTERFACE_STATE. -/
def execGetDeviceInterfaceState (port : Bool) (vf : Nat) (s : State) : Host.Outcome State Fault Refusal :=
  .next (s.interfaceState port vf)

/-- START_INTERFACE (R269): from CONFIG_LOCKED to RUN. -/
def State.startInterface (s : State) (port : Bool) (vf : Nat) : State :=
  if !s.tdispReaches port vf then s
  else if (s.hst port).tdi (vf - 1) = .locked then (s.setTdi port (vf - 1) .run).emit (.tdisp port vf 0x06 [])
  else s.tdispError port vf

/-- START_INTERFACE. -/
def execStartInterface (port : Bool) (vf : Nat) (s : State) : Host.Outcome State Fault Refusal := .next (s.startInterface port vf)

/-- A TDISP message: its request code and its VF (log 15). -/
def State.tdispMessage (s : State) (port : Bool) (payload : List Byte) : State :=
  let vf := (payload.getD 1 0#8).toNat
  match (payload.getD 0 0#8).toNat with
  | 0x81 => s.tdispVersion port vf
  | 0x82 => s.tdispCapabilities port vf
  | 0x83 => s.lockInterface port vf
  | 0x84 => s.interfaceReport port vf
  | 0x85 => s.interfaceState port vf
  | 0x86 => s.startInterface port vf
  | 0x87 => s.stopInterface port vf
  | _ => if s.tdispReaches port vf then s.tdispError port vf else s

/-! ### IDE streams (R268) -/

/-- An SPDM session that has finished its handshake. -/
def Hst.sessionUp (h : Hst) (id : Nat) : Bool := h.sessions.any (fun x => decide (x.id = id) && x.finished)

/-- Bit i of a mask set or cleared. -/
def setBit {n : Nat} (v : BitVec n) (i : Nat) (b : Bool) : BitVec n :=
  if b then v ||| BitVec.ofNat n (2 ^ i) else v &&& ~~~(BitVec.ofNat n (2 ^ i))

/-- IDE_KM (R268): over an SPDM secure session, the 32-byte key of the VF's selective stream, which is then active. -/
def State.ideKey (s : State) (port : Bool) (vf session : Nat) (key : List Byte) : State :=
  if s.tdispReaches port vf ∧ (s.hst port).sessionUp session ∧ key.length = 32 then
    s.updHst port (fun h => { h with
      ideKeys := Sparse.set [] h.ideKeys (vf - 1) key, ideActive := setBit h.ideActive (vf - 1) true })
  else s

/-- IDE_KM. -/
def execIdeKm (port : Bool) (vf session : Nat) (key : List Byte) (s : State) : Host.Outcome State Fault Refusal :=
  .next (s.ideKey port vf session key)

/-- IDE_INTEGRITY_FAILURE (R268): the stream ends, its VF's TDI enters ERROR. -/
def execIdeIntegrityFailure (port : Bool) (vf : Nat) (s : State) : Host.Outcome State Fault Refusal :=
  .next (if s.tdispReaches port vf ∧ bitAt (s.hst port).ideActive (vf - 1) then
    ((s.updHst port (fun h => { h with
      ideKeys := Sparse.set [] h.ideKeys (vf - 1) []
      ideActive := setBit h.ideActive (vf - 1) false
      ideFailed := setBit h.ideFailed (vf - 1) true
      tdisp := Sparse.set Tdi.unlocked h.tdisp (vf - 1) .error })).raiseErr (pageHst port) 3 0#32)
  else s)

/-! ### Identity and signatures (R323-R325) -/

/-- The private identity key d (R323). -/
def identityPriv : Nat :=
  let u := leBytes 32 Config.uds.toNat
  1 + leVal (sm3 (u ++ [1#8]) ++ sm3 (u ++ [2#8])) % (sm2N - 1)

/-- The public identity key, x then y. -/
def identityPub : List Byte := sm2Bytes (sm2MulG identityPriv)

/-- The identity hash (R324). -/
def identityHash : List Byte := sm3 identityPub

/-- A signature under the identity key; its random value is drawn by SEC (R326). -/
def State.signed (s : State) (msg : List Byte) : List Byte × State :=
  let r := s.drawRandom
  (sm2Sign identityPriv (1 + leVal r.1 % (sm2N - 1)) msg, r.2)

/-- DEV.FUSE_SUMMARY (Table 14.5). -/
def State.fuseSummary (s : State) : Nat :=
  (if s.fuses.production then 1 else 0) + (if s.fuses.debugDisabled then 2 else 0) + (if s.fuses.key0Revoked then 4 else 0)
    + 8 * s.fuses.powerCode.toNat + (if s.sec.running then 256 else 0) + (if s.sec.tryBank.isSome then 512 else 0)

/-- DEV.DEBUG_STATE (Table 14.5). -/
def State.debugState (s : State) : Nat :=
  (if s.dev.jtagEnabled then 1 else 0) + (if s.dev.injectEnabled then 2 else 0) + (if s.dev.debugUsed then 4 else 0)

/-! ### SPDM 1.2 (R270, R271, R325) -/

/-- MCTP reaches the endpoint (R271): on SMBus under the address 0x40 + ROPE_POS, as a VDM while the port's link is UP. -/
def State.mctpReaches (s : State) (via : MctpVia) : Bool :=
  match via with
  | .smbus address => decide (address = 0x40 + s.dev.ropePos.toNat)
  | .vdm port => decide ((s.hst port).link = .up)

/-- SPDM reaches SEC: over DOE while the port's link is UP (R270), over MCTP where that reaches (R271). -/
def State.spdmReaches (s : State) (path : SpdmPath) : Bool :=
  match path with
  | .doe port => decide ((s.hst port).link = .up)
  | .mctp via => s.mctpReaches via

/-- The algorithms of a path's connection are negotiated (DSP0274). -/
def State.spdmNegotiated (s : State) (path : SpdmPath) : Bool :=
  match path with
  | .doe port => (s.hst port).negotiated
  | .mctp _ => s.mctpNegotiated

/-- An SPDM response. -/
def State.spdmAnswer (s : State) (path : SpdmPath) (code : Nat) (bs : List Byte) : State := s.emit (.spdm path code bs)

/-- An SPDM ERROR response. -/
def State.spdmError (s : State) (path : SpdmPath) (code : BitVec 8) : State := s.emit (.spdm path 0x7F [code, 0#8])

/-- A request that reaches SEC; requests after the negotiation need it (DSP0274). -/
def State.spdmRequest (s : State) (path : SpdmPath) (needs : Bool) (f : State → State) : State :=
  if !s.spdmReaches path then s
  else if needs && !s.spdmNegotiated path then s.spdmError path 4#8
  else f s

/-- The connection of a path starts anew: nothing negotiated; over DOE its sessions end (DSP0274). -/
def State.spdmRestart (s : State) (path : SpdmPath) : State :=
  match path with
  | .doe port => s.updHst port (fun h => { h with negotiated := false, sessions := [] })
  | .mctp _ => { s with mctpNegotiated := false }

/-- GET_VERSION (R270): 1.2 only; the connection starts anew. -/
def execGetVersion (path : SpdmPath) (s : State) : Host.Outcome State Fault Refusal :=
  .next (s.spdmRequest path false (fun s => (s.spdmRestart path).spdmAnswer path 0x04 [1#8, 0x00#8, 0x12#8]))

/-- Capability flags of R270: certificates, challenge, signed measurements, encryption, MAC, key exchange, heartbeat, key
update; neither mutual authentication nor PSK. -/
def spdmCaps : Nat := 0x62D6

/-- Capability flags of a path: over MCTP there are no secure sessions (R271). -/
def capsOf (path : SpdmPath) : Nat :=
  match path with
  | .doe _ => spdmCaps
  | .mctp _ => 0x16

/-- GET_CAPABILITIES (R270). -/
def execGetCapabilities (path : SpdmPath) (s : State) : Host.Outcome State Fault Refusal :=
  .next (s.spdmRequest path false (fun s => s.spdmAnswer path 0x61 (leBytes 4 (capsOf path))))

/-- The algorithms of a connection: SM2, SM3-256, and the AEAD of its sessions (DSP0274's codes: PRESUMED, log 15). -/
def algorithms (aead : Nat) : List Byte := leBytes 4 0x200 ++ leBytes 4 0x40 ++ leBytes 2 aead

/-- What the negotiation leaves: over DOE the cipher of the port's sessions too. -/
def State.spdmSelect (s : State) (path : SpdmPath) (aes sm4 : Bool) : State :=
  match path with
  | .doe port => (s.updHst port (fun h => { h with negotiated := true, sm4Sessions := !aes && sm4 })).spdmAnswer path 0x63
      (algorithms (if aes then 2 else 8))
  | .mctp _ => ({ s with mctpNegotiated := true }).spdmAnswer path 0x63 (algorithms 0)

/-- NEGOTIATE_ALGORITHMS (R270): SM2 and SM3-256, which the requester must offer; for sessions AES-256-GCM where it is
offered (DESIGN CHOICE, log 15), else SM4-GCM; over MCTP there are no sessions (R271). -/
def execNegotiateAlgorithms (path : SpdmPath) (offer : SpdmOffer) (s : State) : Host.Outcome State Fault Refusal :=
  .next (s.spdmRequest path false (fun s =>
    if offer.sm ∧ (offer.aes ∨ offer.sm4 ∨ capsOf path ≠ spdmCaps) then s.spdmSelect path offer.aes offer.sm4 else s.spdmError path 1#8))

/-- GET_DIGESTS (R270): slot 0 holds the one chain. -/
def execGetDigests (path : SpdmPath) (s : State) : Host.Outcome State Fault Refusal :=
  .next (s.spdmRequest path true (fun s => s.spdmAnswer path 0x01 (1#8 :: sm3 Config.certificateChain)))

/-- GET_CERTIFICATE (R325): a portion of the chain of slot 0, root first. -/
def execGetCertificate (path : SpdmPath) (slot offset len : Nat) (s : State) : Host.Outcome State Fault Refusal :=
  .next (s.spdmRequest path true (fun s =>
    if slot = 0 then s.spdmAnswer path 0x02 ((Config.certificateChain.drop offset).take len) else s.spdmError path 1#8))

/-- A response signed with the identity key; BUSY while the entropy source fails (R325, R326). -/
def State.spdmSigned (s : State) (path : SpdmPath) (code : Nat) (bs nonce : List Byte) : State :=
  if s.sec.entropyOk then
    let g := s.signed (nonce ++ bs)
    g.2.spdmAnswer path code (bs ++ g.1)
  else s.spdmError path 3#8

/-- CHALLENGE (R325). -/
def execChallenge (path : SpdmPath) (nonce : List Byte) (s : State) : Host.Outcome State Fault Refusal :=
  .next (s.spdmRequest path true (fun s => s.spdmSigned path 0x03 (sm3 Config.certificateChain) nonce))

/-- Measurement block i (R325): 1 to 8 the images, 9 FUSE_SUMMARY and DEBUG_STATE. -/
def State.measurementBlock (s : State) (i : Nat) : List Byte :=
  if 1 ≤ i ∧ i ≤ 8 then [BitVec.ofNat 8 i] ++ sliceBytes (Sparse.get [] s.sec.measurements (i - 1)) 0 32
  else if i = 9 then [9#8] ++ leBytes 4 s.fuseSummary ++ leBytes 4 s.debugState
  else []

/-- GET_MEASUREMENTS (R325): index 0 asks for the count, 0xFF for every block, else for one. -/
def execGetMeasurements (path : SpdmPath) (index : Nat) (nonce : List Byte) (s : State) : Host.Outcome State Fault Refusal :=
  .next (s.spdmRequest path true (fun s =>
    if index = 0 then s.spdmSigned path 0x60 [9#8] nonce
    else if index = 0xFF then s.spdmSigned path 0x60 ((List.range 9).flatMap (fun i => s.measurementBlock (i + 1))) nonce
    else if index ≤ 9 then s.spdmSigned path 0x60 (s.measurementBlock index) nonce
    else s.spdmError path 1#8))

/-- KEY_EXCHANGE (R270): up to 4 sessions; mutual authentication is not supported. -/
def execKeyExchange (port : Bool) (id : Nat) (mutualAuth : Bool) (s : State) : Host.Outcome State Fault Refusal :=
  .next (s.spdmRequest (.doe port) true (fun s =>
    let h := s.hst port
    if mutualAuth ∨ h.sessions.any (fun x => x.id = id) then s.spdmError (.doe port) 1#8
    else if 4 ≤ h.sessions.length then s.spdmError (.doe port) 0x0A#8
    else if !s.sec.entropyOk then s.spdmError (.doe port) 3#8
    else
      let r := s.drawRandom
      (r.2.updHst port (fun h => { h with sessions := h.sessions ++ [⟨id, false, 0⟩] })).spdmSigned (.doe port) 0x64
        (sm2Bytes (sm2MulG (1 + leVal r.1 % (sm2N - 1)))) []))

/-- A request within a session in the given state of its handshake. -/
def State.inSession (s : State) (port : Bool) (id : Nat) (finished : Bool) (f : State → State) : State :=
  s.spdmRequest (.doe port) true (fun s =>
    if (s.hst port).sessions.any (fun x => x.id = id ∧ x.finished = finished) then f s else s.spdmError (.doe port) 1#8)

/-- Change one session of a port. -/
def State.updSession (s : State) (port : Bool) (id : Nat) (f : Session → Session) : State :=
  s.updHst port (fun h => { h with sessions := h.sessions.map (fun x => if x.id = id then f x else x) })

/-- A session ends. -/
def State.endSession (s : State) (port : Bool) (id : Nat) : State :=
  s.updHst port (fun h => { h with sessions := h.sessions.filter (fun x => x.id ≠ id) })

/-- FINISH (R270): the handshake ends; one that does not verify ends the session. -/
def execFinish (port : Bool) (id : Nat) (verified : Bool) (s : State) : Host.Outcome State Fault Refusal :=
  .next (s.inSession port id false (fun s =>
    if verified then (s.updSession port id (fun x => { x with finished := true })).spdmAnswer (.doe port) 0x65 []
    else (s.endSession port id).spdmError (.doe port) 6#8))

/-- KEY_UPDATE (R270). -/
def execKeyUpdate (port : Bool) (id : Nat) (s : State) : Host.Outcome State Fault Refusal :=
  .next (s.inSession port id true (fun s =>
    (s.updSession port id (fun x => { x with keyGen := x.keyGen + 1 })).spdmAnswer (.doe port) 0x69 []))

/-- HEARTBEAT (R270). -/
def execHeartbeat (port : Bool) (id : Nat) (s : State) : Host.Outcome State Fault Refusal :=
  .next (s.inSession port id true (fun s => s.spdmAnswer (.doe port) 0x68 []))

/-- END_SESSION (R270). -/
def execEndSession (port : Bool) (id : Nat) (s : State) : Host.Outcome State Fault Refusal :=
  .next (s.inSession port id true (fun s => (s.endSession port id).spdmAnswer (.doe port) 0x6C []))

/-- VENDOR_DEFINED_REQUEST (R270): carries an IDE_KM message, its VF and its key, or a TDISP message; the message has its
effect and is answered (log 15). -/
def execVendorDefinedRequest (port : Bool) (id : Nat) (ide : Bool) (payload : List Byte) (s : State) :
    Host.Outcome State Fault Refusal :=
  .next (s.inSession port id true (fun s =>
    (if ide then s.ideKey port (payload.getD 0 0#8).toNat id (payload.drop 1) else s.tdispMessage port payload).spdmAnswer
      (.doe port) 0x7E [if ide then 0#8 else 1#8]))

end Sys2Proof.Machine
end

