-- ==== Sys2Proof/Machine/Report.lean ====
section
/-! DEFINITION. The attestation report (R331, R332, Table 14.8). -/

namespace Sys2Proof.Machine

/-- Codes of DEV_STATE (Table 17.11). -/
def DevState.code : DevState → Nat
  | .boot => 0 | .ready => 1 | .draining => 2 | .drained => 3 | .fault => 4

/-- Codes of PRT_STATE (Table 13.9). -/
def PrtState.code : PrtState → Nat
  | .unassigned => 0 | .empty => 1 | .setup => 2 | .active => 3 | .tearing => 4 | .resetting => 5

/-- A mask with bit p set for every partition that `f` names. -/
def partMask (f : Nat → Bool) : Nat := sumNat ((List.range 8).map (fun p => if f p then 2 ^ p else 0))

/-- HOST_MAP of a port (Table 18.8). -/
def State.hostMask (s : State) (h : Bool) : Nat :=
  partMask (fun p => decide ((s.prt p).state ≠ .unassigned) && (s.prt p).onPort h)

/-- The 40 bytes of a weir in the report; an unused or reserved weir is 0. -/
def State.weirBytes (s : State) (w : Nat) : List Byte :=
  if w = 37 ∨ w = 38 ∨ w = 39 ∨ (40 ≤ w ∧ (s.prt (w - 40)).state = .unassigned) then zeros 40
  else
    let v := s.weir w
    leBytes 4 v.period ++ (List.range 9).flatMap (fun a => leBytes 4 (Sparse.get Alloc.zero v.allocs a).tokens)

/-- The public setup key of a partition; 0 without a party. -/
def Prt.setupPub (v : Prt) : List Byte :=
  match v.party with | some q => sm2Bytes (sm2MulG q.setupKey) | none => zeros 64

/-- Bytes 2,352 to 2,719: the part of one partition. -/
def State.reportPart (s : State) (p : Nat) : List Byte :=
  let v := s.prt p
  if 8 ≤ p ∨ v.state = .unassigned then zeros 368
  else
    let codes := match v.party with | some q => q.codes | none => []
    (match v.party with | some q => sliceBytes q.digest 0 32 | none => zeros 32)
      ++ leBytes 2 (v.ctxId p) ++ leBytes 1 v.state.code ++ leBytes 1 ((if v.paceEn then 1 else 0) + if v.paceRequired then 2 else 0)
      ++ zeros 4 ++ v.setupPub ++ sliceBytes (codes.flatMap (fun c => sliceBytes c 0 32)) 0 256 ++ leBytes 1 codes.length ++ zeros 7

/-- Bytes 0 to 2,719 of the report on partition p (0xFF: none) with a nonce. -/
def State.reportBody (s : State) (p : Nat) (nonce : List Byte) : List Byte :=
  leBytes 4 0x54505244 ++ leBytes 2 1 ++ leBytes 2 2784 ++ leBytes 4 0x4160 ++ leBytes 4 0xA1 ++ identityHash
    ++ sliceBytes nonce 0 32 ++ sliceBytes s.sec.bootId 0 16 ++ leBytes 4 s.fuseSummary ++ leBytes 4 s.debugState
    ++ leBytes 1 p ++ leBytes 1 s.dev.state.code ++ zeros 6
    ++ (List.range 8).flatMap (fun i => sliceBytes (Sparse.get [] s.sec.measurements i) 0 32)
    ++ (List.range 8).map (fun i => Sparse.get 0#8 s.sec.svns i)
    ++ (List.range 8).flatMap (fun i => leBytes 1 (Sparse.get 0 s.fuses.svn i))
    ++ (List.range 8).flatMap (fun k => leBytes 1 ((s.unitOwner k).getD 0xFF))
    ++ leBytes 1 (s.hostMask false) ++ leBytes 1 (s.hostMask true) ++ zeros 6
    ++ (List.range 24).map (fun i => (s.lnk i).mask) ++ zeros 8
    ++ (List.range 48).flatMap s.weirBytes
    ++ s.reportPart p

/-- A signed report of 2,784 bytes; REPORT_COUNT rises (R331, R332). -/
def State.makeReport (s : State) (p : Nat) (nonce : List Byte) : List Byte × State :=
  let body := s.reportBody p nonce
  let g := s.signed body
  (body ++ g.1, g.2.updSec (fun x => { x with reportCount := satAdd x.reportCount 1 }))

end Sys2Proof.Machine
end

