-- ==== Sys2Proof/Machine/Links.lean ====
section
/-! DEFINITION. Rope links: training, loss and replay of a port (R237-R245), takeover (R241), credits (R246, R247), security
associations (R248-R251, R259-R262), and the flits a port receives (Table 11.5). -/

namespace Sys2Proof.Machine

/-! ### Training (R237-R239, R244, R245) -/

/-- The wavelengths that a training leaves active: all eight, or the group of four that locks in full (R237). -/
def activeLambdas (locked : BitVec 8) : Option (BitVec 8) :=
  if locked = 0xFF#8 then some 0xFF#8
  else if locked &&& 0x0F#8 = 0x0F#8 then some 0x0F#8
  else if locked &&& 0xF0#8 = 0xF0#8 then some 0xF0#8
  else none

/-- The index of the port whose role a port plays: its own, or for L23 the one it stands in for (R241). -/
def State.roleOf (s : State) (i : Nat) : Nat := if i = 23 ∧ (s.lnk 23).takeoverEn then (s.lnk 23).takeover.toNat else i

/-- The rope position that R238 gives for the peer of mesh port i. -/
def State.wiredPos (s : State) (i : Nat) : Nat := (s.dev.ropePos.toNat + 1 + i) % 16

/-- A port enters LOST (R245): eddy buffer, sequence state and associations go, and the loopback test begins. -/
def State.enterLost (s : State) (i : Nat) : State :=
  let s1 := (s.updLnk i (fun l => { l with state := .lost, loopback := true })).dropPort i
  (s1.raiseErr (pageLnk i) 2 0#32).msixPf0 5

/-- The port may train: lit, not suspect, and no other port has taken over its role (R241, R333). -/
def State.mayTrain (s : State) (i : Nat) : Bool :=
  (s.lnk i).light && !s.dev.outputsOff && !(s.hdr (pageLnk i)).suspect && !((s.lnk 23).takeoverEn && decide ((s.lnk 23).takeover.toNat = i))

/-- A training begins; each after the first of the port counts in input 4 of the risk estimate (Table 16.6). -/
def State.startTraining (s : State) (i : Nat) : State :=
  (if (s.lnk i).retrains = 0#8 then s else s.riskEvent 4 1).trainPort i

/-- The initiator of an exchange is the side with the smaller identity hash (R249, R324). -/
def initiates (peerId : List Byte) : Bool := decide (leVal identityHash < leVal peerId)

/-- Keys and salts from the 40 bytes of an exchange (R249). -/
def Sa.install (x : Sa) (first : Bool) (k : List Byte) : Sa :=
  let a := sliceBytes k 0 16
  let b := sliceBytes k 16 16
  let c := sliceBytes k 32 4
  let d := sliceBytes k 36 4
  { x with sendKey := if first then a else b, recvKey := if first then b else a, sendSalt := if first then c else d,
           recvSalt := if first then d else c }

/-- The device association opens from the two identity keys alone (R248; log 26). -/
def State.openDevice (s : State) (i : Nat) (peerKey : List Byte) : State :=
  let first := initiates (sm3 peerKey)
  let peer := sm2Parse peerKey
  let k := sm2Exchange first identityPriv identityPriv peer peer
  s.updSa i 8 (fun _ => { Sa.reset.install first k with state := .open_, initiator := first })

/-- A trained port is UP or DEGRADED with its peer's position and identity. A retraining of R244 resumes with its eddy
buffer; another training starts at SEQ 0 with full credits and opens the device association. -/
def State.portUp (s : State) (i : Nat) (t : Training) (act : BitVec 8) : State :=
  let resumed := ((s.lnk i).sa 8).serves
  let id := sm3 t.peerKey
  let s1 := s.updLnk i (fun l => { l with
    state := if act = 0xFF#8 then .up else .degraded
    lambdaActive := act, peerPos := t.peerPos, peerValid := true, peerIdTag := BitVec.ofNat 16 (leVal id), peerId := id
    peerKey := t.peerKey, noProgress := 0 })
  let s2 :=
    if resumed then ((s1.lnk i).eddy.foldl (fun u e => u.emit (.flit i e.2)) s1).drainPort i
    else (s1.updLnk i (fun l => { l with
        eddy := [], txSeq := 0, rxSeq := 0
        vcs := (List.range 9).map (fun v => (v, { Vc.reset with credits := fullCredits v })) })).openDevice i t.peerKey
  s2.msixPf0 5

/-- The end of a training (R237-R239, R244). -/
def State.finishTraining (s : State) (i : Nat) (t : Training) : State :=
  let r := s.roleOf i
  match activeLambdas (t.locked &&& ~~~(s.lnk i).lambdaDisable) with
  | none => (s.raiseErr (pageLnk i) 5 0#32).enterLost i
  | some act =>
    if r < 15 ∧ (t.peerPos.toNat ≠ s.wiredPos r ∨ t.peerPos = s.dev.ropePos) then
      (((s.updLnk i (fun l => { l with state := .dark, peerPos := t.peerPos, peerValid := true, peerKey := t.peerKey
                                       peerId := sm3 t.peerKey, peerIdTag := BitVec.ofNat 16 (leVal (sm3 t.peerKey)) })).dropPort i).raiseErr
        (pageLnk i) 3 0#32).msixPf0 5
    else s.portUp i t act

/-- LINK_TRAINING (R237): a port in TRAINING ends it. -/
def execLinkTraining (link : Nat) (result : Training) (s : State) : Host.Outcome State Fault Refusal :=
  .next (if link < 24 ∧ (s.lnk link).state = .training then s.finishTraining link result else s)

/-- LINK_LOST (R245): light is lost at a port that had it. -/
def execLinkLost (link : Nat) (s : State) : Host.Outcome State Fault Refusal :=
  .next (if link < 24 then
    let s1 := s.updLnk link (fun l => { l with light := false })
    if (s.lnk link).carries ∨ (s.lnk link).state = .training then s1.enterLost link else s1
  else s)

/-- RECEIVE_TIMEOUT (R245): 768 ns without a good flit or a training pattern, in a training too. -/
def execReceiveTimeout (link : Nat) (s : State) : Host.Outcome State Fault Refusal :=
  .next (if link < 24 ∧ ((s.lnk link).carries ∨ (s.lnk link).state = .training) then s.enterLost link else s)

/-- LOOPBACK_TEST (R245): the test of a LOST port ends; a port that fails is suspect; one with light trains. -/
def execLoopbackTest (link : Nat) (passes : Bool) (s : State) : Host.Outcome State Fault Refusal :=
  .next (if link < 24 ∧ (s.lnk link).state = .lost ∧ (s.lnk link).loopback then
    let s1 := s.updLnk link (fun l => { l with loopback := false })
    let s2 := if passes then s1 else (s1.report (CperEvent.base 7#8 3#8 (pageLnk link))).makeSuspect (pageLnk link)
    if s2.mayTrain link then s2.startTraining link else s2
  else s)

/-- A DARK port trains when light comes to it: the device runs, the port is not held (Table 17.3, LINKS_HELD), and L23
stands in for a port (R241). -/
def State.wakes (s : State) (i : Nat) : Bool :=
  decide ((s.lnk i).state = .dark) && !(s.lnk i).light && decide (s.dev.state ≠ .boot)
    && (if i = 23 then (s.lnk 23).takeoverEn else decide (s.dev.bootSel ≠ 2#2) || s.dev.linksReleased)

/-- LIGHT_RETURNS (R245): a LOST port whose test has ended trains, and a DARK one to which light comes. Before start-up,
START_UP says which ports have light. -/
def execLightReturns (link : Nat) (s : State) : Host.Outcome State Fault Refusal :=
  .next (if link < 24 ∧ ¬((s.lnk link).state = .dark ∧ s.dev.state = .boot) then
    let s1 := s.updLnk link (fun l => { l with light := true })
    if (((s.lnk link).state = .lost ∧ !(s.lnk link).loopback) ∨ s.wakes link) ∧ s1.mayTrain link then s1.startTraining link else s1
  else s)

/-! ### Takeover and held links (R241, R377) -/

/-- A management command: the MGC, or PF0 of a port that is UP. -/
def State.manages (s : State) (via : Via) : Bool :=
  match via with | .mgc => true | .pf0 port => decide ((s.hst port).link = .up) | .vf _ _ _ => false

/-- L23 takes the role of port i, or gives it back. -/
def State.setTakeover (s : State) (i : Nat) (enable : Bool) : State :=
  let sp := s.lnk 23
  if enable then
    (if sp.takeoverEn then s
     else
      let s1 := ((s.updLnk i (fun l => { l with state := .dark })).dropPort i).msixPf0 5
      let s2 := (s1.updLnk 23 (fun l => { l with takeover := BitVec.ofNat 5 i, takeoverEn := true })).riskEvent 4 1
      if s2.mayTrain 23 then s2.startTraining 23 else s2)
  else if sp.takeoverEn ∧ sp.takeover.toNat = i then
    let s1 := (((s.updLnk 23 (fun l => { l with state := .dark })).dropPort 23).updLnk 23 (fun l => { l with takeoverEn := false })).msixPf0 5
    if s1.mayTrain i then s1.startTraining i else s1
  else s

/-- A write of LNK23.LNK_ROLE by the MGC (R241, Table 11.8): TAKEOVER holds what was written; the role that L23 has taken
goes back where EN is 0 or another port is named. An index that is no other port's takes no role (log 60). -/
def State.writeRole (s : State) (i : Nat) (enable : Bool) : State :=
  let old := s.lnk 23
  let s1 := if old.takeoverEn ∧ !(enable && decide (old.takeover.toNat = i)) then s.setTakeover old.takeover.toNat false else s
  let s2 := s1.updLnk 23 (fun l => { l with takeover := BitVec.ofNat 5 i })
  if enable ∧ i < 23 then s2.setTakeover i true else s2

/-- TAKEOVER (R241): management names the failed port, which the MGC writes, or gives the role back. -/
def execTakeover (via : Via) (link : Nat) (enable : Bool) (s : State) : Host.Outcome State Fault Refusal :=
  .next (if s.manages via ∧ link < 23 ∧ s.dev.state ≠ .boot then
    (if enable then s.writeRole link true else s.setTakeover link false) else s)

/-- TRAIN_LINKS (R377): under LINKS_HELD, the lit mesh and outbound ports train. -/
def execTrainLinks (s : State) : Host.Outcome State Fault Refusal :=
  .next (if s.dev.bootSel = 2#2 ∧ !s.dev.linksReleased ∧ s.dev.state ≠ .boot then
    (List.range 23).foldl (fun t i => if (t.lnk i).state = .dark ∧ t.mayTrain i then t.startTraining i else t)
      (s.updDev (fun d => { d with linksReleased := true }))
  else s)

/-! ### Replay (R243, R244) -/

/-- A NAK asks for a replay of what the eddy buffer still holds; where sixteen replays have made no progress, the port
retrains. -/
def State.replay (s : State) (i : Nat) : State :=
  let l := s.lnk i
  if l.eddy = [] then s
  else
    if 16 ≤ l.noProgress then
      ((s.updLnk i (fun l => { l with noProgress := 0 })).raiseErr (pageLnk i) 0 (BitVec.ofNat 32 ((l.eddy.map (·.1)).headD 0))).startTraining i
    else
      let s1 := s.updLnk i (fun l => { l with replayCount := satAdd l.replayCount 1, noProgress := l.noProgress + 1 })
      let s2 := if (l.replayCount.toNat + 1) % 256 = 0 then s1.riskEvent 1 1 else s1
      l.eddy.foldl (fun t e => t.emit (.flit i e.2)) s2

/-- KEEPALIVE (Table 11.5): its ACK and credits take effect. -/
def execKeepalive (link : Nat) (flit : List Byte) (s : State) : Host.Outcome State Fault Refusal :=
  .next (s.onFlit link flit 0x01 (fun _ _ _ t => t))

/-- NAK (R243). -/
def execNak (link : Nat) (flit : List Byte) (s : State) : Host.Outcome State Fault Refusal :=
  .next (s.onFlit link flit 0x02 (fun _ _ _ t => t.replay link))

/-- KEEPALIVE_SEND (R245). -/
def execKeepaliveSend (link : Nat) (s : State) : Host.Outcome State Fault Refusal :=
  .next (if link < 24 then s.sendControl link 1 else s)

/-- FLIT_CRC_OR_GCM_FAIL (R243, R251): a flit whose CRC or tag fails is dropped and a NAK sent. -/
def execFlitCrcOrGcmFail (link : Nat) (flit : List Byte) (s : State) : Host.Outcome State Fault Refusal :=
  .next (match s.receive link flit with | .drop t => t | .deliver _ _ _ _ => s)

/-- UNLISTED_FLIT_TYPE (R242): a flit of no listed TYPE is dropped with PROTOCOL. -/
def execUnlistedFlitType (link : Nat) (flit : List Byte) (s : State) : Host.Outcome State Fault Refusal :=
  .next (if flitTypes.contains (FlitHdr.ofBytes flit).type then s
    else match s.receive link flit with | .drop t => t | .deliver _ _ _ _ => s)

/-! ### Credits (R247, R361) -/

/-- CREDIT_REQ: the receiver grants the full count of the channel. -/
def execCreditReq (link : Nat) (flit : List Byte) (s : State) : Host.Outcome State Fault Refusal :=
  .next (s.onFlit link flit 0x03 (fun _ pl a t =>
    let v := fieldLe pl 0 1
    if a ≠ 8 ∨ 8 < v then t
    else (t.updVc link v (fun c => { c with owed := 0 })).sendMgmt link 4 (leBytes 1 v ++ leBytes 2 (fullCredits v))))

/-- CREDIT_RESET: the channel has its full count and sends again. -/
def execCreditReset (link : Nat) (flit : List Byte) (s : State) : Host.Outcome State Fault Refusal :=
  .next (s.onFlit link flit 0x04 (fun _ pl a t =>
    let v := fieldLe pl 0 1
    if a ≠ 8 ∨ 8 < v ∨ !((t.lnk link).vc v).waitReset then t
    else (t.updVc link v (fun c => { c with credits := min (fieldLe pl 1 2) (fullCredits v), waitReset := false, requests := 0 })).drainPort link))

/-- CREDIT_REQ_TIMEOUT (R361): an unanswered CREDIT_REQ is sent again; after eight the association closes as by peer loss,
and the channel waits no longer. -/
def execCreditReqTimeout (link vc : Nat) (s : State) : Host.Outcome State Fault Refusal :=
  .next (let c := (s.lnk link).vc vc
    if 24 ≤ link ∨ 8 < vc ∨ !c.waitReset then s
    else if c.requests < 8 then s.sendCreditReq link vc c.epoch
    else
      let s1 := match (s.lnk link).saOnVc vc with
        | some a => s.closeSa link a .exchanging true
        | none => if vc = 8 then s.updSa link 8 (fun x => x.close .closed) else s
      s1.updVc link vc (fun c => { c with waitReset := false, credits := 0, requests := 0, waiting := [] }))

/-! ### Association commands (R250, R262) -/

/-- Who may command an association: PF0 and the MGC any but index 8; a VF its own, on a port assigned to its partition. -/
def State.saAccess (s : State) (via : Via) (i : Nat) : Access :=
  if 24 ≤ i then .ignore
  else match via with
    | .vf port part secured => s.vfAccess port part secured (bitAt (s.lnk i).mask part && decide ((s.lnk i).saSel.toNat = part))
    | _ => s.pf0Access via

/-- The port plays an outbound role (Table 11.8). -/
def State.outbound (s : State) (i : Nat) : Bool := let r := s.roleOf i; decide (15 ≤ r ∧ r < 23)

/-- A new exchange of association a: ephemeral key and nonce are drawn, and SA_SETUP carries them to the peer (log 26). -/
def State.beginExchange (s : State) (i a : Nat) (state : SaState) : State :=
  if !s.sec.entropyOk then s
  else
    let r := s.drawRandom
    let n := r.2.drawRandom
    let e := 1 + leVal r.1 % (sm2N - 1)
    (n.2.updSa i a (fun x => { x with state := state, cause := 0#3, ephemeral := e, nonce := n.1 })).sendMgmt i 8
      (leBytes 1 ((n.2.lnk i).sa a).peerPart.toNat ++ leBytes 1 a ++ sm2Bytes (sm2MulG e) ++ n.1)

/-- Send the report over the peer's nonce in SA_SETUP flits with their offsets (log 26). -/
def State.sendReport (s : State) (i a : Nat) : State :=
  if !s.sec.entropyOk then s
  else
    let x := (s.lnk i).sa a
    let r := s.makeReport a x.peerNonce
    (List.range (ceilDiv r.1.length 222)).foldl (fun t k =>
      t.sendFlit i 8 { FlitHdr.basic 8 8 0 with last := decide (r.1.length ≤ 222 * (k + 1)), msg := 1, offset := 222 * k }
        (leBytes 1 x.peerPart.toNat ++ leBytes 1 a ++ (r.1.drop (222 * k)).take 222)) r.2

/-- Both sides' ephemeral keys and nonces are known, so this side answers with its report (R249). -/
def State.answerExchange (s : State) (i a : Nat) : State :=
  let x := (s.lnk i).sa a
  if x.ephemeral ≠ 0 ∧ x.peerR ≠ [] ∧ x.peerFrom = x.peerPart.toNat then s.sendReport i a else s

/-- SA_STATE becomes FAILED with a cause (R249). -/
def State.failSa (s : State) (i a : Nat) (cause : BitVec 3) : State :=
  (s.closeSa i a .failed true).updSa i a (fun x => { x with state := .failed, cause := cause })

/-- PEER_PART and REPLICA of SA_CTRL hold what was last written (Table 11.8). -/
def State.writeSaCtrl (s : State) (i : Nat) (value : Reg) : State :=
  let a := (s.lnk i).saSel.toNat
  if a < 8 then s.updSa i a (fun x => { x with ctrl := bitsAt value 8 4 }) else s

/-- OPEN (R249, R250). -/
def State.openSa (s : State) (i : Nat) (value : Reg) : State :=
  let a := (s.lnk i).saSel.toNat
  if 8 ≤ a ∨ ((s.lnk i).sa a).serves then s
  else
    let s1 := s.updSa i a (fun x => { x with
      peerPart := bitsAt value 8 3, replica := bitAt value 11 && s.outbound i, openLocal := true,
      initiator := initiates (s.lnk i).peerId })
    if (s.prt a).party.isNone then s1.failSa i a 3#3 else (s1.beginExchange i a .exchanging).answerExchange i a

/-- OPEN (R250). -/
def execOpenSa (via : Via) (link : Nat) (value : Reg) (s : State) : Host.Outcome State Fault Refusal :=
  .next (s.access (s.saAccess via link) (fun s => (s.writeSaCtrl link value).openSa link value))

/-- REKEY (R250): an OPEN association runs a new exchange. -/
def execRekey (via : Via) (link : Nat) (value : Reg) (s : State) : Host.Outcome State Fault Refusal :=
  .next (s.access (s.saAccess via link) (fun s0 =>
    let s := s0.writeSaCtrl link value
    let a := (s.lnk link).saSel.toNat
    if a < 8 ∧ ((s.lnk link).sa a).state = .open_ then s.beginExchange link a .rekeying else s))

/-- CLOSE (R250): SA_CLOSE is sent, SA_GEN rises, the keys are erased; it stays CLOSED until OPEN is written. -/
def execCloseSa (via : Via) (link : Nat) (value : Reg) (s : State) : Host.Outcome State Fault Refusal :=
  .next (s.access (s.saAccess via link) (fun s0 =>
    let s := s0.writeSaCtrl link value
    let a := (s.lnk link).saSel.toNat
    if a < 8 then s.sendClose link a closeLocal true else s))

/-- CREDIT_RESET_REQ (R247): CREDIT_REQ for the channel of SA_SEL.SA, without an epoch change. -/
def execCreditResetReq (via : Via) (link : Nat) (value : Reg) (s : State) : Host.Outcome State Fault Refusal :=
  .next (s.access (s.saAccess via link) (fun s =>
    let a := (s.lnk link).saSel.toNat
    if !bitAt value 0 then s
    else if a = 8 then s.sendCreditReq link 8 0#8
    else if a < 8 then s.sendCreditReq link ((s.lnk link).sa a).peerPart.toNat (s.prt a).epoch
    else s))

/-! ### The exchange (R249) -/

/-- The peer's port that faces port i is assigned to the peer partition in its report: for a mesh port L(14 − i) (R238),
whose fibre alone changes where L23 stands in for port i (R241); for an outbound port some outbound or spare port (log 26).
-/
def State.peerAssigns (s : State) (i : Nat) (report : List Byte) (part : Nat) : Bool :=
  let has (k : Nat) : Bool := decide (fieldLe report (400 + k) 1 / 2 ^ part % 2 = 1)
  let r := s.roleOf i
  if r < 15 then has (14 - r) else (List.range 9).any (fun k => has (15 + k))

/-- The cause for which SEC refuses to open association a with the peer's report; 0 when it opens (R249). -/
def State.setupCause (s : State) (i a : Nat) (certOk : Bool) : BitVec 3 :=
  let l := s.lnk i
  let x := l.sa a
  let report := x.peerReport
  let good := certOk && decide (x.peerR.length = 64) && decide (report.length = 2784) && decide (sliceBytes report 16 32 = l.peerId)
    && decide (sliceBytes report 48 32 = x.nonce) && decide (fieldLe report 104 1 = x.peerPart.toNat)
    && sm2Verify l.peerKey (report.take 2720) (report.drop 2720)
  if !good then 1#3
  else if fieldLe report 96 4 / 2 % 2 = 0 ∨ fieldLe report 100 4 ≠ 0 then 2#3
  else match (s.prt a).party with
    | none => 3#3
    | some q =>
      if sliceBytes report 2352 32 ≠ sliceBytes q.digest 0 32 ∨ sliceBytes report 2352 32 = zeros 32 then 3#3
      else if !s.peerAssigns i report x.peerPart.toNat then 4#3
      else 0#3

/-- The association opens with the keys of the exchange; after a REKEY the old receiving key is kept until the peer has
switched, and SA_GEN rises (R249, R250). Its channel asks for credits where it holds none (R259, R247). -/
def State.completeExchange (s : State) (i a : Nat) : State :=
  let l := s.lnk i
  let x := l.sa a
  let k := sm2Exchange x.initiator identityPriv x.ephemeral (sm2Parse l.peerKey) (sm2Parse x.peerR)
  let rekey := decide (x.state = .rekeying)
  let y := { x.install x.initiator k with
    state := .open_, cause := 0#3, peerCtx := BitVec.ofNat 16 (fieldLe x.peerReport 2384 2), openPeer := true, gcmFails := 0
    gen := if rekey then x.gen + 1 else x.gen
    oldRecvKey := if rekey then x.recvKey else []
    oldRecvSalt := if rekey then x.recvSalt else []
    switched := !rekey, ephemeral := 0, nonce := [], peerR := [], peerNonce := [], peerReport := []
    sentCount := if rekey then x.sentCount else 0
    recvCount := if rekey then x.recvCount else 0
    colls := if rekey then x.colls else 0 }
  let s1 := s.updSa i a (fun _ => y)
  let c := (s1.lnk i).vc x.peerPart.toNat
  let s2 := if c.credits = 0 ∧ !c.waitReset then s1.sendCreditReq i x.peerPart.toNat (s1.prt a).epoch else s1
  match s2.meshPeer i with
  | some q => if rekey then s2 else s2.numberWaiting a q
  | none => s2

/-- The peer's ephemeral key and nonce have arrived. A side that has commanded OPEN answers; an OPEN association runs the new
exchange of the peer's REKEY; another side remembers them until its own OPEN (R249, R250; log 26). -/
def State.receiveExchange (s : State) (i a src : Nat) (body : List Byte) : State :=
  let s1 := s.updSa i a (fun x => { x with
    openPeer := true, peerFrom := src, peerR := body.take 64, peerNonce := sliceBytes body 64 32, peerReport := [] })
  let x := (s1.lnk i).sa a
  if !x.openLocal ∨ x.peerPart.toNat ≠ src then s1
  else
    let s2 :=
      if x.state = .open_ then s1.beginExchange i a .rekeying
      else if x.state = .exchanging ∧ x.ephemeral = 0 then s1.beginExchange i a .exchanging
      else s1
    s2.answerExchange i a

/-- A part of the peer's report has arrived; its last part opens or fails the association (R249). -/
def State.receiveReport (s : State) (i a src : Nat) (h : FlitHdr) (certOk : Bool) (body : List Byte) : State :=
  let x := (s.lnk i).sa a
  if (x.state ≠ .exchanging ∧ x.state ≠ .rekeying) ∨ x.ephemeral = 0 ∨ x.peerFrom ≠ src ∨ x.peerPart.toNat ≠ src then s
  else
    let s1 := s.updSa i a (fun x => { x with peerReport := (x.peerReport.take h.offset ++ body).take 2784 })
    if !h.last then s1
    else
      let c := s1.setupCause i a certOk
      if c = 0#3 then s1.completeExchange i a else s1.failSa i a c

/-- SA_SETUP (R249, R250): a flit of the exchange for the association that its payload names, from the partition that it
names. `certOk` is the verdict on the certificate chain of the peer's identity key. -/
def execSaSetup (link : Nat) (flit : List Byte) (certOk : Bool) (s : State) : Host.Outcome State Fault Refusal :=
  .next (s.onFlit link flit 0x08 (fun h pl a t =>
    let k := fieldLe pl 0 1
    if a ≠ 8 ∨ 8 ≤ k then t
    else if h.msg = 0 then t.receiveExchange link k (fieldLe pl 1 1) ((pl.drop 2).take 96)
    else t.receiveReport link k (fieldLe pl 1 1) h certOk (pl.drop 2)))

/-- SA_CLOSE (R250, R251): the association whose peer partition the flit names closes; it returns to EXCHANGING. -/
def execSaClose (link : Nat) (flit : List Byte) (s : State) : Host.Outcome State Fault Refusal :=
  .next (s.onFlit link flit 0x09 (fun _ pl a t =>
    if a ≠ 8 then t
    else
      let u := (List.range 8).foldl (fun u k => u.updSa link k (fun x =>
        if x.peerFrom = fieldLe pl 0 1 then { x with peerR := [], peerNonce := [], peerReport := [] } else x)) t
      match (List.range 8).find? (fun k =>
          let x := (u.lnk link).sa k
          decide (x.peerPart.toNat = fieldLe pl 0 1) && (x.serves || decide (x.state = .exchanging))) with
        | some k => u.closeSa link k .exchanging true
        | none => u))

/-! ### Flits of the partitions -/

/-- A flit of a collective from the rope position that the port faces. -/
def State.onColl (s : State) (i : Nat) (flit : List Byte) (type : Nat) (f : Nat → Nat → FlitHdr → List Byte → State → State) : State :=
  s.onFlit i flit type (fun h pl a t =>
    match t.meshPeer i with
    | some q => if a < 8 then f a q h pl t else t
    | none => t)

/-- DATA (R254). -/
def execData (link : Nat) (flit : List Byte) (s : State) : Host.Outcome State Fault Refusal :=
  .next (s.onColl link flit 0x10 (fun p q h pl t => t.receiveColl p q h pl))

/-- ANCHOR (R253). -/
def execAnchor (link : Nat) (flit : List Byte) (s : State) : Host.Outcome State Fault Refusal :=
  .next (s.onColl link flit 0x11 (fun p q h pl t => t.receiveColl p q h pl))

/-- VERDICT (R256). -/
def execVerdict (link : Nat) (flit : List Byte) (s : State) : Host.Outcome State Fault Refusal :=
  .next (s.onColl link flit 0x12 (fun p q h pl t => t.receiveColl p q h pl))

/-- RETRACT (R256, R257). -/
def execRetract (link : Nat) (flit : List Byte) (s : State) : Host.Outcome State Fault Refusal :=
  .next (s.onColl link flit 0x13 (fun p q h pl t => t.receiveColl p q h pl))

/-- RESEND (R254): the message is computed and sent again. -/
def execResend (link : Nat) (flit : List Byte) (lasting : Bool) (s : State) : Host.Outcome State Fault Refusal :=
  .next (s.onColl link flit 0x14 (fun p q h _ t => t.resendMsg p q h lasting))

/-- COMMIT (R258). -/
def execCommit (link : Nat) (flit : List Byte) (s : State) : Host.Outcome State Fault Refusal :=
  .next (s.onColl link flit 0x15 (fun p q _ pl t => t.receiveCommit p q (fieldLe pl 0 8)))

/-- DESC_CHECK (R252). -/
def execDescCheck (link : Nat) (flit : List Byte) (s : State) : Host.Outcome State Fault Refusal :=
  .next (s.onColl link flit 0x16 (fun p q h pl t => t.receiveColl p q h pl))

/-- DIGEST_FLIT (R261). -/
def execDigestFlit (link : Nat) (flit : List Byte) (s : State) : Host.Outcome State Fault Refusal :=
  .next (s.onFlit link flit 0x17 (fun _ pl a t => if a < 8 then t.receiveDigest link a pl else t))

/-- BELAY_FLIT (R369, R371). -/
def execBelayFlit (link : Nat) (flit : List Byte) (s : State) : Host.Outcome State Fault Refusal :=
  .next (s.onColl link flit 0x18 (fun p q h pl t => t.receiveBelay p q h pl))

end Sys2Proof.Machine
end

