-- ==== Sys2Proof/Machine/Firmware.lean ====
section
/-! DEFINITION. Flash banks, images and what the boot ROM accepts (R312-R318). -/

namespace Sys2Proof.Machine

/-! ### Images (R314, Tables 14.2 and 14.3) -/

/-- The largest body of image i in bytes (Table 14.2). -/
def imageRoom (i : Nat) : Nat := [8, 2, 1, 2, 4, 4, 2, 1].getD i 0 * 2 ^ 20

/-- Bytes of a staged bank; an erased byte reads 0xFF. -/
def bankBytes (data : Sparse Byte) (off n : Nat) : List Byte := Sparse.getMany 0xFF#8 data off n

/-- What the boot ROM finds in an image: its measurement, version, key index and flags; or the result code that refuses it.
-/
structure ImageFacts where
  measurement : List Byte
  svn : Nat
  keyIndex : Nat
  revoke : Bool
  size : Nat
deriving DecidableEq, Repr

/-- Result codes of vendor messages (Table 14.4). -/
def resOk : Nat := 0
/-- BAD_FORMAT. -/
def resFormat : Nat := 1
/-- BAD_SIGNATURE. -/
def resSignature : Nat := 2
/-- STATE. -/
def resState : Nat := 3
/-- COMMITMENT. -/
def resCommitment : Nat := 4
/-- DUPLICATE. -/
def resDuplicate : Nat := 5
/-- DEBUG. -/
def resDebug : Nat := 6
/-- ROLLBACK. -/
def resRollback : Nat := 7
/-- BUSY. -/
def resBusy : Nat := 8

/-- Check image i at an offset of a staged bank (R315): its facts, or the code of the first failing check. -/
def checkImage (f : Fuses) (data : Sparse Byte) (room off i : Nat) : Nat × ImageFacts :=
  let h := bankBytes data off 192
  let size := fieldLe h 8 4
  let no : ImageFacts := ⟨[], 0, 0, false, size⟩
  let key := sliceBytes h 16 64
  if fieldLe h 0 4 ≠ 0x4D494644 ∨ fieldLe h 4 1 ≠ i ∨ 1 < fieldLe h 5 1 ∨ 64 < fieldLe h 6 1 ∨ 1 < fieldLe h 7 1
      ∨ sliceBytes h 80 48 ≠ zeros 48 ∨ imageRoom i < size ∨ room < off + 192 + size then (resFormat, no)
  else
    let body := bankBytes data (off + 192) size
    let signedPart := h.take 128 ++ body
    let m := sm3 signedPart
    let k := fieldLe h 5 1
    if (k = 0 ∧ f.key0Revoked) ∨ sm3 key ≠ leBytes 32 (Config.fwKeyHash (decide (k = 1))).toNat
        ∨ !sm2Verify key m (sliceBytes h 128 64) then (resSignature, no)
    else if fieldLe h 6 1 < Sparse.get 0 f.svn i then (resRollback, no)
    else (resOk, ⟨m, fieldLe h 6 1, k, decide (fieldLe h 7 1 = 1), size⟩)

/-- Check the eight images of a staged bank in ascending IMAGE_ID, each at the next 64 KiB boundary (R313). -/
def checkImages (f : Fuses) (data : Sparse Byte) (room : Nat) : Nat → Nat → Nat → Nat × List ImageFacts
  | 0, _, _ => (resOk, [])
  | n + 1, off, i =>
    let r := checkImage f data room off i
    if r.1 ≠ resOk then (r.1, [])
    else
      let t := checkImages f data room n (ceilDiv (off + 192 + r.2.size) 65536 * 65536) (i + 1)
      (t.1, r.2 :: t.2)

/-- The images that a part leaves the factory with, signed under key 0 (log 9). -/
def factoryImages : List ImageFacts :=
  (List.range 8).map (fun i =>
    ⟨leBytes 32 (Config.factoryMeasurement i).toNat, (Config.factorySvn i).toNat, 0, false, 0⟩)

/-- Check a bank (R313, R315). -/
def checkBank (f : Fuses) : Bank → Nat × List ImageFacts
  | .factory =>
    if f.key0Revoked then (resSignature, [])
    else if (List.range 8).any (fun i => (Config.factorySvn i).toNat < Sparse.get 0 f.svn i) then (resRollback, [])
    else (resOk, factoryImages)
  | .bytes size data => checkImages f data size 8 0 0

/-- A bank of the flash: A, or B. -/
def Sec.bank (x : Sec) (b : Bool) : Bank := if b then x.bankB else x.bankA

/-- Replace a bank. -/
def Sec.setBank (x : Sec) (b : Bool) (v : Bank) : Sec := if b then { x with bankB := v } else { x with bankA := v }

/-- What the boot ROM boots (R316): the bank, whether TRY_BANK named it, and its images; none is recovery. -/
def Sec.boots (x : Sec) (f : Fuses) : Option (Bool × Bool × List ImageFacts) :=
  let first := x.tryBank.getD x.activeBank
  let a := checkBank f (x.bank first)
  if a.1 = resOk then some (first, x.tryBank.isSome, a.2)
  else
    let b := checkBank f (x.bank (!first))
    if b.1 = resOk then some (!first, false, b.2) else none

/-- The boot ROM's record of a bank that it boots: measurements and SVNs in ATT; TRY_BANK is clear (R316). -/
def Sec.record (x : Sec) (b : Bool) (imgs : List ImageFacts) : Sec :=
  { x with running := b, tryBank := none,
           measurements := Sparse.setMany [] [] 0 (imgs.map (·.measurement)),
           svns := Sparse.setMany 0#8 [] 0 (imgs.map (fun m => BitVec.ofNat 8 m.svn)),
           revokeAllowed := (match imgs.head? with | some m => m.revoke | none => false) && imgs.all (fun m => m.keyIndex = 1) }

/-- READY on a bank booted from TRY_BANK (R318): ACTIVE_BANK, the counters, then KEY0_REVOKED. -/
def State.confirmBank (s : State) : State :=
  { s with
    sec := { s.sec with activeBank := s.sec.running }
    fuses := { s.fuses with
      svn := (List.range 8).foldl (fun m i => Sparse.modify 0 m i (fun n => max n (Sparse.get 0#8 s.sec.svns i).toNat)) s.fuses.svn
      key0Revoked := s.fuses.key0Revoked || s.sec.revokeAllowed } }

/-- Burn the next bit of HEALTH and keep a health record in flash: 256 at most, the oldest overwritten (R345). -/
def State.burnMark (s : State) (record : List Byte) : State :=
  { s with
    fuses := { s.fuses with health := min 64 (s.fuses.health + 1) }
    sec := { s.sec with healthRecords := (s.sec.healthRecords ++ [record]).drop (s.sec.healthRecords.length + 1 - 256) } }

end Sys2Proof.Machine
end

