-- ==== Sys2Proof/Machine/Cper.lean ====
section
/-! DEFINITION. CPER records (R346-R349, Table 15.5) and the health monitor's vendor messages (R341, R348). The layout of the
record header and of the section descriptor is the UEFI Specification's: PRESUMED, log 38. -/

namespace Sys2Proof.Machine

/-- The hottest sensor of the four fields, °C × 8 (R387). -/
def State.hottest (s : State) : Int :=
  (List.range 4).foldl (fun m f =>
    let t := (Sparse.get 0#12 s.temps f).toInt
    if m < t then t else m) (Sparse.get 0#12 s.temps 0).toInt

/-- A GUID as it is stored: its first three groups little-endian. -/
def guidBytes (a b c : Nat) (rest : List Byte) : List Byte := leBytes 4 a ++ leBytes 2 b ++ leBytes 2 c ++ rest

/-- The Daulosh notification GUID (R346). -/
def notifyGuid : List Byte := guidBytes 0x2a7d4c91 0x5e08 0x4b3f (beBytes 8 0xa6d293c18e0f47b5)
/-- The Daulosh vendor-section GUID (R346). -/
def sectionGuid : List Byte := guidBytes 0x6b1f0c3e 0x2d54 0x4a7b (beBytes 8 0x9e8140c2d7a5f916)

/-- Severity of a record (R346). -/
def CperEvent.severity (e : CperEvent) : Nat := if e.fatal then 1 else if e.outcome = 1#8 then 2 else 0

/-- Bytes 0 to 71 of the vendor section (Table 15.5). -/
def State.cperFront (s : State) (e : CperEvent) (tick : Nat) (sealed : Bool) (nonce : List Byte) : List Byte :=
  leBytes 2 1 ++ [e.event, e.outcome, e.unitClass] ++ leBytes 1 (match e.core with | some c => c / 64 | none => 0xFF)
    ++ leBytes 2 (e.core.getD 0xFFFF) ++ leBytes 1 (e.engine.getD 0xFF) ++ leBytes 1 (e.part.getD 0xFF)
    ++ leBytes 2 (match pageClass e.pageNo with | some (_, i) => i | none => 0) ++ [e.row, e.column]
    ++ leBytes 2 e.load.toNat ++ leBytes 2 e.syndrome.toNat ++ leBytes 2 s.dev.vcore
    ++ leBytes 2 (BitVec.ofInt 16 s.hottest).toNat ++ [e.origin, e.format] ++ leBytes 8 tick ++ leBytes 8 e.jseq
    ++ (if e.capture = [] then zeros 8 else (sm3 e.capture).take 8) ++ leBytes 4 (BitVec.ofInt 32 e.anchor).toNat
    ++ leBytes 1 (if sealed then 1 else 0) ++ zeros 3 ++ sliceBytes nonce 0 16

/-- The checkpoint key of the event's partition. -/
def State.eventKey (s : State) (e : CperEvent) : Option (List Byte) :=
  match e.part with
  | none => none
  | some p => match (s.prt p).party with | none => none | some q => q.kc

/-- The vendor section: a capture of a party operation leaves only sealed (R347). -/
def State.cperSection (s : State) (e : CperEvent) (tick : Nat) (nonce : List Byte) : List Byte :=
  let sealed := decide (e.capture ≠ [] ∧ e.origin = 0#8)
  let front := s.cperFront e tick sealed nonce
  if !sealed then front ++ zeros 8 ++ zeros 16 ++ sliceBytes e.capture 0 288
  else match s.eventKey e with
    | none => front ++ zeros 24 ++ zeros 288
    | some kc =>
      let ct := xorBytes (sliceBytes e.capture 0 288)
        (sm4Stream (kdf kc nonce 7) 18 (fun j => putBytes (sliceBytes nonce 0 16) 15 (leBytes 1 j)))
      front ++ (cmac (kdf kc nonce 8) (front ++ ct)).take 7 ++ [0#8] ++ zeros 16 ++ ct

/-- A whole record of 584 bytes (R346). -/
def State.cperRecord (s : State) (e : CperEvent) (tick : Nat) (nonce : List Byte) : List Byte :=
  let sev := leBytes 4 e.severity
  (beBytes 4 0x43504552 ++ leBytes 2 0x0100 ++ leBytes 4 0xFFFFFFFF ++ leBytes 2 1 ++ sev ++ leBytes 4 0 ++ leBytes 4 584
    ++ zeros 8 ++ zeros 16 ++ zeros 16 ++ notifyGuid ++ notifyGuid ++ leBytes 8 s.hlt.written ++ zeros 4 ++ zeros 8 ++ zeros 12)
  ++ (leBytes 4 200 ++ leBytes 4 384 ++ leBytes 2 0x0100 ++ zeros 2 ++ zeros 4 ++ sectionGuid ++ zeros 16 ++ sev ++ zeros 20)
  ++ s.cperSection e tick nonce

/-- The record of an event now: the health monitor's tick, advanced by a free amount (R24, log 5), its nonce drawn by SEC. -/
def State.buildRecord (s : State) (e : CperEvent) : List Byte × State :=
  let t := s.hlt.ticks + Config.elapsed s.draws
  let r := (s.updHlt (fun h => { h with ticks := t })).drawRandom
  (s.cperRecord e t (r.1.take 16), r.2)

/-- Records that the health monitor holds (R348). -/
def recordsHeld : Nat := 64

/-- Write the record of an event (R348): the last 64 are kept; an unread one that falls out sets OVERRUN. -/
def State.writeRecord (s : State) (e : CperEvent) : State :=
  let b := s.buildRecord e
  (b.2.updHlt (fun h =>
    let head := h.cperHead + 1
    let lost := decide (recordsHeld < (head - h.cperTail).toNat)
    let recs := h.records ++ [(h.cperHead.toNat, b.1)]
    { h with
      records := recs.drop (recs.length - recordsHeld)
      cperHead := head, written := h.written + 1
      cperTail := if lost then h.cperTail + 1 else h.cperTail
      overrun := h.overrun || lost
      captures := if e.capture = [] then h.captures else h.captures - 1 })).msixPf0 0

/-- CPER_RECORD (R346): the oldest event that waits is recorded. -/
def execCperRecord (s : State) : Host.Outcome State Fault Refusal :=
  .next (match s.hlt.due with
    | [] => s
    | e :: rest => (s.updHlt (fun h => { h with due := rest })).writeRecord e)

/-- CPER_TAIL_WRITE (R348, Table 15.7): TAIL within HEAD − 64 to HEAD; OVERRUN is W1C. -/
def execCperTailWrite (via : Via) (value : Reg) (s : State) : Host.Outcome State Fault Refusal :=
  .next (s.access (s.pf0Access via) (fun s => s.updHlt (fun h =>
    let t := bitsAt value 0 16
    { h with cperTail := if (h.cperHead - t).toNat ≤ recordsHeld then t else h.cperTail
             overrun := h.overrun && !bitAt value 16 })))

/-- The device answers vendor messages of its health monitor: firmware runs. -/
def State.answers (s : State) : Bool := decide (s.dev.state ≠ .boot) && !s.mgc.recovery

/-- The answer to a vendor message. -/
def State.vendorAnswer (s : State) (result : Nat) (bs : List Byte) : State := s.emit (.vendor result bs)

/-- GET_CPER (R348): the record with that COUNT, or STATE. -/
def execGetCper (count : Nat) (s : State) : Host.Outcome State Fault Refusal :=
  .next (if !s.answers then s
    else match s.hlt.records.find? (fun r => r.1 = count) with
      | some r => s.vendorAnswer resOk r.2
      | none => s.vendorAnswer resState [])

/-- Entries of the pattern store (R341). -/
def patternRoom : Nat := 16

/-- PATTERN_LOAD (R341): 320 bytes at an index of the pattern store. -/
def execPatternLoad (index : Nat) (bytes : List Byte) (s : State) : Host.Outcome State Fault Refusal :=
  .next (if !s.answers then s
    else if patternRoom ≤ index ∨ bytes.length ≠ 320 then s.vendorAnswer resFormat []
    else (s.updHlt (fun h => { h with patterns := Sparse.set [] h.patterns index bytes })).vendorAnswer resOk [])

end Sys2Proof.Machine
end

