-- ==== Sys2Proof/Machine/Power.lean ====
section
/-! DEFINITION. Device reset and start-up (R357, R377-R391, R316), light (R384), power and temperature (R17, R385-R389), the
pace envelope (R306), weir periods (R299) and the droop count. -/

namespace Sys2Proof.Machine

/-! ### Device reset (R357, R378) -/

/-- Device reset: the flash, the fuses and the pins survive; a bank that was being staged is left invalid (R319). -/
def State.deviceReset (s : State) : State :=
  let x := s.sec
  let y := if x.staging.isSome then x.setBank (!x.running) (.bytes 0 []) else x
  { State.reset with
    fuses := s.fuses
    sec := { Sec.reset with activeBank := y.activeBank, tryBank := y.tryBank, bankA := y.bankA, bankB := y.bankB,
                            running := y.running, healthRecords := y.healthRecords }
    dev := { Dev.reset with rstN := s.dev.rstN, pwrOk := s.dev.pwrOk, vin48 := s.dev.vin48, trip := s.dev.trip,
                            cap := fusedLimit s.fuses.powerCode }
    out := s.out, draws := s.draws, pending := s.pending }

/-- RST_N_ASSERT (R357, R378). -/
def execRstNAssert (s : State) : Host.Outcome State Fault Refusal :=
  .next ((s.updDev (fun d => { d with rstN := false })).deviceReset)

/-- PWR_OK_FALL (R357, R378); a thermal trip no longer holds (R389). -/
def execPwrOkFall (s : State) : Host.Outcome State Fault Refusal :=
  .next ((s.updDev (fun d => { d with pwrOk := false, trip := false })).deviceReset)

/-- VIN48_TURN_OFF (R385): the regulators turn off, as a power loss; a thermal trip no longer holds (R389). -/
def execVin48TurnOff (s : State) : Host.Outcome State Fault Refusal :=
  .next ((s.updDev (fun d => { d with vin48 := false, trip := false })).deviceReset)

/-- DEVICE_RESET_COMMAND (R357): a management command to the MGC, which runs. -/
def execDeviceResetCommand (s : State) : Host.Outcome State Fault Refusal :=
  .next (if s.answers then s.deviceReset else s)

/-! ### Light (R383, R384, Table 17.6) -/

/-- The edge of the package that a link port's fibres leave on. -/
def edgeOf (i : Nat) : Nat := if i < 7 then 0 else if i < 14 then 1 else if i < 20 then 2 else 3

/-- The laser pair of a host port. -/
def hostEdge (h : Bool) : Nat := if h then 3 else 2

/-- LASER_SWITCH (R384): the primary of a pair leaves its limits and the backup takes over. -/
def execLaserSwitch (pair : Nat) (s : State) : Host.Outcome State Fault Refusal :=
  .next (if pair < 4 ∧ !bitAt s.dev.laserBackup pair ∧ bitAt s.dev.laserIn (2 * pair + 1) ∧ s.dev.laserEnabled = 0xFF#8 then
    (s.updDev (fun d => { d with
      laserIn := setBit d.laserIn (2 * pair) false, laserBackup := setBit d.laserBackup pair true
      laserSwitches := satAdd d.laserSwitches 1 })).riskEvent 4 1
  else s)

/-- The ports of an edge lose their light: link ports enter LOST, a host port reports link-down (R384). -/
def State.loseEdge (s : State) (k : Nat) : State :=
  let s1 := (List.range 24).foldl (fun t i =>
    if edgeOf i ≠ k then t
    else
      let u := t.updLnk i (fun l => { l with light := false })
      if (t.lnk i).carries ∨ (t.lnk i).state = .training then u.enterLost i else u) s
  [false, true].foldl (fun t h => if hostEdge h = k then t.dropHostLink h .down else t) s1

/-- LASER_PAIR_LOST (R384): both inputs of a pair are out of limits. -/
def execLaserPairLost (pair : Nat) (s : State) : Host.Outcome State Fault Refusal :=
  .next (if pair < 4 ∧ s.dev.laserEnabled = 0xFF#8 then
    (((s.updDev (fun d => { d with
      laserIn := setBit (setBit d.laserIn (2 * pair) false) (2 * pair + 1) false
      laserLost := setBit d.laserLost pair true })).loseEdge pair).askAll)
  else s)

/-! ### Start-up (Table 17.10) -/

/-- The optical outputs go dark and FAULT_N is asserted (R321, R380, R389). -/
def State.faultDark (s : State) : State :=
  (s.updDev (fun d => { d with outputsOff := true, faultN := true, readyPin := false, laserEnabled := 0#8 })).setDevState .fault

/-- Recovery (R321): the boot ROM answers staging alone. -/
def State.enterRecovery (s : State) : State :=
  ({ s with mgc := { s.mgc with recovery := true, startStep := 2#4 } }).faultDark

/-- Step 2: the values that SEC draws at start-up (R209, R331, R339). -/
def State.drawStart (s : State) : State :=
  let a := s.drawRandom
  let b := a.2.drawRandom
  let c := b.2.drawRandom
  let s1 := c.2.updSec (fun x => { x with devNonce := a.1.take 16, bootId := b.1.take 16, patrolKey := c.1.take 16 })
  (List.range 8).foldl (fun t m =>
    let r := t.drawRandom
    r.2.updMce m (fun e => { e with kTree := r.1.take 16 })) s1

/-- Steps 3 and 4: rails and light; pairs whose primary is out of limits run on their backup. -/
def State.lightUp (s : State) (f : StartFacts) : State :=
  s.updDev (fun d => { d with
    railsUp := true, vcore := d.target, outputsOff := false, laserEnabled := 0xFF#8, laserIn := f.laserIn
    laserBackup := BitVec.ofNat 4 (sumNat ((List.range 4).map (fun k =>
      if !bitAt f.laserIn (2 * k) && bitAt f.laserIn (2 * k + 1) then 2 ^ k else 0)))
    laserLost := BitVec.ofNat 4 (sumNat ((List.range 4).map (fun k =>
      if !bitAt f.laserIn (2 * k) && !bitAt f.laserIn (2 * k + 1) then 2 ^ k else 0))) })

/-- Steps 5 and 6: pool, harts and basin groups. -/
def State.startMemories (s : State) (f : StartFacts) : State :=
  let s1 := { s with poolState := (List.range 32).foldl (fun m n => Sparse.set 0#2 m n 2#2) s.poolState }
  (List.range 8).foldl (fun t k =>
    (t.updUpd k (fun u => { u with coresInService := bitAt f.hartsOk k })).updBas k (fun b => { b with state := 2#2 })) s1

/-- Step 7: lit link ports and host ports train; ports of a lost edge, and all link ports under LINKS_HELD, stay DARK. -/
def State.startPorts (s : State) (f : StartFacts) : State :=
  let s1 := f.links.foldl (fun t (x : Nat × Training) =>
    if 24 ≤ x.1 ∨ bitAt t.dev.laserLost (edgeOf x.1) then t
    else
      let u := t.updLnk x.1 (fun l => { l with light := true })
      if f.bootSel = 2#2 ∨ x.1 = 23 ∨ !u.mayTrain x.1 then u else (u.startTraining x.1).finishTraining x.1 x.2) s
  f.hosts.foldl (fun t (x : Bool × BitVec 4 × BitVec 4 × Bool) =>
    if bitAt t.dev.laserLost (hostEdge x.1) then t else t.raiseHostLink x.1 x.2.1 x.2.2.1 x.2.2.2) s1

/-- A period within 1 % of 1 µs, in units of 0.1 ns (R10, R382); the calibration leaves no other, and one that is presented
counts as 1 µs. -/
def calibrated (t : BitVec 16) : BitVec 16 := if 9900 ≤ t.toNat ∧ t.toNat ≤ 10100 then t else 10000#16

/-- Step 8: the calibrated ticks (R382); a block whose measured period is not presented has 1 µs (State.tickPeriod). -/
def State.startTicks (s : State) (f : StartFacts) : State :=
  f.ticks.foldl (fun t (x : Nat × BitVec 16) =>
    if (pageClass x.1).isSome then t.updHdr x.1 (fun h => { h with tickPeriod := calibrated x.2 }) else t) s

/-- Units that failed their training or test are suspect (R391); ports do not count. -/
def failedUnits (f : StartFacts) : List Nat :=
  f.failed.filter (fun n => match pageClass n with | some (c, _) => c.drains | none => false)

/-- Steps 9 and 10: DRAINED where a unit failed or a HEALTH bit is set (R345, R391), else READY (R318). -/
def State.startEnd (s : State) (f : StartFacts) (fromTry : Bool) : State :=
  let bad := failedUnits f
  let drained (t : State) : State :=
    ({ t with mgc := { t.mgc with startStep := 9#4 } }.updDev (fun d => { d with faultN := true, readyPin := false })).setDevState .drained
  match bad with
  | n :: _ =>
    let e := { CperEvent.base 9#8 0#8 n with origin := 3#8, fatal := true }
    let s1 := (bad.foldl State.makeSuspect s).report e
    let b := s1.buildRecord e
    drained ((b.2.burnMark b.1).updHlt (fun h => { h with drainDue := none }))
  | [] =>
    if s.fuses.health ≠ 0 then drained s
    else
      let s1 := ({ s with mgc := { s.mgc with startStep := 10#4 } }.updDev (fun d => { d with readyPin := true })).setDevState .ready
      if fromTry then s1.confirmBank else s1

/-- The start-up sequence from time 0 (Table 17.10). -/
def State.startUp (s : State) (f : StartFacts) : State :=
  let s1 := (s.updDev (fun d => { d with rstN := true, pwrOk := true, vin48 := true, ropePos := f.ropeId, bootSel := f.bootSel })).updSec
    (fun x => { x with entropyOk := f.entropyOk })
  if f.bootSel = 1#2 then s1.enterRecovery
  else match s1.sec.boots s1.fuses with
    | none => (s1.updSec (fun x => { x with tryBank := none })).enterRecovery
    | some (b, fromTry, imgs) =>
      let s2 := (s1.updSec (fun x => x.record b imgs)).drawStart
      let s3 := { s2 with mgc := { s2.mgc with startStep := 3#4 } }
      if !f.refPresent then s3.faultDark
      else ((((s3.lightUp f).startMemories f).startPorts f).startTicks f).startEnd f fromTry

/-- START_UP (R390): a device in BOOT, whose supply and reset pins are high; not while a thermal trip holds (R389). -/
def execStartUp (facts : StartFacts) (s : State) : Host.Outcome State Fault Refusal :=
  .next (if s.dev.state = .boot ∧ !s.dev.trip then s.startUp facts else s)

/-- REF_CLOCK_LOSS (R380): dark, every port LOST, every operation ABORTED_RESET, FAULT; no unit is suspect. -/
def execRefClockLoss (s : State) : Host.Outcome State Fault Refusal :=
  .next (if s.dev.state = .boot ∨ s.mgc.recovery then s
    else
      let s1 := s.liveParts.foldl (fun t p => t.abortAll p stReset) s.faultDark
      let s2 := (List.range 24).foldl (fun t i => if (t.lnk i).state = .lost then t else t.enterLost i) s1
      ((s2.dropHostLink false .down).dropHostLink true .down).askAll)

/-! ### Power (R2, R17, R386) -/

/-- WEI36 is served by its capacity now: at once while that lies below c_0, else from the next period on (R302). -/
def State.servePower (s : State) (boundary : Bool) : State :=
  if boundary ∨ s.powerCapacity < s.mgc.weir36Base then
    s.updWeir 36 (fun w => { w with capacity := s.powerCapacity })
  else s

/-- PKG_POWER_CAP: at most the fused limit (R2); WEI36's capacity follows it (R301, R302). -/
def State.setCap (s : State) (watts : Nat) : State :=
  (s.updDev (fun d => { d with cap := min watts (fusedLimit s.fuses.powerCode) })).servePower false

/-- PKG_POWER_CAP_WRITE (R2, R308). -/
def execPkgPowerCapWrite (via : Via) (value : Reg) (s : State) : Host.Outcome State Fault Refusal :=
  .next (s.access (s.pf0Access via) (fun s => s.setCap (value.toNat % 65536)))

/-- The device has power and runs. -/
def State.powered (s : State) : Bool := s.dev.railsUp && decide (s.dev.state ≠ .boot)

/-- The cap acts from now on: kind 0x03 when it starts to. -/
def State.capActs (s : State) : State :=
  if s.dev.capped then s else ((s.updDev (fun d => { d with capped := true })).announce 3#8).riskEvent 7 1

/-- The cap acts no longer: kind 0x04 when neither a lowered VCORE nor a rate limit remains. -/
def State.capReleases (s : State) : State :=
  if s.dev.capped ∧ s.dev.rateLimit = 0#4 ∧ s.dev.target ≤ s.dev.vcore then
    (s.updDev (fun d => { d with capped := false })).announce 4#8
  else s

/-- Mean power below 97 % of the cap. -/
def State.belowCap (s : State) (watts : Nat) : Bool := decide (100 * watts < 97 * s.dev.cap)

/-- The mean input power of an interval is measured; a cap that it does not exceed is met. -/
def State.measure (s : State) (watts : Nat) : State :=
  s.updDev (fun d => { d with measured := BitVec.ofNat 16 (min watts 65535), capUnmet := d.capUnmet && decide (d.cap < watts) })

/-- The power exceeds the cap: VCORE falls by 10 mV; at 0.55 V one more sixteenth of the rate is withheld, as long as one is
left. -/
def State.lowerPower (s : State) : State :=
  if 550 < s.dev.vcore then (s.updDev (fun d => { d with vcore := d.vcore - 10 })).capActs
  else if s.dev.rateLimit.toNat < 15 then (s.updDev (fun d => { d with rateLimit := d.rateLimit + 1 })).capActs
  else s.updDev (fun d => { d with capUnmet := true })

/-- POWER_CAP_INTERVAL (R386): 100 local ticks of the MGC with a mean input power. -/
def execPowerCapInterval (watts : Nat) (s : State) : Host.Outcome State Fault Refusal :=
  .next (if !s.powered then s
    else if s.dev.cap < watts then (s.measure watts).lowerPower else (s.measure watts).capReleases)

/-- VCORE_RAISE (R386, R388): 10,000 ticks below 97 % of the cap: one step of the rate limit is released, or with none left
VCORE rises toward TARGET. -/
def execVcoreRaise (watts : Nat) (s : State) : Host.Outcome State Fault Refusal :=
  .next (if !s.powered ∨ !s.belowCap watts then s
    else if s.dev.rateLimit ≠ 0#4 then (s.updDev (fun d => { d with rateLimit := d.rateLimit - 1 })).capReleases
    else if s.dev.vcore < s.dev.target ∧ !s.dev.thermal then
      (s.updDev (fun d => { d with vcore := min d.target (d.vcore + 10) })).capReleases
    else s)

/-! ### Temperature (R388, R389) -/

/-- THERMAL_SLOWDOWN (R388): a junction of a field reads above 105 °C. -/
def execThermalSlowdown (field : Nat) (temp : BitVec 12) (s : State) : Host.Outcome State Fault Refusal :=
  .next (if !s.powered ∨ 4 ≤ field then s
    else
      let s1 := { s with temps := Sparse.set 0#12 s.temps field temp }
      if temp.toInt ≤ 840 ∨ s.dev.thermal then s1
      else ((s1.updDev (fun d => { d with thermal := true })).announce 1#8).riskEvent 7 1)

/-- THERMAL_STEP (R388): 1,000 ticks of slowdown with a hottest reading. -/
def execThermalStep (temp : BitVec 12) (s : State) : Host.Outcome State Fault Refusal :=
  .next (if s.powered ∧ s.dev.thermal ∧ 824 < temp.toInt ∧ 550 < s.dev.vcore then
    s.updDev (fun d => { d with vcore := d.vcore - 10 }) else s)

/-- THERMAL_SLOWDOWN_END (R388): 10,000 ticks at or below 100 °C. -/
def execThermalSlowdownEnd (s : State) : Host.Outcome State Fault Refusal :=
  .next (if s.powered ∧ s.dev.thermal then (s.updDev (fun d => { d with thermal := false })).announce 2#8 else s)

/-- THERMAL_TRIP (R389): THERM_TRIP_N and FAULT_N, every rail but VMGT off, dark; the trip latches. -/
def execThermalTrip (s : State) : Host.Outcome State Fault Refusal :=
  .next (((s.updDev (fun d => { d with trip := true })).deviceReset).updDev (fun d => { d with faultN := true }))

/-! ### Pace (R306) -/

/-- Outside the pace envelope: VCORE below 0.65 V or a junction above 105 °C. -/
def State.outsideEnvelope (s : State) : Bool := decide (s.dev.vcore < 650 ∨ 840 < s.hottest)

/-- PACE_BREAK (R306). -/
def execPaceBreak (s : State) : Host.Outcome State Fault Refusal :=
  .next (if s.powered ∧ s.outsideEnvelope ∧ !s.dev.paceBroken then
    (s.updDev (fun d => { d with paceBroken := true })).announce 5#8 else s)

/-- PACE_RESTORE (R306): 1,000 ticks inside the envelope. -/
def execPaceRestore (s : State) : Host.Outcome State Fault Refusal :=
  .next (if s.powered ∧ !s.outsideEnvelope ∧ s.dev.paceBroken then
    (s.updDev (fun d => { d with paceBroken := false })).announce 6#8 else s)

/-! ### Weir periods (R299) and droops -/

/-- The end of a period of one allocation: what was used (of two directions the greater: log 59), whether a request waited,
what the next period serves of it. -/
def Alloc.endPeriod (x : Alloc) (served : Nat) : Alloc :=
  let now := min x.demand served
  let out := min x.demandOut served
  { x with tokens := x.next, used := now, usedOut := out, usedLast := BitVec.ofNat 32 (max x.used x.usedOut),
           denied := if x.demand = 0 ∧ x.demandOut = 0 ∧ !x.waited then x.denied else satAdd x.denied 1
           demand := x.demand - now, demandOut := x.demandOut - out, waited := false }

/-- The nine allocations of a weir (R299), each changed. -/
def allocTable (m : Sparse Alloc) (f : Nat → Alloc → Alloc) : Sparse Alloc :=
  (List.range 9).foldl (fun t a => Sparse.set Alloc.zero t a (f a (Sparse.get Alloc.zero m a))) []

/-- WEIR_PERIOD (R299): the period of a weir ends and the next begins with its allocations and period as written; flits that
waited for a link port's tokens leave. -/
def execWeirPeriod (weir : Nat) (s : State) : Host.Outcome State Fault Refusal :=
  .next (if weir < 37 ∨ (40 ≤ weir ∧ weir < 48) then
    let s0 := if weir = 36 then s.servePower true else s
    let s1 := s0.updWeir weir (fun w => { w with
      period := w.nextPeriod
      allocs := allocTable w.allocs (fun _ x => { x with tokens := x.next }) })
    let s2 := s1.updWeir weir (fun w => { w with allocs := allocTable w.allocs (fun a x => x.endPeriod (s1.served weir a)) })
    if weir < 24 then s2.drainPort weir else s2
  else s)

/-- VCORE_DROOP (Table 16.6, Table 18.10): a regulator of a field reports a droop. -/
def execVcoreDroop (field : Nat) (s : State) : Host.Outcome State Fault Refusal :=
  .next (if s.powered ∧ field < 4 then
    ({ s with droops := Sparse.modify 0#32 s.droops field (fun c => satAdd c 1) }).riskEvent 6 1
  else s)

end Sys2Proof.Machine
end

