-- ==== Sys2Proof/Machine/Trust.lean ====
section
/-! DEFINITION. Vendor messages of SEC and the MGC (Table 14.4): reports, policies, key records, staging (R318-R321,
R328-R332); the entropy source (R326), debug access (R322), the management transport (R271, R272). -/

namespace Sys2Proof.Machine

/-! ### GET_REPORT (R331, R332) -/

/-- GET_REPORT: the report on a partition, or on none (0xFF), over a 32-byte nonce. -/
def execGetReport (p : Nat) (nonce : List Byte) (s : State) : Host.Outcome State Fault Refusal :=
  .next (if !s.answers then s
    else if (8 ≤ p ∧ p ≠ 0xFF) ∨ nonce.length ≠ 32 then s.vendorAnswer resFormat []
    else if !s.sec.entropyOk then s.vendorAnswer resBusy []
    else
      let r := s.makeReport p nonce
      r.2.vendorAnswer resOk r.1)

/-! ### POLICY_LOAD (R328, Table 14.6) -/

/-- N_TENANTS of a policy. -/
def polTenants (b : List Byte) : Nat := fieldLe b 6 1
/-- N_GRANTS of a policy. -/
def polGrants (b : List Byte) : Nat := fieldLe b 7 1
/-- N_CODE of a policy. -/
def polCodes (b : List Byte) : Nat := fieldLe b 8 1
/-- FLAGS bit 0 (PACE). -/
def polPace (b : List Byte) : Bool := decide (fieldLe b 10 1 % 2 = 1)

/-- The layout of a policy is well formed (R328). -/
def polFormed (b : List Byte) : Bool :=
  let n := polTenants b
  let g := polGrants b
  let k := polCodes b
  decide (b.length = 3136 ∧ fieldLe b 0 4 = 0x4C4F5044 ∧ fieldLe b 4 2 = 1 ∧ 1 ≤ n ∧ n ≤ 16 ∧ g ≤ 64 ∧ k ≤ 8
    ∧ (fieldLe b 9 1 < n ∨ fieldLe b 9 1 = 0xFF) ∧ fieldLe b 10 1 ≤ 1)
  && decide (sliceBytes b 11 5 = zeros 5) && decide (sliceBytes b 1072 16 = zeros 16)
  && decide (sliceBytes b (48 + 32 * n) (32 * (16 - n)) = zeros (32 * (16 - n)))
  && decide (sliceBytes b (560 + 4 * g) (4 * (64 - g)) = zeros (4 * (64 - g)))
  && decide (sliceBytes b (816 + 32 * k) (32 * (8 - k)) = zeros (32 * (8 - k)))
  && decide (sliceBytes b (1088 + 64 * n) (64 * (16 - n)) = zeros (64 * (16 - n)))
  && decide (sliceBytes b (2112 + 64 * n) (64 * (16 - n)) = zeros (64 * (16 - n)))
  && (List.range g).all (fun i => decide (fieldLe b (560 + 4 * i) 2 ≠ 0 ∧ fieldLe b (563 + 4 * i) 1 = 0))

/-- Every tenant has signed the policy under the key that it names (R328). -/
def polSigned (b : List Byte) : Bool :=
  (List.range (polTenants b)).all (fun i =>
    let key := sliceBytes b (2112 + 64 * i) 64
    decide (sm3 key = sliceBytes b (48 + 32 * i) 32) && sm2Verify key (b.take 1088) (sliceBytes b (1088 + 64 * i) 64))

/-- The result of a POLICY_LOAD (R322, R328, R330, R345). -/
def State.policyResult (s : State) (p : Nat) (b : List Byte) : Nat :=
  if !s.fuses.debugDisabled then resDebug
  else if (s.prt p).state ≠ .empty ∨ (s.dev.state = .drained ∧ s.fuses.health ≠ 0) then resState
  else if !polFormed b then resFormat
  else if !polSigned b then resSignature
  else if !s.sec.entropyOk then resBusy
  else resOk

/-- A new party (R328): the policy, its digest and the setup key. -/
def Party.fresh (b : List Byte) (key : Nat) : Party :=
  { policy := b, digest := sm3 (b.take 1088), setupKey := key, keys := [], seed := none, secret := [], salt := [], shares := [],
    kc := none, codes := [] }

/-- POLICY_LOAD (R328). -/
def execPolicyLoad (p : Nat) (policy : List Byte) (s : State) : Host.Outcome State Fault Refusal :=
  .next (if !s.answers then s
    else
      let r := s.policyResult p policy
      if r ≠ resOk then s.vendorAnswer r []
      else
        let d := s.drawRandom
        (d.2.updPrt p (fun v => { v with
          party := some (Party.fresh policy (1 + leVal d.1 % (sm2N - 1))), state := .setup })).vendorAnswer resOk [])

/-! ### KEY_RECORD (R329, Table 14.7) -/

/-- The plaintext of a record's CT (R329 check 4). -/
def Party.openRecord (q : Party) (b : List Byte) : Option (List Byte) :=
  sm2Decrypt q.setupKey (sliceBytes b 8 176) (if fieldLe b 0 1 = 2 then 80 else 16)

/-- A tenant key number has been used in the party's life (R329 check 5; log 36). -/
def Party.keyUsed (q : Party) (t n : Nat) : Bool := q.keys.any (fun k => k.1 = t ∧ k.2.1 = n)

/-- A checkpoint share of the tenant has been accepted (R329 check 7). -/
def Party.shareUsed (q : Party) (t : Nat) : Bool := q.shares.any (fun x => x.1 = t)

/-- The result of a record (R329, in its order), and its plaintext. -/
def Party.recordResult (q : Party) (b : List Byte) : Nat × List Byte :=
  let kind := fieldLe b 0 1
  let t := fieldLe b 1 1
  if polTenants q.policy ≤ t ∨ kind = 0 ∨ 4 < kind ∨ b.length ≠ 248 then (resFormat, [])
  else if !sm2Verify (sliceBytes q.policy (2112 + 64 * t) 64) (b.take 184) (sliceBytes b 184 64) then (resSignature, [])
  else if kind = 3 then (resOk, [])
  else match q.openRecord b with
    | none => (resSignature, [])
    | some pt =>
      if kind = 1 then (if q.keyUsed t (fieldLe b 2 1) then (resDuplicate, []) else (resOk, pt))
      else if kind = 2 then
        (if q.seed.isSome then (resDuplicate, [])
         else if sm3 pt ≠ sliceBytes q.policy 16 32 then (resCommitment, []) else (resOk, pt))
      else if q.shareUsed t then (resDuplicate, []) else (resOk, pt)

/-- What an accepted record does in SEC (R329). -/
def Party.applyRecord (q : Party) (b pt : List Byte) : Party :=
  let t := fieldLe b 1 1
  let n := fieldLe b 2 1
  match fieldLe b 0 1 with
  | 1 => { q with keys := q.keys ++ [(t, n, some pt)] }
  | 2 => { q with seed := some (sliceBytes pt 0 32), secret := sliceBytes pt 32 32, salt := sliceBytes pt 64 16 }
  | 3 => { q with keys := q.keys.map (fun k => if k.1 = t ∧ k.2.1 = n then (t, n, none) else k) }
  | _ => { q with shares := q.shares ++ [(t, pt)] }

/-- SEC holds the seed record and every tenant's share, and has not formed Kc yet. -/
def Party.mayForm (q : Party) : Bool :=
  q.seed.isSome && q.kc.isNone && (List.range (polTenants q.policy)).all q.shareUsed

/-- Kc from the salt and the shares in tenant order; salt and shares are erased (R329). -/
def Party.formKc (q : Party) : Party :=
  let share (t : Nat) : List Byte := match q.shares.find? (fun x => x.1 = t) with | some x => x.2 | none => []
  { q with kc := some ((sm3 (q.salt ++ (List.range (polTenants q.policy)).flatMap share)).take 16), salt := [],
           shares := q.shares.map (fun x => (x.1, [])) }

/-- Default allocation of an activity per unit and local tick, in thousandths (Table 13.5). -/
def defaultShare (a : Nat) : Nat := [9000000, 2000000, 3000000, 1000000, 2560, 140000, 7000000, 1200000].getD a 0

/-- The partition weir at party setup (R303). -/
def State.setupWeir (s : State) (p : Nat) : State :=
  let d := (s.partUnits p).length
  s.updWeir (40 + p) (fun w => { w with
    period := 1000, nextPeriod := 1000
    allocs := (List.range 8).foldl (fun m a =>
      Sparse.modify Alloc.zero m a (fun x => { x with tokens := defaultShare a * d, next := defaultShare a * d })) w.allocs })

/-- The MGC completes a party's setup (R294, R303, R305, R354): CODE_PERMIT, REQUIRED, weir, SCOPE, and a context with the
next generation. -/
def State.activate (s : State) (p : Nat) (q : Party) : State :=
  let peers := ((List.range 15).filter (fun i => (s.lnk i).peerValid)).length
  let s1 := (s.partUnits p).foldl (fun t k => t.updUpd k (fun u => { u with codePermit := decide (polCodes q.policy ≠ 0) })) s
  ((s1.setupWeir p).updPrt p (fun v => { v.dropContext with
    paceRequired := polPace q.policy, paceEn := v.paceEn || polPace q.policy, scope := decide (peers < 4)
    gen := nextGen v.gen, hasCtx := true, state := .active }))

/-- The handle that a KIND 1 record creates (R327). -/
def recordHandle (p : Nat) (b : List Byte) : List Byte :=
  if fieldLe b 0 1 = 1 then leBytes 2 (p * 8192 + fieldLe b 1 1 * 256 + fieldLe b 2 1) else []

/-- KEY_RECORD (R322, R329, R330). -/
def execKeyRecord (p : Nat) (record : List Byte) (s : State) : Host.Outcome State Fault Refusal :=
  .next (if !s.answers then s
    else if !s.fuses.debugDisabled then s.vendorAnswer resDebug []
    else match (s.prt p).party with
      | none => s.vendorAnswer resState []
      | some q =>
        if (s.prt p).state ≠ .setup ∧ (s.prt p).state ≠ .active then s.vendorAnswer resState []
        else
          let r := q.recordResult record
          if r.1 ≠ resOk then s.vendorAnswer r.1 []
          else
            let q1 := q.applyRecord record r.2
            let q2 := if q1.mayForm then q1.formKc else q1
            let s1 := s.updPrt p (fun v => { v with party := some q2 })
            (if q1.mayForm ∧ (s.prt p).state = .setup then s1.activate p q2 else s1).vendorAnswer resOk (recordHandle p record))

/-! ### Staging (R319-R321) -/

/-- Bytes of a bank (60 MiB). -/
def bankSize : Nat := 60 * 2 ^ 20

/-- The bank that staging writes. -/
def Sec.other (x : Sec) : Bool := !x.running

/-- STAGE_BEGIN (R319): the other bank is erased; TRY_BANK is cleared if it named it. -/
def execStageBegin (size : Nat) (s : State) : Host.Outcome State Fault Refusal :=
  .next (if s.dev.state = .boot then s
    else if s.sec.staging.isSome then s.vendorAnswer resBusy []
    else if bankSize < size then s.vendorAnswer resFormat []
    else (s.updSec (fun x =>
      { (x.setBank x.other (.bytes size [])) with
        tryBank := if x.tryBank = some x.other then none else x.tryBank
        staging := some ⟨size, 0⟩ })).vendorAnswer resOk [])

/-- Write bytes into a staged bank. -/
def Bank.write (b : Bank) (off : Nat) (bs : List Byte) : Bank :=
  match b with
  | .factory => .factory
  | .bytes size data => .bytes size (Sparse.setMany 0xFF#8 data off bs)

/-- STAGE_DATA (R319). -/
def execStageData (offset : Nat) (bytes : List Byte) (s : State) : Host.Outcome State Fault Refusal :=
  .next (if s.dev.state = .boot then s
    else match s.sec.staging with
      | none => s.vendorAnswer resState []
      | some g =>
        if bytes.length = 0 ∨ 1024 < bytes.length then s.vendorAnswer resFormat []
        else if g.size < offset + bytes.length then s.vendorAnswer resState []
        else (s.updSec (fun x =>
          { (x.setBank x.other ((x.bank x.other).write offset bytes)) with
            staging := some ⟨g.size, g.written + bytes.length⟩ })).vendorAnswer resOk [])

/-- The session ends and its bank stays invalid. -/
def State.dropStaging (s : State) : State :=
  s.updSec (fun x => { (x.setBank x.other (.bytes 0 [])) with staging := none })

/-- STAGE_END (R318, R319, R321): the bank is verified; on success TRY_BANK names it, and in recovery the ROM resets the
device. -/
def execStageEnd (s : State) : Host.Outcome State Fault Refusal :=
  .next (if s.dev.state = .boot then s
    else match s.sec.staging with
      | none => s.vendorAnswer resState []
      | some _ =>
        let r := (checkBank s.fuses (s.sec.bank s.sec.other)).1
        if r = resOk then
          let s1 := ((s.updSec (fun x => { x with staging := none, tryBank := some x.other })).vendorAnswer resOk []).msixPf0 4
          if s.mgc.recovery then s1.deviceReset else s1
        else ((s.dropStaging).vendorAnswer r []).msixPf0 4)

/-- STAGE_ABORT (R319). -/
def execStageAbort (s : State) : Host.Outcome State Fault Refusal :=
  .next (if s.dev.state = .boot then s
    else if s.sec.staging.isSome then s.dropStaging.vendorAnswer resOk [] else s.vendorAnswer resState [])

/-! ### Entropy and debug -/

/-- ENTROPY_HEALTH_TEST (R326). -/
def execEntropyHealthTest (passes : Bool) (s : State) : Host.Outcome State Fault Refusal :=
  .next (s.updSec (fun x => { x with entropyOk := passes }))

/-- DEBUG_ACCESS (R322): ignored with DEBUG_DISABLED burnt; else the debug lands are live and the use is kept. -/
def execDebugAccess (s : State) : Host.Outcome State Fault Refusal :=
  .next (if s.fuses.debugDisabled then s
    else s.updDev (fun d => { d with jtagEnabled := true, injectEnabled := true, debugUsed := true }))

/-! ### MCTP and PLDM (R271, R272, Table 12.2; DSP0236, DSP0240, DSP0248: log 15) -/

/-- The message types that the endpoint carries: PLDM, SPDM, vendor-defined (R271). -/
def mctpTypes : List Byte := [0x01#8, 0x05#8, 0x7F#8]

/-- A management message over MCTP is handled where it reaches the endpoint and the firmware runs. -/
def State.mctpServes (s : State) (via : MctpVia) : Bool := s.answers && s.mctpReaches via

/-- MCTP_CONTROL: set and get the endpoint ID, version 1.3.1, message types; other codes are unsupported. -/
def execMctpControl (call : MctpCall) (data : List Byte) (s : State) : Host.Outcome State Fault Refusal :=
  .next (if !s.mctpServes call.via then s
    else if call.code = 1 then
      let e := data.getD 1 0#8
      if e = 0#8 ∨ e = 0xFF#8 then s.emit (.mctp [1#8, 2#8])
      else (s.updDev (fun d => { d with eid := e })).emit (.mctp [1#8, 0#8, 0#8, e, 0#8])
    else if call.code = 2 then s.emit (.mctp [2#8, 0#8, s.dev.eid, 0#8, 0#8])
    else if call.code = 4 then s.emit (.mctp [4#8, 0#8, 1#8, 0xF1#8, 0xF3#8, 0xF1#8, 0x00#8])
    else if call.code = 5 then s.emit (.mctp ([5#8, 0#8, 3#8] ++ mctpTypes))
    else s.emit (.mctp [BitVec.ofNat 8 call.code, 5#8]))

/-- PLDM_BASE_COMMAND: SetTID, GetTID, GetPLDMVersion, GetPLDMTypes (0 and 2); others are unsupported. -/
def execPldmBaseCommand (call : MctpCall) (data : List Byte) (s : State) : Host.Outcome State Fault Refusal :=
  .next (if !s.mctpServes call.via then s
    else if call.code = 1 then (s.updDev (fun d => { d with tid := data.getD 0 0#8 })).emit (.pldm [1#8, 0#8])
    else if call.code = 2 then s.emit (.pldm [2#8, 0#8, s.dev.tid])
    else if call.code = 3 then s.emit (.pldm [3#8, 0#8, 0x00#8, 0xF0#8, 0xF1#8, 0xF1#8])
    else if call.code = 4 then s.emit (.pldm ([4#8, 0#8, 0x05#8] ++ zeros 7))
    else s.emit (.pldm [BitVec.ofNat 8 call.code, 5#8]))

/-- The kinds of Table 12.2. -/
inductive PdrKind where
  | numericSensor | stateSensor | numericEffecter
deriving DecidableEq, Repr

/-- The PDR repository: the sensors and the effecter of Table 12.2 by identifier (R272). No command reads a record. -/
def pdrRepository : List (Nat × PdrKind) :=
  [(1, .numericSensor), (2, .numericSensor), (3, .numericSensor), (4, .numericSensor), (5, .numericSensor), (6, .stateSensor),
    (7, .stateSensor), (8, .numericEffecter)]

/-- The repository holds an identifier of that kind. -/
def pdrHolds (id : Nat) (kind : PdrKind) : Bool := pdrRepository.contains (id, kind)

/-- A numeric sensor of Table 12.2; the input voltage is what the environment presents. -/
def State.sensor (s : State) (id volts : Nat) : Int :=
  match id with
  | 1 => s.dev.measured.toNat
  | 2 => volts
  | 3 => s.dev.vcore
  | 4 => s.hottest / 8
  | 5 => s.hlt.risk.toNat
  | _ => 0

/-- GET_SENSOR_READING (R272). -/
def execGetSensorReading (call : MctpCall) (volts : Nat) (s : State) : Host.Outcome State Fault Refusal :=
  .next (if !s.mctpServes call.via then s
    else if pdrHolds call.code .numericSensor then
      s.emit (.pldm ([0x11#8, 0#8] ++ leBytes 4 (BitVec.ofInt 32 (s.sensor call.code volts)).toNat))
    else s.emit (.pldm [0x11#8, 0x80#8]))

/-- Codes of HST.LINK_STATUS.STATE (Table 12.7). -/
def HostLink.code : HostLink → Nat
  | .down => 0 | .training => 1 | .up => 2

/-- Codes of LNK_STATE (Table 11.8). -/
def LinkState.code : LinkState → Nat
  | .dark => 0 | .training => 1 | .up => 2 | .degraded => 3 | .lost => 4

/-- The states that a state sensor shows: the device state; the link states of L0 to L23, H0 and H1 (Table 12.2). -/
def State.sensedStates (s : State) (id : Nat) : List Byte :=
  if id = 6 then leBytes 1 s.dev.state.code
  else (List.range 24).flatMap (fun i => leBytes 1 (s.lnk i).state.code) ++ leBytes 1 (s.hst false).link.code
    ++ leBytes 1 (s.hst true).link.code

/-- GET_STATE_SENSOR_READINGS (R272). -/
def execGetStateSensorReadings (call : MctpCall) (s : State) : Host.Outcome State Fault Refusal :=
  .next (if !s.mctpServes call.via then s
    else if pdrHolds call.code .stateSensor then s.emit (.pldm ([0x21#8, 0#8] ++ s.sensedStates call.code))
    else s.emit (.pldm [0x21#8, 0x80#8]))

/-- NUMERIC_EFFECTER_WRITE (R272): effecter 8 is PKG_POWER_CAP, under R2. -/
def execNumericEffecterWrite (call : MctpCall) (value : Nat) (s : State) : Host.Outcome State Fault Refusal :=
  .next (if !s.mctpServes call.via then s
    else if pdrHolds call.code .numericEffecter then (s.setCap value).emit (.pldm [0x31#8, 0#8])
    else s.emit (.pldm [0x31#8, 0x80#8]))

/-- A reading lies beyond a sensor's threshold on one side; the spec gives no threshold (log 58). -/
def beyondThreshold (id : Nat) (reading : Int) (high : Bool) : Bool :=
  if high then decide (Config.sensorThreshold id true < reading) else decide (reading < Config.sensorThreshold id false)

/-- PLATFORM_EVENT_MESSAGE (R272): a numeric sensor has crossed a threshold: it reads beyond it. -/
def execPlatformEventMessage (id volts : Nat) (high : Bool) (s : State) : Host.Outcome State Fault Refusal :=
  .next (if s.answers ∧ pdrHolds id .numericSensor ∧ beyondThreshold id (s.sensor id volts) high then
    s.emit (.pldm ([0x0A#8] ++ leBytes 2 id ++ leBytes 4 (BitVec.ofInt 32 (s.sensor id volts)).toNat
      ++ leBytes 1 (if high then 1 else 0))) else s)

end Sys2Proof.Machine
end

