-- ==== Sys2Proof/Machine/Layouts.lean ====
section
/-! DEFINITION. The layout and its change (R289-R291, R301, R302). -/

namespace Sys2Proof.Machine

/-- The units of a partition of a layout. -/
def partUnitsOf (x : PartLayout) : List Nat := (List.range (2 ^ x.log2Units)).map (x.part + ·)

/-- The partition that a layout gives a unit. -/
def layoutOwner (l : Layout) (k : Nat) : Option Nat := (l.parts.find? (fun x => (partUnitsOf x).contains k)).map (·.part)

/-- The partitions of a layout are legal (R289, R291). -/
def layoutPartsLegal (l : Layout) : Bool :=
  l.parts.all (fun x => decide (x.log2Units ≤ 3 ∧ x.part + 2 ^ x.log2Units ≤ 8 ∧ x.part % 2 ^ x.log2Units = 0) && (x.h0 || x.h1))
    && (List.range 8).all (fun k => decide ((l.parts.filter (fun x => (partUnitsOf x).contains k)).length ≤ 1))
    && decide (l.masks.length = 24)

/-- Capacity of a shared weir per local tick (Table 13.4). -/
def State.sharedCapacity (s : State) (w : Nat) : Nat :=
  if w < 24 then 768 else if w < 26 then 216 else if w < 34 then 23400 else if w < 36 then 432 else s.powerCapacity

/-- Index 8 is the MGC's on host ports, MCEs and the power weir (Table 13.4). -/
def mgcShares (w : Nat) : Bool := decide (24 ≤ w ∧ w < 34) || decide (w = 36)

/-- A shared weir's period and nine allocations after a layout change. -/
def State.newWeir (s : State) (l : Layout) (w : Nat) : Nat × List Nat :=
  match l.weirs.find? (fun x => x.weir = w) with
  | some x => (x.period, (List.range 9).map (fun a => x.allocs.getD a 0))
  | none => ((s.weir w).nextPeriod, (List.range 9).map (fun a => (Sparse.get Alloc.zero (s.weir w).allocs a).next))

/-- A shared weir is legal in a layout (R301). -/
def State.weirLegal (s : State) (l : Layout) (w : Nat) : Bool :=
  let x := s.newWeir l w
  decide (1 ≤ x.1 ∧ x.1 ≤ 1024 ∧ sumNat x.2 ≤ s.sharedCapacity w * x.1)
    && (mgcShares w || decide (x.2.getD 8 0 = 0))
    && (if 26 ≤ w ∧ w < 34 then
          let own := (layoutOwner l (w - 26)).getD 8
          (List.range 9).all (fun a => decide (a = own ∨ x.2.getD a 0 = 0))
        else true)

/-- A layout is legal (R289, R291, R301). -/
def State.layoutLegal (s : State) (l : Layout) : Bool :=
  layoutPartsLegal l && l.weirs.all (fun x => decide (x.weir < 37)) && (List.range 37).all (s.weirLegal l)

/-- Partition p stays as it is in a layout: its units and its host ports. -/
def State.keepsPart (s : State) (l : Layout) (p : Nat) : Bool :=
  let v := s.prt p
  l.parts.any (fun x => decide (x.part = p ∧ x.log2Units = v.log2Units ∧ x.h0 = v.h0 ∧ x.h1 = v.h1))

/-- A layout touches partition p (R290): its units, host ports, link ports, or a shared weir on which it holds tokens. -/
def State.touches (s : State) (l : Layout) (p : Nat) : Bool :=
  !s.keepsPart l p
    || (List.range 24).any (fun i => bitAt (s.lnk i).mask p != bitAt (l.masks.getD i 0#8) p)
    || (List.range 37).any (fun w =>
      let v := s.weir w
      decide ((Sparse.get Alloc.zero v.allocs p).next ≠ 0) &&
        decide (s.newWeir l w ≠ (v.nextPeriod, (List.range 9).map (fun a => (Sparse.get Alloc.zero v.allocs a).next))))

/-- A created partition (R290): a partition reset, in which its pool is zeroised, its basin groups retrain and the ports that
it alone uses go dark and train; then EMPTY. Generation and epoch of the index go on. -/
def State.createPart (s : State) (x : PartLayout) : State :=
  let v := s.prt x.part
  let s1 := s.setPrt x.part { Prt.reset with
    log2Units := x.log2Units, h0 := x.h0, h1 := x.h1, state := .empty, gen := v.gen, epoch := v.epoch + 1 }
  let s2 := (s1.clearBlocks x.part).deepReset x.part
  (s2.partUnits x.part).foldl (fun t k => t.updBas k (fun b => { b with state := 2#2 })) s2

/-- Apply a legal layout (R290, R299, R302). -/
def State.applyLayout (s : State) (l : Layout) : State :=
  let old := s.liveParts
  let fresh := l.parts.filter (fun x => !(old.contains x.part && decide ((s.prt x.part).log2Units = x.log2Units)))
  let s1 := { s with mgc := { s.mgc with
    units := (List.range 8).foldl (fun m k => Sparse.set 0 m k (match layoutOwner l k with | some p => p + 1 | none => 0)) s.mgc.units
    layoutCount := satAdd s.mgc.layoutCount 1, weir36Base := s.powerCapacity } }
  let s2 := old.foldl (fun t p =>
    match l.parts.find? (fun x => x.part = p) with
    | some x => t.updPrt p (fun v => { v with h0 := x.h0, h1 := x.h1 })
    | none => t.updPrt p (fun v => { Prt.reset with gen := v.gen, epoch := v.epoch })) s1
  let s3 := (List.range 24).foldl (fun t i => t.updLnk i (fun x => { x with mask := l.masks.getD i 0#8 })) s2
  let s4 := fresh.foldl State.createPart s3
  (List.range 37).foldl (fun t w =>
    let x := s.newWeir l w
    t.updWeir w (fun v => { v with
      nextPeriod := x.1
      capacity := if w = 36 then s.powerCapacity else v.capacity
      allocs := (List.range 9).foldl (fun m a => Sparse.modify Alloc.zero m a (fun y => { y with next := x.2.getD a 0 })) v.allocs })) s4

/-- LAYOUT_CHANGE (R290): refused when it is not legal or touches a partition that holds a party; vector 3 either way. -/
def execLayoutChange (layout : Layout) (s : State) : Host.Outcome State Fault Refusal :=
  .next (if !s.answers then s
    else if s.layoutLegal layout && s.liveParts.all (fun p => !(s.prt p).holdsParty || !s.touches layout p) then
      (s.applyLayout layout).msixPf0 3
    else s.msixPf0 3)

end Sys2Proof.Machine
end

