-- ==== Sys2Proof/Machine/Health.lean ====
section
/-! DEFINITION. Watchdogs and escalation (R350-R354, Table 16.2), the end of a partition reset (R356), the risk estimate
(R362, R363), patrol tests (R338, R339, R341), and the drain (R344, R345, Table 15.6). -/

namespace Sys2Proof.Machine

/-! ### Pending work (R350, R351) -/

/-- The waits of R351 that are not pending work. -/
def Prt.restsOf (v : Prt) (o : OpRec) : Bool :=
  (o.updates (dA o.desc) && !v.slotFree o) || o.coll.waiting
    || (match o.belay with | some b => b.copied && !o.done | none => false)

/-- A reset or teardown of the partition is in progress. -/
def Prt.resets (v : Prt) : Bool := decide (v.ctxReset = .busy ∨ v.prtReset = .busy ∨ v.teardown = .busy)

/-- An operation of the partition is at work in its blocks. -/
def Prt.works (v : Prt) : Bool := v.ops.any (fun o => decide (o.phase = .started) && !o.done && !v.restsOf o)

/-- The block of a page has pending work (R350, R351): STATUS.ACTIVE. -/
def State.pendingWork (s : State) (n : Nat) : Bool :=
  let owner := s.pageOwner n
  let resets := match owner with | some p => (s.prt p).resets | none => false
  let works := match owner with | some p => (s.prt p).works | none => false
  !resets && (match pageClass n with
    | some (.prt, p) => (s.prt p).ops.any (fun o => !(s.prt p).restsOf o)
    | some (.eng, i) => (s.eng (i / 16) (i % 16)).job.isSome
    | some (.upd, k) => (s.upd k).chunk.isSome || works
    | some (.mce, m) => if m < 8 then works || (s.mce m).slots.any (fun x => decide (x.2.state = .draining) && !x.2.sweepDone)
        else [false, true].any (fun h => !(s.hst h).reads.isEmpty)
    | some (.hst, h) => !(s.hst (decide (h = 1))).reads.isEmpty
    | some (.lnk, i) => !(s.lnk i).eddy.isEmpty || decide ((s.lnk i).state = .training)
        || (List.range 9).any (fun v => !((s.lnk i).vc v).waiting.isEmpty)
    | some (.core, _) => works | some (.vec, _) => works | some (.spd, _) => works | some (.pool, _) => works
    | some (.bas, _) => works | _ => false)

/-! ### RESET_REQ of one block (R400) -/

/-- A block of no partition returns to its state after start-up; its work in hand is dropped. -/
def State.restartBlock (s : State) (n : Nat) : State :=
  match pageClass n with
  | some (.lnk, i) =>
    let s1 := if (s.lnk i).carries ∨ (s.lnk i).state = .training then s.enterLost i else s
    let s2 := s1.updLnk i (fun l => { l with loopback := false })
    if (s.lnk i).state ≠ .dark ∧ s2.mayTrain i then s2.startTraining i else s2
  | some (.hst, h) => if (s.hst (decide (h = 1))).link = .up then (s.dropHostLink (decide (h = 1)) .training).askAll else s
  | some (.mce, m) =>
    if 8 ≤ m then ([false, true].foldl (fun t h => t.endReads h (fun _ => true)) s).askAll
    else s.updMce m (fun e => { e with selSlot := 0#6, selSucc := 0#6, selSuccEn := false, selHandle := 0#16, cmdErr := false, slots := [] })
  | some (.bas, k) => s.updBas k (fun b => { b with scrubLine := 0 })
  | some (.upd, k) => s.updUpd k (fun u =>
      { Upd.reset with codePermit := u.codePermit, coresInService := u.coresInService, strict := u.strict,
                       state := if u.state = 7#4 then 7#4 else 0#4 })
  | some (.eng, i) => s.updEng (i / 16) (i % 16) (fun e => { Eng.zero with state := if e.state = 7#4 then 7#4 else 0#4 })
  | some (.vec, c) => if Sparse.get 0#3 s.vecState c = 5#3 then s else { s with vecState := Sparse.set 0#3 s.vecState c 0#3 }
  | some (.spd, c) => { s with
      spd := Sparse.dropKeys s.spd (fun k => decide (k / 2 ^ 22 = c)), spdBad := Sparse.dropKeys s.spdBad (fun k => decide (k / 2 ^ 19 = c))
      spdDir := Sparse.dropKeys s.spdDir (fun k => decide (k / 128 = c)), spdDirBad := Sparse.dropKeys s.spdDirBad (fun k => decide (k / 128 = c)) }
  | some (.pool, b) =>
    let mine (c : Nat) : Bool := decide (c / 8 = b)
    { s with pool := Sparse.dropKeys s.pool (fun k => mine (k / 2 ^ 31)), poolBad := Sparse.dropKeys s.poolBad (fun k => mine (k / 2 ^ 25))
             poolPasses := Sparse.set 0#32 s.poolPasses b 0#32 }
  | some (.wei, w) => s.updWeir w (fun v => { v with
      allocs := (List.range 9).foldl (fun m a => Sparse.modify Alloc.zero m a (fun x => { x with demand := 0 })) v.allocs })
  | some (.sec, _) => if s.sec.staging.isSome then s.dropStaging else s
  | some (.hlt, _) => s.updHlt (fun h => { h with testCount := 0, nextPattern := 0 })
  | _ => s

/-- CTRL.RESET_REQ (R400): acts only on a page that no partition owns; HUNG clears. -/
def State.resetBlock (s : State) (n : Nat) : State :=
  if (s.pageOwner n).isSome ∨ (pageClass n).isNone then s
  else (s.restartBlock n).updHdr n (fun h => { h with hung := false, escalation := if h.hung then 1#2 else h.escalation })

/-- RESET_REQ (R400). -/
def execResetReq (via : Via) (page : Nat) (s : State) : Host.Outcome State Fault Refusal :=
  .next (match via with
    | .mgc => s.resetBlock page
    | _ => s)

/-! ### Watchdogs (R350, R352, R353) -/

/-- The class of a page has a watchdog (CAPS.WATCHDOG, Table 16.1). -/
def hasWatchdog (n : Nat) : Bool := (pageClass n).isSome && decide (watchReset n ≠ 0)

/-- The hung block becomes suspect and the device drains (Table 16.2, stages 4 and 5). -/
def State.condemn (s : State) (n : Nat) : State := if (s.hdr n).suspect then s else s.makeSuspect n

/-- Stage 4: a block that a partition reset did not cure. -/
def State.condemnOwned (s : State) (n : Nat) : State :=
  let s1 := s.condemn n
  if s1.hlt.drainDue.isSome then s1 else s1.drainCause 1

/-- The block of page n reports HUNG (R350): its registers, and the interrupts of R352 and R406. -/
def State.reportHung (s : State) (n : Nat) : State :=
  let rises := match s.pageOwner n with | some p => !s.prtHung p | none => !(s.hdr n).hung
  let s1 := s.updHdr n (fun h => { h with
    hung := true, expired := true, expireCount := if h.expireCount = 0xFFFF#16 then 0xFFFF#16 else h.expireCount + 1 })
  if !rises then s1
  else match s.pageOwner n with
    | some p => (s1.msixVf p 16).msixPf0 6
    | none => s1.msixPf0 6

/-- What the MGC does at once when a hang rises (Table 16.2): a repeated hang goes to the next stage; a block that no
partition owns is reset alone. -/
def State.escalate (s : State) (n : Nat) (e : BitVec 2) : State :=
  match s.pageOwner n with
  | some p => if e = 2#2 then s.condemnOwned n else if e = 1#2 then s.startPartitionReset p true else s
  | none => if e = 0#2 then s.resetBlock n else s.condemn n

/-- WATCHDOG_EXPIRY (R350): pending work and no PROGRESS for WATCH_WINDOW ticks; a window of 0 is off. -/
def execWatchdogExpiry (page : Nat) (s : State) : Host.Outcome State Fault Refusal :=
  let h := s.hdr page
  .next (if hasWatchdog page ∧ h.watchWindow ≠ 0#32 ∧ s.pendingWork page ∧ !h.suspect ∧ s.dev.state ≠ .boot then
    let s1 := s.reportHung page
    if h.hung then s1 else s1.escalate page h.escalation
  else s)

/-- HANG_GRACE_EXPIRY (R353, stage 2): the reset of the default scope, with no reset started; `confirmed`: every block
confirms a context reset within its time. -/
def execHangGraceExpiry (p : Nat) (confirmed : Bool) (s : State) : Host.Outcome State Fault Refusal :=
  .next (if p < 8 ∧ s.prtHung p ∧ !(s.prt p).resets then
    (if (s.prt p).scope then s.startContextReset p true confirmed else s.startPartitionReset p true)
  else s)

/-- CONTEXT_RESET_TIMEOUT (R353, stage 3). -/
def execContextResetTimeout (p : Nat) (s : State) : Host.Outcome State Fault Refusal :=
  .next (if p < 8 ∧ (s.prt p).ctxReset = .busy then s.startPartitionReset p true else s)

/-- PARTITION_RESET_TIMEOUT (R353, stage 4): `page` is the block that has not confirmed. -/
def execPartitionResetTimeout (p page : Nat) (s : State) : Host.Outcome State Fault Refusal :=
  .next (if p < 8 ∧ (s.prt p).prtReset = .busy ∧ s.pageOwner page = some p then s.condemnOwned page else s)

/-- BASIN_PHY_RETRAINED (R356, Table 16.5): the trainings of a partition reset end; with every port that the partition alone
uses trained or lost, the reset is DONE. -/
def execBasinPhyRetrained (p : Nat) (links : List (Nat × Training)) (s : State) : Host.Outcome State Fault Refusal :=
  .next (if p < 8 ∧ (s.prt p).prtReset = .busy then
    let s1 := links.foldl (fun t (x : Nat × Training) =>
      if x.1 < 24 ∧ t.privatePort x.1 p ∧ (t.lnk x.1).state = .training then t.finishTraining x.1 x.2 else t) s
    if (List.range 24).any (fun i => s1.privatePort i p && decide ((s1.lnk i).state = .training)) then s1 else s1.endPartitionReset p
  else s)

/-! ### Risk (R362, R363) -/

/-- The weight of an input (Table 16.6). -/
def Hlt.weight (h : Hlt) (i : Nat) : Nat :=
  if i < 4 then (bitsAt h.weights0 (8 * i) 8).toNat else (bitsAt h.weights1 (8 * (i - 4)) 8).toNat

/-- DECAY; 0 is treated as 1 (Table 16.10). -/
def Hlt.shift (h : Hlt) : Nat := if h.decay = 0#4 then 1 else h.decay.toNat

/-- Events of input i in the period that ends, with a hottest junction in whole °C (Table 16.6). -/
def State.inputEvents (s : State) (hottest i : Nat) : Nat :=
  let n := Sparse.get 0 s.hlt.events i
  if i = 5 then hottest - 95
  else if i = 7 then (if s.dev.thermal || s.dev.capped || decide (n ≠ 0) then 1 else 0)
  else n

/-- The leaky count of an input after a period (R362). -/
def leak (shift e n : Nat) : Nat := min 65535 (e - e / 2 ^ shift + n)

/-- RISK of the leaky counts (R362). -/
def Hlt.riskOf (h : Hlt) (leaky : Sparse Nat) : Nat :=
  min 255 (sumNat ((List.range 8).map (fun i => h.weight i * Sparse.get 0 leaky i)) / 64)

/-- The leaky counts after a period. -/
def State.leakyNext (s : State) (hottest : Nat) : Sparse Nat :=
  (List.range 8).foldl (fun m i => Sparse.set 0 m i (leak s.hlt.shift (Sparse.get 0 s.hlt.leaky i) (s.inputEvents hottest i))) []

/-- Every partition that holds a party receives a risk belay request. -/
def State.requestBelays (s : State) : State :=
  s.liveParts.foldl (fun t p => if (t.prt p).party.isSome then t.updPrt p (fun v => { v with riskPending := true }) else t) s

/-- RISK_PERIOD (R362, R363): `hottest` is the hottest junction in whole °C. -/
def execRiskPeriod (hottest : Nat) (s : State) : Host.Outcome State Fault Refusal :=
  .next (if s.dev.state = .boot then s
    else
      let m := s.leakyNext hottest
      let r := s.hlt.riskOf m
      let old := s.hlt.risk.toNat
      let bt := s.hlt.belayThresh.toNat
      let dt := s.hlt.drainThresh.toNat
      let fires := decide (bt ≠ 0 ∧ old < bt ∧ bt ≤ r) && s.hlt.armed
      let s1 := s.updHlt (fun h => { h with
        leaky := m, events := [], risk := BitVec.ofNat 8 r, armed := (h.armed && !fires) || decide (r + 16 < bt) })
      let s2 := if fires then s1.requestBelays else s1
      if dt ≠ 0 ∧ dt ≤ r ∧ old < dt then s2.drainCause 0 else s2)

/-! ### Patrol tests (R338, R339, R341) -/

/-- A patrol test may take engine e of core c now (R338). -/
def State.mayPatrol (s : State) (c e : Nat) : Bool :=
  let v := s.eng c e
  decide (c < 256 ∧ e < 16) && s.takes (pageEng c e) && !(s.hdr (pageEng c e)).suspect && !(s.hdr (pageCore c)).suspect
    && v.acts.isEmpty && v.chains.isEmpty && v.feet.isEmpty && !v.shadowFull && !v.footOpen

/-- After a test both banks hold +0 and every foot slot is zero (R338). -/
def State.wipeEngine (s : State) (c e : Nat) : State := s.updEng c e (fun v => { v with bank0 := [], bank1 := [], foot := [] })

/-- The engines that a failed test finds faulty: those whose result differs from the third's, or all three (R339). -/
def patrolSuspects (c0 c1 c2 : Nat) : PatrolRun → List Nat
  | .first => [c1]
  | .second => [c0]
  | .neither => [c0, c1, c2]

/-- Which pattern a test replays: every fourth test takes the next stored one (R341). -/
def Hlt.patternTurn (h : Hlt) : Bool := h.patternsEn && !h.patterns.isEmpty && decide ((h.testCount + 1) % 4 = 0)

/-- The index of the stored pattern after the one replayed last. -/
def Hlt.patternAfter (h : Hlt) : Nat :=
  (((List.range 16).map (fun i => (h.nextPattern + i) % 16)).find? (fun i => Sparse.get [] h.patterns i ≠ [])).getD 0

/-- A failed test: its count, its record, and the suspects (R339, R346). -/
def State.failPatrol (s : State) (e c0 : Nat) (pattern : Bool) (bad : List Nat) : State :=
  let ev := { CperEvent.base 5#8 (if bad.isEmpty then 1#8 else 3#8) (pageEng (bad.headD c0) e) with
    origin := if pattern then 2#8 else 1#8, fatal := !bad.isEmpty }
  let s1 := ((s.updHlt (fun h => { h with
    patrolFail := if h.patrolFail = 0xFFFF#16 then 0xFFFF#16 else h.patrolFail + 1
    lastEngine := match bad.getLast? with | some c => BitVec.ofNat 12 (16 * c + e) | none => h.lastEngine })).riskEvent 3 1).report ev
  bad.foldl (fun t c => t.makeSuspect (pageEng c e)) s1

/-- PATROL_TEST (R338, R339): two engines of one partition, or of unassigned units. `runs`: the foot tiles agree and pass;
`reruns`: those of the rerun do; `third`: what the third core's engine gives. -/
def execPatrolTest (core0 core1 core2 engine : Nat) (runs reruns : Bool) (third : PatrolRun) (s : State) :
    Host.Outcome State Fault Refusal :=
  let owner := s.unitOwner (core0 / 32)
  let needs := if runs || reruns then [core0, core1] else [core0, core1, core2]
  .next (if s.dev.state ≠ .boot ∧ s.dev.state ≠ .fault ∧ s.hlt.patrolEn ∧ needs.Nodup
      ∧ needs.all (fun c => s.mayPatrol c engine && decide (s.unitOwner (c / 32) = owner)) then
    let pattern := s.hlt.patternTurn
    let s1 := match owner with | some p => s.takeTokens (40 + p) 4 2 | none => s
    let s2 := (needs.foldl (fun t c => t.wipeEngine c engine) s1).updHlt (fun h => { h with
      testCount := h.testCount + 1, nextPattern := if pattern then (h.patternAfter + 1) % 16 else h.nextPattern })
    if runs then s2 else s2.failPatrol engine core0 pattern (if reruns then [] else patrolSuspects core0 core1 core2 third)
  else s)

/-! ### Drain (R344, R345, R364, Table 15.6) -/

/-- Handles of tensors that the operations in flight of a partition write, ascending (Table 16.9, DIRTY). -/
def Prt.dirtyHandles (v : Prt) : List Nat :=
  (v.ops.flatMap (fun o => if o.internal then [] else (dWrites o.desc).filter (· ≠ 0))).foldl (fun l h => insertNat h l) []

/-- Step 4 begins for one partition: its drain belay, when its party has set a target. -/
def State.startDrainBelay (s : State) (p : Nat) (dirty : List Nat) : State :=
  let v := s.prt p
  if v.party.isSome ∧ v.hasCtx ∧ v.belayCfg.drainEn then
    let s1 := s.insertBelay p 2#8 v.belayCfg.drainTarget.toNat v.belayCfg.drainH (if v.anyCommit then (v.lastCommitStep + 1) % 2 ^ 64 else 0)
    s1.updPrt p (fun v => { v with ops := v.ops.map (fun o =>
      { o with belay := o.belay.map (fun b => if b.kind = 2#8 then { b with dirty := dirty } else b) }) })
  else s

/-- The drain belay of partition p is still running. -/
def Prt.drainBelay (v : Prt) : Option OpRec :=
  v.ops.find? (fun o => o.internal && (match o.belay with | some b => decide (b.kind = 2#8) | none => false))

/-- Records of causes in the log, the newest first: Fatal ones other than DRAIN (R345, R346). -/
def Hlt.causeRecords (h : Hlt) : List (List Byte) :=
  ((h.records.map (fun r => r.2)).filter (fun b => fieldLe b 12 4 = 1 ∧ fieldLe b 202 1 ≠ 9)).reverse

/-- Write every record that waits. -/
def State.writeDue (s : State) : State :=
  s.hlt.due.foldl State.writeRecord (s.updHlt (fun h => { h with due := [] }))

/-- The event of step 7. -/
def drainEvent : CperEvent := { CperEvent.base 9#8 0#8 4 with origin := 3#8, fatal := true }

/-- Steps 5 to 7: associations close, marks burn, the device is DRAINED. -/
def State.endDrain (s : State) (marks : Nat) : State :=
  let s1 := (s.liveParts.foldl (fun t p => t.closeAll p closeDrain) s).writeDue
  let causes := s1.hlt.causeRecords
  let last := (s1.buildRecord drainEvent).1
  let s2 := (List.range marks).foldl (fun t i => t.burnMark (causes.getD i last)) s1
  ((s2.updDev (fun d => { d with readyPin := false })).setDevState .drained).writeRecord drainEvent
    |>.updHlt (fun h => { h with drain := none })

/-- A drain goes on: when no drain belay runs any more, it ends. -/
def State.continueDrain (s : State) : State :=
  match s.hlt.drain with
  | none => s
  | some r => if r.waiting.any (fun p => (s.prt p).drainBelay.isSome) then s else s.endDrain r.marks

/-- Steps 2 to 4. -/
def State.startDrain (s : State) (marks : Nat) : State :=
  let dirty := s.liveParts.map (fun p => (p, (s.prt p).dirtyHandles))
  let s1 := ((s.updDev (fun d => { d with faultN := true })).setDevState .draining).announce 7#8
  let s2 := dirty.foldl (fun t (x : Nat × List Nat) => t.abortAll x.1 stDrained) s1
  let s3 := dirty.foldl (fun t (x : Nat × List Nat) => t.startDrainBelay x.1 x.2) s2
  (s3.updHlt (fun h => { h with drain := some ⟨marks, s3.liveParts.filter (fun p => (s3.prt p).drainBelay.isSome)⟩ })).continueDrain

/-- DRAIN (R344): a confirmed cause drains a READY device; while it drains, a second cause adds its mark and the sequence
goes on. -/
def execDrain (selfCheckFailed : Bool) (s : State) : Host.Outcome State Fault Refusal :=
  .next (
    let s1 := if selfCheckFailed then s.drainCause 0 else s
    match s1.hlt.drainDue, s1.hlt.drain with
    | some m, none =>
      if s.dev.state = .ready then (s1.updHlt (fun h => { h with drainDue := none })).startDrain m else s
    | some m, some r =>
      (s1.updHlt (fun h => { h with drainDue := none, drain := some { r with marks := r.marks + m } })).continueDrain
    | none, _ => s1.continueDrain)

/-- DRAIN_BELAY_TIMEOUT (Table 15.6, step 4): a drain belay that is not finished ends, and the drain goes on. -/
def execDrainBelayTimeout (p : Nat) (s : State) : Host.Outcome State Fault Refusal :=
  .next (match s.hlt.drain, (s.prt p).drainBelay with
    | some _, some o => (s.endOp p o stDrained).continueDrain
    | _, _ => s)

end Sys2Proof.Machine
end

