-- ==== Sys2Proof/Machine/Registers.lean ====
section
/-! DEFINITION. Writes of registers: who reaches which (R6-R8, R394-R397, Table 18.3), the common header (R398, R399), partition
weirs (R303), and every field with an access code of its own. -/

namespace Sys2Proof.Machine

/-! ### Reach (R394-R397) -/

/-- The next state of an outcome; a stop leaves the state. -/
def afterOf (s : State) (o : Host.Outcome State Fault Refusal) : State := match o with | .next t => t | _ => s

/-- The header offsets that every VF sees of a page it partly sees. -/
def idOffsets : List Nat := [0x000, 0x004, 0x008]

/-- A port whose LINK_MASK names partition p alone shows its error registers and counts (Table 18.3). -/
def lnkPrivate : List Nat := [0x018, 0x01C, 0x020, 0x024, 0x028, 0x02C, 0x030, 0x034, 0x038, 0x03C, 0x090, 0x094, 0x098]

/-- A VF of partition p on a port sees offset `off` of page n (Table 18.3). -/
def State.sees (s : State) (port : Bool) (p n off : Nat) : Bool :=
  match pageClass n with
  | some (.dev, _) => (idOffsets ++ [0x080, 0x084, 0x088, 0x08C, 0x098, 0x0A0, 0x0A4]).contains off
  | some (.prt, i) => decide (i = p)
  | some (.jnl, i) => decide (i = p)
  | some (.hst, h) => decide (h = portIdx port) && (idOffsets ++ [0x080, 0x084, 0x088, 0x090, 0x094]).contains off
  | some (.lnk, i) => bitAt (s.lnk i).mask p &&
      ((idOffsets ++ [0x080, 0x084, 0x088, 0x08C, 0x0A0, 0x0A4, 0x0A8, 0x0C0, 0x0C4]).contains off
        || (s.privatePort i p && lnkPrivate.contains off))
  | some (.mce, m) => if m < 8 then decide (s.unitOwner m = some p) else [0x080, 0x084, 0x088, 0x08C].contains off
  | some (.wei, w) => if w < 37 then true else decide (w = 40 + p)
  | some (.bas, _) => decide (s.pageOwner n = some p)
  | some (.upd, _) => decide (s.pageOwner n = some p)
  | some (.pool, _) => decide (s.pageOwner n = some p)
  | some (.core, _) => decide (s.pageOwner n = some p)
  | some (.vec, _) => decide (s.pageOwner n = some p)
  | some (.spd, _) => decide (s.pageOwner n = some p)
  | some (.eng, _) => decide (s.pageOwner n = some p)
  | _ => false

/-- PF0 has no effect on this page (R397). -/
def pf0Closed (n : Nat) : Bool :=
  match pageClass n with
  | some (.prt, _) => true | some (.jnl, _) => true | some (.wei, w) => decide (40 ≤ w) | _ => false

/-- A write to offset `off` of page n. -/
def State.regAccess (s : State) (via : Via) (n off : Nat) : Access :=
  if (pageClass n).isNone then .ignore
  else match via with
    | .mgc => .serve
    | .pf0 port => if (s.hst port).link = .up ∧ !pf0Closed n then .serve else .ignore
    | .vf port part secured => s.vfAccess port part secured (s.sees port part n off)

/-! ### Errors (R399, R322) -/

/-- ERR_STATUS bits that a class has (Table 18.6). -/
def errBits : PageClass → Nat
  | .mce => 5 | .lnk => 7 | .prt => 3 | .wei => 1 | .hst => 5 | .eng => 3 | .upd => 3 | .vec => 3 | _ => 2

/-- ERR_STATUS bits of a page. -/
def pageErrBits (n : Nat) : Nat := match pageClass n with | some (c, _) => errBits c | none => 0

/-- Bits 0 and 1 of the class are CE and UE. -/
def ceUeClass : PageClass → Bool
  | .mce => false | .lnk => false | .prt => false | .wei => false | _ => true

/-- Clear ERR_STATUS bits (R399): VALID clears when none is left. -/
def State.clearErr (s : State) (n : Nat) (value : Reg) : State :=
  s.updHdr n (fun h =>
    let e := h.errStatus &&& ~~~value
    { h with errStatus := e, errFirstValid := h.errFirstValid && decide (e ≠ 0#32) })

/-- ERR_STATUS_CLEAR (R399). -/
def execErrStatusClear (via : Via) (page : Nat) (value : Reg) (s : State) : Host.Outcome State Fault Refusal :=
  .next (s.access (s.regAccess via page 0x018) (fun s => s.clearErr page value))

/-- ERR_FIRST_INFO of an event without a place (R399). -/
def State.plainInfo (s : State) (n : Nat) : Reg :=
  match pageClass n with
  | some (.prt, p) => BitVec.ofNat 32 (s.prt p).jnlHead
  | some (.eng, i) => (s.eng (i / 16) (i % 16)).pitchCount
  | _ => 0#32

/-- Inject the event of one ERR_STATUS bit: CE and UE count as such events do (R399). -/
def State.inject (s : State) (n b : Nat) : State :=
  match pageClass n with
  | none => s
  | some (c, _) =>
    if errBits c ≤ b then s
    else if ceUeClass c ∧ b = 0 then (s.countCe n false).raiseErr n 0 (s.plainInfo n)
    else if ceUeClass c ∧ b = 1 then s.foundUe n (some 1) (s.plainInfo n)
    else s.raiseErr n b (s.plainInfo n)

/-- A write of ERR_INJECT: none with DEBUG_DISABLED burnt; GO acts while INJECT_ENABLED is 1 (R322, Table 18.4). -/
def State.writeInject (s : State) (n : Nat) (value : Reg) : State :=
  if s.fuses.debugDisabled then s
  else
    let s1 := s.updHdr n (fun h => { h with injectBit := bitsAt value 0 5 })
    if bitAt value 8 ∧ s.dev.injectEnabled then s1.inject n (bitsAt value 0 5).toNat else s1

/-- ERR_INJECT (R322). -/
def execErrInject (via : Via) (page : Nat) (value : Reg) (s : State) : Host.Outcome State Fault Refusal :=
  .next (s.access (s.regAccess via page 0x030) (fun s => s.writeInject page value))

/-! ### Partition weirs (R303) -/

/-- Allocations of next period are within the limits of R303 for D units. -/
def weirFits (period : Nat) (alloc : Nat → Nat) (d : Nat) : Bool :=
  decide (sumNat (lineActivities.map alloc) ≤ 23400 * period * d ∧ alloc 4 ≤ 512 * period * d ∧ 35 * period * d ≤ alloc 5)

/-- The allocation that will be in force next period. -/
def Weir.nextAlloc (w : Weir) (a : Nat) : Nat := (Sparse.get Alloc.zero w.allocs a).next

/-- A write of BUDGET_PERIOD or BUDGET_ALLOC of a partition weir: in effect at the next period boundary (R299, R303). -/
def State.writeWeir (s : State) (w : Nat) (period : Bool) (value : Reg) : State :=
  let v := s.weir w
  let d := (s.partUnits (w - 40)).length
  let a := v.sel.toNat
  let n := (bitsAt value 0 11).toNat
  if period then
    (if n = 0 ∨ 1024 < n then s
     else if weirFits n v.nextAlloc d then s.updWeir w (fun v => { v with nextPeriod := n })
     else s.raiseErr (pageWei w) 0 0#32)
  else if 8 ≤ a then s
  else if weirFits v.nextPeriod (fun b => if b = a then value.toNat else v.nextAlloc b) d then
    s.updWeir w (fun v => { v with allocs := Sparse.modify Alloc.zero v.allocs a (fun x => { x with next := value.toNat }) })
  else s.raiseErr (pageWei w) 0 0#32

/-- Who writes a weir's budget: its partition through its VF (R301, R303). -/
def State.weirAccess (s : State) (via : Via) (w : Nat) : Access :=
  match via with
  | .vf port part secured => s.vfAccess port part secured (decide (w = 40 + part))
  | _ => .ignore

/-- WEIR_WRITE (R303). -/
def execWeirWrite (via : Via) (weir : Nat) (period : Bool) (value : Reg) (s : State) : Host.Outcome State Fault Refusal :=
  .next (s.access (s.weirAccess via weir) (fun s => s.writeWeir weir period value))

/-! ### The common header (Table 18.4) -/

/-- Registers of the header other than ERR_STATUS, ERR_INJECT and the budget. OWNER follows the layout (R290). -/
def State.writeHeader (s : State) (byMgc : Bool) (n off : Nat) (value : Reg) : State :=
  match off with
  | 0x010 =>
    if byMgc then
      let s1 := s.updHdr n (fun h => { h with enable := bitAt value 0, quiesce := bitAt value 1 })
      if bitAt value 2 then s1.resetBlock n else s1
    else s
  | 0x01C => s.updHdr n (fun h => { h with errMask := value })
  | 0x038 => if value = 0#32 ∧ !byMgc then s else s.updHdr n (fun h => { h with watchWindow := value })
  | 0x03C => if bitAt value 1 then s.updHdr n (fun h => { h with expired := false }) else s
  | _ => s

/-! ### Device pages -/

/-- DEV.CORNER.TARGET (Table 17.11, R386): VCORE follows it, unless the power cap or a slowdown holds it lower. -/
def State.writeTarget (s : State) (mv : Nat) : State :=
  if mv < 550 ∨ 750 < mv ∨ mv % 10 ≠ 0 then s
  else (s.updDev (fun d => { d with
    target := mv, vcore := if !d.railsUp then d.vcore else if d.capped || d.thermal then min d.vcore mv else mv })).capReleases

/-- DEV registers without a command of their own. -/
def State.writeDev (s : State) (byMgc : Bool) (off : Nat) (value : Reg) : State :=
  match off with
  | 0x090 => if byMgc then s.writeTarget (bitsAt value 16 10).toNat else s
  | 0x098 => s.updDev (fun d => { d with tickCalPage := bitsAt value 0 16 })
  | _ => s

/-- HLT registers (Tables 15.7, 16.10): the MGC alone. -/
def Hlt.write (h : Hlt) (off : Nat) (value : Reg) : Hlt :=
  match off with
  | 0x084 => { h with weights0 := value }
  | 0x088 => { h with weights1 := value }
  | 0x08C => { h with decay := bitsAt value 0 4, period := if bitsAt value 8 12 = 0#12 then h.period else bitsAt value 8 12 }
  | 0x090 => { h with belayThresh := bitsAt value 0 8 }
  | 0x094 => { h with drainThresh := bitsAt value 0 8 }
  | 0x0A0 => { h with patrolEn := bitAt value 0, patternsEn := bitAt value 1 }
  | _ => h

/-! ### Partition pages -/

/-- BELAY_CFG (Table 16.10): a target of 3 has no effect. -/
def BelayCfg.write (c : BelayCfg) (value : Reg) : BelayCfg :=
  { c with
    riskEn := bitAt value 0, riskTarget := if bitsAt value 1 2 = 3#2 then c.riskTarget else bitsAt value 1 2
    drainEn := bitAt value 3, drainTarget := if bitsAt value 4 2 = 3#2 then c.drainTarget else bitsAt value 4 2
    peer := bitsAt value 8 4, excludeFrom := bitsAt value 16 16 }

/-- QBASE_LOn, QBASE_HIn (R273): no effect while ENABLE is 1. -/
def Queue.writeBase (q : Queue) (hi : Bool) (value : Reg) : Queue :=
  if q.enable then q else if hi then { q with baseHi := value } else { q with baseLo := value }

/-- PRT registers without a command of their own (Tables 13.9, 16.10, 18.9, 12.7). -/
def Prt.write (v : Prt) (off : Nat) (value : Reg) : Prt :=
  if off = 0x080 then { v with compat := bitAt value 8 }
  else if off = 0x090 then { v with paceEn := bitAt value 0 || v.paceRequired }
  else if off = 0x09C then { v with hangGrace := if bitsAt value 8 24 = 0#24 then v.hangGrace else bitsAt value 8 24 }
  else if off = 0x0E8 then
    { v with ttKey := bitsAt value 0 6, ttEntries := if 65536 < (bitsAt value 8 17).toNat then v.ttEntries else (bitsAt value 8 17).toNat }
  else if off = 0x0EC then
    { v with fmtKey := bitsAt value 0 6, fmtEntries := if 1024 < (bitsAt value 8 11).toNat then v.fmtEntries else (bitsAt value 8 11).toNat }
  else if 0x100 ≤ off ∧ off < 0x200 ∧ off % 16 < 8 then
    { v with queues := Sparse.modify Queue.zero v.queues ((off - 0x100) / 16) (fun q => q.writeBase (decide (off % 16 = 4)) value) }
  else if off = 0x210 then { v with belayCfg := v.belayCfg.write value }
  else if off = 0x214 then { v with belayCfg := { v.belayCfg with riskH := bitsAt value 0 16, drainH := bitsAt value 16 16 } }
  else if off = 0x218 then
    { v with belayCfg := { v.belayCfg with rxH := bitsAt value 0 16, rxFrom := bitsAt value 16 4, rxEn := bitAt value 20 } }
  else if off = 0x22C then { v with stagePages := (bitsAt value 0 24).toNat }
  else if 0x300 ≤ off ∧ off < 0x400 ∧ off % 16 = 8 then
    { v with lend := Sparse.modify Lend.zero v.lend ((off - 0x300) / 16) (fun l => { l with pages := value }) }
  else if 0x300 ≤ off ∧ off < 0x400 ∧ off % 16 = 12 then
    { v with lend := Sparse.modify Lend.zero v.lend ((off - 0x300) / 16) (fun l => { l with valid := bitAt value 0, port := bitAt value 1 }) }
  else if 0x400 ≤ off ∧ off < 0x480 ∧ off % 8 = 4 then
    { v with wins := Sparse.modify Win.zero v.wins ((off - 0x400) / 8) (fun w => { w with page := value }) }
  else v

/-! ### The other pages -/

/-- HST.IDE_STATUS.FAILED (W1C): a VF reaches its own bit alone. -/
def Hst.write (h : Hst) (via : Via) (off : Nat) (value : Reg) : Hst :=
  if off ≠ 0x084 then h
  else
    let m : BitVec 8 := match via with
      | .vf _ part _ => bitsAt value 8 8 &&& BitVec.ofNat 8 (2 ^ part)
      | _ => bitsAt value 8 8
    { h with ideFailed := h.ideFailed &&& ~~~m }

/-- LNK registers without a command of their own (Table 11.8, R262). -/
def Lnk.write (l : Lnk) (via : Via) (off : Nat) (value : Reg) : Lnk :=
  let a := bitsAt value 0 4
  match via, off with
  | .mgc, 0x08C => { l with lambdaDisable := bitsAt value 8 8 }
  | .vf _ part _, 0x0A0 => if a.toNat = part then { l with saSel := a } else l
  | _, 0x0A0 => if 8 < a.toNat then l else { l with saSel := a }
  | _, _ => l

/-- WEI registers without a command of their own (Table 13.6): WEI_CFG in partition weirs; a VF writes only its own weir. -/
def Weir.write (w : Weir) (via : Via) (index off : Nat) (value : Reg) : Weir :=
  match via with
  | .vf _ part _ =>
    if index ≠ 40 + part then w
    else if off = 0x080 ∧ (bitsAt value 0 4).toNat ≤ 8 then { w with sel := bitsAt value 0 4 }
    else if off = 0x084 then { w with lend := bitAt value 0 } else w
  | _ => if index < 37 ∧ off = 0x080 ∧ (bitsAt value 0 4).toNat ≤ 8 then { w with sel := bitsAt value 0 4 } else w

/-- Block-specific registers without a command of their own. -/
def State.writeBlock (s : State) (via : Via) (n off : Nat) (value : Reg) : State :=
  let byMgc := decide (via = .mgc)
  match pageClass n with
  | some (.dev, _) => s.writeDev byMgc off value
  | some (.hlt, _) => if byMgc then s.updHlt (fun h => h.write off value) else s
  | some (.prt, p) => s.updPrt p (fun v => v.write off value)
  | some (.hst, h) => s.updHst (decide (h = 1)) (fun x => x.write via off value)
  | some (.lnk, i) =>
    if i = 23 ∧ off = 0x088 ∧ byMgc then
      s.writeRole (bitsAt value 8 5).toNat (bitAt value 13)
    else if off = 0x0A4 then s.access (s.saAccess via i) (fun s => s.writeSaCtrl i value)
    else s.updLnk i (fun l => l.write via off value)
  | some (.mce, m) => if off = 0x088 ∧ bitAt value 4 then s.updMce m (fun e => { e with cmdErr := false }) else s
  | some (.upd, k) => if off = 0x090 then s.updUpd k (fun u => { u with strict := bitAt value 0 }) else s
  | some (.wei, w) => s.updWeir w (fun v => v.write via w off value)
  | _ => s

/-! ### REGISTER_WRITE -/

/-- A write that is a command of its own; none for the rest. -/
def State.commandWrite (s : State) (via : Via) (n off : Nat) (value : Reg) : Option (Host.Outcome State Fault Refusal) :=
  if off = 0x018 then some (execErrStatusClear via n value s)
  else if off = 0x030 then some (execErrInject via n value s)
  else match pageClass n with
    | some (.dev, _) => if off = 0x094 then some (execPkgPowerCapWrite via value s) else none
    | some (.hlt, _) => if off = 0x09C then some (execCperTailWrite via value s) else none
    | some (.prt, p) =>
      if 0x0A0 ≤ off ∧ off < 0x0E0 then some (execDoorbellWrite via p ((off - 0x0A0) / 4) value s)
      else if off = 0x0E0 then some (execBaseLoWrite via p .tensorTable value s)
      else if off = 0x0E4 then some (execBaseHiWrite via p .tensorTable value s)
      else if off = 0x0F0 then some (execBaseLoWrite via p .formatTable value s)
      else if off = 0x0F4 then some (execBaseHiWrite via p .formatTable value s)
      else if off = 0x224 then some (execBaseLoWrite via p .stage value s)
      else if off = 0x228 then some (execBaseHiWrite via p .stage value s)
      else if 0x100 ≤ off ∧ off < 0x200 ∧ off % 16 = 8 then
        some (if bitAt value 16 then execQueueEnable via p ((off - 0x100) / 16) value s
          else execQueueDisable via p ((off - 0x100) / 16) value s)
      else if off = 0x200 ∧ bitAt value 0 then some (execContextReset via p true s)
      else if off = 0x204 ∧ bitAt value 0 then some (execPartitionReset via p s)
      else if off = 0x208 ∧ bitAt value 0 then some (if bitAt value 1 then execPartyTeardown via p s else execContextTeardown via p s)
      else if 0x300 ≤ off ∧ off < 0x400 ∧ off % 16 = 0 then some (execBaseLoWrite via p (.lend ((off - 0x300) / 16)) value s)
      else if 0x300 ≤ off ∧ off < 0x400 ∧ off % 16 = 4 then some (execBaseHiWrite via p (.lend ((off - 0x300) / 16)) value s)
      else if 0x400 ≤ off ∧ off < 0x480 ∧ off % 8 = 0 then some (execWinHandleWrite via p ((off - 0x400) / 8) value s)
      else none
    | some (.jnl, p) =>
      if off = 0x090 then some (execJnlWindowWrite via p value s) else if off = 0x094 then some (execReadDone via p value s) else none
    | some (.lnk, i) =>
      let c := (bitsAt value 0 2).toNat
      if off = 0x0A4 ∧ c = 1 then some (execOpenSa via i value s)
      else if off = 0x0A4 ∧ c = 2 then some (execRekey via i value s)
      else if off = 0x0A4 ∧ c = 3 then some (execCloseSa via i value s)
      else if off = 0x0C4 then some (execCreditResetReq via i value s)
      else none
    | some (.mce, m) =>
      let c := (bitsAt value 0 3).toNat
      if off = 0x080 then some (execKeySelWrite via m value s)
      else if off = 0x084 ∧ c = 1 then some (execKeyLoad via m s)
      else if off = 0x084 ∧ c = 2 then some (execKeyActivate via m s)
      else if off = 0x084 ∧ c = 3 then some (execKeyDrain via m s)
      else if off = 0x084 ∧ c = 4 then some (execKeyRetire via m s)
      else none
    | some (.wei, w) =>
      if off = 0x040 then some (execWeirWrite via w true value s)
      else if off = 0x044 then some (execWeirWrite via w false value s) else none
    | _ => none

/-- A write to offset `off` of page n. -/
def State.writePage (s : State) (via : Via) (n off : Nat) (value : Reg) : State :=
  match s.commandWrite via n off value with
  | some o => afterOf s o
  | none => s.access (s.regAccess via n off) (fun s =>
      if off < 0x080 then s.writeHeader (decide (via = .mgc)) n off value else s.writeBlock via n off value)

/-- The page and offset that an engine view of partition p shows (Table 18.2). -/
def State.engineView (s : State) (p off : Nat) : Option (Nat × Nat) :=
  let v := (off - 0xA00000) / 0x100
  if off < 0xA00000 ∨ 0xB00000 ≤ off ∨ s.coreCount p ≤ v / 16 then none
  else some (pageEng (s.coreAt p (v / 16)) (v % 16), off % 0x100)

/-- A write through a VF's BAR0 (R396): pages, slots, engine views, windows. -/
def State.writeVf (s : State) (port : Bool) (p : Nat) (secured : Bool) (off : Nat) (value : Reg) : State :=
  let via := Via.vf port p secured
  if off < 0x800000 then s.writePage via (off / 4096) (off % 4096) value
  else if off < 0x820000 then
    (if off % 32 = 28 then afterOf s (execSlotRelease via p ((off - 0x800000) / 32) value s)
     else s.access (s.vfAccess port p secured false) id)
  else if 0x1000000 ≤ off ∧ off < 0x2000000 then afterOf s (execWindowWrite via p (off - 0x1000000) (leBytes 4 value.toNat) s)
  else match s.engineView p off with
    | some x => s.writePage via x.1 x.2 value
    | none => s.access (s.vfAccess port p secured false) id

/-- REGISTER_WRITE (R6, R7): an aligned 32-bit write at an offset of BAR0; any other is not performed. -/
def execRegisterWrite (via : Via) (offset size : Nat) (value : Reg) (s : State) : Host.Outcome State Fault Refusal :=
  .next (if size ≠ 4 ∨ offset % 4 ≠ 0 then s
    else match via with
      | .vf port p secured => s.writeVf port p secured offset value
      | _ => if offset < 2 ^ 26 then s.writePage via (offset / 4096) (offset % 4096) value else s)

end Sys2Proof.Machine
end

