-- ==== Sys2Proof/Machine/Dispatch.lean ====
section
/-! DEFINITION. One arm for each command of the table: its meaning, or rejected by name. -/

namespace Sys2Proof.Machine

-- The effect of a command on everything but the queue of waiting commands.
def exec (i : Instr) (s : State) : Host.Outcome State Fault Refusal :=
  match i with
  | .doorbellWrite via p n value => Sys2Proof.Machine.execDoorbellWrite via p n value s
  | .queueEnable via p n value => Sys2Proof.Machine.execQueueEnable via p n value s
  | .queueDisable via p n value => Sys2Proof.Machine.execQueueDisable via p n value s
  | .acceptDescriptor p ring => Sys2Proof.Machine.execAcceptDescriptor p ring s
  | .operationStart p seq => Sys2Proof.Machine.execOperationStart p seq s
  | .slotTokenGrant p seq handle tile => Sys2Proof.Machine.execSlotTokenGrant p seq handle tile s
  | .matmul p seq => Sys2Proof.Machine.execMatmul p seq s
  | .anchorScanWrite p seq => Sys2Proof.Machine.execAnchorScanWrite p seq s
  | .anchorScanMax p seq => Sys2Proof.Machine.execAnchorScanMax p seq s
  | .adapterPass p seq variant => Sys2Proof.Machine.execAdapterPass p seq variant s
  | .anchorScanPhase p seq core => Sys2Proof.Machine.execAnchorScanPhase p seq core s
  | .anchorAgree p seq => Sys2Proof.Machine.execAnchorAgree p seq s
  | .stationaryLoad p seq core team block group k0 => Sys2Proof.Machine.execStationaryLoad p seq core team block group k0 s
  | .swap core engine => Sys2Proof.Machine.execSwap core engine s
  | .cellStep core engine k n row upset => Sys2Proof.Machine.execCellStep core engine k n row upset s
  | .footAddition core engine column upset => Sys2Proof.Machine.execFootAddition core engine column upset s
  | .writeBack core engine upset again => Sys2Proof.Machine.execWriteBack core engine upset again s
  | .pitchRetry core engine samePasses otherPasses => Sys2Proof.Machine.execPitchRetry core engine samePasses otherPasses s
  | .confluenceMerge p seq core tile upset again => Sys2Proof.Machine.execConfluenceMerge p seq core tile upset again s
  | .outputConversion p seq tile mismatches => Sys2Proof.Machine.execOutputConversion p seq tile mismatches s
  | .operationComplete p seq => Sys2Proof.Machine.execOperationComplete p seq s
  | .vecCopy p seq => Sys2Proof.Machine.execVecCopy p seq s
  | .vecAdd p seq => Sys2Proof.Machine.execVecAdd p seq s
  | .vecSub p seq => Sys2Proof.Machine.execVecSub p seq s
  | .vecMul p seq => Sys2Proof.Machine.execVecMul p seq s
  | .vecFma p seq => Sys2Proof.Machine.execVecFma p seq s
  | .vecMax p seq => Sys2Proof.Machine.execVecMax p seq s
  | .vecMin p seq => Sys2Proof.Machine.execVecMin p seq s
  | .vecAbs p seq => Sys2Proof.Machine.execVecAbs p seq s
  | .vecScale2 p seq => Sys2Proof.Machine.execVecScale2 p seq s
  | .vecExp p seq fails => Sys2Proof.Machine.execVecExp p seq fails s
  | .vecLog p seq fails => Sys2Proof.Machine.execVecLog p seq fails s
  | .vecRsqrt p seq => Sys2Proof.Machine.execVecRsqrt p seq s
  | .vecSigmoid p seq fails => Sys2Proof.Machine.execVecSigmoid p seq fails s
  | .vecTanh p seq fails => Sys2Proof.Machine.execVecTanh p seq fails s
  | .vecSoftmax p seq => Sys2Proof.Machine.execVecSoftmax p seq s
  | .vecNorm p seq => Sys2Proof.Machine.execVecNorm p seq s
  | .vecRowsum p seq => Sys2Proof.Machine.execVecRowsum p seq s
  | .vecRowmax p seq => Sys2Proof.Machine.execVecRowmax p seq s
  | .vecProgram p seq => Sys2Proof.Machine.execVecProgram p seq s
  | .softmaxBwd p seq => Sys2Proof.Machine.execSoftmaxBwd p seq s
  | .normBwd p seq => Sys2Proof.Machine.execNormBwd p seq s
  | .reduce p seq => Sys2Proof.Machine.execReduce p seq s
  | .histRead p seq => Sys2Proof.Machine.execHistRead p seq s
  | .readClear p seq => Sys2Proof.Machine.execReadClear p seq s
  | .histInit p seq => Sys2Proof.Machine.execHistInit p seq s
  | .rngFillBits p seq => Sys2Proof.Machine.execRngFillBits p seq s
  | .rngFillUniform p seq => Sys2Proof.Machine.execRngFillUniform p seq s
  | .rngFillBernoulli p seq => Sys2Proof.Machine.execRngFillBernoulli p seq s
  | .allReduce p run => Sys2Proof.Machine.execAllReduce p run s
  | .reduceScatter p run => Sys2Proof.Machine.execReduceScatter p run s
  | .allGather p seq => Sys2Proof.Machine.execAllGather p seq s
  | .broadcast p seq => Sys2Proof.Machine.execBroadcast p seq s
  | .stagingCopy p seq => Sys2Proof.Machine.execStagingCopy p seq s
  | .stepCommit p seq => Sys2Proof.Machine.execStepCommit p seq s
  | .move p seq => Sys2Proof.Machine.execMove p seq s
  | .offload p seq => Sys2Proof.Machine.execOffload p seq s
  | .prefetch p seq => Sys2Proof.Machine.execPrefetch p seq s
  | .updateElement p seq => Sys2Proof.Machine.execUpdateElement p seq s
  | .updatePrecond p seq => Sys2Proof.Machine.execUpdatePrecond p seq s
  | .updateChunk p seq chunk => Sys2Proof.Machine.execUpdateChunk p seq chunk s
  | .chunkRerun die failsAgain => Sys2Proof.Machine.execChunkRerun die failsAgain s
  | .versionRelease p seq => Sys2Proof.Machine.execVersionRelease p seq s
  | .digestTensor p seq => Sys2Proof.Machine.execDigestTensor p seq s
  | .digestReplica p seq => Sys2Proof.Machine.execDigestReplica p seq s
  | .belayLocal p seq => Sys2Proof.Machine.execBelayLocal p seq s
  | .belayPeer p seq => Sys2Proof.Machine.execBelayPeer p seq s
  | .belayHost p seq => Sys2Proof.Machine.execBelayHost p seq s
  | .belaySeal p seq => Sys2Proof.Machine.execBelaySeal p seq s
  | .riskBelayInsert p => Sys2Proof.Machine.execRiskBelayInsert p s
  | .restore p seq => Sys2Proof.Machine.execRestore p seq s
  | .restorePeer p seq halves newest => Sys2Proof.Machine.execRestorePeer p seq halves newest s
  | .fenceQueue p seq => Sys2Proof.Machine.execFenceQueue p seq s
  | .fencePartition p seq => Sys2Proof.Machine.execFencePartition p seq s
  | .slotRelease via p slot value => Sys2Proof.Machine.execSlotRelease via p slot value s
  | .jnlWindowWrite via p value => Sys2Proof.Machine.execJnlWindowWrite via p value s
  | .readDone via p value => Sys2Proof.Machine.execReadDone via p value s
  | .journalClearTimeout p => Sys2Proof.Machine.execJournalClearTimeout p s
  | .windowRead via p offset len => Sys2Proof.Machine.execWindowRead via p offset len s
  | .windowWrite via p offset bytes => Sys2Proof.Machine.execWindowWrite via p offset bytes s
  | .winHandleWrite via p n value => Sys2Proof.Machine.execWinHandleWrite via p n value s
  | .baseLoWrite via p reg value => Sys2Proof.Machine.execBaseLoWrite via p reg value s
  | .baseHiWrite via p reg value => Sys2Proof.Machine.execBaseHiWrite via p reg value s
  | .contextTeardown via p => Sys2Proof.Machine.execContextTeardown via p s
  | .partyTeardown via p => Sys2Proof.Machine.execPartyTeardown via p s
  | .contextReset via p confirmed => Sys2Proof.Machine.execContextReset via p confirmed s
  | .partitionReset via p => Sys2Proof.Machine.execPartitionReset via p s
  | .keySelWrite via m value => Sys2Proof.Machine.execKeySelWrite via m value s
  | .keyLoad via m => Sys2Proof.Machine.execKeyLoad via m s
  | .keyActivate via m => Sys2Proof.Machine.execKeyActivate via m s
  | .keyDrain via m => Sys2Proof.Machine.execKeyDrain via m s
  | .keyRetire via m => Sys2Proof.Machine.execKeyRetire via m s
  | .sweepStep m slot ecc => Sys2Proof.Machine.execSweepStep m slot ecc s
  | .sweepFlush m slot => Sys2Proof.Machine.execSweepFlush m slot s
  | .basinRead m line slot ecc tree level => Sys2Proof.Machine.execBasinRead m line slot ecc tree level s
  | .basinWrite m line slot data => Sys2Proof.Machine.execBasinWrite m line slot data s
  | .basinPartialWrite m line slot offset data ecc => Sys2Proof.Machine.execBasinPartialWrite m line slot offset data ecc s
  | .treeEviction m level line => Sys2Proof.Machine.execTreeEviction m level line s
  | .subtreeReinit m => Sys2Proof.Machine.execSubtreeReinit m s
  | .groupRebuild m => Sys2Proof.Machine.execGroupRebuild m s
  | .scrubStep k ecc => Sys2Proof.Machine.execScrubStep k ecc s
  | .lineTest page test => Sys2Proof.Machine.execLineTest page test s
  | .poolRead array offset ecc => Sys2Proof.Machine.execPoolRead array offset ecc s
  | .poolScrub block => Sys2Proof.Machine.execPoolScrub block s
  | .basinRefresh k => Sys2Proof.Machine.execBasinRefresh k s
  | .hostReadCompletion port tag data => Sys2Proof.Machine.execHostReadCompletion port tag data s
  | .hostCompletionTimeout port tag => Sys2Proof.Machine.execHostCompletionTimeout port tag s
  | .hostLinkDown port => Sys2Proof.Machine.execHostLinkDown port s
  | .hostLinkUp port speed width flit => Sys2Proof.Machine.execHostLinkUp port speed width flit s
  | .flr port fn => Sys2Proof.Machine.execFlr port fn s
  | .stopInterface port vf => Sys2Proof.Machine.execStopInterface port vf s
  | .getTdispVersion port vf => Sys2Proof.Machine.execGetTdispVersion port vf s
  | .getTdispCapabilities port vf => Sys2Proof.Machine.execGetTdispCapabilities port vf s
  | .lockInterface port vf => Sys2Proof.Machine.execLockInterface port vf s
  | .getDeviceInterfaceReport port vf => Sys2Proof.Machine.execGetDeviceInterfaceReport port vf s
  | .getDeviceInterfaceState port vf => Sys2Proof.Machine.execGetDeviceInterfaceState port vf s
  | .startInterface port vf => Sys2Proof.Machine.execStartInterface port vf s
  | .ideKm port vf session key => Sys2Proof.Machine.execIdeKm port vf session key s
  | .ideIntegrityFailure port vf => Sys2Proof.Machine.execIdeIntegrityFailure port vf s
  | .getVersion path => Sys2Proof.Machine.execGetVersion path s
  | .getCapabilities path => Sys2Proof.Machine.execGetCapabilities path s
  | .negotiateAlgorithms path offer => Sys2Proof.Machine.execNegotiateAlgorithms path offer s
  | .getDigests path => Sys2Proof.Machine.execGetDigests path s
  | .getCertificate path slot offset len => Sys2Proof.Machine.execGetCertificate path slot offset len s
  | .challenge path nonce => Sys2Proof.Machine.execChallenge path nonce s
  | .getMeasurements path index nonce => Sys2Proof.Machine.execGetMeasurements path index nonce s
  | .keyExchange port id mutualAuth => Sys2Proof.Machine.execKeyExchange port id mutualAuth s
  | .finish port id verified => Sys2Proof.Machine.execFinish port id verified s
  | .keyUpdate port id => Sys2Proof.Machine.execKeyUpdate port id s
  | .heartbeat port id => Sys2Proof.Machine.execHeartbeat port id s
  | .endSession port id => Sys2Proof.Machine.execEndSession port id s
  | .vendorDefinedRequest port id ide payload => Sys2Proof.Machine.execVendorDefinedRequest port id ide payload s
  | .mctpControl call data => Sys2Proof.Machine.execMctpControl call data s
  | .pldmBaseCommand call data => Sys2Proof.Machine.execPldmBaseCommand call data s
  | .getSensorReading call volts => Sys2Proof.Machine.execGetSensorReading call volts s
  | .getStateSensorReadings call => Sys2Proof.Machine.execGetStateSensorReadings call s
  | .numericEffecterWrite call value => Sys2Proof.Machine.execNumericEffecterWrite call value s
  | .platformEventMessage id volts high => Sys2Proof.Machine.execPlatformEventMessage id volts high s
  | .getReport p nonce => Sys2Proof.Machine.execGetReport p nonce s
  | .policyLoad p policy => Sys2Proof.Machine.execPolicyLoad p policy s
  | .keyRecord p record => Sys2Proof.Machine.execKeyRecord p record s
  | .stageBegin size => Sys2Proof.Machine.execStageBegin size s
  | .stageData offset bytes => Sys2Proof.Machine.execStageData offset bytes s
  | .stageEnd => Sys2Proof.Machine.execStageEnd s
  | .stageAbort => Sys2Proof.Machine.execStageAbort s
  | .getCper count => Sys2Proof.Machine.execGetCper count s
  | .patternLoad index bytes => Sys2Proof.Machine.execPatternLoad index bytes s
  | .layoutChange layout => Sys2Proof.Machine.execLayoutChange layout s
  | .deviceResetCommand => Sys2Proof.Machine.execDeviceResetCommand s
  | .trainLinks => Sys2Proof.Machine.execTrainLinks s
  | .takeover via link enable => Sys2Proof.Machine.execTakeover via link enable s
  | .openSa via link value => Sys2Proof.Machine.execOpenSa via link value s
  | .rekey via link value => Sys2Proof.Machine.execRekey via link value s
  | .closeSa via link value => Sys2Proof.Machine.execCloseSa via link value s
  | .creditResetReq via link value => Sys2Proof.Machine.execCreditResetReq via link value s
  | .pkgPowerCapWrite via value => Sys2Proof.Machine.execPkgPowerCapWrite via value s
  | .weirWrite via weir period value => Sys2Proof.Machine.execWeirWrite via weir period value s
  | .cperTailWrite via value => Sys2Proof.Machine.execCperTailWrite via value s
  | .errStatusClear via page value => Sys2Proof.Machine.execErrStatusClear via page value s
  | .errInject via page value => Sys2Proof.Machine.execErrInject via page value s
  | .resetReq via page => Sys2Proof.Machine.execResetReq via page s
  | .registerWrite via offset size value => Sys2Proof.Machine.execRegisterWrite via offset size value s
  | .keepalive link flit => Sys2Proof.Machine.execKeepalive link flit s
  | .nak link flit => Sys2Proof.Machine.execNak link flit s
  | .creditReq link flit => Sys2Proof.Machine.execCreditReq link flit s
  | .creditReset link flit => Sys2Proof.Machine.execCreditReset link flit s
  | .saSetup link flit certOk => Sys2Proof.Machine.execSaSetup link flit certOk s
  | .saClose link flit => Sys2Proof.Machine.execSaClose link flit s
  | .data link flit => Sys2Proof.Machine.execData link flit s
  | .anchor link flit => Sys2Proof.Machine.execAnchor link flit s
  | .verdict link flit => Sys2Proof.Machine.execVerdict link flit s
  | .retract link flit => Sys2Proof.Machine.execRetract link flit s
  | .resend link flit lasting => Sys2Proof.Machine.execResend link flit lasting s
  | .commit link flit => Sys2Proof.Machine.execCommit link flit s
  | .descCheck link flit => Sys2Proof.Machine.execDescCheck link flit s
  | .digestFlit link flit => Sys2Proof.Machine.execDigestFlit link flit s
  | .belayFlit link flit => Sys2Proof.Machine.execBelayFlit link flit s
  | .keepaliveSend link => Sys2Proof.Machine.execKeepaliveSend link s
  | .receiveTimeout link => Sys2Proof.Machine.execReceiveTimeout link s
  | .linkLost link => Sys2Proof.Machine.execLinkLost link s
  | .loopbackTest link passes => Sys2Proof.Machine.execLoopbackTest link passes s
  | .linkTraining link result => Sys2Proof.Machine.execLinkTraining link result s
  | .creditReqTimeout link vc => Sys2Proof.Machine.execCreditReqTimeout link vc s
  | .laserSwitch pair => Sys2Proof.Machine.execLaserSwitch pair s
  | .laserPairLost pair => Sys2Proof.Machine.execLaserPairLost pair s
  | .rstNAssert => Sys2Proof.Machine.execRstNAssert s
  | .pwrOkFall => Sys2Proof.Machine.execPwrOkFall s
  | .startUp facts => Sys2Proof.Machine.execStartUp facts s
  | .vin48TurnOff => Sys2Proof.Machine.execVin48TurnOff s
  | .refClockLoss => Sys2Proof.Machine.execRefClockLoss s
  | .thermalTrip => Sys2Proof.Machine.execThermalTrip s
  | .thermalSlowdown field temp => Sys2Proof.Machine.execThermalSlowdown field temp s
  | .thermalStep temp => Sys2Proof.Machine.execThermalStep temp s
  | .thermalSlowdownEnd => Sys2Proof.Machine.execThermalSlowdownEnd s
  | .powerCapInterval watts => Sys2Proof.Machine.execPowerCapInterval watts s
  | .vcoreRaise watts => Sys2Proof.Machine.execVcoreRaise watts s
  | .paceBreak => Sys2Proof.Machine.execPaceBreak s
  | .paceRestore => Sys2Proof.Machine.execPaceRestore s
  | .weirPeriod weir => Sys2Proof.Machine.execWeirPeriod weir s
  | .watchdogExpiry page => Sys2Proof.Machine.execWatchdogExpiry page s
  | .hangGraceExpiry p confirmed => Sys2Proof.Machine.execHangGraceExpiry p confirmed s
  | .contextResetTimeout p => Sys2Proof.Machine.execContextResetTimeout p s
  | .partitionResetTimeout p page => Sys2Proof.Machine.execPartitionResetTimeout p page s
  | .riskPeriod hottest => Sys2Proof.Machine.execRiskPeriod hottest s
  | .patrolTest core0 core1 core2 engine runs reruns third => Sys2Proof.Machine.execPatrolTest core0 core1 core2 engine runs reruns third s
  | .drain selfCheckFailed => Sys2Proof.Machine.execDrain selfCheckFailed s
  | .cperRecord => Sys2Proof.Machine.execCperRecord s
  | .vcoreDroop field => Sys2Proof.Machine.execVcoreDroop field s
  | .flitCrcOrGcmFail link flit => Sys2Proof.Machine.execFlitCrcOrGcmFail link flit s
  | .unlistedFlitType link flit => Sys2Proof.Machine.execUnlistedFlitType link flit s
  | .lightReturns link => Sys2Proof.Machine.execLightReturns link s
  | .basinPhyRetrained p links => Sys2Proof.Machine.execBasinPhyRetrained p links s
  | .drainBelayTimeout p => Sys2Proof.Machine.execDrainBelayTimeout p s
  | .entropyHealthTest passes => Sys2Proof.Machine.execEntropyHealthTest passes s
  | .debugAccess => Sys2Proof.Machine.execDebugAccess s

end Sys2Proof.Machine
end

