-- ==== Sys2Proof/Safety.lean ====
section
/-! DEFINITION. What a safe run of the block is, in the terms the statements use: completion, and the invariants that every
step keeps. -/

namespace Sys2Proof

/-- A command runs to a next state: it neither faults nor is refused. -/
def Completes (c : Instr) (s : Machine.State) : Prop := ∃ t, Machine.exec c s = .next t

/-- The canonical form of the addressed memories: pool slices, scratchpads, their poison and tile records, basin lines. -/
def Memory.wf (s : Machine.State) : Bool :=
  Machine.Sparse.wf 0#8 s.pool && Machine.Sparse.wf false s.poolBad && Machine.Sparse.wf 0#8 s.spd
    && Machine.Sparse.wf false s.spdBad && Machine.Sparse.wf 0#64 s.spdDir && Machine.Sparse.wf false s.spdDirBad
    && Machine.Sparse.wf Machine.Line.empty s.basin

/-- The canonical form of the tables of blocks: partitions, host ports, link ports, basin groups, crypto engines, update dies
and weirs. -/
def Blocks.wf (s : Machine.State) : Bool :=
  Machine.Sparse.wf Machine.Prt.reset s.prts && Machine.Sparse.wf Machine.Hst.reset s.hsts
    && Machine.Sparse.wf Machine.Lnk.reset s.lnks && Machine.Sparse.wf Machine.Bas.reset s.bass
    && Machine.Sparse.wf Machine.Mce.reset s.mces && Machine.Sparse.wf Machine.Upd.reset s.upds
    && Machine.Sparse.wf Machine.Weir.reset s.weirs

/-- R322: on a part whose DEBUG_DISABLED is burnt, the debug port, the injection capability and the mark of their use stay
off. -/
def DebugLocked (s : Machine.State) : Prop :=
  s.fuses.debugDisabled = true → s.dev.jtagEnabled = false ∧ s.dev.injectEnabled = false ∧ s.dev.debugUsed = false

/-- A supply setting that R17 and R386 allow: 550 mV to 750 mV in steps of 10 mV. -/
def legalMillivolts (v : Nat) : Prop := 550 ≤ v ∧ v ≤ 750 ∧ v % 10 = 0

/-- R2, R17, R386: VCORE and its target are legal settings, and the power cap does not exceed the fused limit. -/
def PowerSane (s : Machine.State) : Prop :=
  legalMillivolts s.dev.vcore ∧ legalMillivolts s.dev.target ∧ s.dev.cap ≤ Machine.fusedLimit s.fuses.powerCode

/-- R312: no fuse of `s` is unburnt in `t`: the lifecycle fuses and the power grade are equal, KEY0_REVOKED and the security
versions only rise, and HEALTH, of 64 bits, only rises. -/
def FusesKept (s t : Machine.State) : Prop :=
  t.fuses.production = s.fuses.production ∧ t.fuses.debugDisabled = s.fuses.debugDisabled
    ∧ t.fuses.powerCode = s.fuses.powerCode ∧ (s.fuses.key0Revoked = true → t.fuses.key0Revoked = true)
    ∧ (∀ i, Machine.Sparse.get 0 s.fuses.svn i ≤ Machine.Sparse.get 0 t.fuses.svn i)
    ∧ (s.fuses.health ≤ 64 → s.fuses.health ≤ t.fuses.health ∧ t.fuses.health ≤ 64)

/-- An accepted operation of partition p does its work now: opcode and SUBOP as named, its slot tokens granted and its inputs
ready, its host lines in, and no version that it reads void (R22, R133, R150). -/
def Ready (s : Machine.State) (p seq op sub : Nat) (o : Machine.OpRec) : Prop :=
  (s.prt p).op seq = some o ∧ Machine.dOp o.desc = op ∧ Machine.dSub o.desc = sub
    ∧ (s.prt p).tokensReady o = true ∧ o.linesIn = true ∧ (s.prt p).readsVoid o = false

/-- The command runs to the next state t. -/
def Runs (c : Instr) (s t : Machine.State) : Prop := Machine.exec c s = .next t

/-- The commands of the platform: those that may act on the device page, the fuses, the security controller or the management
controller. No other command does. -/
def platform (c : Instr) : Bool :=
  match c with
  | .debugAccess | .deviceResetCommand | .drain _ | .drainBelayTimeout _ | .entropyHealthTest _ | .getReport _ _
  | .laserPairLost _ | .laserSwitch _ | .layoutChange _ | .mctpControl _ _ | .numericEffecterWrite _ _ | .openSa _ _ _
  | .paceBreak | .paceRestore | .pkgPowerCapWrite _ _ | .pldmBaseCommand _ _ | .powerCapInterval _ | .pwrOkFall
  | .refClockLoss | .registerWrite _ _ _ _ | .resetReq _ _ | .rstNAssert | .saSetup _ _ _ | .stageAbort | .stageBegin _
  | .stageData _ _ | .stageEnd | .startUp _ | .thermalSlowdown _ _ | .thermalSlowdownEnd | .thermalStep _ | .thermalTrip
  | .trainLinks | .vcoreRaise _ | .vin48TurnOff | .watchdogExpiry _ => true
  | _ => false

end Sys2Proof
end

