-- ==== Sys2Proof/Certificates/Slice0/Obligations.lean ====
section
/-! DEFINITION. The statements for the provers: the queue and the outcome of every step, invariants, reset, the encodings of
flits and sealed lines, and for every family of commands what the command does. -/

open Sys2Proof Sys2Proof.Machine

/-- One step runs the command at the front of the queue on the state with the rest of the queue. The model's choice (log 3):
on an empty queue the block idles. -/
def Obligations.StepRunsFront : Prop :=
  (∀ (c : Instr) (s : State), Machine.step { s with pending := c :: s.pending } = Machine.exec c s)
  ∧ (∀ s : State, s.pending = [] → Machine.step s = .next s)

/-- Every command, in every state, answers a next state; it keeps the queue, and what the device has sent so far stands at the
front of its log of outputs (the model's own: log 6). -/
def Obligations.EveryCommandAnswers : Prop :=
  ∀ (c : Instr) (s : State), ∃ t, Runs c s t ∧ t.pending = s.pending ∧ ∃ l, t.out = s.out ++ l

/-- The model's choice (log 1): the canonical form of the addressed memories survives every step. The model's choice (log 1):
the canonical form of the tables of blocks survives every step. -/
def Obligations.TablesStayCanonical : Prop :=
  (∀ s t : State, Memory.wf s = true → Machine.step s = .next t → Memory.wf t = true)
  ∧ (∀ s t : State, Blocks.wf s = true → Machine.step s = .next t → Blocks.wf t = true)

/-- R322: with DEBUG_DISABLED burnt, no step turns on the debug port or error injection. -/
def Obligations.DebugStaysLocked : Prop :=
  ∀ s t : State, DebugLocked s → Machine.step s = .next t → DebugLocked t

/-- R312: "A fuse bit changes only from 0 to 1." -/
def Obligations.FusesNeverUnburn : Prop :=
  ∀ s t : State, Machine.step s = .next t → FusesKept s t

/-- R2, R17, R386: every step keeps VCORE and its target at settings of the table and the cap within the fused limit. -/
def Obligations.SupplyStaysLegal : Prop :=
  ∀ s t : State, PowerSane s → Machine.step s = .next t → PowerSane t

/-- No command but those of the platform (the power, pins, laser, fuse, firmware, entropy, report and layout commands and
those that restart the block that SEC is: Safety's `platform`) changes the device page, the fuses, the security controller or
the management controller. -/
def Obligations.PlatformFrame : Prop :=
  ∀ (c : Instr) (s t : State), platform c = false → Runs c s t →
    t.dev = s.dev ∧ t.fuses = s.fuses ∧ t.sec = s.sec ∧ t.mgc = s.mgc

/-- State.reset meets the invariants of the memories, the tables, the debug lock and the supply, and its queue is empty. -/
def Obligations.ResetMeetsInvariants : Prop :=
  Memory.wf State.reset = true ∧ Blocks.wf State.reset = true ∧ DebugLocked State.reset ∧ PowerSane State.reset
    ∧ State.reset.pending = []

/-- Reset (R292, R303, R363, R394, Tables 15.7, 16.1, 16.6, 16.10, 17.11, 18.4): DEV_STATE BOOT, no partition and generation
0, every slot FREE with GEN 0, ports DARK and DOWN, risk thresholds 96 and 224, DECAY 3, RISK_PERIOD 1,000 and the weights of
Table 16.6, watchdog windows, weir periods of 1,000, and memories that read 0 or EMPTY. -/
def Obligations.ResetValues : Prop :=
  State.reset.dev.state = .boot ∧ State.reset.dev.readyPin = false ∧ State.reset.dev.outputsOff = true
    ∧ (∀ p, (State.reset.prt p).state = .unassigned ∧ (State.reset.prt p).gen = 0#13 ∧ (State.reset.prt p).ctxId p = 0)
    ∧ (∀ p i, ((State.reset.prt p).slot i).state = .free ∧ ((State.reset.prt p).slot i).gen = 0#32)
    ∧ (∀ i, (State.reset.lnk i).state = .dark) ∧ (∀ h, (State.reset.hst h).link = .down)
    ∧ State.reset.hlt.belayThresh = 96#8 ∧ State.reset.hlt.drainThresh = 224#8 ∧ State.reset.hlt.decay = 3#4
    ∧ State.reset.hlt.period = 1000#12
    ∧ (List.range 8).map State.reset.hlt.weight = [1, 2, 64, 128, 32, 8, 16, 4]
    ∧ (∀ n, (State.reset.hdr n).errStatus = 0#32 ∧ (State.reset.hdr n).enable = true
        ∧ (State.reset.hdr n).watchWindow = BitVec.ofNat 32 (watchReset n))
    ∧ (∀ w, (State.reset.weir w).period = 1000)
    ∧ (∀ k, State.reset.poolByte k = some 0#8) ∧ (∀ u n, State.reset.lineAt u n = .empty)

/-- R269, R265: a write of a VF that its port does not serve completes with Unsupported Request and changes nothing else;
while the port's link is not UP nothing arrives at all. -/
def Obligations.UnservedWrites : Prop :=
  ∀ (s : State) (port : Bool) (part p : Nat) (sec : Bool),
    let cs : List Instr := [.doorbellWrite (.vf port part sec) p 0 0#32, .queueEnable (.vf port part sec) p 0 0#32,
      .queueDisable (.vf port part sec) p 0 0#32, .slotRelease (.vf port part sec) p 0 0#32,
      .jnlWindowWrite (.vf port part sec) p 0#32, .readDone (.vf port part sec) p 1#32,
      .winHandleWrite (.vf port part sec) p 0 0#32, .baseLoWrite (.vf port part sec) p .tensorTable 0#32,
      .baseHiWrite (.vf port part sec) p .tensorTable 0#32, .contextTeardown (.vf port part sec) p,
      .partyTeardown (.vf port part sec) p, .contextReset (.vf port part sec) p true, .partitionReset (.vf port part sec) p]
    ∀ c ∈ cs,
      ((s.hst port).link = .up → s.vfServed port part sec = false → Runs c s (s.emit (.unsupported port (part + 1))))
      ∧ ((s.hst port).link ≠ .up → Runs c s s)

/-- Every field of a flit header fits its bits (Table 11.4). -/
def FlitHdr.inRange (h : FlitHdr) : Prop :=
  h.type < 256 ∧ h.vc < 16 ∧ h.dstCtx < 65536 ∧ h.saGen < 256 ∧ h.seq < 4096 ∧ h.ack < 4096 ∧ h.crVc < 16 ∧ h.crCount < 256
    ∧ h.msg < 65536 ∧ h.coll < 256 ∧ h.offset < 2 ^ 24

/-- R242, Table 11.4: the 16 bytes of a header give back every field of it. R242, R248: a protected flit is 256 bytes with a
good CRC, and a receiver that holds the key, the salt and the counter recovers its header and its payload. -/
def Obligations.FlitRoundTrip : Prop :=
  (∀ h : FlitHdr, FlitHdr.inRange h → h.bytes.length = 16 ∧ ∀ more, FlitHdr.ofBytes (h.bytes ++ more) = h)
  ∧ (∀ (key salt : List Byte) (n : Nat) (h : FlitHdr) (payload : List Byte), FlitHdr.inRange h → payload.length = 224 →
       (protect key salt n h payload).length = 256 ∧ crcGood (protect key salt n h payload) = true
       ∧ FlitHdr.ofBytes (protect key salt n h payload) = h
       ∧ unprotect key salt n (protect key salt n h payload) = some payload)

/-- R210, R213: a basin line opens under the key, the line and the counter that it was written with. R231, R233: a host line
opens in the form and at the place that it was written in. -/
def Obligations.SealedLinesOpen : Prop :=
  (∀ (key nonce : List Byte) (u n v : Nat) (pt : List Byte), pt.length = 128 →
     ∃ ct mac ecc, sealBasin key nonce u n v pt = .data ct mac ecc ∧ ct.length = 128 ∧ openBasin key nonce u n v ct mac = some pt)
  ∧ (∀ (key nonce : List Byte) (sn buf q part : Nat) (pt : List Byte), pt.length = 128 →
       openExchange key q part (sealExchange key q part pt).1 (sealExchange key q part pt).2 = some pt
       ∧ openOffload key nonce sn buf q part (sealOffload key nonce sn buf q part pt).1 (sealOffload key nonce sn buf q part pt).2
         = some pt)

/-- Every field of a version record fits its bits (Table 16.9). -/
def VerRec.inRange (r : VerRec) : Prop :=
  r.handle < 65536 ∧ r.cur < 65536 ∧ r.ref0 < 2 ^ 32 ∧ r.ref1 < 2 ^ 32 ∧ r.ref2 < 2 ^ 32

/-- R366, Table 16.9: a belay's version record restores to the record that was saved. -/
def Obligations.VersionRecordRoundTrip : Prop :=
  ∀ r : VerRec, VerRec.inRange r → VerRec.ofBytes r.bytes = r

/-- R274, R273: what a served write of a doorbell or of QSIZE does. A TAIL in range is stored; one at or above the ring size
only sets DOORBELL. ENABLE 1 starts a well-formed queue with HEAD, TAIL and ERR 0, does nothing to an enabled one, and leaves
an ill-formed one disabled with its fields written; ENABLE 0 stops an enabled queue and writes its fields. R403: a served
write of a _LO half is only held, and the next write of the _HI half puts both halves in effect; the lend bases have no bits
[11:0] (Table 18.9). No other register of the partition changes. -/
def Obligations.QueueRegisters : Prop :=
  (∀ (s : State) (via : Via) (p n : Nat) (value : Reg), s.prtAccess via p = .serve →
     (value.toNat % 65536 < ((s.prt p).queue n).size →
       Runs (.doorbellWrite via p n value) s (s.updQueue p n (fun q => { q with tail := value.toNat % 65536 })))
     ∧ (((s.prt p).queue n).size ≤ value.toNat % 65536 →
       Runs (.doorbellWrite via p n value) s (s.raiseErr (pagePrt p) 0 (BitVec.ofNat 32 (s.prt p).jnlHead)))
     ∧ (((s.prt p).queue n).enable = false → (s.prt p).queueFormed (((s.prt p).queue n).sized (value ||| 0x10000#32)) = true →
       Runs (.queueEnable via p n value) s (s.updQueue p n (fun q => { q.sized (value ||| 0x10000#32) with
         enable := true, head := 0, tail := 0, err := false, slotWait := false, acceptWait := false })))
     ∧ (((s.prt p).queue n).enable = false → (s.prt p).queueFormed (((s.prt p).queue n).sized (value ||| 0x10000#32)) = false →
       Runs (.queueEnable via p n value) s (s.updQueue p n (fun q => q.sized (value ||| 0x10000#32))))
     ∧ (((s.prt p).queue n).enable = true → Runs (.queueEnable via p n value) s s)
     ∧ (((s.prt p).queue n).enable = true →
       Runs (.queueDisable via p n value) s ((s.stopQueue p n).updQueue p n (fun q => q.sized (value &&& 0xFFFEFFFF#32))))
     ∧ (((s.prt p).queue n).enable = false →
       Runs (.queueDisable via p n value) s (s.updQueue p n (fun q => q.sized (value &&& 0xFFFEFFFF#32)))))
  ∧ (∀ (s : State) (via : Via) (p : Nat) (lo hi : Reg), s.prtAccess via p = .serve →
       Runs (.baseLoWrite via p .tensorTable lo) s (s.updPrt p (fun v => { v with tt := { v.tt with heldLo := lo } }))
       ∧ Runs (.baseHiWrite via p .tensorTable hi) s (s.updPrt p (fun v =>
           { v with tt := { v.tt with addr := BitVec.ofNat 64 (hi.toNat * 2 ^ 32 + v.tt.heldLo.toNat) } }))
       ∧ Runs (.baseLoWrite via p .formatTable lo) s (s.updPrt p (fun v => { v with fmt := { v.fmt with heldLo := lo } }))
       ∧ Runs (.baseHiWrite via p .formatTable hi) s (s.updPrt p (fun v =>
           { v with fmt := { v.fmt with addr := BitVec.ofNat 64 (hi.toNat * 2 ^ 32 + v.fmt.heldLo.toNat) } }))
       ∧ Runs (.baseLoWrite via p .stage lo) s (s.updPrt p (fun v => { v with stage := { v.stage with heldLo := lo } }))
       ∧ Runs (.baseHiWrite via p .stage hi) s (s.updPrt p (fun v =>
           { v with stage := { v.stage with addr := BitVec.ofNat 64 (hi.toNat * 2 ^ 32 + v.stage.heldLo.toNat) } }))
       ∧ ∀ n, Runs (.baseLoWrite via p (.lend n) lo) s (s.updPrt p (fun v => { v with
             lend := Sparse.modify Lend.zero v.lend n (fun l => { l with base := { l.base with heldLo := lo } }) }))
         ∧ Runs (.baseHiWrite via p (.lend n) hi) s (s.updPrt p (fun v => { v with
             lend := Sparse.modify Lend.zero v.lend n (fun l => { l with base :=
               { l.base with addr := BitVec.ofNat 64 (hi.toNat * 2 ^ 32 + l.base.heldLo.toNat / 4096 * 4096) } }) })))

/-- R279: "A host write of the value v to RELEASE makes a DONE slot FREE when v equals the slot's GEN. Any other write to
RELEASE has no effect." -/
def Obligations.SlotRelease : Prop :=
  ∀ (s : State) (via : Via) (p i : Nat) (value : Reg), s.prtAccess via p = .serve → Blocks.wf s = true →
    (i < 4096 → ((s.prt p).slot i).state = .done → ((s.prt p).slot i).gen = value →
      Runs (.slotRelease via p i value) s (s.updPrt p (fun v =>
        { v with slots := Sparse.set CSlot.zero v.slots i { v.slot i with state := .free } })))
    ∧ (¬ (i < 4096 ∧ ((s.prt p).slot i).state = .done ∧ ((s.prt p).slot i).gen = value) →
      ∃ t, Runs (.slotRelease via p i value) s t ∧ t.prt p = s.prt p ∧ t = { s with prts := t.prts })

/-- R285: a write of JNL_WINDOW copies the entry with that low half as it stands, or zeros when no held entry matches; the
copy stands until the next write. The journal itself does not change. R286, R298: the party's READ_DONE, or its timeout, ends a party
teardown: the journal and the slots are cleared and the partition becomes EMPTY; while no party teardown waits, neither does
anything. -/
def Obligations.JournalWindow : Prop :=
  (∀ (s : State) (via : Via) (p : Nat) (value : Reg), s.prtAccess via p = .serve →
     Runs (.jnlWindowWrite via p value) s (s.updPrt p (fun v =>
       { v with jnlWindowSeq := value, jnlWindow := v.jnlByLow value.toNat }))
     ∧ (∀ q e, (s.prt p).jnlEntry q = some e → q ≤ (s.prt p).jnlHead → (s.prt p).jnlHead < q + 2 ^ 32 → 0 < q →
         (s.prt p).jnlByLow (q % 2 ^ 32) = e))
  ∧ (∀ (s : State) (via : Via) (p : Nat) (value : Reg), s.prtAccess via p = .serve → Blocks.wf s = true →
       ((s.prt p).clearing = true →
         (via ≠ .mgc → bitAt value 0 = true → Runs (.readDone via p value) s (s.becomeEmpty p))
         ∧ Runs (.readDone .mgc p value) s s
         ∧ Runs (.journalClearTimeout p) s (s.becomeEmpty p)
         ∧ ((s.becomeEmpty p).prt p).state = .empty ∧ ((s.becomeEmpty p).prt p).jnlHead = 0
         ∧ ((s.becomeEmpty p).prt p).jnl = [] ∧ (∀ i, ((s.becomeEmpty p).prt p).slot i = CSlot.zero)
         ∧ ((s.becomeEmpty p).prt p).hasCtx = false ∧ ((s.becomeEmpty p).prt p).clearing = false)
       ∧ ((s.prt p).clearing = false → Runs (.readDone via p value) s s ∧ Runs (.journalClearTimeout p) s s))

/-- R404, R281, R282, R295: a window goes live over a tensor that the party's policy grants, a read of live windows that no
operation writes completes, a read of busy bytes completes poisoned and counts RD_EARLY_COUNT, a write to used bytes is
dropped in full and counts WR_EARLY_COUNT, and a handle that may not be shown or a request outside a live window is refused.
-/
def Obligations.TensorWindows : Prop :=
  ∀ (s : State) (port : Bool) (p off len n : Nat) (bs : List Byte) (value : Reg) (e : Entry),
    let via := Via.vf port p true
    s.prtAccess via p = .serve →
    (bitAt value 16 = false → Runs (.winHandleWrite via p n value) s (s.updPrt p (fun v =>
        { v with wins := Sparse.modify Win.zero v.wins n (fun w =>
          { w with handle := BitVec.ofNat 16 (value.toNat % 65536), en := false }) })))
    ∧ (bitAt value 16 = true → (s.readEntry p (value.toNat % 65536)).1 = some e →
        (s.readEntry p (value.toNat % 65536)).2.windowMay p (value.toNat % 65536) e = true →
        Runs (.winHandleWrite via p n value) s ((s.readEntry p (value.toNat % 65536)).2.updPrt p (fun v =>
          { v with wins := Sparse.modify Win.zero v.wins n (fun w =>
            ⟨BitVec.ofNat 16 (value.toNat % 65536), true, w.page, e, w.page⟩) })))
    ∧ (bitAt value 16 = true → ((s.readEntry p (value.toNat % 65536)).1 = none
          ∨ (s.readEntry p (value.toNat % 65536)).1 = some e
            ∧ (s.readEntry p (value.toNat % 65536)).2.windowMay p (value.toNat % 65536) e = false) →
        Runs (.winHandleWrite via p n value) s (((s.readEntry p (value.toNat % 65536)).2.updPrt p (fun v =>
          { v with wins := Sparse.modify Win.zero v.wins n (fun w =>
            { w with handle := BitVec.ofNat 16 (value.toNat % 65536), en := false }) })).raiseErr (pagePrt p) 1
              (BitVec.ofNat 32 (s.prt p).jnlHead)))
    ∧ ((s.prt p).winLive ((s.prt p).winRequest off len) = false →
        Runs (.windowRead via p off len) s (s.refuseWindow p port))
    ∧ ((s.prt p).winLive ((s.prt p).winRequest off len) = true → ((s.prt p).winRequest off len).any (s.partBusy p) = true →
        Runs (.windowRead via p off len) s (((s.updHst port (fun h => { h with
          rdEarly := Sparse.modify 0 h.rdEarly p (fun c => min 0xFFFFFFFF (c + 1)) })).chargePort port p len true).emit
            (.completion port (p + 1) none)))
    ∧ ((s.prt p).winLive ((s.prt p).winRequest off len) = true → ((s.prt p).winRequest off len).any (s.partBusy p) = false →
        ∃ t data, Runs (.windowRead via p off len) s t ∧ t.out.getLast? = some (.completion port (p + 1) data))
    ∧ ((s.prt p).winLive ((s.prt p).winRequest off bs.length) = true →
        ((s.prt p).winRequest off bs.length).any (s.partUsed p) = true →
        Runs (.windowWrite via p off bs) s (s.updHst port (fun h => { h with
          wrEarly := Sparse.modify 0 h.wrEarly p (fun c => min 0xFFFFFFFF (c + 1)) })))
    ∧ ((s.prt p).winLive ((s.prt p).winRequest off bs.length) = false →
        Runs (.windowWrite via p off bs) s (s.refuseWindow p port))

/-- R281, R282, R404, R191: over one live window of a pool tensor, a served read that meets no busy byte delivers the bytes of
the tensor with zeros past its data, or completes poisoned when one of them is; and a served write that meets no used byte
stores its bytes at their places, drops those past the data, and leaves every other byte and every other part of the state but
the port's tokens as it was. -/
def Obligations.WindowAccess : Prop :=
  ∀ (s : State) (port : Bool) (p off len n pos : Nat) (bs : List Byte),
    let e := ((s.prt p).win n).entry
    s.prtAccess (.vf port p true) p = .serve → eTier e = 0 → ((s.prt p).win n).en = true → n < 16 →
    ((s.prt p).winRequest off len = [⟨n, pos, len⟩] → s.partBusy p ⟨n, pos, len⟩ = false →
      let stored := (List.range (min len (eDataBytes e - pos))).map (fun i => s.poolByte (s.poolKey p 0 (eAddr e) (pos + i)))
      ∃ t, Runs (.windowRead (.vf port p true) p off len) s t
        ∧ t = { s with out := t.out, weirs := t.weirs }
        ∧ t.out = s.out ++ [.completion port (p + 1) (if stored.any (fun b => b.isNone) then none
            else some (stored.map (fun b => b.getD 0#8) ++ zeros (len - (eDataBytes e - pos))))])
    ∧ ((s.prt p).winRequest off bs.length = [⟨n, pos, bs.length⟩] → s.partUsed p ⟨n, pos, bs.length⟩ = false →
      Memory.wf s = true →
      let keys (i : Nat) : List Nat := if pos + i < eDataBytes e then s.poolKeys p (eAddr e) (pos + i) else []
      ∃ t, Runs (.windowWrite (.vf port p true) p off bs) s t
        ∧ t = { s with pool := t.pool, poolBad := t.poolBad, weirs := t.weirs }
        ∧ (∀ i < bs.length, ∀ k ∈ keys i, (∀ j < bs.length, j ≠ i → k ∉ keys j) → Sparse.get 0#8 t.pool k = bs.getD i 0#8)
        ∧ (∀ k, (∀ i < bs.length, k ∉ keys i) → Sparse.get 0#8 t.pool k = Sparse.get 0#8 s.pool k)
        ∧ (∀ w, (∀ i < bs.length, ∀ k ∈ keys i, k / 64 ≠ w) → Sparse.get false t.poolBad w = Sparse.get false s.poolBad w))

/-- R101, R273, R274, R275, R276, R278, R284: one turn takes the next queue in turn, if any offers a descriptor. With a full
journal every waiting queue shows ACCEPT_WAIT. Otherwise the turn moves on. A held descriptor, or one that a ring in the pool or
in host memory holds, is taken: the read of a host ring leaves through the queue's port under a free tag, and waits for one. A
ring that cannot be read stops its queue. A descriptor whose CSLOT is out of range fails with INVALID_DESC and no slot, one whose
slot is not FREE waits with SLOT_WAIT, and a FREE slot becomes BUSY and the checks of Table 5.8 follow. R102, R105, Table 5.8:
the first check that fails names the status: a device that does not serve, the codes, the context, the handles. -/
def Obligations.AcceptanceTurn : Prop :=
  (∀ (s : State) (p n : Nat) (d : Desc) (ring : Option Desc), (s.prt p).riskDue = false → Blocks.wf s = true →
     (s.nextQueue p = none → Runs (.acceptDescriptor p ring) s s)
     ∧ (s.nextQueue p = some n → (s.prt p).jnlRoom = false → Runs (.acceptDescriptor p ring) s
       (((List.range 16).filter (s.offers p)).foldl (fun t k => t.updQueue p k (fun q => { q with acceptWait := true })) s))
     ∧ (s.nextQueue p = some n → (s.prt p).jnlRoom = true →
         let u := s.updPrt p (fun v => { v with rr := (n + 1) % 16, queues := v.roomQueues })
         let r := u.readRing p n
         let q := (u.prt p).queue n
         (q.held = some d → Runs (.acceptDescriptor p ring) s (u.takeDesc p n d))
         ∧ (q.held = none → q.loc = true → r.1 = none → Runs (.acceptDescriptor p ring) s (r.2.failRing p n))
         ∧ (q.held = none → q.loc = true → r.1 = some d → Runs (.acceptDescriptor p ring) s (r.2.takeDesc p n d))
         ∧ (q.held = none → q.loc = false → u.freeTag q.port = none → Runs (.acceptDescriptor p ring) s u)
         ∧ (q.held = none → q.loc = false → ∀ tag, u.freeTag q.port = some tag →
           let t := (u.takeTokensDir (24 + portIdx q.port) p 1 false).emit
             (.hostRead q.port (q.baseHi.toNat * 2 ^ 32 + q.baseLo.toNat + 128 * q.head) tag)
           Runs (.acceptDescriptor p none) s (t.failRing p n) ∧ Runs (.acceptDescriptor p (some d)) s (t.takeDesc p n d))))
  ∧ (∀ (u : State) (p n : Nat) (d : Desc),
       let q := (u.prt p).queue n
       let c := (u.prt p).slot (dSlot d)
       (4096 ≤ dSlot d → u.takeDesc p n d = u.failDesc p n d stInvalid false)
       ∧ (dSlot d < 4096 → q.held = none → c.state ≠ .free → q.slotWait = false → u.takeDesc p n d =
           (u.updQueue p n (fun q => { q with held := some d, slotWait := true, acceptWait := false })).msixVf p 16)
       ∧ (dSlot d < 4096 → q.slotWait = true → c.state ≠ .free → u.takeDesc p n d =
           u.updQueue p n (fun q => { q with held := some d, slotWait := true, acceptWait := false }))
       ∧ (dSlot d < 4096 → q.held ≠ none → q.slotWait = false → u.takeDesc p n d = u.runChecks p n d)
       ∧ (dSlot d < 4096 → (q.held = none ∨ q.slotWait = true) → c.state = .free → u.takeDesc p n d =
           (u.updPrt p (fun v =>
             { v with slots := Sparse.modify CSlot.zero v.slots (dSlot d) (fun c => { c with state := .busy }),
                      queues := Sparse.modify Queue.zero v.queues n (fun q =>
                        { q with held := some d, slotWait := false, acceptWait := false }) })).runChecks p n d))
  ∧ (∀ (s : State) (p n : Nat) (d : Desc),
       (s.dev.state ≠ .ready → s.runChecks p n d = s.failDesc p n d stDrained true)
       ∧ (s.dev.state = .ready → checkCodes d = false → s.runChecks p n d = s.failDesc p n d stInvalid true)
       ∧ (s.dev.state = .ready → checkCodes d = true → ((s.prt p).hasCtx = false ∨ dCtx d ≠ (s.prt p).ctxId p) →
           s.runChecks p n d = s.failDesc p n d stInvalid true)
       ∧ (s.dev.state = .ready → checkCodes d = true → (s.prt p).hasCtx = true → dCtx d = (s.prt p).ctxId p →
           (s.checkHandles p (dHandles d).eraseDups).1 = none →
           s.runChecks p n d = (s.checkHandles p (dHandles d).eraseDups).2.failDesc p n d stBadHandle true))

/-- R285, R133, R23, R278: an operation that may start becomes STARTED in its journal entry; a slot token that may be
granted is granted, and a request that waits is counted once; an operation whose cores are all done writes its slot and its journal entry and leaves the partition. R122, R119,
R147: a started FENCE with no earlier operation in scope completes with OK, and so does a VERSION_RELEASE behind the last
earlier reader of its version; until then nothing happens. -/
def Obligations.OperationLifecycle : Prop :=
  (∀ (s : State) (p seq h tile : Nat) (o : OpRec), (s.prt p).op seq = some o →
     (s.startable p o = true → s.blocksTake p = true → Runs (.operationStart p seq) s
       ((((s.stamp p).2.updJnl p seq (fun e => putBytes (putBytes e 10 [2#8]) 40 (leBytes 8 (s.stamp p).1))).updOp p seq
         (fun o => { o with phase := .started })).askOp p seq))
     ∧ (o.phase = .started → o.done = false → o.asks h tile = true → (h, tile) ∉ o.granted →
         ((s.prt p).tokenFree o h tile = true → Runs (.slotTokenGrant p seq h tile) s
           (s.updOp p seq (fun o => { o with granted := o.granted ++ [(h, tile)] })))
         ∧ ((s.prt p).tokenFree o h tile = false → (h, waitedMark tile) ∉ o.granted →
           let t := s.updOp p seq (fun o => { o with granted := o.granted ++ [(h, waitedMark tile)] })
           Runs (.slotTokenGrant p seq h tile) s
             { t with grantWaits := Sparse.modify 0#32 t.grantWaits (s.tokenHome p o h tile) (fun c => satAdd c 1) })
         ∧ ((s.prt p).tokenFree o h tile = false → (h, waitedMark tile) ∈ o.granted → Runs (.slotTokenGrant p seq h tile) s s))
     ∧ (o.done = true → dOp o.desc ≠ 0x21 → Runs (.operationComplete p seq) s ((s.endOp p o o.status).askAll))
     ∧ (o.done = true → dOp o.desc = 0x21 → ∀ u, s.endCommit p o = some u →
         Runs (.operationComplete p seq) s ((u.endOp p o o.status).askAll))
     ∧ (o.done = false → Runs (.operationComplete p seq) s s))
  ∧ (∀ (s : State) (p seq : Nat) (o : OpRec),
       (Ready s p seq 0x60 0 o → ((s.prt p).before o).any (fun a => inFence o a) = false →
         Runs (.fenceQueue p seq) s (s.finishOp p seq stOK 0#16))
       ∧ (Ready s p seq 0x60 1 o → (s.prt p).before o = [] → Runs (.fencePartition p seq) s (s.finishOp p seq stOK 0#16))
       ∧ (Ready s p seq 0x60 1 o → (s.prt p).before o ≠ [] → Runs (.fencePartition p seq) s s)
       ∧ ((s.prt p).op seq = some o → dOp o.desc = 0x41 → o.phase = .started →
           let reader (a : OpRec) : Bool := a.names (dA o.desc) && !idleHandle a.desc (dA o.desc)
             && a.readsTag (dA o.desc) (dTag o.desc)
           (((s.prt p).before o).any reader = false → Runs (.versionRelease p seq) s (s.finishOp p seq stOK 0#16))
           ∧ (((s.prt p).before o).any reader = true → Runs (.versionRelease p seq) s s)))

/-- R23, R278, R280: the end of an operation writes its completion slot: the next generation, the status, DONE, the flags, its
journal number and its USER value; every other slot keeps what it held. -/
def Obligations.CompletionSlot : Prop :=
  ∀ (s : State) (p : Nat) (o : OpRec) (st : BitVec 8), o.internal = false → Blocks.wf s = true →
    let i := dField o.desc 6 2
    let t := s.endOp p o st
    (t.prt p).slot i = ⟨((s.prt p).slot i).gen + 1, st, .done, o.flags, o.seq, dUser o.desc⟩
    ∧ (∀ k, k ≠ i → (t.prt p).slot k = (s.prt p).slot k)
    ∧ (∀ x ∈ (t.prt p).ops, x.seq ≠ o.seq)

/-- R106, R107, R108: a MATMUL, an ANCHOR_SCAN or a REDUCE whose tiles and inputs are ready does its whole work; a scan word
that is written alone or as a maximum is the scanned anchor of R66. R61, R67, R97: the steps before the first product. An
adapter pass of a named variant leaves its u_v in the scratchpad; each core of the partition delivers the largest value of its
share once; and when all have, every core has the maximum (or the supplied anchor) as the operation's anchor. -/
def Obligations.ArrayOperations : Prop :=
  (∀ (s : State) (p seq sub : Nat) (o : OpRec),
     (Ready s p seq 0x01 sub o → Runs (.matmul p seq) s (s.runMatmul p o))
     ∧ (Ready s p seq 0x02 0 o → Runs (.anchorScanWrite p seq) s (s.runScan p o false))
     ∧ (Ready s p seq 0x02 1 o → Runs (.anchorScanMax p seq) s (s.runScan p o true))
     ∧ (Ready s p seq 0x13 sub o → Runs (.reduce p seq) s (s.runReduce p o)))
  ∧ (∀ (s : State) (p seq core variant : Nat) (o : OpRec) (A : Int) (vs : Variants),
       (s.prt p).op seq = some o → isArray o.desc = true → (s.prt p).mayRun o = true → (s.prt p).readsVoid o = false →
       let g := (s.gemm p o).1
       let t := (s.gemm p o).2
       (∀ rank fmt h1 h2, o.adapters.contains variant = false → dVar o.desc ≠ 0 → variant < 4096 →
         (o.namedVariants g).contains variant = true → t.arrayFree p seq = true →
         (t.passOf p o g variant).1.1 = .serves rank fmt h1 h2 →
         let r := t.passOf p o g variant
         Runs (.adapterPass p seq variant) s (((r.2.takeShape p (o.plan g)).countPass p o g variant).updOp p seq (fun x =>
           { x with adapters := x.adapters ++ [variant],
                    uv := x.uv ++ (o.uRows g r.1.2 (t.coreCount p) variant fmt).map (fun y => (variant, y.1, y.2)) })))
       ∧ ((dOp o.desc = 2 ∨ dMode o.desc = 0) → o.passesDone g = true → o.anchor = none → (t.partCores p).contains core = true →
         o.scans.any (fun x => x.1 = core) = false → (t.variants p o g).1 = some vs →
         Runs (.anchorScanPhase p seq core) s ((t.variants p o g).2.updOp p seq (fun x =>
           { x with scans := x.scans ++ [(core, o.shareScan g (o.plan g) vs (t.coreCount p) (core - t.coreAt p 0))] })))
       ∧ ((dOp o.desc = 2 ∨ dMode o.desc = 0) → o.passesDone g = true → o.anchor = none →
         (t.partCores p).all (fun c => o.scans.any (fun x => x.1 = c)) = true →
         Runs (.anchorAgree p seq) s (t.updOp p seq (fun x =>
           { x with anchor := some ((maxInt? (o.scans.filterMap (·.2))).getD g.tops) })))
       ∧ (dOp o.desc = 1 → dMode o.desc ≠ 0 → o.passesDone g = true → o.anchor = none → (t.anchorOf p o g ⟨[], []⟩).1 = some A →
         Runs (.anchorAgree p seq) s ((t.anchorOf p o g ⟨[], []⟩).2.updOp p seq (fun o => { o with anchor := some A }))))

/-- R21, R52, R53, R54, R56, R63: a load that the engine may receive fills its shadow bank with the plan's weights, and gives the
array the operation's shape; SWAP behind the last row of the current load, or before the first once no other array operation
streams, exchanges the banks and carries the anchor. -/
def Obligations.LoadsAndSwaps : Prop :=
  ∀ (s t : State) (p seq core e block group load : Nat) (w : Work2) (j : Job) (A : Int),
    (s.workOf p seq = some (w, t) → t.mayLoad p w core e group block load = true →
      Runs (.stationaryLoad p seq core [e] block group load) s ((t.takeShape p w.x).updEng core e (fun v =>
        let f := { v.setShadow (loadBank w.x w.g w.vs (core - w.lo) (group / w.x.groups) block load) with shadowFull := true }
        let new : Job := ⟨p, seq, block, group, load, load, w.x.idx, 0⟩
        match v.job with
        | none => { f with state := 2#4, job := some new }
        | some j =>
          if (w.o.loadsOf w.x w.g w.vs group (w.x.spanOf load)).head? = some load then { f with next := some new }
          else { f with job := some { j with nextK0 := load } })))
    ∧ (s.jobWork core e = some (j, w, t) → (s.eng core e).shadowFull = true → (s.eng core e).next = none →
        ((s.eng core e).state = 2#4 ∧ s.arrayFree j.part j.seq = true ∨ (s.eng core e).state = 3#4 ∧ j.added = w.expected j) →
        w.o.anchor = some A →
        Runs (.swap core e) s ((t.updEng core e (fun v =>
          { v with state := 3#4, bankSel := !v.bankSel, shadowFull := false, fed := [], anchor := some A,
                   foot := if v.footOpen then v.foot else [], footOpen := true,
                   job := some { j with k0 := j.nextK0, added := 0 } })).progress (pageEng core e) 1))

/-- R49, R50, R51, R72: a cell takes a row's activation from its feeder (column 0) or its left neighbour, passes it on when
its right neighbour is free, and adds its product to the chain value from above (zero at the top of a chain), which goes to
the cell below or, from the last cell of the chain, to the foot; a cell that carries no chain only passes the activation on.
At the foot the addition takes the chain value into its slot when the residue agrees. -/
def Obligations.CellsAndFeet : Prop :=
  ∀ (s t : State) (core e k n row col : Nat) (w : Work2) (j : Job) (A : Int) (act : Act) (c : Chain) (u : Upset),
    s.jobWork core e = some (j, w, t) →
    let v := s.eng core e
    let top := decide (k % chainLen w.x.wide = 0)
    let bottom := decide (k % chainLen w.x.wide + 1 = chainLen w.x.wide)
    let moved (v : Eng) : Eng :=
      let acts := if n = 0 then v.acts else Sparse.set none v.acts (64 * k + n) none
      { v with
        acts := if n = 63 then acts else Sparse.set none acts (64 * k + n + 1) (some act)
        fed := if n = 0 then Sparse.modify 0 v.fed k (· + 1) else v.fed }
    let r := cellChain (loadMode w.x w.g w.vs j.k0) (decide (w.x.mode = .lg4)) A act (Sparse.get Weight.zero v.active (64 * k + n)) c u
    (v.anchor = some A → v.state = 3#4 → k < 64 → n < 64 → act.row = row →
      (n = 0 → ∃ place, (w.o.loadRows w.x w.g w.vs j.group j.k0)[Sparse.get 0 v.fed k]? = some (place, row)
        ∧ act = w.feed core j.k0 k place row) →
      (n ≠ 0 → Sparse.get none v.acts (64 * k + n) = some act) →
      (n ≠ 63 → Sparse.get none v.acts (64 * k + n + 1) = none) →
      (footColumn w.x.mode w.x.wide k n = none → Runs (.cellStep core e k n row u) s ((t.spendEnergy j.part 0 1).updEng core e moved))
      ∧ (footColumn w.x.mode w.x.wide k n = some col →
        (top = true → c = ⟨row, 0, 0, 0#16⟩) → (top = false → Sparse.get none v.chains (64 * k + n) = some c ∧ c.row = row) →
        (bottom = true → Sparse.get none v.feet col = none) →
        (bottom = false → Sparse.get none v.chains (64 * (k + 1) + n) = none) →
        Runs (.cellStep core e k n row u) s ((t.spendEnergy j.part 0 1).updEng core e (fun v =>
          let v1 := moved v
          let chains := if top then v1.chains else Sparse.set none v1.chains (64 * k + n) none
          { v1 with
            chains := if bottom then chains else Sparse.set none chains (64 * (k + 1) + n) (some r.1)
            feet := if bottom then Sparse.set none v1.feet col (some r.1) else v1.feet
            zeroGated := satAdd v1.zeroGated r.2 }))))
    ∧ (Sparse.get none v.feet col = some c → syndrome c.value c.residue = 0 →
      Runs (.footAddition core e col u) s (t.updEng core e (fun v =>
        let a := (Sparse.get Slot.zero v.foot (c.row * w.x.cols + col)).add ⟨c.value, c.residue, c.flags⟩
        { v with feet := Sparse.set none v.feet col none,
                 foot := Sparse.set Slot.zero v.foot (c.row * w.x.cols + col) { a with value := upsetInt 72 a.value u },
                 job := some { j with added := j.added + 1 } })))
    ∧ (Sparse.get none v.feet col = some c → syndrome c.value c.residue ≠ 0 →
      Runs (.footAddition core e col u) s (t.failPitch core e c.row col
        (loadOrdinal (w.pitchLoads j) j.k0) (syndrome c.value c.residue) j.seq (w.capture core v j col c)))

/-- R71, R75, R334: without an upset, the chain value that leaves a cell still has the residue that travels beside it, so the
residue check at the foot passes a sound chain. -/
def Obligations.ResidueFollowsChain : Prop :=
  ∀ (f : Fmt) (two : Bool) (A : Int) (act : Act) (w : Weight) (c : Chain),
    syndrome c.value c.residue = 0 →
    let p := cellProduct f A act.code act.scale act.poison w.code w.scale w.poison
    let q := cellProduct f A act.code2 act.scale2 act.poison2 w.code2 w.scale2 w.poison2
    let v := c.value + p.1 + (if two then q.1 else 0)
    ((-2) ^ 47 : Int) ≤ v → v < 2 ^ 47 →
    let r := (cellChain f two A act w c 0).1
    r.value = v ∧ syndrome r.value r.residue = 0 ∧ r.row = c.row

/-- R73, R334, R335: a complete pitch whose slots agree with their residues goes into the partials of its tiles, and the
engine is let go; a retry that passes on the same engine reports its failures as transient and stands ready to write back.
R81, R136, R139: a core's complete partial is added into the tile's partial at its home core, slot by slot; a tile whose
contributions have all been merged is converted and written. -/
def Obligations.PitchesAndTiles : Prop :=
  (∀ (s t : State) (core e : Nat) (w : Work2) (j : Job) (other : Bool),
     s.jobWork core e = some (j, w, t) →
     let v := s.eng core e
     (w.pitchDone v j = true → v.foot.find? (fun (x : Nat × Slot) => syndrome x.2.value x.2.residue ≠ 0) = none →
       Runs (.writeBack core e 0 0) s (((((w.x.tilesOf w.g (w.o.ent (dC w.o.desc)) j.group j.block).foldl (fun t tile =>
           t.setPartial (((t.partialAt j.part j.seq core tile).getD (Partial.new j.part j.seq core tile (v.anchor.getD 0))).addPitch e
             (w.footSlots (w.o.ent (dC w.o.desc)) v j.group j.block tile) v.retried)) t).updOp j.part j.seq
           (fun o => { o with pitches := o.pitches ++ [w.x.pitchId j.group j.block (w.x.spanOf j.k0)] })).updEng core e
           (fun v => { v.closePitch with pitchCount := v.pitchCount + 1 })).progress (pageEng core e) 1))
     ∧ (v.state = 5#4 → Runs (.pitchRetry core e true other) s
         ((t.reportFails v.fails 1#8 false).updEng core e (fun v => w.rerun core v j))))
  ∧ (∀ (s t : State) (p seq core tile : Nat) (w : Work2) (x : Partial) (A : Int),
       s.workOf p seq = some (w, t) →
       (t.partialAt p seq core tile = some x → core ≠ mergedMark →
         x.tr.len = ((t.tilePitches p w tile).filter (fun c => c.core = core)).length →
         x.slots.any (fun (y : Nat × Slot) => syndrome y.2.value y.2.residue ≠ 0) = false →
         Runs (.confluenceMerge p seq core tile 0 0) s
           (let old := (t.partialAt p seq mergedMark tile).getD (Partial.new p seq mergedMark tile x.tr.anchor)
            { t with partials := t.partials.filter (fun y => !(y.part = p && y.seq = seq && y.core = core && y.tile = tile)) }.setPartial
             { old with
               tr := { old.tr with len := old.tr.len + x.tr.len, flags := old.tr.flags ||| x.tr.flags }
               slots := (tileIx (w.o.ent (dC w.o.desc)) tile).foldl (fun m i =>
                 Sparse.set Slot.zero m i ((Sparse.get Slot.zero old.slots i).add (Sparse.get Slot.zero x.slots i))) [] }))
       ∧ (w.o.anchor = some A → tile < eTiles (w.o.ent (dC w.o.desc)) → w.o.tilesDone.contains tile = false →
           let ts := (blockTiles (w.o.ent (dC w.o.desc)) tile).filter (fun u => !w.o.tilesDone.contains u)
           let r := t.storePartials p w.o (dC w.o.desc) (dAccum w.o.desc) (ts.map (fun u => (u, t.finalPartial p w A u)))
           let fl := w.o.flags ||| r.work.flags
           let st := worse w.o.status (if r.work.poisoned then stPoisoned else stOK)
           let t2 := r.st.updOp p seq (fun o => { o with tilesDone := w.o.tilesDone ++ ts, flags := fl, status := st })
           let t3 := { t2 with partials := t2.partials.filter (fun z => !(z.part = p && z.seq = seq && ts.contains z.tile)) }
           ts.all (t.tileComplete p w) = true →
           Runs (.outputConversion p seq tile 0) s
             (if (List.range (eTiles (w.o.ent (dC w.o.desc)))).all (w.o.tilesDone ++ ts).contains then
               t3.finishOp p seq (worse st (workStatus w.o.desc fl false)) fl else t3)))

/-- R333, R335, R337, R339, R185: what failed comparisons do. A failed comparison of duplicated vector work repeats it, and a
second one leaves the operation where it is and makes the vector engine suspect; a foot slot that disagrees with its residue
ends the pitch with a FAIL; a retry that fails on both engines makes their core suspect, gives the operation RESIDUE and
abandons the pitch's tiles; a chunk that fails again makes its die suspect; and a patrol test that fails twice makes the
engines suspect that the third run names. -/
def Obligations.FailedComparisons : Prop :=
  ∀ (s t : State) (p seq n q tile core e k die c0 c1 c2 row col : Nat) (o : OpRec) (w : Work2) (j : Job) (x : Slot) (A : Int)
    (c : Nat × Nat) (third : PatrolRun),
    (∀ x ∈ ([(0x09, .vecExp p seq), (0x0A, .vecLog p seq), (0x0C, .vecSigmoid p seq), (0x0D, .vecTanh p seq)]
        : List (Nat × (List Nat → Instr))), Ready s p seq 0x10 x.1 o →
      let at_ := s.coreAt p (elemCore (s.coreCount p) (o.ent (dC o.desc)) q)
      Runs (x.2 [q]) s ((s.compareFail at_ 1).vecElems p o) ∧ Runs (x.2 [q, q]) s (s.compareFail at_ 2))
    ∧ (2 ≤ n → ((s.compareFail core n).hdr (pageVec core)).suspect = true)
    ∧ (s.workOf p seq = some (w, t) → w.o.anchor = some A → tile < eTiles (w.o.ent (dC w.o.desc)) →
      w.o.tilesDone.contains tile = false →
      ((blockTiles (w.o.ent (dC w.o.desc)) tile).filter (fun u => !w.o.tilesDone.contains u)).all (t.tileComplete p w) = true →
      2 ≤ n → Runs (.outputConversion p seq tile n) s (t.compareFail (t.homeCore p (w.o.ent (dC w.o.desc)) tile) n))
    ∧ (s.jobWork core e = some (j, w, t) →
      (w.pitchDone (s.eng core e) j = true → w.x.cols ≠ 0 → col < w.x.cols →
        (s.eng core e).foot.find? (fun (y : Nat × Slot) => syndrome y.2.value y.2.residue ≠ 0) = some (row * w.x.cols + col, x) →
        Runs (.writeBack core e 0 0) s (t.failPitch core e row col 0 (syndrome x.value x.residue) j.seq []))
      ∧ ((s.eng core e).state = 5#4 → (List.range 16).find? (fun k => k ≠ e ∧ (t.eng core k).state ≠ 7#4) = some k →
        (t.eng core k).job = none →
        let t1 := t.updEng core e (w.ranAgain core j)
        let second := (s.eng core e).fails ++ [t1.failEvent core e (s.eng core e) 0 0 0 0 j.seq []]
        let t2 := t1.countFail core e
        Runs (.pitchRetry core e false true) s ((((t2.reportFails second 2#8 true).updEng core k (fun u =>
            w.rerun core { u with anchor := (s.eng core e).anchor } j)).updEng core e Eng.closePitch).makeSuspect (pageEng core e))
        ∧ Runs (.pitchRetry core e false false) s
            (((((((t2.updEng core k (w.ranAgain core j)).countFail core k).reportFails
                (second ++ [t1.failEvent core k (s.eng core e) 0 0 0 0 j.seq []]) 3#8 true).makeSuspect
              (pageCore core)).updEng core e Eng.closePitch).updOp j.part j.seq (fun o => { o with
                status := worse o.status stResidue
                pitches := o.pitches ++ [w.x.pitchId j.group j.block (w.x.spanOf j.k0)]
                tilesDone := o.tilesDone ++ w.x.tilesOf w.g (o.ent (dC o.desc)) j.group j.block })))))
    ∧ (s.unitOwner die = some p → s.chunkOn p die = some c → (s.hdr (pageUpd die)).suspect = false → (s.prt p).op c.1 = some o →
      dOp o.desc = 0x40 → (s.prt p).tokensReady o = true → (s.prt p).commitStatus o = none → o.linesIn = true →
      (s.prt p).readsVoid o = false → eFrozen (o.ent (dA o.desc)) = false →
      Runs (.chunkRerun die true) s (((((((s.holdChunk die c.1 c.2 5#4).countUe (pageUpd die)).raiseErr (pageUpd die) 1
        0#32).riskEvent 1 1).report { CperEvent.base 6#8 3#8 (pageUpd die) with jseq := c.1, fatal := true })).makeSuspect
          (pageUpd die)))
    ∧ (s.dev.state = .ready → s.hlt.patrolEn = true → [c0, c1, c2].Nodup →
      (∀ c ∈ [c0, c1, c2], s.mayPatrol c e = true ∧ s.unitOwner (c / 32) = s.unitOwner (c0 / 32)) →
      ∃ t, Runs (.patrolTest c0 c1 c2 e false false third) s t ∧ t.hlt.testCount = s.hlt.testCount + 1
        ∧ (∀ c ∈ patrolSuspects c0 c1 c2 third, (t.hdr (pageEng c e)).suspect = true))

/-- R109, R128: a ready VEC operation whose comparisons (R337) agree gives each destination element the operation's value of
its operand elements, and a row operation gives each row the function of Table 6.2. -/
def Obligations.VectorOperations : Prop :=
  ∀ (s : State) (p seq sub : Nat) (o : OpRec),
    (∀ x ∈ ([(0x01, .vecAdd p seq), (0x02, .vecSub p seq), (0x03, .vecMul p seq), (0x04, .vecFma p seq), (0x05, .vecMax p seq),
        (0x06, .vecMin p seq), (0x07, .vecAbs p seq), (0x08, .vecScale2 p seq), (0x09, .vecExp p seq []), (0x0A, .vecLog p seq []),
        (0x0B, .vecRsqrt p seq), (0x0C, .vecSigmoid p seq []), (0x0D, .vecTanh p seq [])] : List (Nat × Instr)),
      Ready s p seq 0x10 x.1 o → Runs x.2 s (s.vecElems p o))
    ∧ (Ready s p seq 0x10 0 o → Runs (.vecCopy p seq) s (s.runCopy p o))
    ∧ (Ready s p seq 0x10 0x10 o → Runs (.vecSoftmax p seq) s (s.vecRows p o (softmaxRow o.compat)))
    ∧ (Ready s p seq 0x10 0x11 o → Runs (.vecNorm p seq) s (s.vecRows p o (normRow (dField o.desc 36 1) (dFp o.desc 32))))
    ∧ (Ready s p seq 0x10 0x12 o → Runs (.vecRowsum p seq) s (s.vecRows p o rowSum))
    ∧ (Ready s p seq 0x10 0x13 o → Runs (.vecRowmax p seq) s (s.vecRows p o (rowMaxRes o.compat)))
    ∧ (Ready s p seq 0x10 0xF0 o → Runs (.vecProgram p seq) s (s.runProgram p o))
    ∧ (Ready s p seq 0x11 sub o → Runs (.softmaxBwd p seq) s (s.runSoftmaxBwd p o))
    ∧ (Ready s p seq 0x12 sub o → Runs (.normBwd p seq) s (s.runNormBwd p o))

/-- R44 (with the compatibility mode of R45 beside it): in native mode, one NaN operand of MAX or MIN gives the canonical NaN
with NAN set. In compatibility mode the other operand is the result, and only two NaNs give NaN. Without a NaN, neither mode
sets NAN, the result is an operand with none beyond it, zeros of either sign are equal and the result is +0, and +∞ is larger
and −∞ smaller than every other value. -/
def Obligations.MaxMin : Prop :=
  ∀ (compat : Bool) (a b : F32),
    let zero (x : F32) : Prop := ∃ e, fval x = .fin 0 e
    (fval a = .nan → fval b = .nan → fMax compat a b = (fNaN, fNAN) ∧ fMin compat a b = (fNaN, fNAN))
    ∧ (fval a = .nan → fval b ≠ .nan →
        (compat = false → fMax compat a b = (fNaN, fNAN) ∧ fMin compat a b = (fNaN, fNAN))
        ∧ (compat = true → ((fMax compat a b).1 = b ∨ zero b ∧ (fMax compat a b).1 = f0)
            ∧ ((fMin compat a b).1 = b ∨ zero b ∧ (fMin compat a b).1 = f0)))
    ∧ (fval a ≠ .nan → fval b = .nan →
        (compat = false → fMax compat a b = (fNaN, fNAN) ∧ fMin compat a b = (fNaN, fNAN))
        ∧ (compat = true → ((fMax compat a b).1 = a ∨ zero a ∧ (fMax compat a b).1 = f0)
            ∧ ((fMin compat a b).1 = a ∨ zero a ∧ (fMin compat a b).1 = f0)))
    ∧ (fval a ≠ .nan → fval b ≠ .nan →
        hasFlag (fMax compat a b).2 fNAN = false ∧ hasFlag (fMin compat a b).2 fNAN = false
        ∧ fLt (fMax compat a b).1 a = false ∧ fLt (fMax compat a b).1 b = false
        ∧ fLt a (fMin compat a b).1 = false ∧ fLt b (fMin compat a b).1 = false
        ∧ ((fMax compat a b).1 = a ∨ (fMax compat a b).1 = b ∨ (zero a ∨ zero b) ∧ (fMax compat a b).1 = f0)
        ∧ ((fMin compat a b).1 = a ∨ (fMin compat a b).1 = b ∨ (zero a ∨ zero b) ∧ (fMin compat a b).1 = f0)
        ∧ (zero a → zero b → (fMax compat a b).1 = f0 ∧ (fMin compat a b).1 = f0)
        ∧ (fval a = .inf false → (fMax compat a b).1 = a ∧ (fMax compat b a).1 = a)
        ∧ (fval a = .inf true → (fMin compat a b).1 = a ∧ (fMin compat b a).1 = a))

/-- R47, R48, R111, R112, R158: a ready HIST_READ writes the table's record, READ_CLEAR then clears it, HIST_INIT empties it
with a new BASE; a ready RNG_FILL writes the words of its stream in the form of its SUBOP. -/
def Obligations.HistogramsAndRandom : Prop :=
  ∀ (s : State) (p seq : Nat) (o : OpRec),
    let id := eHistId (o.ent (dA o.desc))
    let w := s.storeRaw p o (dC o.desc) 0 (Sparse.get Hist.zero (s.prt p).hists id).record
    let seed := match (s.prt p).party with | some q => q.seed.getD (zeros 32) | none => zeros 32
    let r := s.storeRaw p o (dC o.desc) 0 (rngBytes o.desc (o.ent (dC o.desc))
      (streamWords seed (dStream o.desc) o.rngStart (rngWords o.desc (o.ent (dC o.desc)))))
    (Ready s p seq 0x14 0 o → Runs (.histRead p seq) s (w.1.finishOp p o.seq (if w.2 then stPoisoned else stOK) 0#16))
    ∧ (Ready s p seq 0x14 1 o → Runs (.readClear p seq) s
        ((w.1.updHist p id Hist.clear).finishOp p o.seq (if w.2 then stPoisoned else stOK) 0#16))
    ∧ (Ready s p seq 0x14 2 o → Runs (.histInit p seq) s
        ((s.updHist p id (fun _ => { Hist.zero with base := signedNat 10 (dField o.desc 32 2 % 1024) })).finishOp p o.seq stOK 0#16))
    ∧ (Ready s p seq 0x15 0 o → Runs (.rngFillBits p seq) s (r.1.finishOp p o.seq (if r.2 then stPoisoned else stOK) 0#16))
    ∧ (Ready s p seq 0x15 1 o → Runs (.rngFillUniform p seq) s (r.1.finishOp p o.seq (if r.2 then stPoisoned else stOK) 0#16))
    ∧ (Ready s p seq 0x15 2 o → Runs (.rngFillBernoulli p seq) s (r.1.finishOp p o.seq (if r.2 then stPoisoned else stOK) 0#16))

/-- R47, R111, R112, R191: where a ready HIST_READ, READ_CLEAR or RNG_FILL has a destination in the pool, its bytes stand at
their places afterwards; every other byte of the pool, every other memory, every other partition and every other part of the
state stay as they were; and the operation has done its work. -/
def Obligations.RawResults : Prop :=
  ∀ (s : State) (p seq : Nat) (o : OpRec),
    let e := o.ent (dC o.desc)
    let a := if eVersioned e ∧ o.ver (dC o.desc) = 1 then eAlt e else eAddr e
    let hist := (Sparse.get Hist.zero (s.prt p).hists (eHistId (o.ent (dA o.desc)))).record
    let seed := match (s.prt p).party with | some q => q.seed.getD (zeros 32) | none => zeros 32
    let fill := rngBytes o.desc e (streamWords seed (dStream o.desc) o.rngStart (rngWords o.desc e))
    eTier e = 0 → Memory.wf s = true → Blocks.wf s = true →
    ∀ x ∈ ([(0x14, 0, .histRead p seq, hist), (0x14, 1, .readClear p seq, hist), (0x15, 0, .rngFillBits p seq, fill),
        (0x15, 1, .rngFillUniform p seq, fill), (0x15, 2, .rngFillBernoulli p seq, fill)]
        : List (Nat × Nat × Instr × List Byte)), Ready s p seq x.1 x.2.1 o →
      let bs := x.2.2.2
      ∃ t, Runs x.2.2.1 s t ∧ t = { s with prts := t.prts, pool := t.pool, poolBad := t.poolBad }
        ∧ (∀ i < bs.length, ∀ k ∈ s.poolKeys p a i, (∀ j < bs.length, j ≠ i → k ∉ s.poolKeys p a j) →
            Sparse.get 0#8 t.pool k = bs.getD i 0#8)
        ∧ (∀ k, (∀ i < bs.length, k ∉ s.poolKeys p a i) → Sparse.get 0#8 t.pool k = Sparse.get 0#8 s.pool k)
        ∧ (∀ w, (∀ i < bs.length, ∀ k ∈ s.poolKeys p a i, k / 64 ≠ w) →
            Sparse.get false t.poolBad w = Sparse.get false s.poolBad w)
        ∧ (∀ q, q ≠ p → t.prt q = s.prt q) ∧ ∃ r, (t.prt p).op seq = some r ∧ r.done = true ∧ r.desc = o.desc

/-- R158: block c of stream n is the SM4 encryption, under bytes 0 to 15 of SM3(SEED ‖ ID), of c as 8 bytes, ID as 2 bytes and
6 bytes of 0, taken as four little-endian words; and the words of a stream do not depend on how fills cut it: a fill of whole
blocks and the fill after it give the words of one fill over both. -/
def Obligations.RandomStream : Prop :=
  ∀ (seed : List Byte) (n c j k : Nat),
    streamWords seed n c 4 = (List.range 4).map (fun i => leVal (((sm4 ((sm3 (seed ++ leBytes 2 n)).take 16)
      (leBytes 8 c ++ leBytes 2 n ++ zeros 6)).drop (4 * i)).take 4))
    ∧ streamWords seed n c (4 * j + k) = streamWords seed n c (4 * j) ++ streamWords seed n (c + j) k

/-- R116, R255, R258: a ready collective runs its phases; a copy out of a full staging area writes the destination and ends
the operation; a ready STEP_COMMIT runs. R115, R203, R205: a ready MOVE, PREFETCH or OFFLOAD reads every byte of its source
and writes it into its destination or its buffer. -/
def Obligations.CollectivesAndMoves : Prop :=
  (∀ (s : State) (p seq sub : Nat) (o : OpRec) (fails : List (Nat × Bool)),
     (Ready s p seq 0x20 0 o → Runs (.allReduce p ⟨seq, fails⟩) s (s.runColl p fails o))
     ∧ (Ready s p seq 0x20 1 o → Runs (.reduceScatter p ⟨seq, fails⟩) s (s.runColl p fails o))
     ∧ (Ready s p seq 0x20 2 o → Runs (.allGather p seq) s (s.runColl p [] o))
     ∧ (Ready s p seq 0x20 3 o → Runs (.broadcast p seq) s (s.runColl p [] o))
     ∧ ((s.prt p).op seq = some o → dOp o.desc = 0x20 → o.done = false → o.coll.stageReady = true → 
         (dSub o.desc = 0 → Runs (.stagingCopy p seq) s
           ((s.storePartials p o (dC o.desc) false (s.sumTiles p o)).work.finish p o))
         ∧ (dSub o.desc = 1 →
           let r := { o with mask := foreignRows o s.me }
           Runs (.stagingCopy p seq) s
             ((s.storePartials p r (dC o.desc) false ((s.sumTiles p o).map (s.ownRows p r))).work.finish p o))
         ∧ (2 ≤ dSub o.desc → eFmt (o.ent (dA o.desc)) = .wp72 → Runs (.stagingCopy p seq) s ((s.copyTiles p o).finish p o))
         ∧ (2 ≤ dSub o.desc → eFmt (o.ent (dA o.desc)) ≠ .wp72 → Runs (.stagingCopy p seq) s ((s.copyStreams p o).finish p o)))
     ∧ (Ready s p seq 0x21 sub o → Runs (.stepCommit p seq) s (s.runCommit p o)))
  ∧ (∀ (s : State) (p seq sub : Nat) (o : OpRec),
       (Ready s p seq 0x30 sub o → Runs (.move p seq) s (s.runMove p o))
       ∧ (Ready s p seq 0x32 sub o → Runs (.prefetch p seq) s (s.runMove p o))
       ∧ (Ready s p seq 0x31 sub o → Runs (.offload p seq) s (s.runOffload p o)))

/-- R118, R148, R150, R163, R166, R185: an UPDATE whose turn it is writes its chunks, all of one kind or one by one; one of a
FROZEN tensor is skipped; one behind a failed STEP_COMMIT or a void version ends with its version void; and a die repeats the
chunk that it processes, from the inputs it holds. R120, R181, R261, R342, R343: a ready DIGEST writes the keyed digest of its tensor, or compares
replicas: it waits while an earlier UPDATE of its STEP is open, then sends and awaits the peers' digests. -/
def Obligations.Updates : Prop :=
  (∀ (s : State) (p seq chunk die : Nat) (o : OpRec) (c : Nat × Nat),
     ((s.prt p).op seq = some o → dOp o.desc = 0x40 → (s.prt p).tokensReady o = true →
       (∀ st, (s.prt p).commitStatus o = some st → Runs (.updateChunk p seq chunk) s (s.voidUpdate p o st))
       ∧ ((s.prt p).commitStatus o = none → o.linesIn = true → (s.prt p).readsVoid o = true →
           Runs (.updateChunk p seq chunk) s (s.voidUpdate p o stPeerLost))
       ∧ ((s.prt p).commitStatus o = none → o.linesIn = true → (s.prt p).readsVoid o = false →
           eFrozen (o.ent (dA o.desc)) = true → Runs (.updateChunk p seq chunk) s (s.skipUpdate p o))
       ∧ ((s.prt p).commitStatus o = none → o.linesIn = true → (s.prt p).readsVoid o = false →
           eFrozen (o.ent (dA o.desc)) = false →
           (dSub o.desc = 0 → Runs (.updateElement p seq) s (s.runChunks p o))
           ∧ (dSub o.desc = 1 → Runs (.updatePrecond p seq) s (s.runChunks p o))
           ∧ (o.done = false → o.chunks.contains chunk = false → chunk < eChunks (o.ent (dA o.desc)) →
               (s.hdr (pageUpd (s.dieOf p o chunk))).suspect = false → s.takes (pageUpd (s.dieOf p o chunk)) = true →
               s.takesUpdate p o (s.dieOf p o chunk) = true → Runs (.updateChunk p seq chunk) s ((s.writeChunk p o chunk).closeUpdate p seq))))
     ∧ (s.unitOwner die = some p → s.chunkOn p die = some c → (s.hdr (pageUpd die)).suspect = false → (s.prt p).op c.1 = some o →
         dOp o.desc = 0x40 → (s.prt p).tokensReady o = true → (s.prt p).commitStatus o = none → o.linesIn = true →
         (s.prt p).readsVoid o = false → eFrozen (o.ent (dA o.desc)) = false →
         Runs (.chunkRerun die false) s (((((s.countCe (pageUpd die) true).raiseErr (pageUpd die) 0 0#32).report
           { CperEvent.base 6#8 1#8 (pageUpd die) with jseq := c.1, fatal := false }).holdChunk die c.1 c.2 5#4).runChunk p c.1
             c.2)))
  ∧ (∀ (s : State) (p seq : Nat) (o : OpRec),
       (Ready s p seq 0x42 0 o → (s.tensorBytes p o (dA o.desc) (o.ver (dA o.desc))).bad = false →
         let r := s.tensorBytes p o (dA o.desc) (o.ver (dA o.desc))
         let w := r.st.storeRaw p o (dC o.desc) 0 (leBytes 8 (keyedDigest (s.prt p).digestKey (plainBytes r.data) (plainBytes r.side)))
         Runs (.digestTensor p seq) s (w.1.finishOp p o.seq (if w.2 then stPoisoned else stOK) 0#16))
       ∧ (Ready s p seq 0x42 0 o → (s.tensorBytes p o (dA o.desc) (o.ver (dA o.desc))).bad = true →
         Runs (.digestTensor p seq) s
           ((s.tensorBytes p o (dA o.desc) (o.ver (dA o.desc))).st.finishOp p o.seq stPoisoned 0#16))
       ∧ (Ready s p seq 0x42 1 o → ((s.prt p).before o).any (fun a => decide (dOp a.desc = 0x40 ∧ dStep a.desc = dStep o.desc)) = true →
         Runs (.digestReplica p seq) s s)
       ∧ (Ready s p seq 0x42 1 o → ((s.prt p).before o).any (fun a => decide (dOp a.desc = 0x40 ∧ dStep a.desc = dStep o.desc)) = false →
         o.coll.sentData = true → (s.awaitsReplica p o = true → Runs (.digestReplica p seq) s s)
           ∧ (s.awaitsReplica p o = false → Runs (.digestReplica p seq) s (s.endReplica p o))))

/-- R342: the outcome of a comparison of replicas: ALONE with no other digest present, AGREE when every one is equal, ODD_PEER
when the local digest holds a strict majority and some peer's differs, ODD_LOCAL when another value holds one, SPLIT when no
value does; two present digests that differ give SPLIT. -/
def Obligations.ReplicaOutcomes : Prop :=
  ∀ (own : Nat) (peers : List Nat),
    let strict (x : Nat) : Prop := (1 + peers.length) < 2 * (own :: peers).count x
    (replicaOutcome own peers = 0 ↔ peers = [])
    ∧ (replicaOutcome own peers = 1 ↔ peers ≠ [] ∧ ∀ d ∈ peers, d = own)
    ∧ (replicaOutcome own peers = 2 ↔ strict own ∧ ∃ d ∈ peers, d ≠ own)
    ∧ (replicaOutcome own peers = 3 ↔ ∃ x, x ≠ own ∧ strict x)
    ∧ (replicaOutcome own peers = 4 ↔ peers ≠ [] ∧ ∀ x, ¬ strict x)
    ∧ (∀ d, d ≠ own → replicaOutcome own [d] = 4)

/-- R121, R367, R368, R371: a belay copies its image once its tokens and host lines are in, is sealed when the STEP_COMMIT of
its STEP has ended, and a RESTORE reads the image back; a restore from a peer takes a half that bears this position and STEP.
R364: a due risk belay enters the acceptance order as an internal belay to the party's risk target; with none due nothing
happens. -/
def Obligations.BelaysAndRestores : Prop :=
  (∀ (s : State) (p seq : Nat) (o : OpRec) (b : BelayRun) (st : BitVec 8) (h0 h1 : List Byte) (newest : Bool),
     ((s.prt p).op seq = some o → o.belay = some b → dOp o.desc = 0x50 → b.copied = false → o.done = false →
       (s.prt p).tokensReady o = true → o.linesIn = true →
       (dSub o.desc = 0 → Runs (.belayLocal p seq) s (s.copyBelay p o b))
       ∧ (dSub o.desc = 1 → s.peerServes p o.belayPeer = true → Runs (.belayPeer p seq) s (s.copyBelay p o b))
       ∧ (dSub o.desc = 1 → s.peerServes p o.belayPeer = false → Runs (.belayPeer p seq) s (s.finishOp p seq stPeerLost 0#16))
       ∧ (dSub o.desc = 2 → Runs (.belayHost p seq) s (s.copyBelay p o b)))
     ∧ ((s.prt p).op seq = some o → o.belay = some b → b.copied = true → o.done = false → (s.prt p).sealStatus o b = some st →
       Runs (.belaySeal p seq) s (s.sealBelay p o { b with loss := if st = stOK then b.loss else [] }))
     ∧ (Ready s p seq 0x50 3 o → Runs (.restore p seq) s
         (let r := s.loadRaw p o (dC o.desc) 0 (eDataBytes (o.ent (dC o.desc))); r.2.restoreImage p o r.1))
     ∧ (Ready s p seq 0x50 4 o → s.peerServes p o.belayPeer = false →
         Runs (.restorePeer p seq [h0, h1] newest) s (s.finishOp p o.seq stPeerLost 0#16))
     ∧ (Ready s p seq 0x50 4 o → s.peerServes p o.belayPeer = true →
         (s.candidate (dStep o.desc) h0 = true → (s.candidate (dStep o.desc) h1 = false ∨ newest = false) →
           Runs (.restorePeer p seq [h0, h1] newest) s (s.restoreImage p o (h0.map some)))
         ∧ (s.candidate (dStep o.desc) h1 = true → (s.candidate (dStep o.desc) h0 = false ∨ newest = true) →
           Runs (.restorePeer p seq [h0, h1] newest) s (s.restoreImage p o (h1.map some)))
         ∧ (s.candidate (dStep o.desc) h0 = false → s.candidate (dStep o.desc) h1 = false →
           Runs (.restorePeer p seq [h0, h1] newest) s (s.finishOp p o.seq stInvalid 0#16))))
  ∧ (∀ (s : State) (p : Nat),
       ((s.prt p).riskDue = true → Runs (.riskBelayInsert p) s
         ((s.updPrt p (fun v => { v with riskDue := false, riskPending := false })).insertBelay p 1#8
           (s.prt p).belayCfg.riskTarget.toNat (s.prt p).belayCfg.riskH
           (if (s.prt p).anyCommit then ((s.prt p).lastCommitStep + 1) % 2 ^ 64 else 0)))
       ∧ ((s.prt p).riskDue = false → Runs (.riskBelayInsert p) s s))

/-- R195, R292, R297, R298: a served teardown of a context reads zero in every byte of the partition's pool slices afterwards,
moves to the next generation and leaves the partition ACTIVE with no operation and no version; one of a party also waits with
its journal for the party to read it. A GO of a busy teardown only reports an error. -/
def Obligations.TeardownZeroises : Prop :=
  ∀ (s : State) (via : Via) (p : Nat), s.prtAccess via p = .serve → Memory.wf s = true → Blocks.wf s = true →
    ((s.prt p).teardown ≠ .busy → (s.prt p).ctxReset ≠ .busy → (s.prt p).prtReset ≠ .busy → (s.prt p).hasCtx = true →
      (∃ t, Runs (.contextTeardown via p) s t ∧ (t.prt p).gen = nextGen (s.prt p).gen ∧ (t.prt p).state = .active
        ∧ (t.prt p).teardown = .done ∧ (t.prt p).ops = [] ∧ (t.prt p).versions = [] ∧ (t.prt p).party = (s.prt p).party
        ∧ (∀ c ∈ s.partCores p, ∀ off < 2 ^ 31, t.poolByte (c * 2 ^ 31 + off) = some 0#8))
      ∧ (∃ t, Runs (.partyTeardown via p) s t ∧ (t.prt p).gen = nextGen (s.prt p).gen ∧ (t.prt p).party = none
        ∧ (t.prt p).clearing = true ∧ (t.prt p).ops = []
        ∧ (∀ c ∈ s.partCores p, ∀ off < 2 ^ 31, t.poolByte (c * 2 ^ 31 + off) = some 0#8)))
    ∧ ((s.prt p).teardown = .busy →
        Runs (.contextTeardown via p) s (s.raiseErr (pagePrt p) 2 (BitVec.ofNat 32 (s.prt p).jnlHead))
        ∧ Runs (.partyTeardown via p) s (s.raiseErr (pagePrt p) 2 (BitVec.ofNat 32 (s.prt p).jnlHead)))

/-- R351, R352, R355, R356, R358: a context reset that may start stops the partition's work and, when every block confirms,
ends with the partition at rest; a partition reset starts the retraining and waits for it; a hang that outlasts its grace
starts the one or the other; a context reset that outlasts its time becomes a partition reset, and a partition reset whose
block does not confirm condemns what it owns. -/
def Obligations.Resets : Prop :=
  ∀ (s : State) (via : Via) (p page : Nat),
    (s.prtAccess via p = .serve → s.mayReset p = true → (s.prt p).ctxReset ≠ .busy → (s.prt p).prtReset ≠ .busy →
      Runs (.contextReset via p true) s
        (((((s.updPrt p (fun v => { v with ctxReset := .busy, ctxByMgc := decide (via = .mgc) })).resetContext p).clearHung p
          1#2)).endContextReset p)
      ∧ Runs (.contextReset via p false) s
        (((s.updPrt p (fun v => { v with ctxReset := .busy, ctxByMgc := decide (via = .mgc) })).resetContext p).clearHung p 1#2)
      ∧ Runs (.partitionReset via p) s
        ((((s.updPrt p (fun v => { v with prtReset := .busy, prtByMgc := decide (via = .mgc) })).resetContext p).deepReset p).clearHung
          p 2#2))
    ∧ (s.prtAccess via p = .serve → s.mayReset p = false → (∀ confirmed, Runs (.contextReset via p confirmed) s s)
      ∧ Runs (.partitionReset via p) s s)
    ∧ (p < 8 → s.prtHung p = true → (s.prt p).resets = false → 
      ((s.prt p).scope = true → ∀ confirmed, Runs (.hangGraceExpiry p confirmed) s (s.startContextReset p true confirmed))
      ∧ ((s.prt p).scope = false → ∀ confirmed, Runs (.hangGraceExpiry p confirmed) s (s.startPartitionReset p true)))
    ∧ (p < 8 → (s.prt p).ctxReset = .busy → Runs (.contextResetTimeout p) s (s.startPartitionReset p true))
    ∧ (p < 8 → (s.prt p).prtReset = .busy → s.pageOwner page = some p →
      Runs (.partitionResetTimeout p page) s (s.condemnOwned page))
    ∧ (p < 8 → (s.prt p).prtReset = .busy →
      (List.range 24).any (fun i => s.privatePort i p && decide ((s.lnk i).state = .training)) = false →
      Runs (.basinPhyRetrained p []) s (s.endPartitionReset p))

/-- R224, R225, R229, R235: a served KEY_SEL write takes the selection of slots that the writer holds, and each command moves
the selected slot along FREE, ACTIVE, DRAINING, RETIRED only from the state before; every other command of a holder sets
CMD_ERR. R227: the sweep of a draining slot with a successor takes the next data line and reads it under the old key, a line
that verifies being written under the successor's; after the last line the flush ends it. -/
def Obligations.KeySlots : Prop :=
  (∀ (s : State) (via : Via) (m : Nat) (value : Reg), s.keyAccess via m = .serve →
     let k := (s.mce m).selSlot.toNat
     let x := (s.mce m).slot k
     (s.mayKey via m (bitsAt value 0 6).toNat = true → (bitAt value 14 = true → s.mayKey via m (bitsAt value 8 6).toNat = true) →
       Runs (.keySelWrite via m value) s (s.updMce m (fun e => { e with
         selSlot := bitsAt value 0 6, selSucc := bitsAt value 8 6, selSuccEn := bitAt value 14, selHandle := bitsAt value 16 16 })))
     ∧ (s.mayKey via m (bitsAt value 0 6).toNat = false → Runs (.keySelWrite via m value) s (s.refuseKey m))
     ∧ (s.mayKey via m k = false → ∀ c ∈ ([.keyLoad via m, .keyActivate via m, .keyDrain via m, .keyRetire via m] : List Instr),
         Runs c s (s.refuseKey m))
     ∧ (s.mayKey via m k = true →
       (∀ p b, s.slotHolder m k = some p → s.secKey p (s.mce m).selHandle.toNat = some b → x.state = .free →
         s.sec.entropyOk = true → Runs (.keyLoad via m) s (s.drawRandom.2.updKey m k (fun x => { x with
           loaded := true, key := b, handle := (s.mce m).selHandle.toNat, nonce := s.drawRandom.1.take 16, offSeq := 0 })))
       ∧ (x.state ≠ .free → Runs (.keyLoad via m) s (s.refuseKey m))
       ∧ (x.state = .free → x.loaded = true → Runs (.keyActivate via m) s (s.updKey m k (fun x => { x with state := .active })))
       ∧ (¬ (x.state = .free ∧ x.loaded = true) → Runs (.keyActivate via m) s (s.refuseKey m))
       ∧ (x.state = .active → (s.mce m).selSuccEn = false →
           Runs (.keyDrain via m) s (s.updKey m k (fun x => { x with state := .draining, succ := none })))
       ∧ (x.state = .active → (s.mce m).selSuccEn = true → s.succOk m k (s.mce m).selSucc.toNat = true →
           Runs (.keyDrain via m) s (s.updKey m k (fun x => { x with
             state := .draining, succ := some (s.mce m).selSucc.toNat, sweepDone := false, sweepLine := 0, swept := false })))
       ∧ (x.state ≠ .active → Runs (.keyDrain via m) s (s.refuseKey m))
       ∧ (x.state = .draining → s.keyInflight m k = 0 → (x.sweepDone = true ∨ x.succ = none) →
           Runs (.keyRetire via m) s (s.updKey m k (fun x =>
             { KeySlot.zero with state := .retired, handle := x.handle, sweepDone := x.sweepDone })))
       ∧ (x.state ≠ .draining ∨ s.keyInflight m k ≠ 0 → Runs (.keyRetire via m) s (s.refuseKey m))))
  ∧ (∀ (s : State) (m slot : Nat) (ecc : EccRead),
       ((s.mce m).slot slot).state = .draining → ((s.mce m).slot slot).succ.isSome = true →
       (m < 8 → ((s.mce m).slot slot).swept = false →
         Runs (.sweepStep m slot ecc) s ((((s.chargeScrub m).sweepAt m slot ((s.mce m).slot slot).sweepLine ecc).progress
           (pageMce m) 1).updKey m slot (fun x =>
             { x with sweepLine := x.sweepLine + 1, swept := decide (dataLines ≤ x.sweepLine + 1) })))
       ∧ ((8 ≤ m ∨ ((s.mce m).slot slot).swept = true) →
         Runs (.sweepFlush m slot) s (s.updKey m slot (fun x => { x with sweepDone := true })))
       ∧ (m < 8 → ((s.mce m).slot slot).swept = false → Runs (.sweepFlush m slot) s s))

/-- R210, R211, R213, R214: a full write of a basin line raises its counter by one, and the line then reads as what was
written; every other line of every group stays as it was. -/
def Obligations.BasinReadAfterWrite : Prop :=
  ∀ (s : State) (m line slot : Nat) (data : List Byte),
    Memory.wf s = true → Blocks.wf s = true →
    m < 8 → line < dataLines → data.length = 128 → (s.mce m).usable slot = true →
    (s.mce m).usable ((s.mce m).writeSlot slot) = true → (s.mce m).beneathLoss line = false →
    Sparse.get 0 (s.mce m).ctr line + 1 < 2 ^ 64 →
    ∃ t, Runs (.basinWrite m line slot data) s t ∧ t.basinPlain m line slot = some data
      ∧ Sparse.get 0 (t.mce m).ctr line = Sparse.get 0 (s.mce m).ctr line + 1
      ∧ (∀ u n, u * 2 ^ 33 + n ≠ m * 2 ^ 33 + line → t.lineAt u n = s.lineAt u n)

/-- R213, R214, R220, R221: single reads and partial writes of a line on a usable slot; a partial write into an EMPTY line
merges into zeros. R194, R198, R199, R336, R409: what the reads of basin storage, pool words, scratchpad words and
the words of other arrays find is counted, once corrected, once repeated, or lost: a lost pool or scratchpad word reads poisoned
from then on, a lost word of another array makes its block suspect. A line test that finds a broken array makes
the block suspect; a refresh keeps every line. -/
def Obligations.BasinLinesAndTests : Prop :=
  (∀ (s : State) (m line slot offset level : Nat) (data : List Byte) (ecc tree : EccRead),
     m < 8 → line < dataLines → (s.mce m).usable slot = true →
     Runs (.basinRead m line slot ecc tree level) s
       ((((s.readTree m line level tree).readBasin m line slot ecc).2).progress (pageMce m) 1)
     ∧ (0 < data.length → data.length < 128 → offset + data.length ≤ 128 →
       Runs (.basinPartialWrite m line slot offset data ecc) s ((s.mergeLine m line slot offset data ecc).progress (pageMce m) 1)
       ∧ (s.lineAt m line = .empty → Runs (.basinPartialWrite m line slot offset data ecc) s
           (((s.putLine m line slot (zeros offset ++ data ++ zeros (128 - offset - data.length))).1).progress (pageMce m) 1))))
  ∧ (∀ (s : State) (k page core offset : Nat),
       (k < 8 → (s.bas k).state = 2#2 → s.takes (pageBas k) = true →
         let info := BitVec.ofNat 32 ((s.bas k).scrubLine / 32)
         let next (t : State) : State := ((t.chargeScrub k).progress (pageBas k) 1).updBas k (fun b =>
           if groupLines ≤ b.scrubLine + 1 then { b with scrubLine := 0, scrubPasses := b.scrubPasses + 1 }
           else { b with scrubLine := b.scrubLine + 1 })
         Runs (.scrubStep k .clean) s (next s)
         ∧ Runs (.scrubStep k .corrected) s (next ((s.countCe (pageBas k) false).raiseErr (pageBas k) 0 info))
         ∧ Runs (.scrubStep k .transient) s (next ((s.countCe (pageBas k) true).raiseErr (pageBas k) 0 info))
         ∧ Runs (.scrubStep k .lasting) s (next (s.scrubLoss k (s.bas k).scrubLine)))
       ∧ (pageClass page ≠ none → (s.hdr page).suspect = false → Runs (.lineTest page .broken) s (s.makeSuspect page))
       ∧ (core < 256 → offset < 1500000000 → Sparse.get false s.poolBad ((core * 2 ^ 31 + offset) / 64) = false →
         Memory.wf s = true →
         let a := SramArray.pool core
         Runs (.poolRead a offset .clean) s s
         ∧ Runs (.poolRead a offset .corrected) s ((s.countCe (pagePool (core / 8)) false).raiseErr (pagePool (core / 8)) 0 0#32)
         ∧ Runs (.poolRead a offset .transient) s ((s.countCe (pagePool (core / 8)) true).raiseErr (pagePool (core / 8)) 0 0#32)
         ∧ ∃ t, Runs (.poolRead a offset .lasting) s t ∧ t.poolByte (core * 2 ^ 31 + offset) = none ∧ t.pool = s.pool)
       ∧ (core < 256 → offset < 4194304 → Sparse.get false s.spdBad ((core * 2 ^ 22 + offset) / 8) = false →
         Memory.wf s = true →
         let a := SramArray.scratchpad core
         Runs (.poolRead a offset .clean) s s
         ∧ Runs (.poolRead a offset .corrected) s ((s.countCe (pageSpd core) false).raiseErr (pageSpd core) 0 0#32)
         ∧ Runs (.poolRead a offset .transient) s ((s.countCe (pageSpd core) true).raiseErr (pageSpd core) 0 0#32)
         ∧ ∃ t, Runs (.poolRead a offset .lasting) s t ∧ t.spdByte (core * 2 ^ 22 + offset) = none ∧ t.spd = s.spd)
       ∧ (storePage page = some true → (s.hdr page).suspect = false →
         Runs (.poolRead .store page .clean) s s
         ∧ Runs (.poolRead .store page .corrected) s ((s.countCe page false).raiseErr page 0 0#32)
         ∧ Runs (.poolRead .store page .transient) s ((s.countCe page true).raiseErr page 0 0#32)
         ∧ Runs (.poolRead .store page .lasting) s ((s.foundUe page (some 1) 0#32).makeSuspect page))
       ∧ (storePage page = some false → (s.hdr page).suspect = false →
         Runs (.poolRead .store page .corrected) s (s.countCe page false)
         ∧ Runs (.poolRead .store page .lasting) s ((s.foundUe page none 0#32).makeSuspect page))
       ∧ (k < 32 → s.takes (pagePool k) = true →
         Runs (.poolScrub k) s { s with poolPasses := Sparse.modify 0#32 s.poolPasses k (· + 1) })
       ∧ Runs (.basinRefresh k) s s)

/-- R211, R212, R219, R220, R222, R223: a cached tree line without cached children leaves the cache, and a changed one is
written with its counter raised; the oldest lost subtree starts again with its data lines EMPTY; a lost group starts again
with every line EMPTY and every counter 0. -/
def Obligations.TreeRecovery : Prop :=
  ∀ (s : State) (m level line k l : Nat) (x : TreeLine) (rest : List (Nat × Nat)),
    ((s.mce m).cache.find? (fun t => t.level = level ∧ t.line = line) = some x → m < 8 →
      (s.mce m).childCached level line = false → Sparse.get 0 (s.mce m).treeCtr (treeKey level line) + 1 < 2 ^ 64 →
      Runs (.treeEviction m level line) s (s.updMce m (fun e =>
        let e1 := if x.changed then e.writeTree m level line else e
        { e1 with cache := e1.cache.filter (fun t => !(t.level = level ∧ t.line = line)) })))
    ∧ ((s.mce m).lost = (k, l) :: rest → (s.mce m).groupLost = false → (s.mce m).maxCtr + 1 < 2 ^ 64 → Memory.wf s = true → Blocks.wf s = true →
      ∃ t, Runs (.subtreeReinit m) s t ∧ (t.mce m).lost = rest
        ∧ (∀ n, n / 16 ^ (k + 1) = l → n < dataLines → t.lineAt m n = .empty)
        ∧ (∀ u n, n < 2 ^ 33 → (u ≠ m ∨ n / 16 ^ (k + 1) ≠ l) → t.lineAt u n = s.lineAt u n))
    ∧ ((s.mce m).groupLost = true → Memory.wf s = true → Blocks.wf s = true →
      ∃ t, Runs (.groupRebuild m) s t ∧ (t.mce m).groupLost = false ∧ (t.mce m).lost = [] ∧ (t.mce m).ctr = []
        ∧ (∀ n, n < 2 ^ 33 → t.lineAt m n = .empty)
        ∧ (∀ u n, u ≠ m → n < 2 ^ 33 → t.lineAt u n = s.lineAt u n))

/-- R204, R264, R267: a completion ends the read that holds its tag, a timeout ends it poisoned with an error, and one of no
outstanding read changes nothing; a port's link comes UP with its rate, lanes and FLIT mode, and going down it counts, tells
PF0 of the other port and poisons its reads; an FLR of a VF detaches the host from its partition, and one of PF0 resets
the masks and pending bits of PF0's vectors. -/
def Obligations.HostPorts : Prop :=
  ∀ (s : State) (port : Bool) (tag fn : Nat) (data : HostLine) (r : HostRead) (speed width : BitVec 4) (flit : Bool),
    ((s.hst port).reads.find? (fun r => r.tag = tag) = some r →
      Runs (.hostReadCompletion port tag data) s (((s.endRead port r data).askAll).progress (pageHst port) 1)
      ∧ Runs (.hostCompletionTimeout port tag) s (((s.endRead port r none).raiseErr (pageHst port) 4 0#32).askAll))
    ∧ ((s.hst port).reads.find? (fun r => r.tag = tag) = none →
      Runs (.hostReadCompletion port tag data) s s ∧ Runs (.hostCompletionTimeout port tag) s s)
    ∧ ((s.hst port).link ≠ .up → s.dev.outputsOff = false → s.dev.state ≠ .boot → 1 ≤ speed.toNat → speed.toNat ≤ 6 →
      (width = 4#4 ∨ width = 8#4) → Runs (.hostLinkUp port speed width flit) s
        ((s.updHst port (fun h => { h with link := .up, speed := speed, width := width, flit := flit })).msix (!port) 0 5))
    ∧ ((s.hst port).link = .up → Runs (.hostLinkDown port) s
        (((((s.updHst port (fun h => { h with link := .down, downCount := satAdd h.downCount 1 })).raiseErr (pageHst port) 2
          0#32).msix (!port) 0 5).endReads port (fun _ => true)).askAll))
    ∧ ((s.hst port).link = .up → 1 ≤ fn → fn ≤ 8 → Runs (.flr port fn) s (s.detach port (fn - 1)))
    ∧ ((s.hst port).link = .up → fn = 0 → Runs (.flr port fn) s (s.updHst port (fun h => { h with
        msixMask := h.msixMask.filter (fun x => decide (64 ≤ x.1)),
        msixPending := h.msixPending.filter (fun x => decide (64 ≤ x.1)) })))
    ∧ ((s.hst port).link ≠ .up → Runs (.flr port fn) s s)

/-- R267, R268, R269: the TDISP requests of a VF move its interface along CONFIG_UNLOCKED, CONFIG_LOCKED, RUN only in order
and answer an error otherwise; IDE_KM over a finished session gives a VF's stream its key, and an integrity failure takes the
key, the stream and the interface away. -/
def Obligations.TdispAndIde : Prop :=
  ∀ (s : State) (port : Bool) (vf session : Nat) (key : List Byte), s.tdispReaches port vf = true →
    let i := vf - 1
    let tdi := (s.hst port).tdi i
    Runs (.getTdispVersion port vf) s (s.emit (.tdisp port vf 0x01 [1#8, 0x10#8]))
    ∧ Runs (.getTdispCapabilities port vf) s (s.emit (.tdisp port vf 0x02 tdispRequests))
    ∧ Runs (.getDeviceInterfaceState port vf) s (s.emit (.tdisp port vf 0x05 (leBytes 1 tdi.code)))
    ∧ (tdi = .unlocked → s.sec.entropyOk = true → Runs (.lockInterface port vf) s
        ((s.drawRandom.2.setTdi port i .locked).emit (.tdisp port vf 0x03 s.drawRandom.1)))
    ∧ (tdi ≠ .unlocked → Runs (.lockInterface port vf) s (s.emit (.tdisp port vf 0x7F [4#8])))
    ∧ (tdi = .locked → Runs (.startInterface port vf) s ((s.setTdi port i .run).emit (.tdisp port vf 0x06 [])))
    ∧ (tdi ≠ .locked → Runs (.startInterface port vf) s (s.emit (.tdisp port vf 0x7F [4#8])))
    ∧ ((tdi = .locked ∨ tdi = .run) → Runs (.getDeviceInterfaceReport port vf) s
        (s.emit (.tdisp port vf 0x04 (s.tdispReport port i))))
    ∧ (tdi = .unlocked ∨ tdi = .error → Runs (.getDeviceInterfaceReport port vf) s (s.emit (.tdisp port vf 0x7F [4#8])))
    ∧ Runs (.stopInterface port vf) s ((s.detach port i).emit (.tdisp port vf 0x07 []))
    ∧ ((s.hst port).sessionUp session = true → key.length = 32 → Runs (.ideKm port vf session key) s (s.updHst port (fun h =>
        { h with ideKeys := Sparse.set [] h.ideKeys i key, ideActive := setBit h.ideActive i true })))
    ∧ (bitAt (s.hst port).ideActive i = true → Runs (.ideIntegrityFailure port vf) s ((s.updHst port (fun h =>
        { h with ideKeys := Sparse.set [] h.ideKeys i [], ideActive := setBit h.ideActive i false,
                 ideFailed := setBit h.ideFailed i true, tdisp := Sparse.set Tdi.unlocked h.tdisp i .error })).raiseErr
        (pageHst port) 3 0#32))

/-- R270, R271, R325: SPDM over the DOE of a port whose link is UP, and over MCTP where that reaches the device, there without
sessions. GET_VERSION starts the connection anew; requests behind the negotiation answer an error before it; a session begins
with KEY_EXCHANGE, is finished by FINISH and ends with END_SESSION, and requests inside one need it. A request carried in a
session has its effect (R268, R269). The codes of the capabilities and the algorithms, and AES-256-GCM where both are offered,
are the model's choice (log 15). -/
def Obligations.SpdmRequests : Prop :=
  ∀ (s : State) (path : SpdmPath) (port : Bool) (id slot off len index : Nat) (nonce payload : List Byte),
    (s.spdmReaches path = true →
      (∃ t, Runs (.getVersion path) s t ∧ t.out = s.out ++ [.spdm path 0x04 [1#8, 0x00#8, 0x12#8]]
        ∧ (Blocks.wf s = true → t.spdmNegotiated path = false))
      ∧ Runs (.getCapabilities path) s (s.emit (.spdm path 0x61 (leBytes 4 (match path with | .doe _ => 0x62D6 | .mctp _ => 0x16))))
      ∧ (∀ aes sm4, (aes = true ∨ sm4 = true) → ∃ t, Runs (.negotiateAlgorithms path ⟨true, aes, sm4⟩) s t
          ∧ t.spdmNegotiated path = true ∧ (path = .doe port → (t.hst port).sm4Sessions = (!aes && sm4)))
      ∧ (∀ aes sm4, Runs (.negotiateAlgorithms path ⟨false, aes, sm4⟩) s (s.spdmError path 1#8))
      ∧ (s.spdmNegotiated path = false → ∀ c ∈ ([.getDigests path, .getCertificate path slot off len, .challenge path nonce,
          .getMeasurements path index nonce] : List Instr), Runs c s (s.spdmError path 4#8))
      ∧ (s.spdmNegotiated path = true →
        Runs (.getDigests path) s (s.spdmAnswer path 0x01 (1#8 :: sm3 Config.certificateChain))
        ∧ Runs (.getCertificate path 0 off len) s (s.spdmAnswer path 0x02 ((Config.certificateChain.drop off).take len))
        ∧ (s.sec.entropyOk = true →
            Runs (.challenge path nonce) s ((s.signed (nonce ++ sm3 Config.certificateChain)).2.spdmAnswer path 0x03
              (sm3 Config.certificateChain ++ (s.signed (nonce ++ sm3 Config.certificateChain)).1))
            ∧ (1 ≤ index → index ≤ 9 → Runs (.getMeasurements path index nonce) s
                ((s.signed (nonce ++ s.measurementBlock index)).2.spdmAnswer path 0x60
                  (s.measurementBlock index ++ (s.signed (nonce ++ s.measurementBlock index)).1))))))
    ∧ ((s.hst port).link = .up →
      let doe := SpdmPath.doe port
      ((s.hst port).negotiated = false → ∀ c ∈ ([.keyExchange port id false, .finish port id true, .keyUpdate port id,
        .heartbeat port id, .endSession port id, .vendorDefinedRequest port id true payload] : List Instr),
        Runs c s (s.spdmError doe 4#8))
      ∧ ((s.hst port).negotiated = true →
        (s.sec.entropyOk = true → (s.hst port).sessions.any (fun x => x.id = id) = false → (s.hst port).sessions.length < 4 →
          ∃ t, Runs (.keyExchange port id false) s t ∧ (Blocks.wf s = true →
            (t.hst port).sessions = (s.hst port).sessions ++ [⟨id, false, 0⟩]))
        ∧ ((s.hst port).sessions.any (fun x => x.id = id ∧ x.finished = false) = true →
            Runs (.finish port id true) s ((s.updSession port id (fun x => { x with finished := true })).spdmAnswer doe 0x65 [])
            ∧ Runs (.finish port id false) s ((s.endSession port id).spdmError doe 6#8))
        ∧ ((s.hst port).sessions.any (fun x => x.id = id ∧ x.finished = true) = true →
            Runs (.keyUpdate port id) s ((s.updSession port id (fun x => { x with keyGen := x.keyGen + 1 })).spdmAnswer doe 0x69 [])
            ∧ Runs (.heartbeat port id) s (s.spdmAnswer doe 0x68 [])
            ∧ Runs (.endSession port id) s ((s.endSession port id).spdmAnswer doe 0x6C [])
            ∧ Runs (.vendorDefinedRequest port id true payload) s
                ((s.ideKey port (payload.getD 0 0#8).toNat id (payload.drop 1)).spdmAnswer doe 0x7E [0#8])
            ∧ Runs (.vendorDefinedRequest port id false payload) s ((s.tdispMessage port payload).spdmAnswer doe 0x7E [1#8])
            ∧ ∀ vf, 1 ≤ vf → vf ≤ 8 → s.tdispMessage port [0x87#8, BitVec.ofNat 8 vf] =
                (s.detach port (vf - 1)).emit (.tdisp port vf 0x07 []))))

/-- R271, R272, R2: the management messages that running firmware answers on SMBus, under the address 0x40 + ROPE_POS, and over a
port's VDM: the control commands of MCTP and PLDM, the sensors, the effecter of the power cap, and the events of the sensors. -/
def Obligations.ManagementMessages : Prop :=
  ∀ (s : State) (via : MctpVia) (id volts value : Nat) (high port : Bool) (e : Byte), s.answers = true →
    (via = .smbus (0x40 + s.dev.ropePos.toNat) ∨ via = .vdm port ∧ (s.hst port).link = .up) →
    (e ≠ 0#8 → e ≠ 0xFF#8 →
      Runs (.mctpControl ⟨via, 1⟩ [0#8, e]) s ((s.updDev (fun d => { d with eid := e })).emit (.mctp [1#8, 0#8, 0#8, e, 0#8])))
    ∧ Runs (.mctpControl ⟨via, 2⟩ []) s (s.emit (.mctp [2#8, 0#8, s.dev.eid, 0#8, 0#8]))
    ∧ (e = 0#8 ∨ e = 0xFF#8 → Runs (.mctpControl ⟨via, 1⟩ [0#8, e]) s (s.emit (.mctp [1#8, 2#8])))
    ∧ Runs (.mctpControl ⟨via, 4⟩ []) s (s.emit (.mctp [4#8, 0#8, 1#8, 0xF1#8, 0xF3#8, 0xF1#8, 0x00#8]))
    ∧ Runs (.mctpControl ⟨via, 5⟩ []) s (s.emit (.mctp [5#8, 0#8, 3#8, 0x01#8, 0x05#8, 0x7F#8]))
    ∧ (¬ id ∈ [1, 2, 4, 5] → Runs (.mctpControl ⟨via, id⟩ []) s (s.emit (.mctp [BitVec.ofNat 8 id, 5#8])))
    ∧ Runs (.pldmBaseCommand ⟨via, 3⟩ []) s (s.emit (.pldm [3#8, 0#8, 0x00#8, 0xF0#8, 0xF1#8, 0xF1#8]))
    ∧ Runs (.pldmBaseCommand ⟨via, 4⟩ []) s (s.emit (.pldm ([4#8, 0#8, 0x05#8] ++ zeros 7)))
    ∧ (¬ id ∈ [1, 2, 3, 4] → Runs (.pldmBaseCommand ⟨via, id⟩ []) s (s.emit (.pldm [BitVec.ofNat 8 id, 5#8])))
    ∧ Runs (.pldmBaseCommand ⟨via, 1⟩ [e]) s ((s.updDev (fun d => { d with tid := e })).emit (.pldm [1#8, 0#8]))
    ∧ Runs (.pldmBaseCommand ⟨via, 2⟩ []) s (s.emit (.pldm [2#8, 0#8, s.dev.tid]))
    ∧ (1 ≤ id → id ≤ 5 → Runs (.getSensorReading ⟨via, id⟩ volts) s (s.emit (.pldm ([0x11#8, 0#8]
        ++ leBytes 4 (BitVec.ofInt 32 (s.sensor id volts)).toNat))))
    ∧ (id = 0 ∨ 5 < id → Runs (.getSensorReading ⟨via, id⟩ volts) s (s.emit (.pldm [0x11#8, 0x80#8])))
    ∧ s.sensor 1 volts = (s.dev.measured.toNat : Int) ∧ s.sensor 2 volts = (volts : Int) ∧ s.sensor 3 volts = (s.dev.vcore : Int)
    ∧ s.sensor 5 volts = (s.hlt.risk.toNat : Int)
    ∧ Runs (.getStateSensorReadings ⟨via, 6⟩) s (s.emit (.pldm ([0x21#8, 0#8] ++ leBytes 1 s.dev.state.code)))
    ∧ Runs (.getStateSensorReadings ⟨via, 7⟩) s (s.emit (.pldm ([0x21#8, 0#8] ++ ((List.range 24).flatMap (fun i =>
        leBytes 1 (s.lnk i).state.code) ++ leBytes 1 (s.hst false).link.code ++ leBytes 1 (s.hst true).link.code))))
    ∧ (id ≠ 6 → id ≠ 7 → Runs (.getStateSensorReadings ⟨via, id⟩) s (s.emit (.pldm [0x21#8, 0x80#8])))
    ∧ Runs (.numericEffecterWrite ⟨via, 8⟩ value) s ((s.updDev (fun d =>
        { d with cap := min value (fusedLimit s.fuses.powerCode) })).emit (.pldm [0x31#8, 0#8]))
    ∧ (id ≠ 8 → Runs (.numericEffecterWrite ⟨via, id⟩ value) s (s.emit (.pldm [0x31#8, 0x80#8])))
    ∧ (1 ≤ id → id ≤ 5 →
      (beyondThreshold id (s.sensor id volts) high = true → Runs (.platformEventMessage id volts high) s (s.emit (.pldm ([0x0A#8]
        ++ leBytes 2 id ++ leBytes 4 (BitVec.ofInt 32 (s.sensor id volts)).toNat ++ leBytes 1 (if high then 1 else 0)))))
      ∧ (beyondThreshold id (s.sensor id volts) high = false → Runs (.platformEventMessage id volts high) s s))

/-- R324, R326, R327, R328, R330: SEC's vendor messages. A report of a partition or of the device is signed over the caller's
nonce; a policy that passes every check sets up a party with a fresh setup key; a record of a party that its rules accept is
applied. Each answers by name what it refuses. R316, R318, R319, R321: firmware is staged into the bank that does not run:
begun within the bank's size, written within the announced size, verified at the end before TRY_BANK names the bank, and
dropped on a failed check or an abort. -/
def Obligations.SecurityMessages : Prop :=
  (∀ (s : State) (p : Nat) (nonce policy record : List Byte) (q : Party), s.answers = true →
     ((p < 8 ∨ p = 0xFF) → nonce.length = 32 → s.sec.entropyOk = true →
       Runs (.getReport p nonce) s ((s.makeReport p nonce).2.vendorAnswer resOk (s.makeReport p nonce).1))
     ∧ (nonce.length ≠ 32 → Runs (.getReport p nonce) s (s.vendorAnswer resFormat []))
     ∧ (s.policyResult p policy = resOk → Runs (.policyLoad p policy) s ((s.drawRandom.2.updPrt p (fun v =>
         { v with party := some (Party.fresh policy (1 + leVal s.drawRandom.1 % (sm2N - 1))), state := .setup })).vendorAnswer
           resOk []))
     ∧ (s.policyResult p policy ≠ resOk → Runs (.policyLoad p policy) s (s.vendorAnswer (s.policyResult p policy) []))
     ∧ (s.fuses.debugDisabled = false → Runs (.keyRecord p record) s (s.vendorAnswer resDebug []))
     ∧ (s.fuses.debugDisabled = true → (s.prt p).party = none → Runs (.keyRecord p record) s (s.vendorAnswer resState []))
     ∧ (s.fuses.debugDisabled = true → (s.prt p).party = some q → ((s.prt p).state = .setup ∨ (s.prt p).state = .active) →
       ((q.recordResult record).1 ≠ resOk → Runs (.keyRecord p record) s (s.vendorAnswer (q.recordResult record).1 []))
       ∧ ((q.recordResult record).1 = resOk →
           let q1 := q.applyRecord record (q.recordResult record).2
           let q2 := if q1.mayForm then q1.formKc else q1
           let s1 := s.updPrt p (fun v => { v with party := some q2 })
           Runs (.keyRecord p record) s ((if q1.mayForm = true ∧ (s.prt p).state = .setup then s1.activate p q2 else s1).vendorAnswer
             resOk (recordHandle p record)))))
  ∧ (∀ (s : State) (size off : Nat) (bytes : List Byte) (g : Staging), s.dev.state ≠ .boot →
       (s.sec.staging = none → size ≤ bankSize → Runs (.stageBegin size) s ((s.updSec (fun x =>
         { (x.setBank x.other (.bytes size [])) with
           tryBank := if x.tryBank = some x.other then none else x.tryBank, staging := some ⟨size, 0⟩ })).vendorAnswer resOk []))
       ∧ (s.sec.staging = none → bankSize < size → Runs (.stageBegin size) s (s.vendorAnswer resFormat []))
       ∧ (s.sec.staging = none → Runs (.stageData off bytes) s (s.vendorAnswer resState [])
           ∧ Runs .stageEnd s (s.vendorAnswer resState []) ∧ Runs .stageAbort s (s.vendorAnswer resState []))
       ∧ (s.sec.staging = some g → Runs (.stageBegin size) s (s.vendorAnswer resBusy [])
         ∧ (1 ≤ bytes.length → bytes.length ≤ 1024 → off + bytes.length ≤ g.size → Runs (.stageData off bytes) s ((s.updSec (fun x =>
             { (x.setBank x.other ((x.bank x.other).write off bytes)) with
               staging := some ⟨g.size, g.written + bytes.length⟩ })).vendorAnswer resOk []))
         ∧ ((checkBank s.fuses (s.sec.bank s.sec.other)).1 = resOk → s.mgc.recovery = false → Runs .stageEnd s
             (((s.updSec (fun x => { x with staging := none, tryBank := some x.other })).vendorAnswer resOk []).msixPf0 4))
         ∧ ((checkBank s.fuses (s.sec.bank s.sec.other)).1 ≠ resOk → Runs .stageEnd s
             (((s.dropStaging).vendorAnswer (checkBank s.fuses (s.sec.bank s.sec.other)).1 []).msixPf0 4))
         ∧ Runs .stageAbort s (s.dropStaging.vendorAnswer resOk [])))

/-- R341, R346, R348: the oldest event that waits is written as a record, HEAD moves on by one and at most 64 records stay; a
record is read by its COUNT; TAIL moves within the last 64 and OVERRUN clears by a 1; a pattern of 320 bytes is stored. -/
def Obligations.ErrorRecords : Prop :=
  ∀ (s : State) (via : Via) (e : CperEvent) (rest : List CperEvent) (count index : Nat) (bs : List Byte) (value : Reg),
    (s.hlt.due = e :: rest → ∃ t r, Runs .cperRecord s t ∧ t.hlt.cperHead = s.hlt.cperHead + 1
      ∧ t.hlt.records.getLast? = some (s.hlt.cperHead.toNat, r) ∧ t.hlt.due = rest
      ∧ t.hlt.records.length ≤ 64 ∧ t.hlt.written = s.hlt.written + 1)
    ∧ (s.answers = true →
      (∀ r, s.hlt.records.find? (fun r => r.1 = count) = some r → Runs (.getCper count) s (s.vendorAnswer resOk r.2))
      ∧ (s.hlt.records.find? (fun r => r.1 = count) = none → Runs (.getCper count) s (s.vendorAnswer resState []))
      ∧ (index < 16 → bs.length = 320 → Runs (.patternLoad index bs) s
          ((s.updHlt (fun h => { h with patterns := Sparse.set [] h.patterns index bs })).vendorAnswer resOk []))
      ∧ (16 ≤ index ∨ bs.length ≠ 320 → Runs (.patternLoad index bs) s (s.vendorAnswer resFormat [])))
    ∧ (s.pf0Access via = .serve → 
      ((s.hlt.cperHead - bitsAt value 0 16).toNat ≤ 64 → Runs (.cperTailWrite via value) s (s.updHlt (fun h =>
          { h with cperTail := bitsAt value 0 16, overrun := h.overrun && !bitAt value 16 })))
      ∧ (64 < (s.hlt.cperHead - bitsAt value 0 16).toNat → Runs (.cperTailWrite via value) s (s.updHlt (fun h =>
          { h with overrun := h.overrun && !bitAt value 16 }))))

/-- R316, R319, R322, R357, R378, R385, R389, R391: every device reset leaves the state after reset but for the fuses, the
flash banks, the pins and the queue; power loss clears a latched trip, a thermal trip sets it and asserts FAULT_N, and no
start-up happens while it holds; a layout change applies only where it is legal and touches no party. R378, R380, R390: a
device whose reference is absent at start-up, or is lost later, goes to FAULT with its outputs dark and FAULT_N asserted; it
never raises READY. -/
def Obligations.DeviceResets : Prop :=
  (∀ (s : State) (l : Layout) (f : StartFacts),
     (s.answers = true → Runs .deviceResetCommand s s.deviceReset)
     ∧ Runs .rstNAssert s ((s.updDev (fun d => { d with rstN := false })).deviceReset)
     ∧ Runs .pwrOkFall s ((s.updDev (fun d => { d with pwrOk := false, trip := false })).deviceReset)
     ∧ Runs .vin48TurnOff s ((s.updDev (fun d => { d with vin48 := false, trip := false })).deviceReset)
     ∧ (∃ t, Runs .thermalTrip s t ∧ t.dev.trip = true ∧ t.dev.faultN = true ∧ t.dev.railsUp = false ∧ t.dev.outputsOff = true
         ∧ t.dev.state = .boot ∧ t.pool = [] ∧ t.prts = [])
     ∧ (s.deviceReset.fuses = s.fuses ∧ s.deviceReset.pool = [] ∧ s.deviceReset.basin = [] ∧ s.deviceReset.prts = []
         ∧ s.deviceReset.lnks = [] ∧ s.deviceReset.hdrs = [] ∧ s.deviceReset.dev.state = .boot
         ∧ s.deviceReset.dev.readyPin = false ∧ s.deviceReset.dev.trip = s.dev.trip ∧ s.deviceReset.hlt = State.reset.hlt
         ∧ (s.sec.staging = none → s.deviceReset.sec.bankA = s.sec.bankA ∧ s.deviceReset.sec.bankB = s.sec.bankB))
     ∧ (s.dev.state = .boot → s.dev.trip = false → Runs (.startUp f) s (s.startUp f))
     ∧ (s.dev.trip = true → Runs (.startUp f) s s)
     ∧ (s.answers = true → s.layoutLegal l = true →
         s.liveParts.all (fun p => !(s.prt p).holdsParty || !s.touches l p) = true →
         Runs (.layoutChange l) s ((s.applyLayout l).msixPf0 3)))
  ∧ (∀ (s : State) (f : StartFacts),
       (s.dev.state ≠ .boot → s.mgc.recovery = false → ∃ t, Runs .refClockLoss s t ∧ t.dev.state = .fault
         ∧ t.dev.outputsOff = true ∧ t.dev.faultN = true ∧ t.dev.readyPin = false)
       ∧ (s.dev.state = .boot → s.dev.trip = false → f.refPresent = false →
         ∃ t, Runs (.startUp f) s t ∧ t.dev.state = .fault ∧ t.dev.outputsOff = true ∧ t.dev.faultN = true
           ∧ t.dev.readyPin = false))

/-- R2, R17, R302, R306, R386, R388: a cap is written at most at the fused limit, and WEI36 is served by a capacity below the
layout's at once; above the cap VCORE falls by 10 mV, at its floor
the rate limit rises, and only then is the cap unmet; below 97 % both are given back, the rate limit first; a junction above 105 °C starts the
slowdown, which lowers VCORE until the temperature falls; leaving and returning to the pace envelope are announced. R384: a
laser pair whose primary leaves its limits runs on its backup, which counts as a risk event; a pair that loses both takes the
light of its edge's ports away. -/
def Obligations.PowerAndHeat : Prop :=
  (∀ (s : State) (via : Via) (value : Reg) (watts field : Nat) (temp : BitVec 12),
     (s.pf0Access via = .serve →
       let t := s.updDev (fun d => { d with cap := min (value.toNat % 65536) (fusedLimit s.fuses.powerCode) })
       (t.dev.cap - 600 < s.mgc.weir36Base → Runs (.pkgPowerCapWrite via value) s
         (t.updWeir 36 (fun w => { w with capacity := t.dev.cap - 600 })))
       ∧ (s.mgc.weir36Base ≤ t.dev.cap - 600 → Runs (.pkgPowerCapWrite via value) s t))
     ∧ (s.powered = true →
       (s.dev.cap < watts → ∃ t, Runs (.powerCapInterval watts) s t
         ∧ (550 < s.dev.vcore → t.dev.vcore = s.dev.vcore - 10 ∧ t.dev.capped = true)
         ∧ (s.dev.vcore ≤ 550 → s.dev.rateLimit.toNat < 15 → t.dev.rateLimit = s.dev.rateLimit + 1 ∧ t.dev.capped = true)
         ∧ (s.dev.vcore ≤ 550 → s.dev.rateLimit.toNat = 15 → t.dev.capUnmet = true))
       ∧ (watts ≤ s.dev.cap → ∃ t, Runs (.powerCapInterval watts) s t ∧ t.dev.vcore = s.dev.vcore
         ∧ t.dev.rateLimit = s.dev.rateLimit ∧ t.dev.capUnmet = false)
       ∧ (100 * watts < 97 * s.dev.cap → s.dev.rateLimit ≠ 0#4 → ∃ t, Runs (.vcoreRaise watts) s t
         ∧ t.dev.rateLimit = s.dev.rateLimit - 1 ∧ t.dev.vcore = s.dev.vcore)
       ∧ (100 * watts < 97 * s.dev.cap → s.dev.rateLimit = 0#4 → s.dev.vcore < s.dev.target → s.dev.thermal = false →
         ∃ t, Runs (.vcoreRaise watts) s t ∧ t.dev.vcore = min s.dev.target (s.dev.vcore + 10))
       ∧ (field < 4 → 840 < temp.toInt → s.dev.thermal = false → Runs (.thermalSlowdown field temp) s
           (((({ s with temps := Sparse.set 0#12 s.temps field temp }).updDev (fun d => { d with thermal := true })).announce
             1#8).riskEvent 7 1))
       ∧ (s.dev.thermal = true → 824 < temp.toInt → 550 < s.dev.vcore →
           Runs (.thermalStep temp) s (s.updDev (fun d => { d with vcore := d.vcore - 10 })))
       ∧ (s.dev.thermal = true → Runs .thermalSlowdownEnd s ((s.updDev (fun d => { d with thermal := false })).announce 2#8))
       ∧ (s.outsideEnvelope = true → s.dev.paceBroken = false →
           Runs .paceBreak s ((s.updDev (fun d => { d with paceBroken := true })).announce 5#8))
       ∧ (s.outsideEnvelope = false → s.dev.paceBroken = true →
           Runs .paceRestore s ((s.updDev (fun d => { d with paceBroken := false })).announce 6#8))
       ∧ (field < 4 → Runs (.vcoreDroop field) s
           ({ s with droops := Sparse.modify 0#32 s.droops field (fun c => satAdd c 1) }.riskEvent 6 1))))
  ∧ (∀ (s : State) (pair : Nat), pair < 4 → s.dev.laserEnabled = 0xFF#8 →
       (bitAt s.dev.laserBackup pair = false → bitAt s.dev.laserIn (2 * pair + 1) = true →
         Runs (.laserSwitch pair) s ((s.updDev (fun d => { d with
           laserIn := setBit d.laserIn (2 * pair) false, laserBackup := setBit d.laserBackup pair true,
           laserSwitches := satAdd d.laserSwitches 1 })).riskEvent 4 1))
       ∧ Runs (.laserPairLost pair) s (((s.updDev (fun d => { d with
           laserIn := setBit (setBit d.laserIn (2 * pair) false) (2 * pair + 1) false,
           laserLost := setBit d.laserLost pair true })).loseEdge pair).askAll))

/-- R299: at the end of a weir's period each allocation's last use and denied count are kept and the next period runs with the
allocations and the period as last written. What the next period uses at once of requests that waited is at most what it
serves. R302: WEI36 is served by the capacity that it then has. Of the two directions of a port's weir the greater use is
shown (the model's choice: log 59). -/
def Obligations.WeirPeriods : Prop :=
  ∀ (s : State) (w a : Nat), (w < 37 ∨ (40 ≤ w ∧ w < 48)) → a < 9 → Blocks.wf s = true →
    let x := Sparse.get Alloc.zero (s.weir w).allocs a
    ∃ t, Runs (.weirPeriod w) s t ∧ (t.weir w).period = (s.weir w).nextPeriod
      ∧ (Sparse.get Alloc.zero (t.weir w).allocs a).tokens = x.next
      ∧ (Sparse.get Alloc.zero (t.weir w).allocs a).usedLast = BitVec.ofNat 32 (max x.used x.usedOut)
      ∧ (Sparse.get Alloc.zero (t.weir w).allocs a).denied =
          (if x.demand = 0 ∧ x.demandOut = 0 ∧ x.waited = false then x.denied else satAdd x.denied 1)
      ∧ (w = 36 → (t.weir 36).capacity = s.dev.cap - 600)
      ∧ (24 ≤ w → ∀ v, v ≠ w → t.weir v = s.weir v) ∧ t.pool = s.pool ∧ t.prts = s.prts ∧ t.hdrs = s.hdrs

/-- R301, R303, R322, R398, R399, R400: a written 1 clears its ERR_STATUS bit, and VALID with the last one; on a part whose
DEBUG_DISABLED is burnt ERR_INJECT has no effect; a partition sets its own weir's budget within the limits of R303 for the
next period, and a value outside them only reports an error; RESET_REQ of the MGC restarts a block that no partition owns. -/
def Obligations.HeaderAndWeirRegisters : Prop :=
  ∀ (s : State) (via : Via) (page w : Nat) (value : Reg),
    (s.regAccess via page 0x018 = .serve → ∃ t, Runs (.errStatusClear via page value) s t
      ∧ t = s.updHdr page (fun h => { h with
          errStatus := h.errStatus &&& ~~~value
          errFirstValid := h.errFirstValid && decide (h.errStatus &&& ~~~value ≠ 0#32) }))
    ∧ (s.regAccess via page 0x030 = .serve →
      (s.fuses.debugDisabled = true → Runs (.errInject via page value) s s)
      ∧ (s.fuses.debugDisabled = false → s.dev.injectEnabled = true → bitAt value 8 = true → Runs (.errInject via page value) s
          ((s.updHdr page (fun h => { h with injectBit := bitsAt value 0 5 })).inject page (bitsAt value 0 5).toNat)))
    ∧ (s.weirAccess via w = .serve →
      let v := s.weir w
      let d := (s.partUnits (w - 40)).length
      let n := (bitsAt value 0 11).toNat
      (1 ≤ n → n ≤ 1024 → weirFits n v.nextAlloc d = true →
        Runs (.weirWrite via w true value) s (s.updWeir w (fun v => { v with nextPeriod := n })))
      ∧ (1 ≤ n → n ≤ 1024 → weirFits n v.nextAlloc d = false →
        Runs (.weirWrite via w true value) s (s.raiseErr (pageWei w) 0 0#32))
      ∧ (n = 0 ∨ 1024 < n → Runs (.weirWrite via w true value) s s)
      ∧ (v.sel.toNat < 8 → weirFits v.nextPeriod (fun b => if b = v.sel.toNat then value.toNat else v.nextAlloc b) d = true →
        Runs (.weirWrite via w false value) s (s.updWeir w (fun v => { v with
          allocs := Sparse.modify Alloc.zero v.allocs (s.weir w).sel.toNat (fun x => { x with next := value.toNat }) })))
      ∧ (v.sel.toNat < 8 → weirFits v.nextPeriod (fun b => if b = v.sel.toNat then value.toNat else v.nextAlloc b) d = false →
        Runs (.weirWrite via w false value) s (s.raiseErr (pageWei w) 0 0#32)))
    ∧ ((s.pageOwner page).isSome = false → (pageClass page).isSome = true → Runs (.resetReq .mgc page) s
        ((s.restartBlock page).updHdr page (fun h => { h with hung := false, escalation := if h.hung then 1#2 else h.escalation })))
    ∧ ((s.pageOwner page).isSome = true → Runs (.resetReq .mgc page) s s)

/-- R6, R7, R394, R396, R397: an aligned 32-bit write at a page's offset writes the register there as the command for it does:
a write that is not 4 bytes wide or not aligned does nothing; PF0 writes no register of a partition; a VF writes the
doorbells, the slots and the error status of its own partition through its BAR0 as their commands do. -/
def Obligations.RegisterWrites : Prop :=
  ∀ (s : State) (via : Via) (port : Bool) (p off size k : Nat) (value : Reg),
    ((size ≠ 4 ∨ off % 4 ≠ 0) → Runs (.registerWrite via off size value) s s)
    ∧ (p < 8 → k < 0x1000 → Runs (.registerWrite (.pf0 port) (4096 * pagePrt p + k) size value) s s)
    ∧ (p < 8 → ∀ n < 16, ∀ t, Machine.exec (.doorbellWrite (.vf port p true) p n value) s = .next t →
        Runs (.registerWrite (.vf port p true) (4096 * pagePrt p + 0x0A0 + 4 * n) 4 value) s t)
    ∧ (p < 8 → ∀ i < 4096, ∀ t, Machine.exec (.slotRelease (.vf port p true) p i value) s = .next t →
        Runs (.registerWrite (.vf port p true) (0x800000 + 32 * i + 28) 4 value) s t)
    ∧ (p < 8 → ∀ t, Machine.exec (.errStatusClear (.vf port p true) (pagePrt p) value) s = .next t →
        Runs (.registerWrite (.vf port p true) (4096 * pagePrt p + 0x018) 4 value) s t)

/-- R242, R243, R248, R251: a port that carries traffic delivers the payload of a flit that its association's peer protected
with the counter that comes next, on the channel of a partition whose context it names, with the sequence number expected; the
sequence number and the counter then move on. -/
def Obligations.FlitDelivery : Prop :=
  ∀ (s : State) (i : Nat) (h : FlitHdr) (payload : List Byte),
    let x := (s.lnk i).sa h.vc
    FlitHdr.inRange h → payload.length = 224 → (s.lnk i).carries = true → flitTypes.contains h.type = true →
    sequenced h.type = true → h.vc < 8 → h.seq = (s.lnk i).rxSeq → x.serves = true → h.saGen = x.gen.toNat →
    h.dstCtx = (s.prt h.vc).ctxId h.vc →
    s.receive i (protect x.recvKey x.recvSalt x.recvCount h payload) = .deliver h payload h.vc
      ((s.updSa i h.vc (fun x => { x with recvCount := x.recvCount + 1, gcmFails := 0, switched := true })).acceptSeq i h)

/-- R243, R245, R247, R249, R250, R252 to R261, R369: what each delivered flit does, by its type. R242, R243, R251: a flit
whose CRC fails is dropped with a NAK and nothing else; one of a TYPE that Table 11.5 does not list is dropped with PROTOCOL;
a port that carries no traffic receives nothing. -/
def Obligations.ReceivedFlits : Prop :=
  (∀ (s t : State) (i a q : Nat) (flit pl : List Byte) (h : FlitHdr) (b : Bool),
     s.receive i flit = .deliver h pl a t → (FlitHdr.ofBytes flit).type = h.type →
     (h.type = 0x01 → Runs (.keepalive i flit) s t)
     ∧ (h.type = 0x02 → Runs (.nak i flit) s (t.replay i))
     ∧ (h.type = 0x03 → a = 8 → fieldLe pl 0 1 ≤ 8 → Runs (.creditReq i flit) s
         ((t.updVc i (fieldLe pl 0 1) (fun c => { c with owed := 0 })).sendMgmt i 4
           (leBytes 1 (fieldLe pl 0 1) ++ leBytes 2 (fullCredits (fieldLe pl 0 1)))))
     ∧ (h.type = 0x04 → a = 8 → fieldLe pl 0 1 ≤ 8 → ((t.lnk i).vc (fieldLe pl 0 1)).waitReset = true →
         Runs (.creditReset i flit) s ((t.updVc i (fieldLe pl 0 1) (fun c => { c with
           credits := min (fieldLe pl 1 2) (fullCredits (fieldLe pl 0 1)), waitReset := false, requests := 0 })).drainPort i))
     ∧ (h.type = 0x08 → a = 8 → fieldLe pl 0 1 < 8 →
         (h.msg = 0 → Runs (.saSetup i flit b) s (t.receiveExchange i (fieldLe pl 0 1) (fieldLe pl 1 1) ((pl.drop 2).take 96)))
         ∧ (h.msg ≠ 0 → Runs (.saSetup i flit b) s (t.receiveReport i (fieldLe pl 0 1) (fieldLe pl 1 1) h b (pl.drop 2))))
     ∧ (h.type = 0x09 → a = 8 →
         let u := (List.range 8).foldl (fun u k => u.updSa i k (fun x =>
           if x.peerFrom = fieldLe pl 0 1 then { x with peerR := [], peerNonce := [], peerReport := [] } else x)) t
         ∀ k, (List.range 8).find? (fun k => decide (((u.lnk i).sa k).peerPart.toNat = fieldLe pl 0 1)
             && (((u.lnk i).sa k).serves || decide (((u.lnk i).sa k).state = .exchanging))) = some k →
           Runs (.saClose i flit) s (u.closeSa i k .exchanging true))
     ∧ (h.type = 0x17 → a < 8 → Runs (.digestFlit i flit) s (t.receiveDigest i a pl))
     ∧ (t.meshPeer i = some q → a < 8 →
         (h.type = 0x10 → Runs (.data i flit) s (t.receiveColl a q h pl))
         ∧ (h.type = 0x11 → Runs (.anchor i flit) s (t.receiveColl a q h pl))
         ∧ (h.type = 0x12 → Runs (.verdict i flit) s (t.receiveColl a q h pl))
         ∧ (h.type = 0x13 → Runs (.retract i flit) s (t.receiveColl a q h pl))
         ∧ (h.type = 0x14 → Runs (.resend i flit b) s (t.resendMsg a q h b))
         ∧ (h.type = 0x15 → Runs (.commit i flit) s (t.receiveCommit a q (fieldLe pl 0 8)))
         ∧ (h.type = 0x16 → Runs (.descCheck i flit) s (t.receiveColl a q h pl))
         ∧ (h.type = 0x18 → Runs (.belayFlit i flit) s (t.receiveBelay a q h pl))))
  ∧ (∀ (s : State) (i : Nat) (flit : List Byte),
       ((s.lnk i).carries = true → crcGood flit = false → Runs (.flitCrcOrGcmFail i flit) s (s.sendNak i))
       ∧ ((s.lnk i).carries = true → crcGood flit = true → flitTypes.contains (FlitHdr.ofBytes flit).type = false →
           Runs (.unlistedFlitType i flit) s (s.raiseErr (pageLnk i) 6 (BitVec.ofNat 32 (FlitHdr.ofBytes flit).seq)))
       ∧ ((s.lnk i).carries = false → Runs (.flitCrcOrGcmFail i flit) s s ∧ Runs (.unlistedFlitType i flit) s s))

/-- R237, R241, R245, R377: loss of light, a receive timeout, the loopback test, light at a LOST or DARK port and training move a port
along UP, LOST and TRAINING; management releases held links and lets L23 take over a port's role. R247, R249, R250, R361: the
commands of a security association by a writer that reaches it, and an unanswered CREDIT_REQ, sent again until the eighth and
then closing the association of its channel. -/
def Obligations.LinkEvents : Prop :=
  (∀ (s : State) (via : Via) (i : Nat) (r : Training), i < 24 →
     ((s.lnk i).carries = true → Runs (.receiveTimeout i) s (s.enterLost i)
       ∧ Runs (.linkLost i) s ((s.updLnk i (fun l => { l with light := false })).enterLost i)
       ∧ Runs (.keepaliveSend i) s (s.sendControl i 1))
     ∧ ((s.lnk i).state = .lost → (s.lnk i).loopback = true →
       let s1 := s.updLnk i (fun l => { l with loopback := false })
       let s2 := (s1.report (CperEvent.base 7#8 3#8 (pageLnk i))).makeSuspect (pageLnk i)
       Runs (.loopbackTest i true) s (if s1.mayTrain i then s1.startTraining i else s1)
       ∧ Runs (.loopbackTest i false) s (if s2.mayTrain i then s2.startTraining i else s2))
     ∧ ((s.lnk i).state = .lost → (s.lnk i).loopback = false →
       let s1 := s.updLnk i (fun l => { l with light := true })
       Runs (.lightReturns i) s (if s1.mayTrain i then s1.startTraining i else s1))
     ∧ ((s.lnk i).state = .dark → (s.lnk i).light = false → s.dev.state ≠ .boot → (i = 23 → (s.lnk 23).takeoverEn = true) →
       (i < 23 → s.dev.bootSel ≠ 2#2 ∨ s.dev.linksReleased = true) →
       let s1 := s.updLnk i (fun l => { l with light := true })
       Runs (.lightReturns i) s (if s1.mayTrain i then s1.startTraining i else s1))
     ∧ ((s.lnk i).state = .training → Runs (.linkTraining i r) s (s.finishTraining i r))
     ∧ (s.manages via = true → i < 23 → s.dev.state ≠ .boot →
         let named (t : State) : State := t.updLnk 23 (fun l => { l with takeover := BitVec.ofNat 5 i })
         ((s.lnk 23).takeoverEn = true → (s.lnk 23).takeover.toNat = i → Runs (.takeover via i true) s (named s))
         ∧ ((s.lnk 23).takeoverEn = true → (s.lnk 23).takeover.toNat ≠ i → Runs (.takeover via i true) s
             ((named (s.setTakeover (s.lnk 23).takeover.toNat false)).setTakeover i true))
         ∧ ((s.lnk 23).takeoverEn = false →
             let s1 := (((named s).updLnk i (fun l => { l with state := .dark })).dropPort i).msixPf0 5
             let s2 := (s1.updLnk 23 (fun l => { l with takeover := BitVec.ofNat 5 i, takeoverEn := true })).riskEvent 4 1
             Runs (.takeover via i true) s (if s2.mayTrain 23 then s2.startTraining 23 else s2))
         ∧ ((s.lnk 23).takeoverEn = true → (s.lnk 23).takeover.toNat = i →
             let s1 := (((s.updLnk 23 (fun l => { l with state := .dark })).dropPort 23).updLnk 23 (fun l =>
               { l with takeoverEn := false })).msixPf0 5
             Runs (.takeover via i false) s (if s1.mayTrain i then s1.startTraining i else s1))
         ∧ ((s.lnk 23).takeoverEn = false ∨ (s.lnk 23).takeover.toNat ≠ i → Runs (.takeover via i false) s s))
     ∧ (s.dev.bootSel = 2#2 → s.dev.linksReleased = false → s.dev.state ≠ .boot → Runs .trainLinks s
         ((List.range 23).foldl (fun t i => if (t.lnk i).state = .dark ∧ t.mayTrain i then t.startTraining i else t)
           (s.updDev (fun d => { d with linksReleased := true })))))
  ∧ (∀ (s : State) (via : Via) (i vc : Nat) (value : Reg),
       (s.saAccess via i = .serve → (s.lnk i).saSel.toNat < 8 →
         let u := s.writeSaCtrl i value
         let a := (u.lnk i).saSel.toNat
         Runs (.openSa via i value) s (u.openSa i value)
         ∧ (((u.lnk i).sa a).state = .open_ → a < 8 → Runs (.rekey via i value) s (u.beginExchange i a .rekeying))
         ∧ (((u.lnk i).sa a).state ≠ .open_ → Runs (.rekey via i value) s u)
         ∧ (a < 8 → Runs (.closeSa via i value) s (u.sendClose i a closeLocal true))
         ∧ (bitAt value 0 = true → Runs (.creditResetReq via i value) s
             (s.sendCreditReq i ((s.lnk i).sa (s.lnk i).saSel.toNat).peerPart.toNat (s.prt (s.lnk i).saSel.toNat).epoch))
         ∧ (bitAt value 0 = false → Runs (.creditResetReq via i value) s s))
       ∧ (s.saAccess via i = .serve → (s.lnk i).saSel.toNat = 8 → bitAt value 0 = true →
         Runs (.creditResetReq via i value) s (s.sendCreditReq i 8 0#8))
       ∧ (i < 24 → vc ≤ 8 → ((s.lnk i).vc vc).waitReset = true →
         (((s.lnk i).vc vc).requests < 8 →
           Runs (.creditReqTimeout i vc) s (s.sendCreditReq i vc ((s.lnk i).vc vc).epoch))
         ∧ (8 ≤ ((s.lnk i).vc vc).requests → ∀ a, (s.lnk i).saOnVc vc = some a → Runs (.creditReqTimeout i vc) s
           ((s.closeSa i a .exchanging true).updVc i vc (fun c =>
             { c with waitReset := false, credits := 0, requests := 0, waiting := [] })))))

/-- R350, R352, R353: an enabled watchdog with pending work reports its block HUNG, sets EXPIRED, and counts; a block already
hung escalates no further by itself. -/
def Obligations.Watchdogs : Prop :=
  ∀ (s : State) (page : Nat), hasWatchdog page = true → (s.hdr page).watchWindow ≠ 0#32 → s.pendingWork page = true →
    (s.hdr page).suspect = false → s.dev.state ≠ .boot →
    ((s.hdr page).hung = true → Runs (.watchdogExpiry page) s (s.reportHung page))
    ∧ ((s.hdr page).hung = false →
        Runs (.watchdogExpiry page) s ((s.reportHung page).escalate page (s.hdr page).escalation))
    ∧ ((s.reportHung page).hdr page).hung = true ∧ ((s.reportHung page).hdr page).expired = true

/-- R362, R363: a risk period turns each input's leaky count E into min(65535, E − ⌊E / 2^DECAY⌋ + n), and RISK into the sum
of the weighted counts over 64, at most 255; the events counted start again from none. At reset every E is 0. -/
def Obligations.RiskPeriods : Prop :=
  ∀ (s : State) (hottest : Nat), s.dev.state ≠ .boot →
    ∃ t, Runs (.riskPeriod hottest) s t ∧ t.hlt.events = []
      ∧ (∀ i < 8, Sparse.get 0 t.hlt.leaky i = min 65535 (Sparse.get 0 s.hlt.leaky i
          - Sparse.get 0 s.hlt.leaky i / 2 ^ s.hlt.shift + s.inputEvents hottest i))
      ∧ (∀ i, Sparse.get 0 State.reset.hlt.leaky i = 0)
      ∧ t.hlt.risk.toNat = min 255 (((List.range 8).map (fun i => s.hlt.weight i * Sparse.get 0 t.hlt.leaky i)).sum / 64)

/-- R338, R339, R344, R364, R326, R322: a patrol test of idle engines of one owner counts, and one that passes wipes their
banks and foot slots; a confirmed cause drains a READY device; a drain belay that is late ends; the entropy source's test sets
whether keys may be drawn; and debug access opens only on a part whose DEBUG_DISABLED is not burnt. -/
def Obligations.PatrolDrainDebug : Prop :=
  ∀ (s : State) (c0 c1 c2 e m p : Nat) (r : DrainRun) (o : OpRec) (third : PatrolRun),
    (s.dev.state ≠ .boot → s.dev.state ≠ .fault → s.hlt.patrolEn = true → c0 ≠ c1 → s.mayPatrol c0 e = true →
      s.mayPatrol c1 e = true → s.unitOwner (c1 / 32) = s.unitOwner (c0 / 32) →
      let wiped (t : State) : State := (((t.wipeEngine c0 e).wipeEngine c1 e).updHlt (fun h => { h with
        testCount := h.testCount + 1, nextPattern := if h.patternTurn then (h.patternAfter + 1) % 16 else h.nextPattern }))
      (s.unitOwner (c0 / 32) = none → Runs (.patrolTest c0 c1 c2 e true true third) s (wiped s))
      ∧ (∀ q, s.unitOwner (c0 / 32) = some q →
        Runs (.patrolTest c0 c1 c2 e true true third) s (wiped (s.takeTokens (40 + q) 4 2))))
    ∧ (s.hlt.drainDue = some m → s.hlt.drain = none → s.dev.state = .ready →
      Runs (.drain false) s ((s.updHlt (fun h => { h with drainDue := none })).startDrain m))
    ∧ (s.hlt.drainDue = none → s.hlt.drain = none → s.dev.state = .ready →
      Runs (.drain false) s s ∧ ∃ t, Runs (.drain true) s t ∧ t.dev.faultN = true
        ∧ (t.dev.state = .draining ∨ t.dev.state = .drained))
    ∧ (s.hlt.drain = some r → (s.prt p).drainBelay = some o →
      Runs (.drainBelayTimeout p) s ((s.endOp p o stDrained).continueDrain))
    ∧ (∀ passes, Runs (.entropyHealthTest passes) s (s.updSec (fun x => { x with entropyOk := passes })))
    ∧ (s.fuses.debugDisabled = true → Runs .debugAccess s s)
    ∧ (s.fuses.debugDisabled = false → Runs .debugAccess s
        (s.updDev (fun d => { d with jtagEnabled := true, injectEnabled := true, debugUsed := true })))

/-- After a command an operation of partition p still stands under its sequence number with its descriptor, and `x` holds of it. -/
def OperationIs (t : State) (p seq : Nat) (o : OpRec) (x : OpRec → Prop) : Prop :=
  ∃ r, (t.prt p).op seq = some r ∧ r.desc = o.desc ∧ x r

/-- R22, R23, R61, R67, R97, R106 to R123, R133, R148, R185, R255, R258, R261, R285, R364, R367, R371: every command of an
operation completes with its own effect where its conditions hold. A started operation whose tokens and inputs are ready does
its work in one command; the others of this statement name the step that their command is. -/
def Obligations.OperationsComplete : Prop :=
  (∀ (s : State) (p seq h tile : Nat) (o : OpRec), (s.prt p).op seq = some o →
     (s.startable p o = true → s.blocksTake p = true →
       ∃ t, Machine.exec (.operationStart p seq) s = .next t ∧ OperationIs t p seq o (fun r => r.phase = .started))
     ∧ (o.phase = .started → o.done = false → o.asks h tile = true → (h, tile) ∉ o.granted → (s.prt p).tokenFree o h tile = true →
       ∃ t, Machine.exec (.slotTokenGrant p seq h tile) s = .next t
         ∧ OperationIs t p seq o (fun r => r.granted = o.granted ++ [(h, tile)]))
     ∧ (o.done = true → Blocks.wf s = true → (dOp o.desc = 0x21 → s.endCommit p o ≠ none) →
       ∃ t, Machine.exec (.operationComplete p seq) s = .next t ∧ (t.prt p).op seq = none)
     ∧ (dOp o.desc = 0x41 → o.phase = .started → ((s.prt p).before o).any (fun a => a.names (dA o.desc)
           && !idleHandle a.desc (dA o.desc) && a.readsTag (dA o.desc) (dTag o.desc)) = false →
       ∃ t, Machine.exec (.versionRelease p seq) s = .next t ∧ OperationIs t p seq o (fun r => r.done = true ∧ r.status = stOK)))
  ∧ (∀ (s : State) (p seq : Nat) (o : OpRec) (halves : List (List Byte)) (newest : Bool),
     ∀ x ∈ ([(0x10, 0x00, .vecCopy p seq), (0x10, 0x01, .vecAdd p seq), (0x10, 0x02, .vecSub p seq), (0x10, 0x03, .vecMul p seq),
         (0x10, 0x04, .vecFma p seq), (0x10, 0x05, .vecMax p seq), (0x10, 0x06, .vecMin p seq), (0x10, 0x07, .vecAbs p seq),
         (0x10, 0x08, .vecScale2 p seq), (0x10, 0x09, .vecExp p seq []), (0x10, 0x0A, .vecLog p seq []),
         (0x10, 0x0B, .vecRsqrt p seq), (0x10, 0x0C, .vecSigmoid p seq []), (0x10, 0x0D, .vecTanh p seq []),
         (0x10, 0x10, .vecSoftmax p seq), (0x10, 0x11, .vecNorm p seq), (0x10, 0x12, .vecRowsum p seq), (0x10, 0x13, .vecRowmax p seq),
         (0x10, 0xF0, .vecProgram p seq), (0x11, dSub o.desc, .softmaxBwd p seq), (0x12, dSub o.desc, .normBwd p seq),
         (0x13, dSub o.desc, .reduce p seq), (0x14, 0, .histRead p seq), (0x14, 1, .readClear p seq), (0x14, 2, .histInit p seq),
         (0x15, 0, .rngFillBits p seq), (0x15, 1, .rngFillUniform p seq), (0x15, 2, .rngFillBernoulli p seq),
         (0x30, dSub o.desc, .move p seq), (0x31, dSub o.desc, .offload p seq), (0x32, dSub o.desc, .prefetch p seq),
         (0x42, 0, .digestTensor p seq), (0x50, 3, .restore p seq), (0x50, 4, .restorePeer p seq halves newest)]
         : List (Nat × Nat × Instr)), Ready s p seq x.1 x.2.1 o →
       ∃ t, Machine.exec x.2.2 s = .next t ∧ OperationIs t p seq o (fun r => r.done = true))
  ∧ (∀ (s : State) (p seq : Nat) (o : OpRec), s.arrayFree p seq = true →
     (Ready s p seq 0x01 (dSub o.desc) o → s.engaged p seq = false →
       ∃ t, Machine.exec (.matmul p seq) s = .next t ∧ OperationIs t p seq o (fun r => r.done = true))
     ∧ (Ready s p seq 0x02 0 o →
       ∃ t, Machine.exec (.anchorScanWrite p seq) s = .next t ∧ OperationIs t p seq o (fun r => r.done = true))
     ∧ (Ready s p seq 0x02 1 o →
       ∃ t, Machine.exec (.anchorScanMax p seq) s = .next t ∧ OperationIs t p seq o (fun r => r.done = true)))
  ∧ (∀ (s : State) (p seq core variant : Nat) (o : OpRec),
     (s.prt p).op seq = some o → isArray o.desc = true → (s.prt p).mayRun o = true → (s.prt p).readsVoid o = false →
     let g := (s.gemm p o).1
     let u := (s.gemm p o).2
     (o.adapters.contains variant = false → dVar o.desc ≠ 0 → (o.namedVariants g).contains variant = true →
       u.arrayFree p seq = true → ∃ t, Machine.exec (.adapterPass p seq variant) s = .next t ∧ OperationIs t p seq o (fun r =>
         r.adapters = o.adapters ++ [variant] ∨ r.done = true ∧ r.status = stBadHandle))
     ∧ ((dOp o.desc = 2 ∨ dMode o.desc = 0) → o.passesDone g = true → o.anchor = none → (u.partCores p).contains core = true →
       o.scans.any (fun x => x.1 = core) = false →
       ∃ t, Machine.exec (.anchorScanPhase p seq core) s = .next t ∧ OperationIs t p seq o (fun r =>
         (∃ v, r.scans = o.scans ++ [(core, v)]) ∨ r.done = true ∧ r.status = stBadHandle))
     ∧ (o.passesDone g = true → o.anchor = none →
       ((dOp o.desc = 2 ∨ dMode o.desc = 0) → (u.partCores p).all (fun c => o.scans.any (fun x => x.1 = c)) = true) →
       ∃ t, Machine.exec (.anchorAgree p seq) s = .next t ∧ OperationIs t p seq o (fun r =>
         r.anchor.isSome = true ∨ r.done = true ∧ r.status = stPoisoned)))
  ∧ (∀ (s u : State) (p seq core block group load : Nat) (team : List Nat) (w : Work2),
     s.workOf p seq = some (w, u) → team ≠ [] → team.Nodup →
     (∀ i < team.length, u.mayLoad p w core (team.getD i 0) (group + i) block load = true
       ∧ (eDim w.g.we 2 * eDim w.g.we 3 = 1 ∨ (group + i) / w.x.groups = group / w.x.groups)) →
     ∃ t, Machine.exec (.stationaryLoad p seq core team block group load) s = .next t
       ∧ ∀ e ∈ team, (t.eng core e).shadowFull = true)
  ∧ (∀ (s u : State) (core e k n row col : Nat) (w : Work2) (j : Job) (A : Int) (act : Act) (c : Chain),
     s.jobWork core e = some (j, w, u) →
     let v := s.eng core e
     let top := decide (k % chainLen w.x.wide = 0)
     let bottom := decide (k % chainLen w.x.wide + 1 = chainLen w.x.wide)
     let out := (cellChain (loadMode w.x w.g w.vs j.k0) (decide (w.x.mode = .lg4)) A act
       (Sparse.get Weight.zero v.active (64 * k + n)) c 0).1
     (v.shadowFull = true → v.next = none →
       (v.state = 2#4 ∧ s.arrayFree j.part j.seq = true ∨ v.state = 3#4 ∧ j.added = w.expected j) → w.o.anchor.isSome = true →
       ∃ t, Machine.exec (.swap core e) s = .next t ∧ (t.eng core e).bankSel = !v.bankSel ∧ (t.eng core e).state = 3#4
         ∧ (t.eng core e).shadowFull = false)
     ∧ (v.anchor = some A → v.state = 3#4 → k < 64 → n < 64 → act.row = row →
       (n = 0 → ∃ place, (w.o.loadRows w.x w.g w.vs j.group j.k0)[Sparse.get 0 v.fed k]? = some (place, row)
         ∧ act = w.feed core j.k0 k place row) →
       (n ≠ 0 → Sparse.get none v.acts (64 * k + n) = some act) →
       (n ≠ 63 → Sparse.get none v.acts (64 * k + n + 1) = none) →
       (footColumn w.x.mode w.x.wide k n = none → ∃ t, Machine.exec (.cellStep core e k n row 0) s = .next t
         ∧ (n ≠ 63 → Sparse.get none (t.eng core e).acts (64 * k + n + 1) = some act))
       ∧ (footColumn w.x.mode w.x.wide k n = some col →
         (top = true → c = ⟨row, 0, 0, 0#16⟩) → (top = false → Sparse.get none v.chains (64 * k + n) = some c ∧ c.row = row) →
         (bottom = true → Sparse.get none v.feet col = none) →
         (bottom = false → Sparse.get none v.chains (64 * (k + 1) + n) = none) →
         ∃ t, Machine.exec (.cellStep core e k n row 0) s = .next t
           ∧ (bottom = true → Sparse.get none (t.eng core e).feet col = some out)
           ∧ (bottom = false → Sparse.get none (t.eng core e).chains (64 * (k + 1) + n) = some out)))
     ∧ (Sparse.get none v.feet col = some c → syndrome c.value c.residue = 0 →
       ∃ t, Machine.exec (.footAddition core e col 0) s = .next t ∧ (t.eng core e).job = some { j with added := j.added + 1 })
     ∧ (w.pitchDone v j = true → v.foot.find? (fun (x : Nat × Slot) => syndrome x.2.value x.2.residue ≠ 0) = none →
       ∃ t, Machine.exec (.writeBack core e 0 0) s = .next t ∧ OperationIs t j.part j.seq w.o (fun r =>
         r.pitches = w.o.pitches ++ [w.x.pitchId j.group j.block (w.x.spanOf j.k0)]))
     ∧ (v.state = 5#4 → ∀ other, ∃ t, Machine.exec (.pitchRetry core e true other) s = .next t
       ∧ (t.eng core e).state = 3#4 ∧ (t.eng core e).retried = true ∧ (t.eng core e).fails = []))
  ∧ (∀ (s u : State) (p seq core tile : Nat) (w : Work2) (x : Partial),
     s.workOf p seq = some (w, u) →
     (u.partialAt p seq core tile = some x → core ≠ mergedMark →
       x.tr.len = ((u.tilePitches p w tile).filter (fun c => c.core = core)).length →
       x.slots.any (fun (y : Nat × Slot) => syndrome y.2.value y.2.residue ≠ 0) = false →
       ∃ t y, Machine.exec (.confluenceMerge p seq core tile 0 0) s = .next t ∧ t.partialAt p seq core tile = none
         ∧ t.partialAt p seq mergedMark tile = some y
         ∧ y.tr.len = (match u.partialAt p seq mergedMark tile with | some z => z.tr.len | none => 0) + x.tr.len)
     ∧ (w.o.anchor.isSome = true → tile < eTiles (w.o.ent (dC w.o.desc)) → w.o.tilesDone.contains tile = false →
       ((blockTiles (w.o.ent (dC w.o.desc)) tile).filter (fun i => !w.o.tilesDone.contains i)).all (u.tileComplete p w) = true →
       ∃ t, Machine.exec (.outputConversion p seq tile 0) s = .next t
         ∧ OperationIs t p seq w.o (fun r => r.tilesDone.contains tile = true)))
  ∧ (∀ (s : State) (p seq : Nat) (o : OpRec) (fails : List (Nat × Bool)),
     (∀ x ∈ ([(0, .allReduce p ⟨seq, fails⟩), (1, .reduceScatter p ⟨seq, fails⟩), (2, .allGather p seq), (3, .broadcast p seq)]
         : List (Nat × Instr)), Ready s p seq 0x20 x.1 o → s.numbered o = true → (s.prt p).earlyColl = [] →
       o.coll.sentCheck = true → (s.peersOf o.desc).all o.coll.checked.contains = true → o.coll.stagePages ≠ 0 →
       (x.1 < 2 → o.coll.sentAnchors = true) → o.coll.sentData = true → o.coll.prov = [] → s.allIn o = true →
       ∃ t, Machine.exec x.2 s = .next t ∧ OperationIs t p seq o (fun r => r.coll.stageReady = true))
     ∧ ((s.prt p).op seq = some o → dOp o.desc = 0x20 → o.done = false → o.coll.stageReady = true →
       ∃ t, Machine.exec (.stagingCopy p seq) s = .next t ∧ OperationIs t p seq o (fun r => r.done = true))
     ∧ (Ready s p seq 0x21 (dSub o.desc) o → s.numbered o = true →
       ((s.prt p).restoreState ≠ 1#3 ∨ (s.prt p).restoreStep ≠ dStep o.desc) →
       (s.prt p).ops.any (fun a => decide (a.seq < o.seq ∧ dOp a.desc = 0x20 ∧ dStep a.desc = dStep o.desc)) = false →
       (∀ c ∈ (s.prt p).collEnds, c.1 < o.seq → c.2.1 = dStep o.desc → c.2.2 = stOK ∨ c.2.2 = stFlagged) →
       (s.peersOf o.desc).all o.coll.commits.contains = true →
       ∃ t, Machine.exec (.stepCommit p seq) s = .next t ∧ OperationIs t p seq o (fun r => r.done = true ∧ r.status = stOK))
     ∧ (Ready s p seq 0x42 1 o → o.coll.sentData = true →
       ((s.prt p).before o).any (fun a => decide (dOp a.desc = 0x40 ∧ dStep a.desc = dStep o.desc)) = false →
       (∀ i ∈ o.coll.checked, s.peerDigest p i (dStep o.desc) = some o.digestW) →
       ∃ t, Machine.exec (.digestReplica p seq) s = .next t ∧ OperationIs t p seq o (fun r => r.done = true)))
  ∧ (∀ (s : State) (p seq chunk die : Nat) (o : OpRec) (again : Bool),
     (s.prt p).op seq = some o → dOp o.desc = 0x40 → (s.prt p).tokensReady o = true → (s.prt p).commitStatus o = none →
     o.linesIn = true → (s.prt p).readsVoid o = false → eFrozen (o.ent (dA o.desc)) = false →
     let wrote (t : State) (j : Nat) : Prop := OperationIs t p seq o (fun r => r.chunks.contains j = true ∨ r.done = true)
     let seen := (((s.countCe (pageUpd die) true).raiseErr (pageUpd die) 0 0#32).report
       { CperEvent.base 6#8 1#8 (pageUpd die) with jseq := seq, fatal := false }).holdChunk die seq chunk 5#4
     (s.chunkOpen p o chunk = true → (s.ruleChunk p o chunk).out.running = false →
       (∃ t, Machine.exec (.updateChunk p seq chunk) s = .next t ∧ wrote t chunk)
       ∧ (chunk = 0 → dSub o.desc = 0 → ∃ t, Machine.exec (.updateElement p seq) s = .next t ∧ wrote t 0)
       ∧ (chunk = 0 → dSub o.desc = 1 → ∃ t, Machine.exec (.updatePrecond p seq) s = .next t ∧ wrote t 0))
     ∧ (s.unitOwner die = some p → s.chunkOn p die = some (seq, chunk) → (s.hdr (pageUpd die)).suspect = false →
       (again = false → seen.chunkOpen p o chunk = true → (seen.ruleChunk p o chunk).out.running = false →
         ∃ t, Machine.exec (.chunkRerun die again) s = .next t ∧ wrote t chunk)
       ∧ (again = true → ∃ t, Machine.exec (.chunkRerun die again) s = .next t ∧ (t.hdr (pageUpd die)).suspect = true)))
  ∧ (∀ (s : State) (p seq : Nat) (o : OpRec) (b : BelayRun), (s.prt p).op seq = some o → o.done = false →
     (o.belay = some b → dOp o.desc = 0x50 → b.copied = false → (s.prt p).tokensReady o = true → o.linesIn = true →
       ∀ x ∈ ([(0, .belayLocal p seq), (1, .belayPeer p seq), (2, .belayHost p seq)] : List (Nat × Instr)), dSub o.desc = x.1 →
       ∃ t, Machine.exec x.2 s = .next t
         ∧ OperationIs t p seq o (fun r => (∃ c, r.belay = some c ∧ c.copied = true) ∨ r.done = true))
     ∧ (o.belay = some b → b.copied = true → (s.prt p).sealStatus o b ≠ none →
       ∃ t, Machine.exec (.belaySeal p seq) s = .next t ∧ OperationIs t p seq o (fun r => r.done = true))
     ∧ ((s.prt p).riskDue = true → Blocks.wf s = true → ∃ t, Machine.exec (.riskBelayInsert p) s = .next t
         ∧ (t.prt p).riskDue = false ∧ (t.prt p).ops.length = (s.prt p).ops.length + 1)
     ∧ (Ready s p seq 0x60 0 o → ((s.prt p).before o).any (fun a => inFence o a) = false →
       ∃ t, Machine.exec (.fenceQueue p seq) s = .next t ∧ OperationIs t p seq o (fun r => r.done = true ∧ r.status = stOK))
     ∧ (Ready s p seq 0x60 1 o → (s.prt p).before o = [] →
       ∃ t, Machine.exec (.fencePartition p seq) s = .next t ∧ OperationIs t p seq o (fun r => r.done = true ∧ r.status = stOK)))
end

