-- ==== Sys2Proof/Laws/Bytes.lean ====
section
/-! SUPPORT. Little-endian fields: the bytes of a field give back its value, wherever they stand. -/

namespace Sys2Proof.Machine

/-- n bytes are n bytes. -/
@[simp] theorem leBytes_length (n v : Nat) : (leBytes n v).length = n := by
  induction n generalizing v <;> simp [leBytes, *]

/-- The value of n bytes of v is v modulo 256^n. -/
theorem leVal_leBytes (n v : Nat) : leVal (leBytes n v) = v % 256 ^ n := by
  induction n generalizing v with
  | zero => simp [leBytes, leVal, Nat.mod_one]
  | succ n ih =>
    simp only [leBytes, leVal, ih, BitVec.toNat_ofNat]
    rw [show (2 : Nat) ^ 8 = 256 from rfl, pow_succ, Nat.mul_comm (256 ^ n) 256, Nat.mod_mul]

/-- The slice where a part stands is that part. -/
theorem sliceBytes_mid (a b c : List Byte) (off n : Nat) (h1 : a.length = off) (h2 : b.length = n) :
    sliceBytes (a ++ b ++ c) off n = b := by
  subst h1 h2
  simp [sliceBytes, zeros]

/-- A field that fits its bytes reads back, wherever it stands. -/
theorem fieldLe_mid (a c : List Byte) (off n v : Nat) (h1 : a.length = off) (hv : v < 256 ^ n) :
    Machine.fieldLe (a ++ leBytes n v ++ c) off n = v := by
  rw [Machine.fieldLe, sliceBytes_mid _ _ _ _ _ h1 (leBytes_length _ _), leVal_leBytes, Nat.mod_eq_of_lt hv]

end Sys2Proof.Machine
end

