-- ==== Sys2Proof/Laws/Sparse.lean ====
section
/-! SUPPORT. Sparse maps: a read after a write, and that every write keeps the canonical form. -/

namespace Sys2Proof.Machine

@[simp] theorem Sparse.get_nil {α : Type} (d : α) (k : Nat) : Sparse.get d [] k = d := rfl

variable {α : Type} [DecidableEq α]

/-- In a canonical map whose keys lie above `k`, key `k` reads as the default. -/
theorem Sparse.get_of_wfAbove (d : α) (m : Sparse α) (b k : Nat) (h : Sparse.wfAbove d (some b) m = true) (hk : k ≤ b) :
    Sparse.get d m k = d := by
  induction m generalizing b with
  | nil => rfl
  | cons e m ih =>
    obtain ⟨j, a⟩ := e
    simp only [Sparse.wfAbove, Bool.and_eq_true, decide_eq_true_eq] at h
    have : j ≠ k := by omega
    simp only [Sparse.get, if_neg this]
    exact ih j h.2 (by omega)

/-- A canonical map above a bound is canonical above every lower bound. -/
theorem Sparse.wfAbove_mono (d : α) (m : Sparse α) (b c : Nat) (h : Sparse.wfAbove d (some b) m = true) (hc : c ≤ b) :
    Sparse.wfAbove d (some c) m = true := by
  cases m with
  | nil => rfl
  | cons e m =>
    obtain ⟨j, a⟩ := e
    simp only [Sparse.wfAbove, Bool.and_eq_true, decide_eq_true_eq] at h ⊢
    exact ⟨⟨by omega, h.1.2⟩, h.2⟩

/-- A canonical map above a bound is canonical. -/
theorem Sparse.wfAbove_none (d : α) (m : Sparse α) (b : Nat) (h : Sparse.wfAbove d (some b) m = true) :
    Sparse.wfAbove d none m = true := by
  cases m with
  | nil => rfl
  | cons e m =>
    obtain ⟨j, a⟩ := e
    simp only [Sparse.wfAbove, Bool.and_eq_true, decide_eq_true_eq, Bool.true_and] at h ⊢
    exact ⟨h.1.2, h.2⟩

/-- A write above a bound keeps the canonical form above it. -/
theorem Sparse.wfAbove_set (d : α) (m : Sparse α) (b k : Nat) (v : α) (h : Sparse.wfAbove d (some b) m = true) (hk : b < k) :
    Sparse.wfAbove d (some b) (Sparse.set d m k v) = true := by
  induction m generalizing b with
  | nil =>
    simp only [Sparse.set]
    split
    · rfl
    · simp [Sparse.wfAbove, *]
  | cons e m ih =>
    obtain ⟨j, a⟩ := e
    have h0 := h
    simp only [Sparse.wfAbove, Bool.and_eq_true, decide_eq_true_eq] at h
    simp only [Sparse.set]
    split
    · split
      · exact h0
      · simp only [Sparse.wfAbove, Bool.and_eq_true, decide_eq_true_eq]
        exact ⟨⟨hk, by assumption⟩, ⟨⟨by assumption, h.1.2⟩, h.2⟩⟩
    · split
      · split
        · exact Sparse.wfAbove_mono d m j b h.2 (by omega)
        · simp only [Sparse.wfAbove, Bool.and_eq_true, decide_eq_true_eq]
          subst_vars
          exact ⟨⟨h.1.1, by assumption⟩, h.2⟩
      · simp only [Sparse.wfAbove, Bool.and_eq_true, decide_eq_true_eq]
        exact ⟨h.1, ih j h.2 (by omega)⟩

/-- A write keeps the canonical form. -/
theorem Sparse.wf_set (d : α) (m : Sparse α) (k : Nat) (v : α) (h : Sparse.wf d m = true) :
    Sparse.wf d (Sparse.set d m k v) = true := by
  cases m with
  | nil =>
    simp only [Sparse.set]
    split <;> simp [Sparse.wf, Sparse.wfAbove, *]
  | cons e m =>
    obtain ⟨j, a⟩ := e
    have h0 := h
    simp only [Sparse.wf, Sparse.wfAbove, Bool.and_eq_true, decide_eq_true_eq, Bool.true_and] at h
    simp only [Sparse.set]
    split
    · split
      · exact h0
      · simp only [Sparse.wf, Sparse.wfAbove, Bool.and_eq_true, decide_eq_true_eq, Bool.true_and]
        exact ⟨by assumption, ⟨by assumption, h.1⟩, h.2⟩
    · split
      · split
        · exact Sparse.wfAbove_none d m j h.2
        · simp only [Sparse.wf, Sparse.wfAbove, Bool.and_eq_true, decide_eq_true_eq, Bool.true_and]
          subst_vars
          exact ⟨by assumption, h.2⟩
      · simp only [Sparse.wf, Sparse.wfAbove, Bool.and_eq_true, decide_eq_true_eq, Bool.true_and]
        exact ⟨h.1, Sparse.wfAbove_set d m j k v h.2 (by omega)⟩

/-- An update keeps the canonical form. -/
theorem Sparse.wf_modify (d : α) (m : Sparse α) (k : Nat) (f : α → α) (h : Sparse.wf d m = true) :
    Sparse.wf d (Sparse.modify d m k f) = true := Sparse.wf_set d m k _ h

/-- A run of writes keeps the canonical form. -/
theorem Sparse.wf_setMany (d : α) (m : Sparse α) (k : Nat) (vs : List α) (h : Sparse.wf d m = true) :
    Sparse.wf d (Sparse.setMany d m k vs) = true := by
  induction vs generalizing m k with
  | nil => exact h
  | cons v vs ih => exact ih _ _ (Sparse.wf_set d m k v h)

/-- Dropping keys keeps the canonical form above a bound. -/
theorem Sparse.wfAbove_dropKeys (d : α) (m : Sparse α) (f : Nat → Bool) (b : Nat) (h : Sparse.wfAbove d (some b) m = true) :
    Sparse.wfAbove d (some b) (Sparse.dropKeys m f) = true := by
  induction m generalizing b with
  | nil => rfl
  | cons e m ih =>
    obtain ⟨j, a⟩ := e
    simp only [Sparse.wfAbove, Bool.and_eq_true, decide_eq_true_eq] at h
    simp only [Sparse.dropKeys, List.filter]
    split
    · simp only [Sparse.wfAbove, Bool.and_eq_true, decide_eq_true_eq]
      exact ⟨h.1, ih j h.2⟩
    · exact Sparse.wfAbove_mono d _ j b (ih j h.2) (by omega)

/-- Dropping keys keeps the canonical form. -/
theorem Sparse.wf_dropKeys (d : α) (m : Sparse α) (f : Nat → Bool) (h : Sparse.wf d m = true) :
    Sparse.wf d (Sparse.dropKeys m f) = true := by
  cases m with
  | nil => rfl
  | cons e m =>
    obtain ⟨j, a⟩ := e
    simp only [Sparse.wf, Sparse.wfAbove, Bool.and_eq_true, decide_eq_true_eq, Bool.true_and] at h
    simp only [Sparse.wf, Sparse.dropKeys, List.filter]
    split
    · simp only [Sparse.wfAbove, Bool.and_eq_true, decide_eq_true_eq, Bool.true_and]
      exact ⟨h.1, Sparse.wfAbove_dropKeys d m f j h.2⟩
    · exact Sparse.wfAbove_none d _ j (Sparse.wfAbove_dropKeys d m f j h.2)

/-- A read of the key that was written, in a canonical map above a bound. -/
theorem Sparse.get_set_same_above (d : α) (m : Sparse α) (b k : Nat) (v : α) (h : Sparse.wfAbove d (some b) m = true) :
    Sparse.get d (Sparse.set d m k v) k = v := by
  induction m generalizing b with
  | nil =>
    simp only [Sparse.set]
    split
    · simp [Sparse.get, *]
    · simp [Sparse.get]
  | cons e m ih =>
    obtain ⟨j, a⟩ := e
    simp only [Sparse.wfAbove, Bool.and_eq_true, decide_eq_true_eq] at h
    simp only [Sparse.set]
    split
    · rename_i hlt
      split
      · rename_i hv
        have : j ≠ k := by omega
        simp only [Sparse.get, if_neg this]
        rw [Sparse.get_of_wfAbove d m j k h.2 (by omega), hv]
      · simp [Sparse.get]
    · split
      · rename_i hkj
        split
        · rename_i hv
          rw [Sparse.get_of_wfAbove d m j k h.2 (by omega), hv]
        · simp [Sparse.get]
      · rename_i hne
        have : j ≠ k := fun e => hne e.symm
        simp only [Sparse.get, if_neg this]
        exact ih j h.2

/-- READ AFTER WRITE: the key that was written reads as the value written, in a canonical map. -/
theorem Sparse.get_set_same (d : α) (m : Sparse α) (k : Nat) (v : α) (h : Sparse.wf d m = true) :
    Sparse.get d (Sparse.set d m k v) k = v := by
  cases m with
  | nil => simp only [Sparse.set]; split <;> simp [Sparse.get, *]
  | cons e m =>
    obtain ⟨j, a⟩ := e
    simp only [Sparse.wf, Sparse.wfAbove, Bool.and_eq_true, decide_eq_true_eq, Bool.true_and] at h
    simp only [Sparse.set]
    split
    · split
      · rename_i hv
        have : j ≠ k := by omega
        simp only [Sparse.get, if_neg this]
        rw [Sparse.get_of_wfAbove d m j k h.2 (by omega), hv]
      · simp [Sparse.get]
    · split
      · split
        · rename_i hv
          rw [Sparse.get_of_wfAbove d m j k h.2 (by omega), hv]
        · simp [Sparse.get]
      · rename_i hne
        have : j ≠ k := fun e => hne e.symm
        simp only [Sparse.get, if_neg this]
        exact Sparse.get_set_same_above d m j k v h.2

/-- A write leaves every other key alone; this holds of every map. -/
@[simp] theorem Sparse.get_set_ne (d : α) (m : Sparse α) (k i : Nat) (v : α) (h : i ≠ k) :
    Sparse.get d (Sparse.set d m k v) i = Sparse.get d m i := by
  have hk : k ≠ i := fun e => h e.symm
  induction m with
  | nil => simp only [Sparse.set]; split <;> simp [Sparse.get, hk]
  | cons e m ih =>
    obtain ⟨j, a⟩ := e
    simp only [Sparse.set]
    split
    · split <;> simp [Sparse.get, hk]
    · split
      · subst_vars
        split <;> simp [Sparse.get, hk]
      · simp only [Sparse.get, ih]

/-- An update leaves every other key alone. -/
@[simp] theorem Sparse.get_modify_ne (d : α) (m : Sparse α) (k i : Nat) (f : α → α) (h : i ≠ k) :
    Sparse.get d (Sparse.modify d m k f) i = Sparse.get d m i := Sparse.get_set_ne d m k i _ h

/-- A read of the key that was updated, in a canonical map. -/
theorem Sparse.get_modify_same (d : α) (m : Sparse α) (k : Nat) (f : α → α) (h : Sparse.wf d m = true) :
    Sparse.get d (Sparse.modify d m k f) k = f (Sparse.get d m k) := Sparse.get_set_same d m k _ h

/-- Raising one entry to at least x lowers no entry; this holds of every map. -/
theorem Sparse.get_le_modify (m : Sparse Nat) (k i x : Nat) :
    Sparse.get 0 m i ≤ Sparse.get 0 (Sparse.modify 0 m k (fun n => max n x)) i := by
  by_cases hi : i = k
  · subst hi
    show _ ≤ Sparse.get 0 (Sparse.set 0 m i (max (Sparse.get 0 m i) x)) i
    generalize hv : max (Sparse.get 0 m i) x = v
    have hle : Sparse.get 0 m i ≤ v := by omega
    clear hv
    induction m with
    | nil => simp [Sparse.get] 
    | cons e m ih =>
      obtain ⟨j, a⟩ := e
      simp only [Sparse.get] at hle
      simp only [Sparse.set]
      split
      · rename_i hlt
        have hj : j ≠ i := by omega
        rw [if_neg hj] at hle
        split
        · simp [Sparse.get, hj]
        · simp [Sparse.get, hj, hle]
      · split
        · rename_i _ hij
          rw [if_pos hij.symm] at hle
          split
          · simp only [Sparse.get, if_pos hij.symm]; omega
          · simp [Sparse.get, hij, hle]
        · rename_i hne hij
          have hj : j ≠ i := fun e => hij e.symm
          rw [if_neg hj] at hle
          simp only [Sparse.get, if_neg hj]
          exact ih hle
  · rw [Sparse.get_modify_ne _ _ _ _ _ hi]

end Sys2Proof.Machine
end

