-- ==== Sys2Proof/Laws/State.lean ====
section
/-! SUPPORT. One lemma per field per update of the state: what an update leaves alone, and the field it changes. -/

namespace Sys2Proof.Machine

variable (s : State)

/-! ### setPrt changes `prts` -/

@[simp] theorem State.setPrt_dev (p : Nat) (v : Prt) : (s.setPrt p v).dev = s.dev := rfl
@[simp] theorem State.setPrt_fuses (p : Nat) (v : Prt) : (s.setPrt p v).fuses = s.fuses := rfl
@[simp] theorem State.setPrt_sec (p : Nat) (v : Prt) : (s.setPrt p v).sec = s.sec := rfl
@[simp] theorem State.setPrt_mgc (p : Nat) (v : Prt) : (s.setPrt p v).mgc = s.mgc := rfl
@[simp] theorem State.setPrt_hlt (p : Nat) (v : Prt) : (s.setPrt p v).hlt = s.hlt := rfl
@[simp] theorem State.setPrt_hdrs (p : Nat) (v : Prt) : (s.setPrt p v).hdrs = s.hdrs := rfl
@[simp] theorem State.setPrt_hsts (p : Nat) (v : Prt) : (s.setPrt p v).hsts = s.hsts := rfl
@[simp] theorem State.setPrt_lnks (p : Nat) (v : Prt) : (s.setPrt p v).lnks = s.lnks := rfl
@[simp] theorem State.setPrt_bass (p : Nat) (v : Prt) : (s.setPrt p v).bass = s.bass := rfl
@[simp] theorem State.setPrt_mces (p : Nat) (v : Prt) : (s.setPrt p v).mces = s.mces := rfl
@[simp] theorem State.setPrt_upds (p : Nat) (v : Prt) : (s.setPrt p v).upds = s.upds := rfl
@[simp] theorem State.setPrt_weirs (p : Nat) (v : Prt) : (s.setPrt p v).weirs = s.weirs := rfl
@[simp] theorem State.setPrt_temps (p : Nat) (v : Prt) : (s.setPrt p v).temps = s.temps := rfl
@[simp] theorem State.setPrt_droops (p : Nat) (v : Prt) : (s.setPrt p v).droops = s.droops := rfl
@[simp] theorem State.setPrt_poolState (p : Nat) (v : Prt) : (s.setPrt p v).poolState = s.poolState := rfl
@[simp] theorem State.setPrt_poolPasses (p : Nat) (v : Prt) : (s.setPrt p v).poolPasses = s.poolPasses := rfl
@[simp] theorem State.setPrt_vecState (p : Nat) (v : Prt) : (s.setPrt p v).vecState = s.vecState := rfl
@[simp] theorem State.setPrt_vecFails (p : Nat) (v : Prt) : (s.setPrt p v).vecFails = s.vecFails := rfl
@[simp] theorem State.setPrt_grantWaits (p : Nat) (v : Prt) : (s.setPrt p v).grantWaits = s.grantWaits := rfl
@[simp] theorem State.setPrt_engs (p : Nat) (v : Prt) : (s.setPrt p v).engs = s.engs := rfl
@[simp] theorem State.setPrt_partials (p : Nat) (v : Prt) : (s.setPrt p v).partials = s.partials := rfl
@[simp] theorem State.setPrt_pool (p : Nat) (v : Prt) : (s.setPrt p v).pool = s.pool := rfl
@[simp] theorem State.setPrt_poolBad (p : Nat) (v : Prt) : (s.setPrt p v).poolBad = s.poolBad := rfl
@[simp] theorem State.setPrt_spd (p : Nat) (v : Prt) : (s.setPrt p v).spd = s.spd := rfl
@[simp] theorem State.setPrt_spdBad (p : Nat) (v : Prt) : (s.setPrt p v).spdBad = s.spdBad := rfl
@[simp] theorem State.setPrt_spdDir (p : Nat) (v : Prt) : (s.setPrt p v).spdDir = s.spdDir := rfl
@[simp] theorem State.setPrt_spdDirBad (p : Nat) (v : Prt) : (s.setPrt p v).spdDirBad = s.spdDirBad := rfl
@[simp] theorem State.setPrt_basin (p : Nat) (v : Prt) : (s.setPrt p v).basin = s.basin := rfl
@[simp] theorem State.setPrt_out (p : Nat) (v : Prt) : (s.setPrt p v).out = s.out := rfl
@[simp] theorem State.setPrt_mctpNegotiated (p : Nat) (v : Prt) : (s.setPrt p v).mctpNegotiated = s.mctpNegotiated := rfl
@[simp] theorem State.setPrt_draws (p : Nat) (v : Prt) : (s.setPrt p v).draws = s.draws := rfl
@[simp] theorem State.setPrt_pending (p : Nat) (v : Prt) : (s.setPrt p v).pending = s.pending := rfl

/-! ### updPrt changes `prts` -/

@[simp] theorem State.updPrt_dev (p : Nat) (f : Prt → Prt) : (s.updPrt p f).dev = s.dev := rfl
@[simp] theorem State.updPrt_fuses (p : Nat) (f : Prt → Prt) : (s.updPrt p f).fuses = s.fuses := rfl
@[simp] theorem State.updPrt_sec (p : Nat) (f : Prt → Prt) : (s.updPrt p f).sec = s.sec := rfl
@[simp] theorem State.updPrt_mgc (p : Nat) (f : Prt → Prt) : (s.updPrt p f).mgc = s.mgc := rfl
@[simp] theorem State.updPrt_hlt (p : Nat) (f : Prt → Prt) : (s.updPrt p f).hlt = s.hlt := rfl
@[simp] theorem State.updPrt_hdrs (p : Nat) (f : Prt → Prt) : (s.updPrt p f).hdrs = s.hdrs := rfl
@[simp] theorem State.updPrt_hsts (p : Nat) (f : Prt → Prt) : (s.updPrt p f).hsts = s.hsts := rfl
@[simp] theorem State.updPrt_lnks (p : Nat) (f : Prt → Prt) : (s.updPrt p f).lnks = s.lnks := rfl
@[simp] theorem State.updPrt_bass (p : Nat) (f : Prt → Prt) : (s.updPrt p f).bass = s.bass := rfl
@[simp] theorem State.updPrt_mces (p : Nat) (f : Prt → Prt) : (s.updPrt p f).mces = s.mces := rfl
@[simp] theorem State.updPrt_upds (p : Nat) (f : Prt → Prt) : (s.updPrt p f).upds = s.upds := rfl
@[simp] theorem State.updPrt_weirs (p : Nat) (f : Prt → Prt) : (s.updPrt p f).weirs = s.weirs := rfl
@[simp] theorem State.updPrt_temps (p : Nat) (f : Prt → Prt) : (s.updPrt p f).temps = s.temps := rfl
@[simp] theorem State.updPrt_droops (p : Nat) (f : Prt → Prt) : (s.updPrt p f).droops = s.droops := rfl
@[simp] theorem State.updPrt_poolState (p : Nat) (f : Prt → Prt) : (s.updPrt p f).poolState = s.poolState := rfl
@[simp] theorem State.updPrt_poolPasses (p : Nat) (f : Prt → Prt) : (s.updPrt p f).poolPasses = s.poolPasses := rfl
@[simp] theorem State.updPrt_vecState (p : Nat) (f : Prt → Prt) : (s.updPrt p f).vecState = s.vecState := rfl
@[simp] theorem State.updPrt_vecFails (p : Nat) (f : Prt → Prt) : (s.updPrt p f).vecFails = s.vecFails := rfl
@[simp] theorem State.updPrt_grantWaits (p : Nat) (f : Prt → Prt) : (s.updPrt p f).grantWaits = s.grantWaits := rfl
@[simp] theorem State.updPrt_engs (p : Nat) (f : Prt → Prt) : (s.updPrt p f).engs = s.engs := rfl
@[simp] theorem State.updPrt_partials (p : Nat) (f : Prt → Prt) : (s.updPrt p f).partials = s.partials := rfl
@[simp] theorem State.updPrt_pool (p : Nat) (f : Prt → Prt) : (s.updPrt p f).pool = s.pool := rfl
@[simp] theorem State.updPrt_poolBad (p : Nat) (f : Prt → Prt) : (s.updPrt p f).poolBad = s.poolBad := rfl
@[simp] theorem State.updPrt_spd (p : Nat) (f : Prt → Prt) : (s.updPrt p f).spd = s.spd := rfl
@[simp] theorem State.updPrt_spdBad (p : Nat) (f : Prt → Prt) : (s.updPrt p f).spdBad = s.spdBad := rfl
@[simp] theorem State.updPrt_spdDir (p : Nat) (f : Prt → Prt) : (s.updPrt p f).spdDir = s.spdDir := rfl
@[simp] theorem State.updPrt_spdDirBad (p : Nat) (f : Prt → Prt) : (s.updPrt p f).spdDirBad = s.spdDirBad := rfl
@[simp] theorem State.updPrt_basin (p : Nat) (f : Prt → Prt) : (s.updPrt p f).basin = s.basin := rfl
@[simp] theorem State.updPrt_out (p : Nat) (f : Prt → Prt) : (s.updPrt p f).out = s.out := rfl
@[simp] theorem State.updPrt_mctpNegotiated (p : Nat) (f : Prt → Prt) : (s.updPrt p f).mctpNegotiated = s.mctpNegotiated := rfl
@[simp] theorem State.updPrt_draws (p : Nat) (f : Prt → Prt) : (s.updPrt p f).draws = s.draws := rfl
@[simp] theorem State.updPrt_pending (p : Nat) (f : Prt → Prt) : (s.updPrt p f).pending = s.pending := rfl

/-! ### updHst changes `hsts` -/

@[simp] theorem State.updHst_dev (h : Bool) (f : Hst → Hst) : (s.updHst h f).dev = s.dev := rfl
@[simp] theorem State.updHst_fuses (h : Bool) (f : Hst → Hst) : (s.updHst h f).fuses = s.fuses := rfl
@[simp] theorem State.updHst_sec (h : Bool) (f : Hst → Hst) : (s.updHst h f).sec = s.sec := rfl
@[simp] theorem State.updHst_mgc (h : Bool) (f : Hst → Hst) : (s.updHst h f).mgc = s.mgc := rfl
@[simp] theorem State.updHst_hlt (h : Bool) (f : Hst → Hst) : (s.updHst h f).hlt = s.hlt := rfl
@[simp] theorem State.updHst_hdrs (h : Bool) (f : Hst → Hst) : (s.updHst h f).hdrs = s.hdrs := rfl
@[simp] theorem State.updHst_prts (h : Bool) (f : Hst → Hst) : (s.updHst h f).prts = s.prts := rfl
@[simp] theorem State.updHst_lnks (h : Bool) (f : Hst → Hst) : (s.updHst h f).lnks = s.lnks := rfl
@[simp] theorem State.updHst_bass (h : Bool) (f : Hst → Hst) : (s.updHst h f).bass = s.bass := rfl
@[simp] theorem State.updHst_mces (h : Bool) (f : Hst → Hst) : (s.updHst h f).mces = s.mces := rfl
@[simp] theorem State.updHst_upds (h : Bool) (f : Hst → Hst) : (s.updHst h f).upds = s.upds := rfl
@[simp] theorem State.updHst_weirs (h : Bool) (f : Hst → Hst) : (s.updHst h f).weirs = s.weirs := rfl
@[simp] theorem State.updHst_temps (h : Bool) (f : Hst → Hst) : (s.updHst h f).temps = s.temps := rfl
@[simp] theorem State.updHst_droops (h : Bool) (f : Hst → Hst) : (s.updHst h f).droops = s.droops := rfl
@[simp] theorem State.updHst_poolState (h : Bool) (f : Hst → Hst) : (s.updHst h f).poolState = s.poolState := rfl
@[simp] theorem State.updHst_poolPasses (h : Bool) (f : Hst → Hst) : (s.updHst h f).poolPasses = s.poolPasses := rfl
@[simp] theorem State.updHst_vecState (h : Bool) (f : Hst → Hst) : (s.updHst h f).vecState = s.vecState := rfl
@[simp] theorem State.updHst_vecFails (h : Bool) (f : Hst → Hst) : (s.updHst h f).vecFails = s.vecFails := rfl
@[simp] theorem State.updHst_grantWaits (h : Bool) (f : Hst → Hst) : (s.updHst h f).grantWaits = s.grantWaits := rfl
@[simp] theorem State.updHst_engs (h : Bool) (f : Hst → Hst) : (s.updHst h f).engs = s.engs := rfl
@[simp] theorem State.updHst_partials (h : Bool) (f : Hst → Hst) : (s.updHst h f).partials = s.partials := rfl
@[simp] theorem State.updHst_pool (h : Bool) (f : Hst → Hst) : (s.updHst h f).pool = s.pool := rfl
@[simp] theorem State.updHst_poolBad (h : Bool) (f : Hst → Hst) : (s.updHst h f).poolBad = s.poolBad := rfl
@[simp] theorem State.updHst_spd (h : Bool) (f : Hst → Hst) : (s.updHst h f).spd = s.spd := rfl
@[simp] theorem State.updHst_spdBad (h : Bool) (f : Hst → Hst) : (s.updHst h f).spdBad = s.spdBad := rfl
@[simp] theorem State.updHst_spdDir (h : Bool) (f : Hst → Hst) : (s.updHst h f).spdDir = s.spdDir := rfl
@[simp] theorem State.updHst_spdDirBad (h : Bool) (f : Hst → Hst) : (s.updHst h f).spdDirBad = s.spdDirBad := rfl
@[simp] theorem State.updHst_basin (h : Bool) (f : Hst → Hst) : (s.updHst h f).basin = s.basin := rfl
@[simp] theorem State.updHst_out (h : Bool) (f : Hst → Hst) : (s.updHst h f).out = s.out := rfl
@[simp] theorem State.updHst_mctpNegotiated (h : Bool) (f : Hst → Hst) : (s.updHst h f).mctpNegotiated = s.mctpNegotiated := rfl
@[simp] theorem State.updHst_draws (h : Bool) (f : Hst → Hst) : (s.updHst h f).draws = s.draws := rfl
@[simp] theorem State.updHst_pending (h : Bool) (f : Hst → Hst) : (s.updHst h f).pending = s.pending := rfl

/-! ### updLnk changes `lnks` -/

@[simp] theorem State.updLnk_dev (i : Nat) (f : Lnk → Lnk) : (s.updLnk i f).dev = s.dev := rfl
@[simp] theorem State.updLnk_fuses (i : Nat) (f : Lnk → Lnk) : (s.updLnk i f).fuses = s.fuses := rfl
@[simp] theorem State.updLnk_sec (i : Nat) (f : Lnk → Lnk) : (s.updLnk i f).sec = s.sec := rfl
@[simp] theorem State.updLnk_mgc (i : Nat) (f : Lnk → Lnk) : (s.updLnk i f).mgc = s.mgc := rfl
@[simp] theorem State.updLnk_hlt (i : Nat) (f : Lnk → Lnk) : (s.updLnk i f).hlt = s.hlt := rfl
@[simp] theorem State.updLnk_hdrs (i : Nat) (f : Lnk → Lnk) : (s.updLnk i f).hdrs = s.hdrs := rfl
@[simp] theorem State.updLnk_prts (i : Nat) (f : Lnk → Lnk) : (s.updLnk i f).prts = s.prts := rfl
@[simp] theorem State.updLnk_hsts (i : Nat) (f : Lnk → Lnk) : (s.updLnk i f).hsts = s.hsts := rfl
@[simp] theorem State.updLnk_bass (i : Nat) (f : Lnk → Lnk) : (s.updLnk i f).bass = s.bass := rfl
@[simp] theorem State.updLnk_mces (i : Nat) (f : Lnk → Lnk) : (s.updLnk i f).mces = s.mces := rfl
@[simp] theorem State.updLnk_upds (i : Nat) (f : Lnk → Lnk) : (s.updLnk i f).upds = s.upds := rfl
@[simp] theorem State.updLnk_weirs (i : Nat) (f : Lnk → Lnk) : (s.updLnk i f).weirs = s.weirs := rfl
@[simp] theorem State.updLnk_temps (i : Nat) (f : Lnk → Lnk) : (s.updLnk i f).temps = s.temps := rfl
@[simp] theorem State.updLnk_droops (i : Nat) (f : Lnk → Lnk) : (s.updLnk i f).droops = s.droops := rfl
@[simp] theorem State.updLnk_poolState (i : Nat) (f : Lnk → Lnk) : (s.updLnk i f).poolState = s.poolState := rfl
@[simp] theorem State.updLnk_poolPasses (i : Nat) (f : Lnk → Lnk) : (s.updLnk i f).poolPasses = s.poolPasses := rfl
@[simp] theorem State.updLnk_vecState (i : Nat) (f : Lnk → Lnk) : (s.updLnk i f).vecState = s.vecState := rfl
@[simp] theorem State.updLnk_vecFails (i : Nat) (f : Lnk → Lnk) : (s.updLnk i f).vecFails = s.vecFails := rfl
@[simp] theorem State.updLnk_grantWaits (i : Nat) (f : Lnk → Lnk) : (s.updLnk i f).grantWaits = s.grantWaits := rfl
@[simp] theorem State.updLnk_engs (i : Nat) (f : Lnk → Lnk) : (s.updLnk i f).engs = s.engs := rfl
@[simp] theorem State.updLnk_partials (i : Nat) (f : Lnk → Lnk) : (s.updLnk i f).partials = s.partials := rfl
@[simp] theorem State.updLnk_pool (i : Nat) (f : Lnk → Lnk) : (s.updLnk i f).pool = s.pool := rfl
@[simp] theorem State.updLnk_poolBad (i : Nat) (f : Lnk → Lnk) : (s.updLnk i f).poolBad = s.poolBad := rfl
@[simp] theorem State.updLnk_spd (i : Nat) (f : Lnk → Lnk) : (s.updLnk i f).spd = s.spd := rfl
@[simp] theorem State.updLnk_spdBad (i : Nat) (f : Lnk → Lnk) : (s.updLnk i f).spdBad = s.spdBad := rfl
@[simp] theorem State.updLnk_spdDir (i : Nat) (f : Lnk → Lnk) : (s.updLnk i f).spdDir = s.spdDir := rfl
@[simp] theorem State.updLnk_spdDirBad (i : Nat) (f : Lnk → Lnk) : (s.updLnk i f).spdDirBad = s.spdDirBad := rfl
@[simp] theorem State.updLnk_basin (i : Nat) (f : Lnk → Lnk) : (s.updLnk i f).basin = s.basin := rfl
@[simp] theorem State.updLnk_out (i : Nat) (f : Lnk → Lnk) : (s.updLnk i f).out = s.out := rfl
@[simp] theorem State.updLnk_mctpNegotiated (i : Nat) (f : Lnk → Lnk) : (s.updLnk i f).mctpNegotiated = s.mctpNegotiated := rfl
@[simp] theorem State.updLnk_draws (i : Nat) (f : Lnk → Lnk) : (s.updLnk i f).draws = s.draws := rfl
@[simp] theorem State.updLnk_pending (i : Nat) (f : Lnk → Lnk) : (s.updLnk i f).pending = s.pending := rfl

/-! ### updSa changes `lnks` -/

@[simp] theorem State.updSa_dev (i a : Nat) (f : Sa → Sa) : (s.updSa i a f).dev = s.dev := rfl
@[simp] theorem State.updSa_fuses (i a : Nat) (f : Sa → Sa) : (s.updSa i a f).fuses = s.fuses := rfl
@[simp] theorem State.updSa_sec (i a : Nat) (f : Sa → Sa) : (s.updSa i a f).sec = s.sec := rfl
@[simp] theorem State.updSa_mgc (i a : Nat) (f : Sa → Sa) : (s.updSa i a f).mgc = s.mgc := rfl
@[simp] theorem State.updSa_hlt (i a : Nat) (f : Sa → Sa) : (s.updSa i a f).hlt = s.hlt := rfl
@[simp] theorem State.updSa_hdrs (i a : Nat) (f : Sa → Sa) : (s.updSa i a f).hdrs = s.hdrs := rfl
@[simp] theorem State.updSa_prts (i a : Nat) (f : Sa → Sa) : (s.updSa i a f).prts = s.prts := rfl
@[simp] theorem State.updSa_hsts (i a : Nat) (f : Sa → Sa) : (s.updSa i a f).hsts = s.hsts := rfl
@[simp] theorem State.updSa_bass (i a : Nat) (f : Sa → Sa) : (s.updSa i a f).bass = s.bass := rfl
@[simp] theorem State.updSa_mces (i a : Nat) (f : Sa → Sa) : (s.updSa i a f).mces = s.mces := rfl
@[simp] theorem State.updSa_upds (i a : Nat) (f : Sa → Sa) : (s.updSa i a f).upds = s.upds := rfl
@[simp] theorem State.updSa_weirs (i a : Nat) (f : Sa → Sa) : (s.updSa i a f).weirs = s.weirs := rfl
@[simp] theorem State.updSa_temps (i a : Nat) (f : Sa → Sa) : (s.updSa i a f).temps = s.temps := rfl
@[simp] theorem State.updSa_droops (i a : Nat) (f : Sa → Sa) : (s.updSa i a f).droops = s.droops := rfl
@[simp] theorem State.updSa_poolState (i a : Nat) (f : Sa → Sa) : (s.updSa i a f).poolState = s.poolState := rfl
@[simp] theorem State.updSa_poolPasses (i a : Nat) (f : Sa → Sa) : (s.updSa i a f).poolPasses = s.poolPasses := rfl
@[simp] theorem State.updSa_vecState (i a : Nat) (f : Sa → Sa) : (s.updSa i a f).vecState = s.vecState := rfl
@[simp] theorem State.updSa_vecFails (i a : Nat) (f : Sa → Sa) : (s.updSa i a f).vecFails = s.vecFails := rfl
@[simp] theorem State.updSa_grantWaits (i a : Nat) (f : Sa → Sa) : (s.updSa i a f).grantWaits = s.grantWaits := rfl
@[simp] theorem State.updSa_engs (i a : Nat) (f : Sa → Sa) : (s.updSa i a f).engs = s.engs := rfl
@[simp] theorem State.updSa_partials (i a : Nat) (f : Sa → Sa) : (s.updSa i a f).partials = s.partials := rfl
@[simp] theorem State.updSa_pool (i a : Nat) (f : Sa → Sa) : (s.updSa i a f).pool = s.pool := rfl
@[simp] theorem State.updSa_poolBad (i a : Nat) (f : Sa → Sa) : (s.updSa i a f).poolBad = s.poolBad := rfl
@[simp] theorem State.updSa_spd (i a : Nat) (f : Sa → Sa) : (s.updSa i a f).spd = s.spd := rfl
@[simp] theorem State.updSa_spdBad (i a : Nat) (f : Sa → Sa) : (s.updSa i a f).spdBad = s.spdBad := rfl
@[simp] theorem State.updSa_spdDir (i a : Nat) (f : Sa → Sa) : (s.updSa i a f).spdDir = s.spdDir := rfl
@[simp] theorem State.updSa_spdDirBad (i a : Nat) (f : Sa → Sa) : (s.updSa i a f).spdDirBad = s.spdDirBad := rfl
@[simp] theorem State.updSa_basin (i a : Nat) (f : Sa → Sa) : (s.updSa i a f).basin = s.basin := rfl
@[simp] theorem State.updSa_out (i a : Nat) (f : Sa → Sa) : (s.updSa i a f).out = s.out := rfl
@[simp] theorem State.updSa_mctpNegotiated (i a : Nat) (f : Sa → Sa) : (s.updSa i a f).mctpNegotiated = s.mctpNegotiated := rfl
@[simp] theorem State.updSa_draws (i a : Nat) (f : Sa → Sa) : (s.updSa i a f).draws = s.draws := rfl
@[simp] theorem State.updSa_pending (i a : Nat) (f : Sa → Sa) : (s.updSa i a f).pending = s.pending := rfl

/-! ### updVc changes `lnks` -/

@[simp] theorem State.updVc_dev (i v : Nat) (f : Vc → Vc) : (s.updVc i v f).dev = s.dev := rfl
@[simp] theorem State.updVc_fuses (i v : Nat) (f : Vc → Vc) : (s.updVc i v f).fuses = s.fuses := rfl
@[simp] theorem State.updVc_sec (i v : Nat) (f : Vc → Vc) : (s.updVc i v f).sec = s.sec := rfl
@[simp] theorem State.updVc_mgc (i v : Nat) (f : Vc → Vc) : (s.updVc i v f).mgc = s.mgc := rfl
@[simp] theorem State.updVc_hlt (i v : Nat) (f : Vc → Vc) : (s.updVc i v f).hlt = s.hlt := rfl
@[simp] theorem State.updVc_hdrs (i v : Nat) (f : Vc → Vc) : (s.updVc i v f).hdrs = s.hdrs := rfl
@[simp] theorem State.updVc_prts (i v : Nat) (f : Vc → Vc) : (s.updVc i v f).prts = s.prts := rfl
@[simp] theorem State.updVc_hsts (i v : Nat) (f : Vc → Vc) : (s.updVc i v f).hsts = s.hsts := rfl
@[simp] theorem State.updVc_bass (i v : Nat) (f : Vc → Vc) : (s.updVc i v f).bass = s.bass := rfl
@[simp] theorem State.updVc_mces (i v : Nat) (f : Vc → Vc) : (s.updVc i v f).mces = s.mces := rfl
@[simp] theorem State.updVc_upds (i v : Nat) (f : Vc → Vc) : (s.updVc i v f).upds = s.upds := rfl
@[simp] theorem State.updVc_weirs (i v : Nat) (f : Vc → Vc) : (s.updVc i v f).weirs = s.weirs := rfl
@[simp] theorem State.updVc_temps (i v : Nat) (f : Vc → Vc) : (s.updVc i v f).temps = s.temps := rfl
@[simp] theorem State.updVc_droops (i v : Nat) (f : Vc → Vc) : (s.updVc i v f).droops = s.droops := rfl
@[simp] theorem State.updVc_poolState (i v : Nat) (f : Vc → Vc) : (s.updVc i v f).poolState = s.poolState := rfl
@[simp] theorem State.updVc_poolPasses (i v : Nat) (f : Vc → Vc) : (s.updVc i v f).poolPasses = s.poolPasses := rfl
@[simp] theorem State.updVc_vecState (i v : Nat) (f : Vc → Vc) : (s.updVc i v f).vecState = s.vecState := rfl
@[simp] theorem State.updVc_vecFails (i v : Nat) (f : Vc → Vc) : (s.updVc i v f).vecFails = s.vecFails := rfl
@[simp] theorem State.updVc_grantWaits (i v : Nat) (f : Vc → Vc) : (s.updVc i v f).grantWaits = s.grantWaits := rfl
@[simp] theorem State.updVc_engs (i v : Nat) (f : Vc → Vc) : (s.updVc i v f).engs = s.engs := rfl
@[simp] theorem State.updVc_partials (i v : Nat) (f : Vc → Vc) : (s.updVc i v f).partials = s.partials := rfl
@[simp] theorem State.updVc_pool (i v : Nat) (f : Vc → Vc) : (s.updVc i v f).pool = s.pool := rfl
@[simp] theorem State.updVc_poolBad (i v : Nat) (f : Vc → Vc) : (s.updVc i v f).poolBad = s.poolBad := rfl
@[simp] theorem State.updVc_spd (i v : Nat) (f : Vc → Vc) : (s.updVc i v f).spd = s.spd := rfl
@[simp] theorem State.updVc_spdBad (i v : Nat) (f : Vc → Vc) : (s.updVc i v f).spdBad = s.spdBad := rfl
@[simp] theorem State.updVc_spdDir (i v : Nat) (f : Vc → Vc) : (s.updVc i v f).spdDir = s.spdDir := rfl
@[simp] theorem State.updVc_spdDirBad (i v : Nat) (f : Vc → Vc) : (s.updVc i v f).spdDirBad = s.spdDirBad := rfl
@[simp] theorem State.updVc_basin (i v : Nat) (f : Vc → Vc) : (s.updVc i v f).basin = s.basin := rfl
@[simp] theorem State.updVc_out (i v : Nat) (f : Vc → Vc) : (s.updVc i v f).out = s.out := rfl
@[simp] theorem State.updVc_mctpNegotiated (i v : Nat) (f : Vc → Vc) : (s.updVc i v f).mctpNegotiated = s.mctpNegotiated := rfl
@[simp] theorem State.updVc_draws (i v : Nat) (f : Vc → Vc) : (s.updVc i v f).draws = s.draws := rfl
@[simp] theorem State.updVc_pending (i v : Nat) (f : Vc → Vc) : (s.updVc i v f).pending = s.pending := rfl

/-! ### updMce changes `mces` -/

@[simp] theorem State.updMce_dev (m : Nat) (f : Mce → Mce) : (s.updMce m f).dev = s.dev := rfl
@[simp] theorem State.updMce_fuses (m : Nat) (f : Mce → Mce) : (s.updMce m f).fuses = s.fuses := rfl
@[simp] theorem State.updMce_sec (m : Nat) (f : Mce → Mce) : (s.updMce m f).sec = s.sec := rfl
@[simp] theorem State.updMce_mgc (m : Nat) (f : Mce → Mce) : (s.updMce m f).mgc = s.mgc := rfl
@[simp] theorem State.updMce_hlt (m : Nat) (f : Mce → Mce) : (s.updMce m f).hlt = s.hlt := rfl
@[simp] theorem State.updMce_hdrs (m : Nat) (f : Mce → Mce) : (s.updMce m f).hdrs = s.hdrs := rfl
@[simp] theorem State.updMce_prts (m : Nat) (f : Mce → Mce) : (s.updMce m f).prts = s.prts := rfl
@[simp] theorem State.updMce_hsts (m : Nat) (f : Mce → Mce) : (s.updMce m f).hsts = s.hsts := rfl
@[simp] theorem State.updMce_lnks (m : Nat) (f : Mce → Mce) : (s.updMce m f).lnks = s.lnks := rfl
@[simp] theorem State.updMce_bass (m : Nat) (f : Mce → Mce) : (s.updMce m f).bass = s.bass := rfl
@[simp] theorem State.updMce_upds (m : Nat) (f : Mce → Mce) : (s.updMce m f).upds = s.upds := rfl
@[simp] theorem State.updMce_weirs (m : Nat) (f : Mce → Mce) : (s.updMce m f).weirs = s.weirs := rfl
@[simp] theorem State.updMce_temps (m : Nat) (f : Mce → Mce) : (s.updMce m f).temps = s.temps := rfl
@[simp] theorem State.updMce_droops (m : Nat) (f : Mce → Mce) : (s.updMce m f).droops = s.droops := rfl
@[simp] theorem State.updMce_poolState (m : Nat) (f : Mce → Mce) : (s.updMce m f).poolState = s.poolState := rfl
@[simp] theorem State.updMce_poolPasses (m : Nat) (f : Mce → Mce) : (s.updMce m f).poolPasses = s.poolPasses := rfl
@[simp] theorem State.updMce_vecState (m : Nat) (f : Mce → Mce) : (s.updMce m f).vecState = s.vecState := rfl
@[simp] theorem State.updMce_vecFails (m : Nat) (f : Mce → Mce) : (s.updMce m f).vecFails = s.vecFails := rfl
@[simp] theorem State.updMce_grantWaits (m : Nat) (f : Mce → Mce) : (s.updMce m f).grantWaits = s.grantWaits := rfl
@[simp] theorem State.updMce_engs (m : Nat) (f : Mce → Mce) : (s.updMce m f).engs = s.engs := rfl
@[simp] theorem State.updMce_partials (m : Nat) (f : Mce → Mce) : (s.updMce m f).partials = s.partials := rfl
@[simp] theorem State.updMce_pool (m : Nat) (f : Mce → Mce) : (s.updMce m f).pool = s.pool := rfl
@[simp] theorem State.updMce_poolBad (m : Nat) (f : Mce → Mce) : (s.updMce m f).poolBad = s.poolBad := rfl
@[simp] theorem State.updMce_spd (m : Nat) (f : Mce → Mce) : (s.updMce m f).spd = s.spd := rfl
@[simp] theorem State.updMce_spdBad (m : Nat) (f : Mce → Mce) : (s.updMce m f).spdBad = s.spdBad := rfl
@[simp] theorem State.updMce_spdDir (m : Nat) (f : Mce → Mce) : (s.updMce m f).spdDir = s.spdDir := rfl
@[simp] theorem State.updMce_spdDirBad (m : Nat) (f : Mce → Mce) : (s.updMce m f).spdDirBad = s.spdDirBad := rfl
@[simp] theorem State.updMce_basin (m : Nat) (f : Mce → Mce) : (s.updMce m f).basin = s.basin := rfl
@[simp] theorem State.updMce_out (m : Nat) (f : Mce → Mce) : (s.updMce m f).out = s.out := rfl
@[simp] theorem State.updMce_mctpNegotiated (m : Nat) (f : Mce → Mce) : (s.updMce m f).mctpNegotiated = s.mctpNegotiated := rfl
@[simp] theorem State.updMce_draws (m : Nat) (f : Mce → Mce) : (s.updMce m f).draws = s.draws := rfl
@[simp] theorem State.updMce_pending (m : Nat) (f : Mce → Mce) : (s.updMce m f).pending = s.pending := rfl

/-! ### updKey changes `mces` -/

@[simp] theorem State.updKey_dev (m k : Nat) (f : KeySlot → KeySlot) : (s.updKey m k f).dev = s.dev := rfl
@[simp] theorem State.updKey_fuses (m k : Nat) (f : KeySlot → KeySlot) : (s.updKey m k f).fuses = s.fuses := rfl
@[simp] theorem State.updKey_sec (m k : Nat) (f : KeySlot → KeySlot) : (s.updKey m k f).sec = s.sec := rfl
@[simp] theorem State.updKey_mgc (m k : Nat) (f : KeySlot → KeySlot) : (s.updKey m k f).mgc = s.mgc := rfl
@[simp] theorem State.updKey_hlt (m k : Nat) (f : KeySlot → KeySlot) : (s.updKey m k f).hlt = s.hlt := rfl
@[simp] theorem State.updKey_hdrs (m k : Nat) (f : KeySlot → KeySlot) : (s.updKey m k f).hdrs = s.hdrs := rfl
@[simp] theorem State.updKey_prts (m k : Nat) (f : KeySlot → KeySlot) : (s.updKey m k f).prts = s.prts := rfl
@[simp] theorem State.updKey_hsts (m k : Nat) (f : KeySlot → KeySlot) : (s.updKey m k f).hsts = s.hsts := rfl
@[simp] theorem State.updKey_lnks (m k : Nat) (f : KeySlot → KeySlot) : (s.updKey m k f).lnks = s.lnks := rfl
@[simp] theorem State.updKey_bass (m k : Nat) (f : KeySlot → KeySlot) : (s.updKey m k f).bass = s.bass := rfl
@[simp] theorem State.updKey_upds (m k : Nat) (f : KeySlot → KeySlot) : (s.updKey m k f).upds = s.upds := rfl
@[simp] theorem State.updKey_weirs (m k : Nat) (f : KeySlot → KeySlot) : (s.updKey m k f).weirs = s.weirs := rfl
@[simp] theorem State.updKey_temps (m k : Nat) (f : KeySlot → KeySlot) : (s.updKey m k f).temps = s.temps := rfl
@[simp] theorem State.updKey_droops (m k : Nat) (f : KeySlot → KeySlot) : (s.updKey m k f).droops = s.droops := rfl
@[simp] theorem State.updKey_poolState (m k : Nat) (f : KeySlot → KeySlot) : (s.updKey m k f).poolState = s.poolState := rfl
@[simp] theorem State.updKey_poolPasses (m k : Nat) (f : KeySlot → KeySlot) : (s.updKey m k f).poolPasses = s.poolPasses := rfl
@[simp] theorem State.updKey_vecState (m k : Nat) (f : KeySlot → KeySlot) : (s.updKey m k f).vecState = s.vecState := rfl
@[simp] theorem State.updKey_vecFails (m k : Nat) (f : KeySlot → KeySlot) : (s.updKey m k f).vecFails = s.vecFails := rfl
@[simp] theorem State.updKey_grantWaits (m k : Nat) (f : KeySlot → KeySlot) : (s.updKey m k f).grantWaits = s.grantWaits := rfl
@[simp] theorem State.updKey_engs (m k : Nat) (f : KeySlot → KeySlot) : (s.updKey m k f).engs = s.engs := rfl
@[simp] theorem State.updKey_partials (m k : Nat) (f : KeySlot → KeySlot) : (s.updKey m k f).partials = s.partials := rfl
@[simp] theorem State.updKey_pool (m k : Nat) (f : KeySlot → KeySlot) : (s.updKey m k f).pool = s.pool := rfl
@[simp] theorem State.updKey_poolBad (m k : Nat) (f : KeySlot → KeySlot) : (s.updKey m k f).poolBad = s.poolBad := rfl
@[simp] theorem State.updKey_spd (m k : Nat) (f : KeySlot → KeySlot) : (s.updKey m k f).spd = s.spd := rfl
@[simp] theorem State.updKey_spdBad (m k : Nat) (f : KeySlot → KeySlot) : (s.updKey m k f).spdBad = s.spdBad := rfl
@[simp] theorem State.updKey_spdDir (m k : Nat) (f : KeySlot → KeySlot) : (s.updKey m k f).spdDir = s.spdDir := rfl
@[simp] theorem State.updKey_spdDirBad (m k : Nat) (f : KeySlot → KeySlot) : (s.updKey m k f).spdDirBad = s.spdDirBad := rfl
@[simp] theorem State.updKey_basin (m k : Nat) (f : KeySlot → KeySlot) : (s.updKey m k f).basin = s.basin := rfl
@[simp] theorem State.updKey_out (m k : Nat) (f : KeySlot → KeySlot) : (s.updKey m k f).out = s.out := rfl
@[simp] theorem State.updKey_mctpNegotiated (m k : Nat) (f : KeySlot → KeySlot) : (s.updKey m k f).mctpNegotiated = s.mctpNegotiated := rfl
@[simp] theorem State.updKey_draws (m k : Nat) (f : KeySlot → KeySlot) : (s.updKey m k f).draws = s.draws := rfl
@[simp] theorem State.updKey_pending (m k : Nat) (f : KeySlot → KeySlot) : (s.updKey m k f).pending = s.pending := rfl

/-! ### updBas changes `bass` -/

@[simp] theorem State.updBas_dev (k : Nat) (f : Bas → Bas) : (s.updBas k f).dev = s.dev := rfl
@[simp] theorem State.updBas_fuses (k : Nat) (f : Bas → Bas) : (s.updBas k f).fuses = s.fuses := rfl
@[simp] theorem State.updBas_sec (k : Nat) (f : Bas → Bas) : (s.updBas k f).sec = s.sec := rfl
@[simp] theorem State.updBas_mgc (k : Nat) (f : Bas → Bas) : (s.updBas k f).mgc = s.mgc := rfl
@[simp] theorem State.updBas_hlt (k : Nat) (f : Bas → Bas) : (s.updBas k f).hlt = s.hlt := rfl
@[simp] theorem State.updBas_hdrs (k : Nat) (f : Bas → Bas) : (s.updBas k f).hdrs = s.hdrs := rfl
@[simp] theorem State.updBas_prts (k : Nat) (f : Bas → Bas) : (s.updBas k f).prts = s.prts := rfl
@[simp] theorem State.updBas_hsts (k : Nat) (f : Bas → Bas) : (s.updBas k f).hsts = s.hsts := rfl
@[simp] theorem State.updBas_lnks (k : Nat) (f : Bas → Bas) : (s.updBas k f).lnks = s.lnks := rfl
@[simp] theorem State.updBas_mces (k : Nat) (f : Bas → Bas) : (s.updBas k f).mces = s.mces := rfl
@[simp] theorem State.updBas_upds (k : Nat) (f : Bas → Bas) : (s.updBas k f).upds = s.upds := rfl
@[simp] theorem State.updBas_weirs (k : Nat) (f : Bas → Bas) : (s.updBas k f).weirs = s.weirs := rfl
@[simp] theorem State.updBas_temps (k : Nat) (f : Bas → Bas) : (s.updBas k f).temps = s.temps := rfl
@[simp] theorem State.updBas_droops (k : Nat) (f : Bas → Bas) : (s.updBas k f).droops = s.droops := rfl
@[simp] theorem State.updBas_poolState (k : Nat) (f : Bas → Bas) : (s.updBas k f).poolState = s.poolState := rfl
@[simp] theorem State.updBas_poolPasses (k : Nat) (f : Bas → Bas) : (s.updBas k f).poolPasses = s.poolPasses := rfl
@[simp] theorem State.updBas_vecState (k : Nat) (f : Bas → Bas) : (s.updBas k f).vecState = s.vecState := rfl
@[simp] theorem State.updBas_vecFails (k : Nat) (f : Bas → Bas) : (s.updBas k f).vecFails = s.vecFails := rfl
@[simp] theorem State.updBas_grantWaits (k : Nat) (f : Bas → Bas) : (s.updBas k f).grantWaits = s.grantWaits := rfl
@[simp] theorem State.updBas_engs (k : Nat) (f : Bas → Bas) : (s.updBas k f).engs = s.engs := rfl
@[simp] theorem State.updBas_partials (k : Nat) (f : Bas → Bas) : (s.updBas k f).partials = s.partials := rfl
@[simp] theorem State.updBas_pool (k : Nat) (f : Bas → Bas) : (s.updBas k f).pool = s.pool := rfl
@[simp] theorem State.updBas_poolBad (k : Nat) (f : Bas → Bas) : (s.updBas k f).poolBad = s.poolBad := rfl
@[simp] theorem State.updBas_spd (k : Nat) (f : Bas → Bas) : (s.updBas k f).spd = s.spd := rfl
@[simp] theorem State.updBas_spdBad (k : Nat) (f : Bas → Bas) : (s.updBas k f).spdBad = s.spdBad := rfl
@[simp] theorem State.updBas_spdDir (k : Nat) (f : Bas → Bas) : (s.updBas k f).spdDir = s.spdDir := rfl
@[simp] theorem State.updBas_spdDirBad (k : Nat) (f : Bas → Bas) : (s.updBas k f).spdDirBad = s.spdDirBad := rfl
@[simp] theorem State.updBas_basin (k : Nat) (f : Bas → Bas) : (s.updBas k f).basin = s.basin := rfl
@[simp] theorem State.updBas_out (k : Nat) (f : Bas → Bas) : (s.updBas k f).out = s.out := rfl
@[simp] theorem State.updBas_mctpNegotiated (k : Nat) (f : Bas → Bas) : (s.updBas k f).mctpNegotiated = s.mctpNegotiated := rfl
@[simp] theorem State.updBas_draws (k : Nat) (f : Bas → Bas) : (s.updBas k f).draws = s.draws := rfl
@[simp] theorem State.updBas_pending (k : Nat) (f : Bas → Bas) : (s.updBas k f).pending = s.pending := rfl

/-! ### updUpd changes `upds` -/

@[simp] theorem State.updUpd_dev (k : Nat) (f : Upd → Upd) : (s.updUpd k f).dev = s.dev := rfl
@[simp] theorem State.updUpd_fuses (k : Nat) (f : Upd → Upd) : (s.updUpd k f).fuses = s.fuses := rfl
@[simp] theorem State.updUpd_sec (k : Nat) (f : Upd → Upd) : (s.updUpd k f).sec = s.sec := rfl
@[simp] theorem State.updUpd_mgc (k : Nat) (f : Upd → Upd) : (s.updUpd k f).mgc = s.mgc := rfl
@[simp] theorem State.updUpd_hlt (k : Nat) (f : Upd → Upd) : (s.updUpd k f).hlt = s.hlt := rfl
@[simp] theorem State.updUpd_hdrs (k : Nat) (f : Upd → Upd) : (s.updUpd k f).hdrs = s.hdrs := rfl
@[simp] theorem State.updUpd_prts (k : Nat) (f : Upd → Upd) : (s.updUpd k f).prts = s.prts := rfl
@[simp] theorem State.updUpd_hsts (k : Nat) (f : Upd → Upd) : (s.updUpd k f).hsts = s.hsts := rfl
@[simp] theorem State.updUpd_lnks (k : Nat) (f : Upd → Upd) : (s.updUpd k f).lnks = s.lnks := rfl
@[simp] theorem State.updUpd_bass (k : Nat) (f : Upd → Upd) : (s.updUpd k f).bass = s.bass := rfl
@[simp] theorem State.updUpd_mces (k : Nat) (f : Upd → Upd) : (s.updUpd k f).mces = s.mces := rfl
@[simp] theorem State.updUpd_weirs (k : Nat) (f : Upd → Upd) : (s.updUpd k f).weirs = s.weirs := rfl
@[simp] theorem State.updUpd_temps (k : Nat) (f : Upd → Upd) : (s.updUpd k f).temps = s.temps := rfl
@[simp] theorem State.updUpd_droops (k : Nat) (f : Upd → Upd) : (s.updUpd k f).droops = s.droops := rfl
@[simp] theorem State.updUpd_poolState (k : Nat) (f : Upd → Upd) : (s.updUpd k f).poolState = s.poolState := rfl
@[simp] theorem State.updUpd_poolPasses (k : Nat) (f : Upd → Upd) : (s.updUpd k f).poolPasses = s.poolPasses := rfl
@[simp] theorem State.updUpd_vecState (k : Nat) (f : Upd → Upd) : (s.updUpd k f).vecState = s.vecState := rfl
@[simp] theorem State.updUpd_vecFails (k : Nat) (f : Upd → Upd) : (s.updUpd k f).vecFails = s.vecFails := rfl
@[simp] theorem State.updUpd_grantWaits (k : Nat) (f : Upd → Upd) : (s.updUpd k f).grantWaits = s.grantWaits := rfl
@[simp] theorem State.updUpd_engs (k : Nat) (f : Upd → Upd) : (s.updUpd k f).engs = s.engs := rfl
@[simp] theorem State.updUpd_partials (k : Nat) (f : Upd → Upd) : (s.updUpd k f).partials = s.partials := rfl
@[simp] theorem State.updUpd_pool (k : Nat) (f : Upd → Upd) : (s.updUpd k f).pool = s.pool := rfl
@[simp] theorem State.updUpd_poolBad (k : Nat) (f : Upd → Upd) : (s.updUpd k f).poolBad = s.poolBad := rfl
@[simp] theorem State.updUpd_spd (k : Nat) (f : Upd → Upd) : (s.updUpd k f).spd = s.spd := rfl
@[simp] theorem State.updUpd_spdBad (k : Nat) (f : Upd → Upd) : (s.updUpd k f).spdBad = s.spdBad := rfl
@[simp] theorem State.updUpd_spdDir (k : Nat) (f : Upd → Upd) : (s.updUpd k f).spdDir = s.spdDir := rfl
@[simp] theorem State.updUpd_spdDirBad (k : Nat) (f : Upd → Upd) : (s.updUpd k f).spdDirBad = s.spdDirBad := rfl
@[simp] theorem State.updUpd_basin (k : Nat) (f : Upd → Upd) : (s.updUpd k f).basin = s.basin := rfl
@[simp] theorem State.updUpd_out (k : Nat) (f : Upd → Upd) : (s.updUpd k f).out = s.out := rfl
@[simp] theorem State.updUpd_mctpNegotiated (k : Nat) (f : Upd → Upd) : (s.updUpd k f).mctpNegotiated = s.mctpNegotiated := rfl
@[simp] theorem State.updUpd_draws (k : Nat) (f : Upd → Upd) : (s.updUpd k f).draws = s.draws := rfl
@[simp] theorem State.updUpd_pending (k : Nat) (f : Upd → Upd) : (s.updUpd k f).pending = s.pending := rfl

/-! ### updWeir changes `weirs` -/

@[simp] theorem State.updWeir_dev (w : Nat) (f : Weir → Weir) : (s.updWeir w f).dev = s.dev := rfl
@[simp] theorem State.updWeir_fuses (w : Nat) (f : Weir → Weir) : (s.updWeir w f).fuses = s.fuses := rfl
@[simp] theorem State.updWeir_sec (w : Nat) (f : Weir → Weir) : (s.updWeir w f).sec = s.sec := rfl
@[simp] theorem State.updWeir_mgc (w : Nat) (f : Weir → Weir) : (s.updWeir w f).mgc = s.mgc := rfl
@[simp] theorem State.updWeir_hlt (w : Nat) (f : Weir → Weir) : (s.updWeir w f).hlt = s.hlt := rfl
@[simp] theorem State.updWeir_hdrs (w : Nat) (f : Weir → Weir) : (s.updWeir w f).hdrs = s.hdrs := rfl
@[simp] theorem State.updWeir_prts (w : Nat) (f : Weir → Weir) : (s.updWeir w f).prts = s.prts := rfl
@[simp] theorem State.updWeir_hsts (w : Nat) (f : Weir → Weir) : (s.updWeir w f).hsts = s.hsts := rfl
@[simp] theorem State.updWeir_lnks (w : Nat) (f : Weir → Weir) : (s.updWeir w f).lnks = s.lnks := rfl
@[simp] theorem State.updWeir_bass (w : Nat) (f : Weir → Weir) : (s.updWeir w f).bass = s.bass := rfl
@[simp] theorem State.updWeir_mces (w : Nat) (f : Weir → Weir) : (s.updWeir w f).mces = s.mces := rfl
@[simp] theorem State.updWeir_upds (w : Nat) (f : Weir → Weir) : (s.updWeir w f).upds = s.upds := rfl
@[simp] theorem State.updWeir_temps (w : Nat) (f : Weir → Weir) : (s.updWeir w f).temps = s.temps := rfl
@[simp] theorem State.updWeir_droops (w : Nat) (f : Weir → Weir) : (s.updWeir w f).droops = s.droops := rfl
@[simp] theorem State.updWeir_poolState (w : Nat) (f : Weir → Weir) : (s.updWeir w f).poolState = s.poolState := rfl
@[simp] theorem State.updWeir_poolPasses (w : Nat) (f : Weir → Weir) : (s.updWeir w f).poolPasses = s.poolPasses := rfl
@[simp] theorem State.updWeir_vecState (w : Nat) (f : Weir → Weir) : (s.updWeir w f).vecState = s.vecState := rfl
@[simp] theorem State.updWeir_vecFails (w : Nat) (f : Weir → Weir) : (s.updWeir w f).vecFails = s.vecFails := rfl
@[simp] theorem State.updWeir_grantWaits (w : Nat) (f : Weir → Weir) : (s.updWeir w f).grantWaits = s.grantWaits := rfl
@[simp] theorem State.updWeir_engs (w : Nat) (f : Weir → Weir) : (s.updWeir w f).engs = s.engs := rfl
@[simp] theorem State.updWeir_partials (w : Nat) (f : Weir → Weir) : (s.updWeir w f).partials = s.partials := rfl
@[simp] theorem State.updWeir_pool (w : Nat) (f : Weir → Weir) : (s.updWeir w f).pool = s.pool := rfl
@[simp] theorem State.updWeir_poolBad (w : Nat) (f : Weir → Weir) : (s.updWeir w f).poolBad = s.poolBad := rfl
@[simp] theorem State.updWeir_spd (w : Nat) (f : Weir → Weir) : (s.updWeir w f).spd = s.spd := rfl
@[simp] theorem State.updWeir_spdBad (w : Nat) (f : Weir → Weir) : (s.updWeir w f).spdBad = s.spdBad := rfl
@[simp] theorem State.updWeir_spdDir (w : Nat) (f : Weir → Weir) : (s.updWeir w f).spdDir = s.spdDir := rfl
@[simp] theorem State.updWeir_spdDirBad (w : Nat) (f : Weir → Weir) : (s.updWeir w f).spdDirBad = s.spdDirBad := rfl
@[simp] theorem State.updWeir_basin (w : Nat) (f : Weir → Weir) : (s.updWeir w f).basin = s.basin := rfl
@[simp] theorem State.updWeir_out (w : Nat) (f : Weir → Weir) : (s.updWeir w f).out = s.out := rfl
@[simp] theorem State.updWeir_mctpNegotiated (w : Nat) (f : Weir → Weir) : (s.updWeir w f).mctpNegotiated = s.mctpNegotiated := rfl
@[simp] theorem State.updWeir_draws (w : Nat) (f : Weir → Weir) : (s.updWeir w f).draws = s.draws := rfl
@[simp] theorem State.updWeir_pending (w : Nat) (f : Weir → Weir) : (s.updWeir w f).pending = s.pending := rfl

/-! ### updEng changes `engs` -/

@[simp] theorem State.updEng_dev (c e : Nat) (f : Eng → Eng) : (s.updEng c e f).dev = s.dev := rfl
@[simp] theorem State.updEng_fuses (c e : Nat) (f : Eng → Eng) : (s.updEng c e f).fuses = s.fuses := rfl
@[simp] theorem State.updEng_sec (c e : Nat) (f : Eng → Eng) : (s.updEng c e f).sec = s.sec := rfl
@[simp] theorem State.updEng_mgc (c e : Nat) (f : Eng → Eng) : (s.updEng c e f).mgc = s.mgc := rfl
@[simp] theorem State.updEng_hlt (c e : Nat) (f : Eng → Eng) : (s.updEng c e f).hlt = s.hlt := rfl
@[simp] theorem State.updEng_hdrs (c e : Nat) (f : Eng → Eng) : (s.updEng c e f).hdrs = s.hdrs := rfl
@[simp] theorem State.updEng_prts (c e : Nat) (f : Eng → Eng) : (s.updEng c e f).prts = s.prts := rfl
@[simp] theorem State.updEng_hsts (c e : Nat) (f : Eng → Eng) : (s.updEng c e f).hsts = s.hsts := rfl
@[simp] theorem State.updEng_lnks (c e : Nat) (f : Eng → Eng) : (s.updEng c e f).lnks = s.lnks := rfl
@[simp] theorem State.updEng_bass (c e : Nat) (f : Eng → Eng) : (s.updEng c e f).bass = s.bass := rfl
@[simp] theorem State.updEng_mces (c e : Nat) (f : Eng → Eng) : (s.updEng c e f).mces = s.mces := rfl
@[simp] theorem State.updEng_upds (c e : Nat) (f : Eng → Eng) : (s.updEng c e f).upds = s.upds := rfl
@[simp] theorem State.updEng_weirs (c e : Nat) (f : Eng → Eng) : (s.updEng c e f).weirs = s.weirs := rfl
@[simp] theorem State.updEng_temps (c e : Nat) (f : Eng → Eng) : (s.updEng c e f).temps = s.temps := rfl
@[simp] theorem State.updEng_droops (c e : Nat) (f : Eng → Eng) : (s.updEng c e f).droops = s.droops := rfl
@[simp] theorem State.updEng_poolState (c e : Nat) (f : Eng → Eng) : (s.updEng c e f).poolState = s.poolState := rfl
@[simp] theorem State.updEng_poolPasses (c e : Nat) (f : Eng → Eng) : (s.updEng c e f).poolPasses = s.poolPasses := rfl
@[simp] theorem State.updEng_vecState (c e : Nat) (f : Eng → Eng) : (s.updEng c e f).vecState = s.vecState := rfl
@[simp] theorem State.updEng_vecFails (c e : Nat) (f : Eng → Eng) : (s.updEng c e f).vecFails = s.vecFails := rfl
@[simp] theorem State.updEng_grantWaits (c e : Nat) (f : Eng → Eng) : (s.updEng c e f).grantWaits = s.grantWaits := rfl
@[simp] theorem State.updEng_partials (c e : Nat) (f : Eng → Eng) : (s.updEng c e f).partials = s.partials := rfl
@[simp] theorem State.updEng_pool (c e : Nat) (f : Eng → Eng) : (s.updEng c e f).pool = s.pool := rfl
@[simp] theorem State.updEng_poolBad (c e : Nat) (f : Eng → Eng) : (s.updEng c e f).poolBad = s.poolBad := rfl
@[simp] theorem State.updEng_spd (c e : Nat) (f : Eng → Eng) : (s.updEng c e f).spd = s.spd := rfl
@[simp] theorem State.updEng_spdBad (c e : Nat) (f : Eng → Eng) : (s.updEng c e f).spdBad = s.spdBad := rfl
@[simp] theorem State.updEng_spdDir (c e : Nat) (f : Eng → Eng) : (s.updEng c e f).spdDir = s.spdDir := rfl
@[simp] theorem State.updEng_spdDirBad (c e : Nat) (f : Eng → Eng) : (s.updEng c e f).spdDirBad = s.spdDirBad := rfl
@[simp] theorem State.updEng_basin (c e : Nat) (f : Eng → Eng) : (s.updEng c e f).basin = s.basin := rfl
@[simp] theorem State.updEng_out (c e : Nat) (f : Eng → Eng) : (s.updEng c e f).out = s.out := rfl
@[simp] theorem State.updEng_mctpNegotiated (c e : Nat) (f : Eng → Eng) : (s.updEng c e f).mctpNegotiated = s.mctpNegotiated := rfl
@[simp] theorem State.updEng_draws (c e : Nat) (f : Eng → Eng) : (s.updEng c e f).draws = s.draws := rfl
@[simp] theorem State.updEng_pending (c e : Nat) (f : Eng → Eng) : (s.updEng c e f).pending = s.pending := rfl

/-! ### updQueue changes `prts` -/

@[simp] theorem State.updQueue_dev (p n : Nat) (f : Queue → Queue) : (s.updQueue p n f).dev = s.dev := rfl
@[simp] theorem State.updQueue_fuses (p n : Nat) (f : Queue → Queue) : (s.updQueue p n f).fuses = s.fuses := rfl
@[simp] theorem State.updQueue_sec (p n : Nat) (f : Queue → Queue) : (s.updQueue p n f).sec = s.sec := rfl
@[simp] theorem State.updQueue_mgc (p n : Nat) (f : Queue → Queue) : (s.updQueue p n f).mgc = s.mgc := rfl
@[simp] theorem State.updQueue_hlt (p n : Nat) (f : Queue → Queue) : (s.updQueue p n f).hlt = s.hlt := rfl
@[simp] theorem State.updQueue_hdrs (p n : Nat) (f : Queue → Queue) : (s.updQueue p n f).hdrs = s.hdrs := rfl
@[simp] theorem State.updQueue_hsts (p n : Nat) (f : Queue → Queue) : (s.updQueue p n f).hsts = s.hsts := rfl
@[simp] theorem State.updQueue_lnks (p n : Nat) (f : Queue → Queue) : (s.updQueue p n f).lnks = s.lnks := rfl
@[simp] theorem State.updQueue_bass (p n : Nat) (f : Queue → Queue) : (s.updQueue p n f).bass = s.bass := rfl
@[simp] theorem State.updQueue_mces (p n : Nat) (f : Queue → Queue) : (s.updQueue p n f).mces = s.mces := rfl
@[simp] theorem State.updQueue_upds (p n : Nat) (f : Queue → Queue) : (s.updQueue p n f).upds = s.upds := rfl
@[simp] theorem State.updQueue_weirs (p n : Nat) (f : Queue → Queue) : (s.updQueue p n f).weirs = s.weirs := rfl
@[simp] theorem State.updQueue_temps (p n : Nat) (f : Queue → Queue) : (s.updQueue p n f).temps = s.temps := rfl
@[simp] theorem State.updQueue_droops (p n : Nat) (f : Queue → Queue) : (s.updQueue p n f).droops = s.droops := rfl
@[simp] theorem State.updQueue_poolState (p n : Nat) (f : Queue → Queue) : (s.updQueue p n f).poolState = s.poolState := rfl
@[simp] theorem State.updQueue_poolPasses (p n : Nat) (f : Queue → Queue) : (s.updQueue p n f).poolPasses = s.poolPasses := rfl
@[simp] theorem State.updQueue_vecState (p n : Nat) (f : Queue → Queue) : (s.updQueue p n f).vecState = s.vecState := rfl
@[simp] theorem State.updQueue_vecFails (p n : Nat) (f : Queue → Queue) : (s.updQueue p n f).vecFails = s.vecFails := rfl
@[simp] theorem State.updQueue_grantWaits (p n : Nat) (f : Queue → Queue) : (s.updQueue p n f).grantWaits = s.grantWaits := rfl
@[simp] theorem State.updQueue_engs (p n : Nat) (f : Queue → Queue) : (s.updQueue p n f).engs = s.engs := rfl
@[simp] theorem State.updQueue_partials (p n : Nat) (f : Queue → Queue) : (s.updQueue p n f).partials = s.partials := rfl
@[simp] theorem State.updQueue_pool (p n : Nat) (f : Queue → Queue) : (s.updQueue p n f).pool = s.pool := rfl
@[simp] theorem State.updQueue_poolBad (p n : Nat) (f : Queue → Queue) : (s.updQueue p n f).poolBad = s.poolBad := rfl
@[simp] theorem State.updQueue_spd (p n : Nat) (f : Queue → Queue) : (s.updQueue p n f).spd = s.spd := rfl
@[simp] theorem State.updQueue_spdBad (p n : Nat) (f : Queue → Queue) : (s.updQueue p n f).spdBad = s.spdBad := rfl
@[simp] theorem State.updQueue_spdDir (p n : Nat) (f : Queue → Queue) : (s.updQueue p n f).spdDir = s.spdDir := rfl
@[simp] theorem State.updQueue_spdDirBad (p n : Nat) (f : Queue → Queue) : (s.updQueue p n f).spdDirBad = s.spdDirBad := rfl
@[simp] theorem State.updQueue_basin (p n : Nat) (f : Queue → Queue) : (s.updQueue p n f).basin = s.basin := rfl
@[simp] theorem State.updQueue_out (p n : Nat) (f : Queue → Queue) : (s.updQueue p n f).out = s.out := rfl
@[simp] theorem State.updQueue_mctpNegotiated (p n : Nat) (f : Queue → Queue) : (s.updQueue p n f).mctpNegotiated = s.mctpNegotiated := rfl
@[simp] theorem State.updQueue_draws (p n : Nat) (f : Queue → Queue) : (s.updQueue p n f).draws = s.draws := rfl
@[simp] theorem State.updQueue_pending (p n : Nat) (f : Queue → Queue) : (s.updQueue p n f).pending = s.pending := rfl

/-! ### updOp changes `prts` -/

@[simp] theorem State.updOp_dev (p seq : Nat) (f : OpRec → OpRec) : (s.updOp p seq f).dev = s.dev := rfl
@[simp] theorem State.updOp_fuses (p seq : Nat) (f : OpRec → OpRec) : (s.updOp p seq f).fuses = s.fuses := rfl
@[simp] theorem State.updOp_sec (p seq : Nat) (f : OpRec → OpRec) : (s.updOp p seq f).sec = s.sec := rfl
@[simp] theorem State.updOp_mgc (p seq : Nat) (f : OpRec → OpRec) : (s.updOp p seq f).mgc = s.mgc := rfl
@[simp] theorem State.updOp_hlt (p seq : Nat) (f : OpRec → OpRec) : (s.updOp p seq f).hlt = s.hlt := rfl
@[simp] theorem State.updOp_hdrs (p seq : Nat) (f : OpRec → OpRec) : (s.updOp p seq f).hdrs = s.hdrs := rfl
@[simp] theorem State.updOp_hsts (p seq : Nat) (f : OpRec → OpRec) : (s.updOp p seq f).hsts = s.hsts := rfl
@[simp] theorem State.updOp_lnks (p seq : Nat) (f : OpRec → OpRec) : (s.updOp p seq f).lnks = s.lnks := rfl
@[simp] theorem State.updOp_bass (p seq : Nat) (f : OpRec → OpRec) : (s.updOp p seq f).bass = s.bass := rfl
@[simp] theorem State.updOp_mces (p seq : Nat) (f : OpRec → OpRec) : (s.updOp p seq f).mces = s.mces := rfl
@[simp] theorem State.updOp_upds (p seq : Nat) (f : OpRec → OpRec) : (s.updOp p seq f).upds = s.upds := rfl
@[simp] theorem State.updOp_weirs (p seq : Nat) (f : OpRec → OpRec) : (s.updOp p seq f).weirs = s.weirs := rfl
@[simp] theorem State.updOp_temps (p seq : Nat) (f : OpRec → OpRec) : (s.updOp p seq f).temps = s.temps := rfl
@[simp] theorem State.updOp_droops (p seq : Nat) (f : OpRec → OpRec) : (s.updOp p seq f).droops = s.droops := rfl
@[simp] theorem State.updOp_poolState (p seq : Nat) (f : OpRec → OpRec) : (s.updOp p seq f).poolState = s.poolState := rfl
@[simp] theorem State.updOp_poolPasses (p seq : Nat) (f : OpRec → OpRec) : (s.updOp p seq f).poolPasses = s.poolPasses := rfl
@[simp] theorem State.updOp_vecState (p seq : Nat) (f : OpRec → OpRec) : (s.updOp p seq f).vecState = s.vecState := rfl
@[simp] theorem State.updOp_vecFails (p seq : Nat) (f : OpRec → OpRec) : (s.updOp p seq f).vecFails = s.vecFails := rfl
@[simp] theorem State.updOp_grantWaits (p seq : Nat) (f : OpRec → OpRec) : (s.updOp p seq f).grantWaits = s.grantWaits := rfl
@[simp] theorem State.updOp_engs (p seq : Nat) (f : OpRec → OpRec) : (s.updOp p seq f).engs = s.engs := rfl
@[simp] theorem State.updOp_partials (p seq : Nat) (f : OpRec → OpRec) : (s.updOp p seq f).partials = s.partials := rfl
@[simp] theorem State.updOp_pool (p seq : Nat) (f : OpRec → OpRec) : (s.updOp p seq f).pool = s.pool := rfl
@[simp] theorem State.updOp_poolBad (p seq : Nat) (f : OpRec → OpRec) : (s.updOp p seq f).poolBad = s.poolBad := rfl
@[simp] theorem State.updOp_spd (p seq : Nat) (f : OpRec → OpRec) : (s.updOp p seq f).spd = s.spd := rfl
@[simp] theorem State.updOp_spdBad (p seq : Nat) (f : OpRec → OpRec) : (s.updOp p seq f).spdBad = s.spdBad := rfl
@[simp] theorem State.updOp_spdDir (p seq : Nat) (f : OpRec → OpRec) : (s.updOp p seq f).spdDir = s.spdDir := rfl
@[simp] theorem State.updOp_spdDirBad (p seq : Nat) (f : OpRec → OpRec) : (s.updOp p seq f).spdDirBad = s.spdDirBad := rfl
@[simp] theorem State.updOp_basin (p seq : Nat) (f : OpRec → OpRec) : (s.updOp p seq f).basin = s.basin := rfl
@[simp] theorem State.updOp_out (p seq : Nat) (f : OpRec → OpRec) : (s.updOp p seq f).out = s.out := rfl
@[simp] theorem State.updOp_mctpNegotiated (p seq : Nat) (f : OpRec → OpRec) : (s.updOp p seq f).mctpNegotiated = s.mctpNegotiated := rfl
@[simp] theorem State.updOp_draws (p seq : Nat) (f : OpRec → OpRec) : (s.updOp p seq f).draws = s.draws := rfl
@[simp] theorem State.updOp_pending (p seq : Nat) (f : OpRec → OpRec) : (s.updOp p seq f).pending = s.pending := rfl

/-! ### updDev changes `dev` -/

@[simp] theorem State.updDev_fuses (f : Dev → Dev) : (s.updDev f).fuses = s.fuses := rfl
@[simp] theorem State.updDev_sec (f : Dev → Dev) : (s.updDev f).sec = s.sec := rfl
@[simp] theorem State.updDev_mgc (f : Dev → Dev) : (s.updDev f).mgc = s.mgc := rfl
@[simp] theorem State.updDev_hlt (f : Dev → Dev) : (s.updDev f).hlt = s.hlt := rfl
@[simp] theorem State.updDev_hdrs (f : Dev → Dev) : (s.updDev f).hdrs = s.hdrs := rfl
@[simp] theorem State.updDev_prts (f : Dev → Dev) : (s.updDev f).prts = s.prts := rfl
@[simp] theorem State.updDev_hsts (f : Dev → Dev) : (s.updDev f).hsts = s.hsts := rfl
@[simp] theorem State.updDev_lnks (f : Dev → Dev) : (s.updDev f).lnks = s.lnks := rfl
@[simp] theorem State.updDev_bass (f : Dev → Dev) : (s.updDev f).bass = s.bass := rfl
@[simp] theorem State.updDev_mces (f : Dev → Dev) : (s.updDev f).mces = s.mces := rfl
@[simp] theorem State.updDev_upds (f : Dev → Dev) : (s.updDev f).upds = s.upds := rfl
@[simp] theorem State.updDev_weirs (f : Dev → Dev) : (s.updDev f).weirs = s.weirs := rfl
@[simp] theorem State.updDev_temps (f : Dev → Dev) : (s.updDev f).temps = s.temps := rfl
@[simp] theorem State.updDev_droops (f : Dev → Dev) : (s.updDev f).droops = s.droops := rfl
@[simp] theorem State.updDev_poolState (f : Dev → Dev) : (s.updDev f).poolState = s.poolState := rfl
@[simp] theorem State.updDev_poolPasses (f : Dev → Dev) : (s.updDev f).poolPasses = s.poolPasses := rfl
@[simp] theorem State.updDev_vecState (f : Dev → Dev) : (s.updDev f).vecState = s.vecState := rfl
@[simp] theorem State.updDev_vecFails (f : Dev → Dev) : (s.updDev f).vecFails = s.vecFails := rfl
@[simp] theorem State.updDev_grantWaits (f : Dev → Dev) : (s.updDev f).grantWaits = s.grantWaits := rfl
@[simp] theorem State.updDev_engs (f : Dev → Dev) : (s.updDev f).engs = s.engs := rfl
@[simp] theorem State.updDev_partials (f : Dev → Dev) : (s.updDev f).partials = s.partials := rfl
@[simp] theorem State.updDev_pool (f : Dev → Dev) : (s.updDev f).pool = s.pool := rfl
@[simp] theorem State.updDev_poolBad (f : Dev → Dev) : (s.updDev f).poolBad = s.poolBad := rfl
@[simp] theorem State.updDev_spd (f : Dev → Dev) : (s.updDev f).spd = s.spd := rfl
@[simp] theorem State.updDev_spdBad (f : Dev → Dev) : (s.updDev f).spdBad = s.spdBad := rfl
@[simp] theorem State.updDev_spdDir (f : Dev → Dev) : (s.updDev f).spdDir = s.spdDir := rfl
@[simp] theorem State.updDev_spdDirBad (f : Dev → Dev) : (s.updDev f).spdDirBad = s.spdDirBad := rfl
@[simp] theorem State.updDev_basin (f : Dev → Dev) : (s.updDev f).basin = s.basin := rfl
@[simp] theorem State.updDev_out (f : Dev → Dev) : (s.updDev f).out = s.out := rfl
@[simp] theorem State.updDev_mctpNegotiated (f : Dev → Dev) : (s.updDev f).mctpNegotiated = s.mctpNegotiated := rfl
@[simp] theorem State.updDev_draws (f : Dev → Dev) : (s.updDev f).draws = s.draws := rfl
@[simp] theorem State.updDev_pending (f : Dev → Dev) : (s.updDev f).pending = s.pending := rfl
@[simp] theorem State.updDev_dev (f : Dev → Dev) : (s.updDev f).dev = f s.dev := rfl

/-! ### updHlt changes `hlt` -/

@[simp] theorem State.updHlt_dev (f : Hlt → Hlt) : (s.updHlt f).dev = s.dev := rfl
@[simp] theorem State.updHlt_fuses (f : Hlt → Hlt) : (s.updHlt f).fuses = s.fuses := rfl
@[simp] theorem State.updHlt_sec (f : Hlt → Hlt) : (s.updHlt f).sec = s.sec := rfl
@[simp] theorem State.updHlt_mgc (f : Hlt → Hlt) : (s.updHlt f).mgc = s.mgc := rfl
@[simp] theorem State.updHlt_hdrs (f : Hlt → Hlt) : (s.updHlt f).hdrs = s.hdrs := rfl
@[simp] theorem State.updHlt_prts (f : Hlt → Hlt) : (s.updHlt f).prts = s.prts := rfl
@[simp] theorem State.updHlt_hsts (f : Hlt → Hlt) : (s.updHlt f).hsts = s.hsts := rfl
@[simp] theorem State.updHlt_lnks (f : Hlt → Hlt) : (s.updHlt f).lnks = s.lnks := rfl
@[simp] theorem State.updHlt_bass (f : Hlt → Hlt) : (s.updHlt f).bass = s.bass := rfl
@[simp] theorem State.updHlt_mces (f : Hlt → Hlt) : (s.updHlt f).mces = s.mces := rfl
@[simp] theorem State.updHlt_upds (f : Hlt → Hlt) : (s.updHlt f).upds = s.upds := rfl
@[simp] theorem State.updHlt_weirs (f : Hlt → Hlt) : (s.updHlt f).weirs = s.weirs := rfl
@[simp] theorem State.updHlt_temps (f : Hlt → Hlt) : (s.updHlt f).temps = s.temps := rfl
@[simp] theorem State.updHlt_droops (f : Hlt → Hlt) : (s.updHlt f).droops = s.droops := rfl
@[simp] theorem State.updHlt_poolState (f : Hlt → Hlt) : (s.updHlt f).poolState = s.poolState := rfl
@[simp] theorem State.updHlt_poolPasses (f : Hlt → Hlt) : (s.updHlt f).poolPasses = s.poolPasses := rfl
@[simp] theorem State.updHlt_vecState (f : Hlt → Hlt) : (s.updHlt f).vecState = s.vecState := rfl
@[simp] theorem State.updHlt_vecFails (f : Hlt → Hlt) : (s.updHlt f).vecFails = s.vecFails := rfl
@[simp] theorem State.updHlt_grantWaits (f : Hlt → Hlt) : (s.updHlt f).grantWaits = s.grantWaits := rfl
@[simp] theorem State.updHlt_engs (f : Hlt → Hlt) : (s.updHlt f).engs = s.engs := rfl
@[simp] theorem State.updHlt_partials (f : Hlt → Hlt) : (s.updHlt f).partials = s.partials := rfl
@[simp] theorem State.updHlt_pool (f : Hlt → Hlt) : (s.updHlt f).pool = s.pool := rfl
@[simp] theorem State.updHlt_poolBad (f : Hlt → Hlt) : (s.updHlt f).poolBad = s.poolBad := rfl
@[simp] theorem State.updHlt_spd (f : Hlt → Hlt) : (s.updHlt f).spd = s.spd := rfl
@[simp] theorem State.updHlt_spdBad (f : Hlt → Hlt) : (s.updHlt f).spdBad = s.spdBad := rfl
@[simp] theorem State.updHlt_spdDir (f : Hlt → Hlt) : (s.updHlt f).spdDir = s.spdDir := rfl
@[simp] theorem State.updHlt_spdDirBad (f : Hlt → Hlt) : (s.updHlt f).spdDirBad = s.spdDirBad := rfl
@[simp] theorem State.updHlt_basin (f : Hlt → Hlt) : (s.updHlt f).basin = s.basin := rfl
@[simp] theorem State.updHlt_out (f : Hlt → Hlt) : (s.updHlt f).out = s.out := rfl
@[simp] theorem State.updHlt_mctpNegotiated (f : Hlt → Hlt) : (s.updHlt f).mctpNegotiated = s.mctpNegotiated := rfl
@[simp] theorem State.updHlt_draws (f : Hlt → Hlt) : (s.updHlt f).draws = s.draws := rfl
@[simp] theorem State.updHlt_pending (f : Hlt → Hlt) : (s.updHlt f).pending = s.pending := rfl
@[simp] theorem State.updHlt_hlt (f : Hlt → Hlt) : (s.updHlt f).hlt = f s.hlt := rfl

/-! ### updSec changes `sec` -/

@[simp] theorem State.updSec_dev (f : Sec → Sec) : (s.updSec f).dev = s.dev := rfl
@[simp] theorem State.updSec_fuses (f : Sec → Sec) : (s.updSec f).fuses = s.fuses := rfl
@[simp] theorem State.updSec_mgc (f : Sec → Sec) : (s.updSec f).mgc = s.mgc := rfl
@[simp] theorem State.updSec_hlt (f : Sec → Sec) : (s.updSec f).hlt = s.hlt := rfl
@[simp] theorem State.updSec_hdrs (f : Sec → Sec) : (s.updSec f).hdrs = s.hdrs := rfl
@[simp] theorem State.updSec_prts (f : Sec → Sec) : (s.updSec f).prts = s.prts := rfl
@[simp] theorem State.updSec_hsts (f : Sec → Sec) : (s.updSec f).hsts = s.hsts := rfl
@[simp] theorem State.updSec_lnks (f : Sec → Sec) : (s.updSec f).lnks = s.lnks := rfl
@[simp] theorem State.updSec_bass (f : Sec → Sec) : (s.updSec f).bass = s.bass := rfl
@[simp] theorem State.updSec_mces (f : Sec → Sec) : (s.updSec f).mces = s.mces := rfl
@[simp] theorem State.updSec_upds (f : Sec → Sec) : (s.updSec f).upds = s.upds := rfl
@[simp] theorem State.updSec_weirs (f : Sec → Sec) : (s.updSec f).weirs = s.weirs := rfl
@[simp] theorem State.updSec_temps (f : Sec → Sec) : (s.updSec f).temps = s.temps := rfl
@[simp] theorem State.updSec_droops (f : Sec → Sec) : (s.updSec f).droops = s.droops := rfl
@[simp] theorem State.updSec_poolState (f : Sec → Sec) : (s.updSec f).poolState = s.poolState := rfl
@[simp] theorem State.updSec_poolPasses (f : Sec → Sec) : (s.updSec f).poolPasses = s.poolPasses := rfl
@[simp] theorem State.updSec_vecState (f : Sec → Sec) : (s.updSec f).vecState = s.vecState := rfl
@[simp] theorem State.updSec_vecFails (f : Sec → Sec) : (s.updSec f).vecFails = s.vecFails := rfl
@[simp] theorem State.updSec_grantWaits (f : Sec → Sec) : (s.updSec f).grantWaits = s.grantWaits := rfl
@[simp] theorem State.updSec_engs (f : Sec → Sec) : (s.updSec f).engs = s.engs := rfl
@[simp] theorem State.updSec_partials (f : Sec → Sec) : (s.updSec f).partials = s.partials := rfl
@[simp] theorem State.updSec_pool (f : Sec → Sec) : (s.updSec f).pool = s.pool := rfl
@[simp] theorem State.updSec_poolBad (f : Sec → Sec) : (s.updSec f).poolBad = s.poolBad := rfl
@[simp] theorem State.updSec_spd (f : Sec → Sec) : (s.updSec f).spd = s.spd := rfl
@[simp] theorem State.updSec_spdBad (f : Sec → Sec) : (s.updSec f).spdBad = s.spdBad := rfl
@[simp] theorem State.updSec_spdDir (f : Sec → Sec) : (s.updSec f).spdDir = s.spdDir := rfl
@[simp] theorem State.updSec_spdDirBad (f : Sec → Sec) : (s.updSec f).spdDirBad = s.spdDirBad := rfl
@[simp] theorem State.updSec_basin (f : Sec → Sec) : (s.updSec f).basin = s.basin := rfl
@[simp] theorem State.updSec_out (f : Sec → Sec) : (s.updSec f).out = s.out := rfl
@[simp] theorem State.updSec_mctpNegotiated (f : Sec → Sec) : (s.updSec f).mctpNegotiated = s.mctpNegotiated := rfl
@[simp] theorem State.updSec_draws (f : Sec → Sec) : (s.updSec f).draws = s.draws := rfl
@[simp] theorem State.updSec_pending (f : Sec → Sec) : (s.updSec f).pending = s.pending := rfl
@[simp] theorem State.updSec_sec (f : Sec → Sec) : (s.updSec f).sec = f s.sec := rfl

/-! ### updHdr changes `hdrs` -/

@[simp] theorem State.updHdr_dev (n : Nat) (f : Hdr → Hdr) : (s.updHdr n f).dev = s.dev := rfl
@[simp] theorem State.updHdr_fuses (n : Nat) (f : Hdr → Hdr) : (s.updHdr n f).fuses = s.fuses := rfl
@[simp] theorem State.updHdr_sec (n : Nat) (f : Hdr → Hdr) : (s.updHdr n f).sec = s.sec := rfl
@[simp] theorem State.updHdr_mgc (n : Nat) (f : Hdr → Hdr) : (s.updHdr n f).mgc = s.mgc := rfl
@[simp] theorem State.updHdr_hlt (n : Nat) (f : Hdr → Hdr) : (s.updHdr n f).hlt = s.hlt := rfl
@[simp] theorem State.updHdr_prts (n : Nat) (f : Hdr → Hdr) : (s.updHdr n f).prts = s.prts := rfl
@[simp] theorem State.updHdr_hsts (n : Nat) (f : Hdr → Hdr) : (s.updHdr n f).hsts = s.hsts := rfl
@[simp] theorem State.updHdr_lnks (n : Nat) (f : Hdr → Hdr) : (s.updHdr n f).lnks = s.lnks := rfl
@[simp] theorem State.updHdr_bass (n : Nat) (f : Hdr → Hdr) : (s.updHdr n f).bass = s.bass := rfl
@[simp] theorem State.updHdr_mces (n : Nat) (f : Hdr → Hdr) : (s.updHdr n f).mces = s.mces := rfl
@[simp] theorem State.updHdr_upds (n : Nat) (f : Hdr → Hdr) : (s.updHdr n f).upds = s.upds := rfl
@[simp] theorem State.updHdr_weirs (n : Nat) (f : Hdr → Hdr) : (s.updHdr n f).weirs = s.weirs := rfl
@[simp] theorem State.updHdr_temps (n : Nat) (f : Hdr → Hdr) : (s.updHdr n f).temps = s.temps := rfl
@[simp] theorem State.updHdr_droops (n : Nat) (f : Hdr → Hdr) : (s.updHdr n f).droops = s.droops := rfl
@[simp] theorem State.updHdr_poolState (n : Nat) (f : Hdr → Hdr) : (s.updHdr n f).poolState = s.poolState := rfl
@[simp] theorem State.updHdr_poolPasses (n : Nat) (f : Hdr → Hdr) : (s.updHdr n f).poolPasses = s.poolPasses := rfl
@[simp] theorem State.updHdr_vecState (n : Nat) (f : Hdr → Hdr) : (s.updHdr n f).vecState = s.vecState := rfl
@[simp] theorem State.updHdr_vecFails (n : Nat) (f : Hdr → Hdr) : (s.updHdr n f).vecFails = s.vecFails := rfl
@[simp] theorem State.updHdr_grantWaits (n : Nat) (f : Hdr → Hdr) : (s.updHdr n f).grantWaits = s.grantWaits := rfl
@[simp] theorem State.updHdr_engs (n : Nat) (f : Hdr → Hdr) : (s.updHdr n f).engs = s.engs := rfl
@[simp] theorem State.updHdr_partials (n : Nat) (f : Hdr → Hdr) : (s.updHdr n f).partials = s.partials := rfl
@[simp] theorem State.updHdr_pool (n : Nat) (f : Hdr → Hdr) : (s.updHdr n f).pool = s.pool := rfl
@[simp] theorem State.updHdr_poolBad (n : Nat) (f : Hdr → Hdr) : (s.updHdr n f).poolBad = s.poolBad := rfl
@[simp] theorem State.updHdr_spd (n : Nat) (f : Hdr → Hdr) : (s.updHdr n f).spd = s.spd := rfl
@[simp] theorem State.updHdr_spdBad (n : Nat) (f : Hdr → Hdr) : (s.updHdr n f).spdBad = s.spdBad := rfl
@[simp] theorem State.updHdr_spdDir (n : Nat) (f : Hdr → Hdr) : (s.updHdr n f).spdDir = s.spdDir := rfl
@[simp] theorem State.updHdr_spdDirBad (n : Nat) (f : Hdr → Hdr) : (s.updHdr n f).spdDirBad = s.spdDirBad := rfl
@[simp] theorem State.updHdr_basin (n : Nat) (f : Hdr → Hdr) : (s.updHdr n f).basin = s.basin := rfl
@[simp] theorem State.updHdr_out (n : Nat) (f : Hdr → Hdr) : (s.updHdr n f).out = s.out := rfl
@[simp] theorem State.updHdr_mctpNegotiated (n : Nat) (f : Hdr → Hdr) : (s.updHdr n f).mctpNegotiated = s.mctpNegotiated := rfl
@[simp] theorem State.updHdr_draws (n : Nat) (f : Hdr → Hdr) : (s.updHdr n f).draws = s.draws := rfl
@[simp] theorem State.updHdr_pending (n : Nat) (f : Hdr → Hdr) : (s.updHdr n f).pending = s.pending := rfl

/-! ### emit changes `out` -/

@[simp] theorem State.emit_dev (o : Output) : (s.emit o).dev = s.dev := rfl
@[simp] theorem State.emit_fuses (o : Output) : (s.emit o).fuses = s.fuses := rfl
@[simp] theorem State.emit_sec (o : Output) : (s.emit o).sec = s.sec := rfl
@[simp] theorem State.emit_mgc (o : Output) : (s.emit o).mgc = s.mgc := rfl
@[simp] theorem State.emit_hlt (o : Output) : (s.emit o).hlt = s.hlt := rfl
@[simp] theorem State.emit_hdrs (o : Output) : (s.emit o).hdrs = s.hdrs := rfl
@[simp] theorem State.emit_prts (o : Output) : (s.emit o).prts = s.prts := rfl
@[simp] theorem State.emit_hsts (o : Output) : (s.emit o).hsts = s.hsts := rfl
@[simp] theorem State.emit_lnks (o : Output) : (s.emit o).lnks = s.lnks := rfl
@[simp] theorem State.emit_bass (o : Output) : (s.emit o).bass = s.bass := rfl
@[simp] theorem State.emit_mces (o : Output) : (s.emit o).mces = s.mces := rfl
@[simp] theorem State.emit_upds (o : Output) : (s.emit o).upds = s.upds := rfl
@[simp] theorem State.emit_weirs (o : Output) : (s.emit o).weirs = s.weirs := rfl
@[simp] theorem State.emit_temps (o : Output) : (s.emit o).temps = s.temps := rfl
@[simp] theorem State.emit_droops (o : Output) : (s.emit o).droops = s.droops := rfl
@[simp] theorem State.emit_poolState (o : Output) : (s.emit o).poolState = s.poolState := rfl
@[simp] theorem State.emit_poolPasses (o : Output) : (s.emit o).poolPasses = s.poolPasses := rfl
@[simp] theorem State.emit_vecState (o : Output) : (s.emit o).vecState = s.vecState := rfl
@[simp] theorem State.emit_vecFails (o : Output) : (s.emit o).vecFails = s.vecFails := rfl
@[simp] theorem State.emit_grantWaits (o : Output) : (s.emit o).grantWaits = s.grantWaits := rfl
@[simp] theorem State.emit_engs (o : Output) : (s.emit o).engs = s.engs := rfl
@[simp] theorem State.emit_partials (o : Output) : (s.emit o).partials = s.partials := rfl
@[simp] theorem State.emit_pool (o : Output) : (s.emit o).pool = s.pool := rfl
@[simp] theorem State.emit_poolBad (o : Output) : (s.emit o).poolBad = s.poolBad := rfl
@[simp] theorem State.emit_spd (o : Output) : (s.emit o).spd = s.spd := rfl
@[simp] theorem State.emit_spdBad (o : Output) : (s.emit o).spdBad = s.spdBad := rfl
@[simp] theorem State.emit_spdDir (o : Output) : (s.emit o).spdDir = s.spdDir := rfl
@[simp] theorem State.emit_spdDirBad (o : Output) : (s.emit o).spdDirBad = s.spdDirBad := rfl
@[simp] theorem State.emit_basin (o : Output) : (s.emit o).basin = s.basin := rfl
@[simp] theorem State.emit_mctpNegotiated (o : Output) : (s.emit o).mctpNegotiated = s.mctpNegotiated := rfl
@[simp] theorem State.emit_draws (o : Output) : (s.emit o).draws = s.draws := rfl
@[simp] theorem State.emit_pending (o : Output) : (s.emit o).pending = s.pending := rfl
@[simp] theorem State.emit_out (o : Output) : (s.emit o).out = s.out ++ [o] := rfl

/-! ### raiseErr changes `hdrs` -/

@[simp] theorem State.raiseErr_dev (n b : Nat) (info : Reg) : (s.raiseErr n b info).dev = s.dev := rfl
@[simp] theorem State.raiseErr_fuses (n b : Nat) (info : Reg) : (s.raiseErr n b info).fuses = s.fuses := rfl
@[simp] theorem State.raiseErr_sec (n b : Nat) (info : Reg) : (s.raiseErr n b info).sec = s.sec := rfl
@[simp] theorem State.raiseErr_mgc (n b : Nat) (info : Reg) : (s.raiseErr n b info).mgc = s.mgc := rfl
@[simp] theorem State.raiseErr_hlt (n b : Nat) (info : Reg) : (s.raiseErr n b info).hlt = s.hlt := rfl
@[simp] theorem State.raiseErr_prts (n b : Nat) (info : Reg) : (s.raiseErr n b info).prts = s.prts := rfl
@[simp] theorem State.raiseErr_hsts (n b : Nat) (info : Reg) : (s.raiseErr n b info).hsts = s.hsts := rfl
@[simp] theorem State.raiseErr_lnks (n b : Nat) (info : Reg) : (s.raiseErr n b info).lnks = s.lnks := rfl
@[simp] theorem State.raiseErr_bass (n b : Nat) (info : Reg) : (s.raiseErr n b info).bass = s.bass := rfl
@[simp] theorem State.raiseErr_mces (n b : Nat) (info : Reg) : (s.raiseErr n b info).mces = s.mces := rfl
@[simp] theorem State.raiseErr_upds (n b : Nat) (info : Reg) : (s.raiseErr n b info).upds = s.upds := rfl
@[simp] theorem State.raiseErr_weirs (n b : Nat) (info : Reg) : (s.raiseErr n b info).weirs = s.weirs := rfl
@[simp] theorem State.raiseErr_temps (n b : Nat) (info : Reg) : (s.raiseErr n b info).temps = s.temps := rfl
@[simp] theorem State.raiseErr_droops (n b : Nat) (info : Reg) : (s.raiseErr n b info).droops = s.droops := rfl
@[simp] theorem State.raiseErr_poolState (n b : Nat) (info : Reg) : (s.raiseErr n b info).poolState = s.poolState := rfl
@[simp] theorem State.raiseErr_poolPasses (n b : Nat) (info : Reg) : (s.raiseErr n b info).poolPasses = s.poolPasses := rfl
@[simp] theorem State.raiseErr_vecState (n b : Nat) (info : Reg) : (s.raiseErr n b info).vecState = s.vecState := rfl
@[simp] theorem State.raiseErr_vecFails (n b : Nat) (info : Reg) : (s.raiseErr n b info).vecFails = s.vecFails := rfl
@[simp] theorem State.raiseErr_grantWaits (n b : Nat) (info : Reg) : (s.raiseErr n b info).grantWaits = s.grantWaits := rfl
@[simp] theorem State.raiseErr_engs (n b : Nat) (info : Reg) : (s.raiseErr n b info).engs = s.engs := rfl
@[simp] theorem State.raiseErr_partials (n b : Nat) (info : Reg) : (s.raiseErr n b info).partials = s.partials := rfl
@[simp] theorem State.raiseErr_pool (n b : Nat) (info : Reg) : (s.raiseErr n b info).pool = s.pool := rfl
@[simp] theorem State.raiseErr_poolBad (n b : Nat) (info : Reg) : (s.raiseErr n b info).poolBad = s.poolBad := rfl
@[simp] theorem State.raiseErr_spd (n b : Nat) (info : Reg) : (s.raiseErr n b info).spd = s.spd := rfl
@[simp] theorem State.raiseErr_spdBad (n b : Nat) (info : Reg) : (s.raiseErr n b info).spdBad = s.spdBad := rfl
@[simp] theorem State.raiseErr_spdDir (n b : Nat) (info : Reg) : (s.raiseErr n b info).spdDir = s.spdDir := rfl
@[simp] theorem State.raiseErr_spdDirBad (n b : Nat) (info : Reg) : (s.raiseErr n b info).spdDirBad = s.spdDirBad := rfl
@[simp] theorem State.raiseErr_basin (n b : Nat) (info : Reg) : (s.raiseErr n b info).basin = s.basin := rfl
@[simp] theorem State.raiseErr_out (n b : Nat) (info : Reg) : (s.raiseErr n b info).out = s.out := rfl
@[simp] theorem State.raiseErr_mctpNegotiated (n b : Nat) (info : Reg) : (s.raiseErr n b info).mctpNegotiated = s.mctpNegotiated := rfl
@[simp] theorem State.raiseErr_draws (n b : Nat) (info : Reg) : (s.raiseErr n b info).draws = s.draws := rfl
@[simp] theorem State.raiseErr_pending (n b : Nat) (info : Reg) : (s.raiseErr n b info).pending = s.pending := rfl

/-! ### riskEvent changes `hlt` -/

@[simp] theorem State.riskEvent_dev (i n : Nat) : (s.riskEvent i n).dev = s.dev := rfl
@[simp] theorem State.riskEvent_fuses (i n : Nat) : (s.riskEvent i n).fuses = s.fuses := rfl
@[simp] theorem State.riskEvent_sec (i n : Nat) : (s.riskEvent i n).sec = s.sec := rfl
@[simp] theorem State.riskEvent_mgc (i n : Nat) : (s.riskEvent i n).mgc = s.mgc := rfl
@[simp] theorem State.riskEvent_hdrs (i n : Nat) : (s.riskEvent i n).hdrs = s.hdrs := rfl
@[simp] theorem State.riskEvent_prts (i n : Nat) : (s.riskEvent i n).prts = s.prts := rfl
@[simp] theorem State.riskEvent_hsts (i n : Nat) : (s.riskEvent i n).hsts = s.hsts := rfl
@[simp] theorem State.riskEvent_lnks (i n : Nat) : (s.riskEvent i n).lnks = s.lnks := rfl
@[simp] theorem State.riskEvent_bass (i n : Nat) : (s.riskEvent i n).bass = s.bass := rfl
@[simp] theorem State.riskEvent_mces (i n : Nat) : (s.riskEvent i n).mces = s.mces := rfl
@[simp] theorem State.riskEvent_upds (i n : Nat) : (s.riskEvent i n).upds = s.upds := rfl
@[simp] theorem State.riskEvent_weirs (i n : Nat) : (s.riskEvent i n).weirs = s.weirs := rfl
@[simp] theorem State.riskEvent_temps (i n : Nat) : (s.riskEvent i n).temps = s.temps := rfl
@[simp] theorem State.riskEvent_droops (i n : Nat) : (s.riskEvent i n).droops = s.droops := rfl
@[simp] theorem State.riskEvent_poolState (i n : Nat) : (s.riskEvent i n).poolState = s.poolState := rfl
@[simp] theorem State.riskEvent_poolPasses (i n : Nat) : (s.riskEvent i n).poolPasses = s.poolPasses := rfl
@[simp] theorem State.riskEvent_vecState (i n : Nat) : (s.riskEvent i n).vecState = s.vecState := rfl
@[simp] theorem State.riskEvent_vecFails (i n : Nat) : (s.riskEvent i n).vecFails = s.vecFails := rfl
@[simp] theorem State.riskEvent_grantWaits (i n : Nat) : (s.riskEvent i n).grantWaits = s.grantWaits := rfl
@[simp] theorem State.riskEvent_engs (i n : Nat) : (s.riskEvent i n).engs = s.engs := rfl
@[simp] theorem State.riskEvent_partials (i n : Nat) : (s.riskEvent i n).partials = s.partials := rfl
@[simp] theorem State.riskEvent_pool (i n : Nat) : (s.riskEvent i n).pool = s.pool := rfl
@[simp] theorem State.riskEvent_poolBad (i n : Nat) : (s.riskEvent i n).poolBad = s.poolBad := rfl
@[simp] theorem State.riskEvent_spd (i n : Nat) : (s.riskEvent i n).spd = s.spd := rfl
@[simp] theorem State.riskEvent_spdBad (i n : Nat) : (s.riskEvent i n).spdBad = s.spdBad := rfl
@[simp] theorem State.riskEvent_spdDir (i n : Nat) : (s.riskEvent i n).spdDir = s.spdDir := rfl
@[simp] theorem State.riskEvent_spdDirBad (i n : Nat) : (s.riskEvent i n).spdDirBad = s.spdDirBad := rfl
@[simp] theorem State.riskEvent_basin (i n : Nat) : (s.riskEvent i n).basin = s.basin := rfl
@[simp] theorem State.riskEvent_out (i n : Nat) : (s.riskEvent i n).out = s.out := rfl
@[simp] theorem State.riskEvent_mctpNegotiated (i n : Nat) : (s.riskEvent i n).mctpNegotiated = s.mctpNegotiated := rfl
@[simp] theorem State.riskEvent_draws (i n : Nat) : (s.riskEvent i n).draws = s.draws := rfl
@[simp] theorem State.riskEvent_pending (i n : Nat) : (s.riskEvent i n).pending = s.pending := rfl

/-! ### report changes `hlt` -/

@[simp] theorem State.report_dev (e : CperEvent) : (s.report e).dev = s.dev := rfl
@[simp] theorem State.report_fuses (e : CperEvent) : (s.report e).fuses = s.fuses := rfl
@[simp] theorem State.report_sec (e : CperEvent) : (s.report e).sec = s.sec := rfl
@[simp] theorem State.report_mgc (e : CperEvent) : (s.report e).mgc = s.mgc := rfl
@[simp] theorem State.report_hdrs (e : CperEvent) : (s.report e).hdrs = s.hdrs := rfl
@[simp] theorem State.report_prts (e : CperEvent) : (s.report e).prts = s.prts := rfl
@[simp] theorem State.report_hsts (e : CperEvent) : (s.report e).hsts = s.hsts := rfl
@[simp] theorem State.report_lnks (e : CperEvent) : (s.report e).lnks = s.lnks := rfl
@[simp] theorem State.report_bass (e : CperEvent) : (s.report e).bass = s.bass := rfl
@[simp] theorem State.report_mces (e : CperEvent) : (s.report e).mces = s.mces := rfl
@[simp] theorem State.report_upds (e : CperEvent) : (s.report e).upds = s.upds := rfl
@[simp] theorem State.report_weirs (e : CperEvent) : (s.report e).weirs = s.weirs := rfl
@[simp] theorem State.report_temps (e : CperEvent) : (s.report e).temps = s.temps := rfl
@[simp] theorem State.report_droops (e : CperEvent) : (s.report e).droops = s.droops := rfl
@[simp] theorem State.report_poolState (e : CperEvent) : (s.report e).poolState = s.poolState := rfl
@[simp] theorem State.report_poolPasses (e : CperEvent) : (s.report e).poolPasses = s.poolPasses := rfl
@[simp] theorem State.report_vecState (e : CperEvent) : (s.report e).vecState = s.vecState := rfl
@[simp] theorem State.report_vecFails (e : CperEvent) : (s.report e).vecFails = s.vecFails := rfl
@[simp] theorem State.report_grantWaits (e : CperEvent) : (s.report e).grantWaits = s.grantWaits := rfl
@[simp] theorem State.report_engs (e : CperEvent) : (s.report e).engs = s.engs := rfl
@[simp] theorem State.report_partials (e : CperEvent) : (s.report e).partials = s.partials := rfl
@[simp] theorem State.report_pool (e : CperEvent) : (s.report e).pool = s.pool := rfl
@[simp] theorem State.report_poolBad (e : CperEvent) : (s.report e).poolBad = s.poolBad := rfl
@[simp] theorem State.report_spd (e : CperEvent) : (s.report e).spd = s.spd := rfl
@[simp] theorem State.report_spdBad (e : CperEvent) : (s.report e).spdBad = s.spdBad := rfl
@[simp] theorem State.report_spdDir (e : CperEvent) : (s.report e).spdDir = s.spdDir := rfl
@[simp] theorem State.report_spdDirBad (e : CperEvent) : (s.report e).spdDirBad = s.spdDirBad := rfl
@[simp] theorem State.report_basin (e : CperEvent) : (s.report e).basin = s.basin := rfl
@[simp] theorem State.report_out (e : CperEvent) : (s.report e).out = s.out := rfl
@[simp] theorem State.report_mctpNegotiated (e : CperEvent) : (s.report e).mctpNegotiated = s.mctpNegotiated := rfl
@[simp] theorem State.report_draws (e : CperEvent) : (s.report e).draws = s.draws := rfl
@[simp] theorem State.report_pending (e : CperEvent) : (s.report e).pending = s.pending := rfl

/-! ### drainCause changes `hlt` -/

@[simp] theorem State.drainCause_dev (marks : Nat) : (s.drainCause marks).dev = s.dev := rfl
@[simp] theorem State.drainCause_fuses (marks : Nat) : (s.drainCause marks).fuses = s.fuses := rfl
@[simp] theorem State.drainCause_sec (marks : Nat) : (s.drainCause marks).sec = s.sec := rfl
@[simp] theorem State.drainCause_mgc (marks : Nat) : (s.drainCause marks).mgc = s.mgc := rfl
@[simp] theorem State.drainCause_hdrs (marks : Nat) : (s.drainCause marks).hdrs = s.hdrs := rfl
@[simp] theorem State.drainCause_prts (marks : Nat) : (s.drainCause marks).prts = s.prts := rfl
@[simp] theorem State.drainCause_hsts (marks : Nat) : (s.drainCause marks).hsts = s.hsts := rfl
@[simp] theorem State.drainCause_lnks (marks : Nat) : (s.drainCause marks).lnks = s.lnks := rfl
@[simp] theorem State.drainCause_bass (marks : Nat) : (s.drainCause marks).bass = s.bass := rfl
@[simp] theorem State.drainCause_mces (marks : Nat) : (s.drainCause marks).mces = s.mces := rfl
@[simp] theorem State.drainCause_upds (marks : Nat) : (s.drainCause marks).upds = s.upds := rfl
@[simp] theorem State.drainCause_weirs (marks : Nat) : (s.drainCause marks).weirs = s.weirs := rfl
@[simp] theorem State.drainCause_temps (marks : Nat) : (s.drainCause marks).temps = s.temps := rfl
@[simp] theorem State.drainCause_droops (marks : Nat) : (s.drainCause marks).droops = s.droops := rfl
@[simp] theorem State.drainCause_poolState (marks : Nat) : (s.drainCause marks).poolState = s.poolState := rfl
@[simp] theorem State.drainCause_poolPasses (marks : Nat) : (s.drainCause marks).poolPasses = s.poolPasses := rfl
@[simp] theorem State.drainCause_vecState (marks : Nat) : (s.drainCause marks).vecState = s.vecState := rfl
@[simp] theorem State.drainCause_vecFails (marks : Nat) : (s.drainCause marks).vecFails = s.vecFails := rfl
@[simp] theorem State.drainCause_grantWaits (marks : Nat) : (s.drainCause marks).grantWaits = s.grantWaits := rfl
@[simp] theorem State.drainCause_engs (marks : Nat) : (s.drainCause marks).engs = s.engs := rfl
@[simp] theorem State.drainCause_partials (marks : Nat) : (s.drainCause marks).partials = s.partials := rfl
@[simp] theorem State.drainCause_pool (marks : Nat) : (s.drainCause marks).pool = s.pool := rfl
@[simp] theorem State.drainCause_poolBad (marks : Nat) : (s.drainCause marks).poolBad = s.poolBad := rfl
@[simp] theorem State.drainCause_spd (marks : Nat) : (s.drainCause marks).spd = s.spd := rfl
@[simp] theorem State.drainCause_spdBad (marks : Nat) : (s.drainCause marks).spdBad = s.spdBad := rfl
@[simp] theorem State.drainCause_spdDir (marks : Nat) : (s.drainCause marks).spdDir = s.spdDir := rfl
@[simp] theorem State.drainCause_spdDirBad (marks : Nat) : (s.drainCause marks).spdDirBad = s.spdDirBad := rfl
@[simp] theorem State.drainCause_basin (marks : Nat) : (s.drainCause marks).basin = s.basin := rfl
@[simp] theorem State.drainCause_out (marks : Nat) : (s.drainCause marks).out = s.out := rfl
@[simp] theorem State.drainCause_mctpNegotiated (marks : Nat) : (s.drainCause marks).mctpNegotiated = s.mctpNegotiated := rfl
@[simp] theorem State.drainCause_draws (marks : Nat) : (s.drainCause marks).draws = s.draws := rfl
@[simp] theorem State.drainCause_pending (marks : Nat) : (s.drainCause marks).pending = s.pending := rfl

/-! ### countUe changes `hdrs` -/

@[simp] theorem State.countUe_dev (n : Nat) : (s.countUe n).dev = s.dev := rfl
@[simp] theorem State.countUe_fuses (n : Nat) : (s.countUe n).fuses = s.fuses := rfl
@[simp] theorem State.countUe_sec (n : Nat) : (s.countUe n).sec = s.sec := rfl
@[simp] theorem State.countUe_mgc (n : Nat) : (s.countUe n).mgc = s.mgc := rfl
@[simp] theorem State.countUe_hlt (n : Nat) : (s.countUe n).hlt = s.hlt := rfl
@[simp] theorem State.countUe_prts (n : Nat) : (s.countUe n).prts = s.prts := rfl
@[simp] theorem State.countUe_hsts (n : Nat) : (s.countUe n).hsts = s.hsts := rfl
@[simp] theorem State.countUe_lnks (n : Nat) : (s.countUe n).lnks = s.lnks := rfl
@[simp] theorem State.countUe_bass (n : Nat) : (s.countUe n).bass = s.bass := rfl
@[simp] theorem State.countUe_mces (n : Nat) : (s.countUe n).mces = s.mces := rfl
@[simp] theorem State.countUe_upds (n : Nat) : (s.countUe n).upds = s.upds := rfl
@[simp] theorem State.countUe_weirs (n : Nat) : (s.countUe n).weirs = s.weirs := rfl
@[simp] theorem State.countUe_temps (n : Nat) : (s.countUe n).temps = s.temps := rfl
@[simp] theorem State.countUe_droops (n : Nat) : (s.countUe n).droops = s.droops := rfl
@[simp] theorem State.countUe_poolState (n : Nat) : (s.countUe n).poolState = s.poolState := rfl
@[simp] theorem State.countUe_poolPasses (n : Nat) : (s.countUe n).poolPasses = s.poolPasses := rfl
@[simp] theorem State.countUe_vecState (n : Nat) : (s.countUe n).vecState = s.vecState := rfl
@[simp] theorem State.countUe_vecFails (n : Nat) : (s.countUe n).vecFails = s.vecFails := rfl
@[simp] theorem State.countUe_grantWaits (n : Nat) : (s.countUe n).grantWaits = s.grantWaits := rfl
@[simp] theorem State.countUe_engs (n : Nat) : (s.countUe n).engs = s.engs := rfl
@[simp] theorem State.countUe_partials (n : Nat) : (s.countUe n).partials = s.partials := rfl
@[simp] theorem State.countUe_pool (n : Nat) : (s.countUe n).pool = s.pool := rfl
@[simp] theorem State.countUe_poolBad (n : Nat) : (s.countUe n).poolBad = s.poolBad := rfl
@[simp] theorem State.countUe_spd (n : Nat) : (s.countUe n).spd = s.spd := rfl
@[simp] theorem State.countUe_spdBad (n : Nat) : (s.countUe n).spdBad = s.spdBad := rfl
@[simp] theorem State.countUe_spdDir (n : Nat) : (s.countUe n).spdDir = s.spdDir := rfl
@[simp] theorem State.countUe_spdDirBad (n : Nat) : (s.countUe n).spdDirBad = s.spdDirBad := rfl
@[simp] theorem State.countUe_basin (n : Nat) : (s.countUe n).basin = s.basin := rfl
@[simp] theorem State.countUe_out (n : Nat) : (s.countUe n).out = s.out := rfl
@[simp] theorem State.countUe_mctpNegotiated (n : Nat) : (s.countUe n).mctpNegotiated = s.mctpNegotiated := rfl
@[simp] theorem State.countUe_draws (n : Nat) : (s.countUe n).draws = s.draws := rfl
@[simp] theorem State.countUe_pending (n : Nat) : (s.countUe n).pending = s.pending := rfl

end Sys2Proof.Machine
end

