-- ==== Sys2Proof/Laws/Keeps.lean ====
section
/-! SUPPORT. What every operation of the block keeps: the queue, the fuses, the debug lock, the supply settings, the canonical
form of memories and tables, what has been sent. One relation, closed under the updates of the state. -/

namespace Sys2Proof.Machine


/-- From `s` to `t` nothing that the whole machine guarantees is lost; a `calm` step also leaves the device page, the fuses,
the security controller and the management controller as they are. -/
structure Keeps (calm : Bool) (s t : State) : Prop where
  pending : t.pending = s.pending
  fuses : FusesKept s t
  jtag : t.dev.jtagEnabled = true → s.dev.jtagEnabled = true ∨ s.fuses.debugDisabled = false
  inject : t.dev.injectEnabled = true → s.dev.injectEnabled = true ∨ s.fuses.debugDisabled = false
  debugUsed : t.dev.debugUsed = true → s.dev.debugUsed = true ∨ s.fuses.debugDisabled = false
  power : PowerSane s → PowerSane t
  memory : Memory.wf s = true → Memory.wf t = true
  blocks : Blocks.wf s = true → Blocks.wf t = true
  out : s.out <+: t.out
  draws : s.draws ≤ t.draws
  still : calm = true → t.dev = s.dev ∧ t.fuses = s.fuses ∧ t.sec = s.sec ∧ t.mgc = s.mgc

variable {calm : Bool}

theorem fusesKept_refl (s : State) : FusesKept s s :=
  ⟨rfl, rfl, rfl, id, fun _ => le_refl _, fun h => ⟨le_refl _, h⟩⟩

theorem fusesKept_trans {s t u : State} (a : FusesKept s t) (b : FusesKept t u) : FusesKept s u :=
  ⟨b.1.trans a.1, b.2.1.trans a.2.1, b.2.2.1.trans a.2.2.1, fun h => b.2.2.2.1 (a.2.2.2.1 h),
    fun i => le_trans (a.2.2.2.2.1 i) (b.2.2.2.2.1 i),
    fun h => ⟨le_trans (a.2.2.2.2.2 h).1 (b.2.2.2.2.2 (a.2.2.2.2.2 h).2).1, (b.2.2.2.2.2 (a.2.2.2.2.2 h).2).2⟩⟩

theorem Keeps.refl (s : State) : Keeps calm s s :=
  ⟨rfl, fusesKept_refl s, .inl, .inl, .inl, id, id, id, List.prefix_refl _, le_refl _, fun _ => ⟨rfl, rfl, rfl, rfl⟩⟩

theorem Keeps.trans {s t u : State} (a : Keeps calm s t) (b : Keeps calm t u) : Keeps calm s u := by
  refine ⟨b.pending.trans a.pending, fusesKept_trans a.fuses b.fuses, ?_, ?_, ?_, fun h => b.power (a.power h),
    fun h => b.memory (a.memory h), fun h => b.blocks (a.blocks h), a.out.trans b.out, le_trans a.draws b.draws,
    fun h => ⟨(b.still h).1.trans (a.still h).1, (b.still h).2.1.trans (a.still h).2.1, (b.still h).2.2.1.trans (a.still h).2.2.1,
      (b.still h).2.2.2.trans (a.still h).2.2.2⟩⟩
  · intro h; rcases b.jtag h with h | h
    · exact a.jtag h
    · exact .inr (a.fuses.2.1 ▸ h)
  · intro h; rcases b.inject h with h | h
    · exact a.inject h
    · exact .inr (a.fuses.2.1 ▸ h)
  · intro h; rcases b.debugUsed h with h | h
    · exact a.debugUsed h
    · exact .inr (a.fuses.2.1 ▸ h)

/-- An update of the fields that the guarantees do not mention. -/
theorem Keeps.of_same {s t u : State} (h : Keeps calm s t)
    (h0 : calm = true → u.sec = t.sec ∧ u.mgc = t.mgc) (h1 : u.pending = t.pending) (h2 : u.fuses = t.fuses) (h3 : u.dev = t.dev)
    (h4 : u.pool = t.pool) (h5 : u.poolBad = t.poolBad) (h6 : u.spd = t.spd) (h7 : u.spdBad = t.spdBad)
    (h8 : u.spdDir = t.spdDir) (h9 : u.spdDirBad = t.spdDirBad) (h10 : u.basin = t.basin) (h11 : Blocks.wf t = true → Blocks.wf u = true)
    (h12 : t.out <+: u.out) (h13 : t.draws ≤ u.draws) : Keeps calm s u := by
  refine h.trans ⟨h1, ?_, ?_, ?_, ?_, ?_, ?_, h11, h12, h13, fun h => ⟨h3, h2, (h0 h).1, (h0 h).2⟩⟩
  · simpa only [FusesKept, h2] using fusesKept_refl t
  · rw [h3]; exact .inl
  · rw [h3]; exact .inl
  · rw [h3]; exact .inl
  · simp only [PowerSane, h2, h3]; exact id
  · simp only [Memory.wf, h4, h5, h6, h7, h8, h9, h10]; exact id

/-- A state written out field by field, from one that keeps the guarantees. -/
theorem keeps_mk {s t : State} {dev fuses sec mgc hlt hdrs prts hsts lnks bass mces upds weirs temps droops poolState poolPasses
    vecState vecFails grantWaits engs partials pool poolBad spd spdBad spdDir spdDirBad basin mctpNegotiated out draws pending} (h : Keeps calm s t)
    (h0 : calm = true → sec = t.sec ∧ mgc = t.mgc)
    (h1 : pending = t.pending) (h2 : fuses = t.fuses) (h3 : dev = t.dev) (h4 : pool = t.pool) (h5 : poolBad = t.poolBad)
    (h6 : spd = t.spd) (h7 : spdBad = t.spdBad) (h8 : spdDir = t.spdDir) (h9 : spdDirBad = t.spdDirBad) (h10 : basin = t.basin)
    (h11 : prts = t.prts) (h12 : hsts = t.hsts) (h13 : lnks = t.lnks) (h14 : bass = t.bass) (h15 : mces = t.mces)
    (h16 : upds = t.upds) (h17 : weirs = t.weirs) (h18 : out = t.out) (h19 : t.draws ≤ draws) :
    Keeps calm s ⟨dev, fuses, sec, mgc, hlt, hdrs, prts, hsts, lnks, bass, mces, upds, weirs, temps, droops, poolState, poolPasses,
      vecState, vecFails, grantWaits, engs, partials, pool, poolBad, spd, spdBad, spdDir, spdDirBad, basin, mctpNegotiated, out, draws,
      pending⟩ := by
  refine h.of_same h0 h1 h2 h3 h4 h5 h6 h7 h8 h9 h10 ?_ ?_ h19
  · simp only [Blocks.wf, h11, h12, h13, h14, h15, h16, h17]; exact id
  · rw [h18]

/-- An update of the device page that leaves the debug bits and the supply settings. -/
theorem Keeps.of_dev {s t : State} (h : Keeps false s t) (f : Dev → Dev)
    (h1 : (f t.dev).jtagEnabled = t.dev.jtagEnabled) (h2 : (f t.dev).injectEnabled = t.dev.injectEnabled)
    (h3 : (f t.dev).debugUsed = t.dev.debugUsed) (h4 : PowerSane t → PowerSane (t.updDev f)) : Keeps false s (t.updDev f) := by
  refine h.trans ⟨rfl, fusesKept_refl t, ?_, ?_, ?_, h4, id, id, List.prefix_refl _, le_refl _, Bool.noConfusion⟩
  · simp only [State.updDev_dev, h1]; exact .inl
  · simp only [State.updDev_dev, h2]; exact .inl
  · simp only [State.updDev_dev, h3]; exact .inl

/-- An update of the device page that leaves the debug bits, the supply settings and the cap. -/
theorem State.keeps_updDev {s t : State} (h : Keeps false s t) (f : Dev → Dev)
    (hf : ∀ d, (f d).jtagEnabled = d.jtagEnabled ∧ (f d).injectEnabled = d.injectEnabled ∧ (f d).debugUsed = d.debugUsed
      ∧ (f d).vcore = d.vcore ∧ (f d).target = d.target ∧ (f d).cap = d.cap) : Keeps false s (t.updDev f) := by
  obtain ⟨a, b, c, d, e, g⟩ := hf t.dev
  refine h.of_dev f a b c ?_
  simp only [PowerSane, State.updDev_dev, State.updDev_fuses, d, e, g]
  exact id

/-- An update of the memories that keeps their form. -/
theorem Keeps.of_memory {s t u : State} (h : Keeps calm s t)
    (h0 : calm = true → u.sec = t.sec ∧ u.mgc = t.mgc) (h1 : u.pending = t.pending) (h2 : u.fuses = t.fuses)
    (h3 : u.dev = t.dev) (h4 : Memory.wf t = true → Memory.wf u = true) (h5 : Blocks.wf u = Blocks.wf t) (h6 : u.out = t.out)
    (h7 : u.draws = t.draws) : Keeps calm s u := by
  refine h.trans ⟨h1, ?_, ?_, ?_, ?_, ?_, h4, ?_, ?_, ?_, fun h => ⟨h3, h2, (h0 h).1, (h0 h).2⟩⟩
  · simpa only [FusesKept, h2] using fusesKept_refl t
  · rw [h3]; exact .inl
  · rw [h3]; exact .inl
  · rw [h3]; exact .inl
  · simp only [PowerSane, h2, h3]; exact id
  · rw [h5]; exact id
  · rw [h6]
  · rw [h7]

/-! ### Folds -/

theorem keeps_foldl {α : Type} {s : State} (f : State → α → State) (l : List α) (t : State) (h : Keeps calm s t)
    (hf : ∀ u x, Keeps calm s u → Keeps calm s (f u x)) : Keeps calm s (l.foldl f t) := by
  induction l generalizing t with
  | nil => exact h
  | cons x l ih => exact ih _ (hf t x h)

theorem keeps_foldl_snd {α β : Type} {s : State} (g : β × State → α → β) (f : β × State → α → State) (l : List α)
    (t : β × State) (h : Keeps calm s t.2) (hf : ∀ u x, Keeps calm s u.2 → Keeps calm s (f u x)) :
    Keeps calm s (l.foldl (fun u x => (g u x, f u x)) t).2 := by
  induction l generalizing t with
  | nil => exact h
  | cons x l ih => exact ih _ (hf t x h)

theorem keeps_foldl_fst {α β : Type} {s : State} (f : State × β → α → State) (g : State × β → α → β) (l : List α)
    (t : State × β) (h : Keeps calm s t.1) (hf : ∀ u x, Keeps calm s u.1 → Keeps calm s (f u x)) :
    Keeps calm s (l.foldl (fun u x => (f u x, g u x)) t).1 := by
  induction l generalizing t with
  | nil => exact h
  | cons x l ih => exact ih _ (hf t x h)

theorem keeps_pair_fst {β : Type} {s a : State} (h : Keeps calm s a) (b : β) : Keeps calm s (a, b).1 := h

theorem keeps_triple {α β : Type} {s c : State} (h : Keeps calm s c) (a : α) (b : β) : Keeps calm s (a, b, c).2.2 := h

theorem keeps_foldl_triple {α β γ : Type} {s : State} (f : α × β × State → γ → α × β × State) (l : List γ) (t : α × β × State)
    (h : Keeps calm s t.2.2) (hf : ∀ u x, Keeps calm s u.2.2 → Keeps calm s (f u x).2.2) : Keeps calm s (l.foldl f t).2.2 := by
  induction l generalizing t with
  | nil => exact h
  | cons x l ih => exact ih _ (hf t x h)

theorem keeps_foldl_pair {β γ : Type} {s : State} (f : State × β → γ → State × β) (l : List γ) (t : State × β)
    (h : Keeps calm s t.1) (hf : ∀ u x, Keeps calm s u.1 → Keeps calm s (f u x).1) : Keeps calm s (l.foldl f t).1 := by
  induction l generalizing t with
  | nil => exact h
  | cons x l ih => exact ih _ (hf t x h)

theorem keeps_foldl_quad {α β γ δ : Type} {s : State} (f : α × β × γ × State → δ → State) (a : α × β × γ × State → δ → α)
    (b : α × β × γ × State → δ → β) (c : α × β × γ × State → δ → γ) (l : List δ) (t : α × β × γ × State) (h : Keeps calm s t.2.2.2)
    (hf : ∀ u x, Keeps calm s u.2.2.2 → Keeps calm s (f u x)) :
    Keeps calm s (l.foldl (fun u x => (a u x, b u x, c u x, f u x)) t).2.2.2 := by
  induction l generalizing t with
  | nil => exact h
  | cons x l ih => exact ih _ (hf t x h)

theorem keeps_foldl_by {α β : Type} {s : State} (g : β → State) (f : β → α → β) (l : List α) (t : β) (h : Keeps calm s (g t))
    (hf : ∀ u x, Keeps calm s (g u) → Keeps calm s (g (f u x))) : Keeps calm s (g (l.foldl f t)) := by
  induction l generalizing t with
  | nil => exact h
  | cons x l ih => exact ih _ (hf t x h)

theorem keeps_foldl_Work {α : Type} {s : State} (f : Work → α → Work) (l : List α) (t : Work) (h : Keeps calm s t.st)
    (hf : ∀ u x, Keeps calm s u.st → Keeps calm s (f u x).st) : Keeps calm s (l.foldl f t).st := keeps_foldl_by Work.st f l t h hf

theorem keeps_foldl_Stored {α : Type} {s : State} (f : Stored → α → Stored) (l : List α) (t : Stored) (h : Keeps calm s t.st)
    (hf : ∀ u x, Keeps calm s u.st → Keeps calm s (f u x).st) : Keeps calm s (l.foldl f t).st := keeps_foldl_by Stored.st f l t h hf

theorem keeps_foldl_Inputs {α : Type} {s : State} (f : Inputs → α → Inputs) (l : List α) (t : Inputs) (h : Keeps calm s t.st)
    (hf : ∀ u x, Keeps calm s u.st → Keeps calm s (f u x).st) : Keeps calm s (l.foldl f t).st := keeps_foldl_by Inputs.st f l t h hf

theorem keeps_foldl_Body {α : Type} {s : State} (f : Body → α → Body) (l : List α) (t : Body) (h : Keeps calm s t.st)
    (hf : ∀ u x, Keeps calm s u.st → Keeps calm s (f u x).st) : Keeps calm s (l.foldl f t).st := keeps_foldl_by Body.st f l t h hf

theorem keeps_foldl_Direction {α : Type} {s : State} (f : Direction → α → Direction) (l : List α) (t : Direction) (h : Keeps calm s t.st)
    (hf : ∀ u x, Keeps calm s u.st → Keeps calm s (f u x).st) : Keeps calm s (l.foldl f t).st := keeps_foldl_by Direction.st f l t h hf

/-! ### The updates of the state -/

theorem State.keeps_setPrt {s t : State} (h : Keeps calm s t) (p : Nat) (v : Prt) : Keeps calm s (t.setPrt p v) := by
  refine h.of_same (fun _ => ⟨rfl, rfl⟩) rfl rfl rfl rfl rfl rfl rfl rfl rfl rfl ?_ (List.prefix_refl _) (le_refl _)
  simp only [Blocks.wf, State.setPrt, Bool.and_eq_true, and_imp]
  intro a b c d e f g
  exact ⟨⟨⟨⟨⟨⟨Sparse.wf_set _ _ _ _ a, b⟩, c⟩, d⟩, e⟩, f⟩, g⟩

theorem State.keeps_updPrt {s t : State} (h : Keeps calm s t) (p : Nat) (f : Prt → Prt) : Keeps calm s (t.updPrt p f) := h.trans (State.keeps_setPrt (.refl t) p _)

theorem State.keeps_updQueue {s t : State} (h : Keeps calm s t) (p n : Nat) (f : Queue → Queue) : Keeps calm s (t.updQueue p n f) :=
  State.keeps_updPrt h p _

theorem State.keeps_updOp {s t : State} (h : Keeps calm s t) (p seq : Nat) (f : OpRec → OpRec) : Keeps calm s (t.updOp p seq f) :=
  State.keeps_updPrt h p _

theorem State.keeps_updHst {s t : State} (h : Keeps calm s t) (b : Bool) (f : Hst → Hst) : Keeps calm s (t.updHst b f) := by
  refine h.of_same (fun _ => ⟨rfl, rfl⟩) rfl rfl rfl rfl rfl rfl rfl rfl rfl rfl ?_ (List.prefix_refl _) (le_refl _)
  simp only [Blocks.wf, State.updHst, Bool.and_eq_true, and_imp]
  intro a b c d e f g
  exact ⟨⟨⟨⟨⟨⟨a, Sparse.wf_modify _ _ _ _ b⟩, c⟩, d⟩, e⟩, f⟩, g⟩

theorem State.keeps_updLnk {s t : State} (h : Keeps calm s t) (i : Nat) (f : Lnk → Lnk) : Keeps calm s (t.updLnk i f) := by
  refine h.of_same (fun _ => ⟨rfl, rfl⟩) rfl rfl rfl rfl rfl rfl rfl rfl rfl rfl ?_ (List.prefix_refl _) (le_refl _)
  simp only [Blocks.wf, State.updLnk, Bool.and_eq_true, and_imp]
  intro a b c d e f g
  exact ⟨⟨⟨⟨⟨⟨a, b⟩, Sparse.wf_modify _ _ _ _ c⟩, d⟩, e⟩, f⟩, g⟩

theorem State.keeps_updSa {s t : State} (h : Keeps calm s t) (i a : Nat) (f : Sa → Sa) : Keeps calm s (t.updSa i a f) :=
  State.keeps_updLnk h i _

theorem State.keeps_updVc {s t : State} (h : Keeps calm s t) (i v : Nat) (f : Vc → Vc) : Keeps calm s (t.updVc i v f) :=
  State.keeps_updLnk h i _

theorem State.keeps_updMce {s t : State} (h : Keeps calm s t) (m : Nat) (f : Mce → Mce) : Keeps calm s (t.updMce m f) := by
  refine h.of_same (fun _ => ⟨rfl, rfl⟩) rfl rfl rfl rfl rfl rfl rfl rfl rfl rfl ?_ (List.prefix_refl _) (le_refl _)
  simp only [Blocks.wf, State.updMce, Bool.and_eq_true, and_imp]
  intro a b c d e f g
  exact ⟨⟨⟨⟨⟨⟨a, b⟩, c⟩, d⟩, Sparse.wf_modify _ _ _ _ e⟩, f⟩, g⟩

theorem State.keeps_updKey {s t : State} (h : Keeps calm s t) (m k : Nat) (f : KeySlot → KeySlot) : Keeps calm s (t.updKey m k f) :=
  State.keeps_updMce h m _

theorem State.keeps_updBas {s t : State} (h : Keeps calm s t) (k : Nat) (f : Bas → Bas) : Keeps calm s (t.updBas k f) := by
  refine h.of_same (fun _ => ⟨rfl, rfl⟩) rfl rfl rfl rfl rfl rfl rfl rfl rfl rfl ?_ (List.prefix_refl _) (le_refl _)
  simp only [Blocks.wf, State.updBas, Bool.and_eq_true, and_imp]
  intro a b c d e f g
  exact ⟨⟨⟨⟨⟨⟨a, b⟩, c⟩, Sparse.wf_modify _ _ _ _ d⟩, e⟩, f⟩, g⟩

theorem State.keeps_updUpd {s t : State} (h : Keeps calm s t) (k : Nat) (f : Upd → Upd) : Keeps calm s (t.updUpd k f) := by
  refine h.of_same (fun _ => ⟨rfl, rfl⟩) rfl rfl rfl rfl rfl rfl rfl rfl rfl rfl ?_ (List.prefix_refl _) (le_refl _)
  simp only [Blocks.wf, State.updUpd, Bool.and_eq_true, and_imp]
  intro a b c d e f g
  exact ⟨⟨⟨⟨⟨⟨a, b⟩, c⟩, d⟩, e⟩, Sparse.wf_modify _ _ _ _ f⟩, g⟩

theorem State.keeps_updWeir {s t : State} (h : Keeps calm s t) (w : Nat) (f : Weir → Weir) : Keeps calm s (t.updWeir w f) := by
  refine h.of_same (fun _ => ⟨rfl, rfl⟩) rfl rfl rfl rfl rfl rfl rfl rfl rfl rfl ?_ (List.prefix_refl _) (le_refl _)
  simp only [Blocks.wf, State.updWeir, Bool.and_eq_true, and_imp]
  intro a b c d e f g
  exact ⟨⟨⟨⟨⟨⟨a, b⟩, c⟩, d⟩, e⟩, f⟩, Sparse.wf_modify _ _ _ _ g⟩

theorem State.keeps_updEng {s t : State} (h : Keeps calm s t) (c e : Nat) (f : Eng → Eng) : Keeps calm s (t.updEng c e f) :=
  h.of_same (fun _ => ⟨rfl, rfl⟩) rfl rfl rfl rfl rfl rfl rfl rfl rfl rfl id (List.prefix_refl _) (le_refl _)

theorem State.keeps_updHlt {s t : State} (h : Keeps calm s t) (f : Hlt → Hlt) : Keeps calm s (t.updHlt f) :=
  h.of_same (fun _ => ⟨rfl, rfl⟩) rfl rfl rfl rfl rfl rfl rfl rfl rfl rfl id (List.prefix_refl _) (le_refl _)

theorem State.keeps_updSec {s t : State} (h : Keeps false s t) (f : Sec → Sec) : Keeps false s (t.updSec f) :=
  h.of_same Bool.noConfusion rfl rfl rfl rfl rfl rfl rfl rfl rfl rfl id (List.prefix_refl _) (le_refl _)

theorem State.keeps_updHdr {s t : State} (h : Keeps calm s t) (n : Nat) (f : Hdr → Hdr) : Keeps calm s (t.updHdr n f) :=
  h.of_same (fun _ => ⟨rfl, rfl⟩) rfl rfl rfl rfl rfl rfl rfl rfl rfl rfl id (List.prefix_refl _) (le_refl _)

theorem State.keeps_emit {s t : State} (h : Keeps calm s t) (o : Output) : Keeps calm s (t.emit o) :=
  h.of_same (fun _ => ⟨rfl, rfl⟩) rfl rfl rfl rfl rfl rfl rfl rfl rfl rfl id (List.prefix_append _ _) (le_refl _)

end Sys2Proof.Machine
end

