-- ==== Sys2Proof/Laws/KeepsOps.lean ====
section
/-! SUPPORT. What the shared operations, the memories and the tensor references keep: one lemma for each operation and each command. -/

namespace Sys2Proof.Machine

variable {calm : Bool}

/-! ### Ops -/

theorem State.keeps_msix {s : State} {t : State} (h : Keeps calm s t) (h0 : Bool) (fn : Nat) (vector : Nat) :
    Keeps calm s (State.msix t h0 fn vector) := by
  unfold State.msix
  repeat' (first
    | with_reducible assumption | with_reducible apply State.keeps_updHst | with_reducible apply State.keeps_emit
    | dsimp only | split)

theorem State.keeps_msixVf {s : State} {t : State} (h : Keeps calm s t)
    (p : Nat) (vector : Nat) :
    Keeps calm s (State.msixVf t p vector) := by
  unfold State.msixVf
  repeat' (first | with_reducible assumption | with_reducible apply State.keeps_msix | split)

theorem State.keeps_msixPf0 {s : State} {t : State} (h : Keeps calm s t)
    (vector : Nat) :
    Keeps calm s (State.msixPf0 t vector) := by
  unfold State.msixPf0
  repeat' (first | with_reducible assumption | with_reducible apply State.keeps_msix)

theorem State.keeps_setDevState {s : State} {t : State} (h : Keeps false s t)
    (d : DevState) :
    Keeps false s (State.setDevState t d) := by
  unfold State.setDevState
  repeat' (first
    | with_reducible assumption | with_reducible apply State.keeps_msixPf0 | with_reducible apply State.keeps_updDev | split
    | (intro _) | exact ⟨rfl, rfl, rfl, rfl, rfl, rfl⟩)

theorem State.keeps_announce {s : State} {t : State} (h : Keeps false s t)
    (kind : BitVec 8) :
    Keeps false s (State.announce t kind) := by
  unfold State.announce
  repeat' (first
    | with_reducible assumption | with_reducible apply State.keeps_updDev | with_reducible apply State.keeps_msixVf
    | with_reducible apply State.keeps_msixPf0 | with_reducible apply keeps_foldl | (intro _)
    | exact ⟨rfl, rfl, rfl, rfl, rfl, rfl⟩)

theorem State.keeps_raiseErr {s : State} {t : State} (h : Keeps calm s t)
    (n : Nat) (b : Nat) (info : Reg) :
    Keeps calm s (State.raiseErr t n b info) := by
  unfold State.raiseErr
  repeat' (first | with_reducible assumption | with_reducible apply State.keeps_updHdr)

theorem State.keeps_riskEvent {s : State} {t : State} (h : Keeps calm s t)
    (i : Nat) (n : Nat) :
    Keeps calm s (State.riskEvent t i n) := by
  unfold State.riskEvent
  repeat' (first | with_reducible assumption | with_reducible apply State.keeps_updHlt)

theorem State.keeps_countCe {s : State} {t : State} (h : Keeps calm s t)
    (n : Nat) (retry : Bool) :
    Keeps calm s (State.countCe t n retry) := by
  unfold State.countCe
  repeat' (first | with_reducible assumption | with_reducible apply State.keeps_riskEvent | with_reducible apply State.keeps_updHdr)

theorem State.keeps_countUe {s : State} {t : State} (h : Keeps calm s t) (n : Nat) : Keeps calm s (State.countUe t n) := by
  unfold State.countUe
  repeat' (first | with_reducible assumption | with_reducible apply State.keeps_updHdr)

theorem State.keeps_progress {s : State} {t : State} (h : Keeps calm s t)
    (n : Nat) (k : Nat) :
    Keeps calm s (State.progress t n k) := by
  unfold State.progress
  repeat' (first | with_reducible assumption | with_reducible apply State.keeps_updHdr | split)

theorem State.keeps_report {s : State} {t : State} (h : Keeps calm s t) (e : CperEvent) : Keeps calm s (State.report t e) := by
  unfold State.report
  repeat' (first | with_reducible assumption | with_reducible apply State.keeps_updHlt)

theorem State.keeps_drainCause {s : State} {t : State} (h : Keeps calm s t)
    (marks : Nat) :
    Keeps calm s (State.drainCause t marks) := by
  unfold State.drainCause
  repeat' (first | with_reducible assumption | with_reducible apply State.keeps_updHlt)

theorem State.keeps_makeSuspect {s : State} {t : State} (h : Keeps calm s t)
    (page : Nat) :
    Keeps calm s (State.makeSuspect t page) := by
  unfold State.makeSuspect
  repeat' (first
    | with_reducible assumption | with_reducible apply State.keeps_msixPf0 | with_reducible apply State.keeps_updUpd | split
    | refine keeps_mk ?_ (fun _ => ⟨rfl, rfl⟩) rfl rfl rfl rfl rfl rfl rfl rfl rfl rfl rfl rfl rfl rfl rfl rfl rfl rfl (Nat.le_refl _))

theorem State.keeps_drawRandom {s : State} {t : State} (h : Keeps calm s t)  : Keeps calm s (State.drawRandom t).2 := by
  unfold State.drawRandom
  repeat' (first
    | with_reducible assumption
    | refine keeps_mk ?_ (fun _ => ⟨rfl, rfl⟩) rfl rfl rfl rfl rfl rfl rfl rfl rfl rfl rfl rfl rfl rfl rfl rfl rfl rfl (by first | exact Nat.le_refl _ | exact Nat.le_succ _))

theorem State.keeps_stamp {s : State} {t : State} (h : Keeps calm s t) (p : Nat) : Keeps calm s (State.stamp t p).2 := by
  unfold State.stamp
  repeat' (first
    | with_reducible assumption | with_reducible apply State.keeps_updPrt
    | refine keeps_mk ?_ (fun _ => ⟨rfl, rfl⟩) rfl rfl rfl rfl rfl rfl rfl rfl rfl rfl rfl rfl rfl rfl rfl rfl rfl rfl (by first | exact Nat.le_refl _ | exact Nat.le_succ _))

theorem State.keeps_takeTokens {s : State} {t : State} (h : Keeps calm s t)
    (w : Nat) (a : Nat) (n : Nat) :
    Keeps calm s (State.takeTokens t w a n) := by
  unfold State.takeTokens
  repeat' (first | with_reducible assumption | with_reducible apply State.keeps_updWeir | split)

theorem State.keeps_takeTokensDir {s : State} {t : State} (h : Keeps calm s t) (w : Nat) (a : Nat) (n : Nat) (out : Bool) :
    Keeps calm s (State.takeTokensDir t w a n out) := by
  unfold State.takeTokensDir
  repeat' (first
    | with_reducible assumption | with_reducible apply State.keeps_updWeir
    | with_reducible apply State.keeps_takeTokens | dsimp only | split)

theorem State.keeps_spendEnergy {s : State} {t : State} (h : Keeps calm s t)
    (p : Nat) (event : Nat) (n : Nat) :
    Keeps calm s (State.spendEnergy t p event n) := by
  unfold State.spendEnergy
  exact State.keeps_updWeir h _ _

theorem State.keeps_updJnl {s : State} {t : State} (h : Keeps calm s t)
    (p : Nat) (q : Nat) (f : List Byte → List Byte) :
    Keeps calm s (State.updJnl t p q f) := by
  unfold State.updJnl
  repeat' (first | with_reducible assumption | with_reducible apply State.keeps_updPrt)

theorem State.keeps_pushJnl {s : State} {t : State} (h : Keeps calm s t)
    (p : Nat) (e : Nat → List Byte) :
    Keeps calm s (State.pushJnl t p e) := by
  unfold State.pushJnl
  repeat' (first | with_reducible assumption | with_reducible apply State.keeps_updPrt)

theorem State.keeps_writeSlot {s : State} {t : State} (h : Keeps calm s t)
    (p : Nat) (i : Nat) (status : BitVec 8) (flags : BitVec 16) (jseq : Nat) (user : BitVec 64) :
    Keeps calm s (State.writeSlot t p i status flags jseq user) := by
  unfold State.writeSlot
  repeat' (first | with_reducible assumption | with_reducible apply State.keeps_updPrt)

theorem State.keeps_endOp {s : State} {t : State} (h : Keeps calm s t)
    (p : Nat) (o : OpRec) (status : BitVec 8) :
    Keeps calm s (State.endOp t p o status) := by
  unfold State.endOp
  repeat' (first
    | with_reducible assumption | with_reducible apply State.keeps_updPrt | with_reducible apply State.keeps_writeSlot
    | with_reducible apply State.keeps_updJnl | with_reducible apply State.keeps_msixVf | split
    | refine keeps_mk ?_ (fun _ => ⟨rfl, rfl⟩) rfl rfl rfl rfl rfl rfl rfl rfl rfl rfl rfl rfl rfl rfl rfl rfl rfl rfl (by first | exact Nat.le_refl _ | exact Nat.le_succ _))

/-! ### Memory -/

theorem storeBytes_wf (m : Sparse Byte) (ws : List (Nat × Option Byte)) (h : Sparse.wf 0#8 m = true) :
    Sparse.wf 0#8 (storeBytes m ws) = true := by
  unfold storeBytes
  induction ws generalizing m with
  | nil => exact h
  | cons w ws ih =>
    simp only [List.foldl]
    refine ih _ ?_
    split
    · exact Sparse.wf_set _ _ _ _ h
    · exact h

theorem storePoison_wf (width : Nat) (m : Sparse Bool) (ws : List (Nat × Option Byte)) (h : Sparse.wf false m = true) :
    Sparse.wf false (storePoison width m ws) = true := by
  unfold storePoison
  generalize (ws.map (fun w => w.1 / width)).eraseDups = l
  induction l generalizing m with
  | nil => exact h
  | cons k l ih =>
    simp only [List.foldl]
    refine ih _ ?_
    split
    · exact Sparse.wf_set _ _ _ _ h
    · split
      · exact Sparse.wf_set _ _ _ _ h
      · exact h

theorem State.keeps_storePool {s t : State} (h : Keeps calm s t) (p a o : Nat) (ws : List WByte) : Keeps calm s (State.storePool t p a o ws) := by
  refine h.of_memory (fun _ => ⟨rfl, rfl⟩) rfl rfl rfl ?_ rfl rfl rfl
  simp only [Memory.wf, State.storePool, Bool.and_eq_true, and_imp]
  intro a b c d e f g
  exact ⟨⟨⟨⟨⟨⟨storeBytes_wf _ _ a, storePoison_wf _ _ _ b⟩, c⟩, d⟩, e⟩, f⟩, g⟩

theorem State.keeps_storeSpd {s t : State} (h : Keeps calm s t) (p a o : Nat) (ws : List WByte) : Keeps calm s (State.storeSpd t p a o ws) := by
  refine h.of_memory (fun _ => ⟨rfl, rfl⟩) rfl rfl rfl ?_ rfl rfl rfl
  simp only [Memory.wf, State.storeSpd, Bool.and_eq_true, and_imp]
  intro a b c d e f g
  exact ⟨⟨⟨⟨⟨⟨a, b⟩, storeBytes_wf _ _ c⟩, storePoison_wf _ _ _ d⟩, e⟩, f⟩, g⟩

theorem State.keeps_setLine {s t : State} (h : Keeps calm s t) (u n : Nat) (l : Line) : Keeps calm s (State.setLine t u n l) := by
  refine h.of_memory (fun _ => ⟨rfl, rfl⟩) rfl rfl rfl ?_ rfl rfl rfl
  simp only [Memory.wf, State.setLine, Bool.and_eq_true, and_imp]
  intro a b c d e f g
  exact ⟨⟨⟨⟨⟨⟨a, b⟩, c⟩, d⟩, e⟩, f⟩, Sparse.wf_set _ _ _ _ g⟩

theorem State.keeps_chargeLine {s : State} {t : State} (h : Keeps calm s t)
    (p : Nat) (u0 : Nat) (act : Nat) :
    Keeps calm s (State.chargeLine t p u0 act) := by
  unfold State.chargeLine
  repeat' (first
    | with_reducible assumption | with_reducible apply State.keeps_progress | with_reducible apply State.keeps_takeTokens
    | with_reducible apply State.keeps_spendEnergy)

theorem State.keeps_getLine {s : State} {t : State} (h : Keeps calm s t)
    (u0 : Nat) (n : Nat) (k : Nat) :
    Keeps calm s (State.getLine t u0 n k).2 := by
  unfold State.getLine
  repeat' (first
    | with_reducible assumption | with_reducible apply State.keeps_updMce | with_reducible apply State.keeps_raiseErr
    | dsimp only | split)

theorem State.keeps_loadLine {s : State} {t : State} (h : Keeps calm s t)
    (p : Nat) (u0 : Nat) (n : Nat) (k : Nat) (act : Nat) :
    Keeps calm s (State.loadLine t p u0 n k act).2 := by
  unfold State.loadLine
  repeat' (first | with_reducible assumption | with_reducible apply State.keeps_getLine | with_reducible apply State.keeps_chargeLine)

theorem State.keeps_refuseLine {s : State} {t : State} (h : Keeps calm s t) (u0 : Nat) (n : Nat) :
    Keeps calm s (State.refuseLine t u0 n) := by
  unfold State.refuseLine
  repeat' (first
    | with_reducible assumption | with_reducible apply State.keeps_raiseErr)

theorem State.keeps_putLine {s : State} {t : State} (h : Keeps calm s t) (u0 : Nat) (n : Nat) (k : Nat) (pt : List Byte) :
    Keeps calm s (State.putLine t u0 n k pt).1 := by
  unfold State.putLine
  repeat' (first
    | with_reducible assumption | with_reducible apply State.keeps_writeSlot
    | with_reducible apply State.keeps_refuseLine | with_reducible apply State.keeps_updMce
    | with_reducible apply State.keeps_setLine | dsimp only | split)

theorem State.keeps_storeLine {s : State} {t : State} (h : Keeps calm s t)
    (p : Nat) (u0 : Nat) (n : Nat) (k : Nat) (act : Nat) (pt : List Byte) :
    Keeps calm s (State.storeLine t p u0 n k act pt).1 := by
  unfold State.storeLine
  repeat' (first | with_reducible assumption | with_reducible apply State.keeps_putLine | with_reducible apply State.keeps_chargeLine)

theorem State.keeps_poisonLine {s : State} {t : State} (h : Keeps calm s t) (u0 : Nat) (n : Nat) :
    Keeps calm s (State.poisonLine t u0 n) := by
  unfold State.poisonLine
  repeat' (first
    | with_reducible assumption | with_reducible apply State.keeps_refuseLine
    | with_reducible apply State.keeps_updMce | with_reducible apply State.keeps_setLine
    | with_reducible apply State.keeps_raiseErr | dsimp only | split)

theorem State.keeps_writeLineBytes {s : State} {t : State} (h : Keeps calm s t)
    (p : Nat) (u0 : Nat) (n : Nat) (k : Nat) (act : Nat) (ws : List WByte) :
    Keeps calm s (State.writeLineBytes t p u0 n k act ws).1 := by
  unfold State.writeLineBytes
  repeat' (first
    | with_reducible assumption | with_reducible apply State.keeps_poisonLine | with_reducible apply State.keeps_storeLine
    | with_reducible apply State.keeps_loadLine | dsimp only | split)

theorem State.keeps_storeBasin {s : State} {t : State} (h : Keeps calm s t)
    (p : Nat) (r : Place) (o : Nat) (ws : List WByte) :
    Keeps calm s (State.storeBasin t p r o ws).1 := by
  unfold State.storeBasin
  repeat' (first
    | with_reducible assumption | with_reducible apply State.keeps_writeLineBytes | with_reducible apply keeps_foldl_fst
    | (intro _))

theorem State.keeps_loadLines {s t : State} (h : Keeps calm s t) (p k act n L : Nat) : Keeps calm s (State.loadLines t p k act n L).2 := by
  induction n generalizing t L with
  | zero => exact h
  | succ n ih => exact ih (State.keeps_loadLine h _ _ _ _ _) _

theorem State.keeps_loadBasin {s : State} {t : State} (h : Keeps calm s t)
    (p : Nat) (r : Place) (o : Nat) (n : Nat) :
    Keeps calm s (State.loadBasin t p r o n).2 := by
  unfold State.loadBasin
  repeat' (first | with_reducible assumption | with_reducible apply State.keeps_loadLines | split)

theorem State.keeps_chargeHost {s : State} {t : State} (h : Keeps calm s t) (p : Nat) (h0 : Bool) (act : Nat) (out : Bool) :
    Keeps calm s (State.chargeHost t p h0 act out) := by
  unfold State.chargeHost
  repeat' (first
    | with_reducible assumption | with_reducible apply State.keeps_takeTokensDir
    | with_reducible apply State.keeps_takeTokens | with_reducible apply State.keeps_spendEnergy
    | with_reducible apply State.keeps_progress)

theorem State.keeps_postHostLine {s : State} {t : State} (h : Keeps calm s t) (p : Nat) (r : Place) (q : Nat) (x : List Byte × List Byte) :
    Keeps calm s (State.postHostLine t p r q x) := by
  unfold State.postHostLine
  repeat' (first
    | with_reducible assumption | with_reducible apply State.keeps_chargeHost | with_reducible apply State.keeps_emit)

theorem State.keeps_poisonHost {s : State} {t : State} (h : Keeps calm s t)  : Keeps calm s (State.poisonHost t).2 := by
  unfold State.poisonHost
  repeat' (first
    | with_reducible assumption
    | refine keeps_mk ?_ (fun _ => ⟨rfl, rfl⟩) rfl rfl rfl rfl rfl rfl rfl rfl rfl rfl rfl rfl rfl rfl rfl rfl rfl rfl (by first | exact Nat.le_refl _ | exact Nat.le_succ _))

theorem State.keeps_noteHost {s : State} {t : State} (h : Keeps calm s t)
    (p : Nat) (r : Place) (q : Nat) (pt : List Byte) :
    Keeps calm s (State.noteHost t p r q pt) := by
  unfold State.noteHost
  repeat' (first | with_reducible assumption | with_reducible apply State.keeps_updOp)

theorem State.keeps_storeHost {s : State} {t : State} (h : Keeps calm s t)
    (p : Nat) (ib : Sparse (List Byte)) (r : Place) (o : Nat) (ws : List WByte) :
    Keeps calm s (State.storeHost t p ib r o ws).1 := by
  unfold State.storeHost
  repeat' (first
    | with_reducible assumption | with_reducible apply State.keeps_poisonHost | with_reducible apply State.keeps_postHostLine
    | with_reducible apply State.keeps_noteHost | with_reducible apply keeps_foldl_fst | dsimp only | split | (intro _))

theorem State.keeps_loadRun {s : State} {t : State} (h : Keeps calm s t)
    (p : Nat) (core : Nat) (ib : Sparse (List Byte)) (r : Place) (o : Nat) (n : Nat) :
    Keeps calm s (State.loadRun t p core ib r o n).2 := by
  unfold State.loadRun
  repeat' (first | with_reducible assumption | with_reducible apply State.keeps_loadBasin | split)

theorem State.keeps_storeRun {s : State} {t : State} (h : Keeps calm s t)
    (p : Nat) (ib : Sparse (List Byte)) (r : Place) (o : Nat) (ws : List WByte) :
    Keeps calm s (State.storeRun t p ib r o ws).1 := by
  unfold State.storeRun
  repeat' (first
    | with_reducible assumption | with_reducible apply State.keeps_storePool | with_reducible apply State.keeps_storeBasin
    | with_reducible apply State.keeps_storeHost | with_reducible apply State.keeps_storeSpd | split)

/-! ### Tensor -/

theorem State.keeps_loadData {s : State} {t : State} (h : Keeps calm s t)
    (p : Nat) (core : Nat) (o : OpRec) (h0 : Nat) :
    Keeps calm s (State.loadData t p core o h0).2 := by
  unfold State.loadData
  repeat' (first | with_reducible assumption | with_reducible apply State.keeps_loadRun)

theorem State.keeps_loadScales {s : State} {t : State} (h : Keeps calm s t)
    (p : Nat) (core : Nat) (o : OpRec) (h0 : Nat) :
    Keeps calm s (State.loadScales t p core o h0).2 := by
  unfold State.loadScales
  repeat' (first | with_reducible assumption | with_reducible apply State.keeps_loadRun)

theorem State.keeps_loadTensor {s : State} {t : State} (h : Keeps calm s t)
    (p : Nat) (core : Nat) (o : OpRec) (h0 : Nat) :
    Keeps calm s (State.loadTensor t p core o h0).2 := by
  unfold State.loadTensor
  repeat' (first | with_reducible assumption | with_reducible apply State.keeps_loadData | with_reducible apply State.keeps_loadScales)

theorem State.keeps_loadTensorBy {s : State} {t : State} (h : Keeps calm s t) (p : Nat) (o : OpRec) (h0 : Nat) :
    Keeps calm s (State.loadTensorBy t p o h0).2 := by
  unfold State.loadTensorBy
  repeat' (first
    | with_reducible assumption | with_reducible apply State.keeps_loadTensor)

theorem State.keeps_setDir {s t : State} (h : Keeps calm s t) (k : Nat) (bad : Bool) (word : Nat) : Keeps calm s (State.setDir t k bad word) := by
  refine h.of_memory (fun _ => ⟨rfl, rfl⟩) rfl rfl rfl ?_ rfl rfl rfl
  simp only [Memory.wf, State.setDir, Bool.and_eq_true, and_imp]
  intro a b c d e f g
  exact ⟨⟨⟨⟨⟨⟨a, b⟩, c⟩, d⟩, Sparse.wf_set _ _ _ _ e⟩, Sparse.wf_set _ _ _ _ f⟩, g⟩

theorem State.keeps_loadRecord {s : State} {t : State} (h : Keeps calm s t)
    (p : Nat) (core : Nat) (o : OpRec) (h0 : Nat) (t0 : Nat) :
    Keeps calm s (State.loadRecord t p core o h0 t0).2 := by
  unfold State.loadRecord
  repeat' (first | with_reducible assumption | with_reducible apply State.keeps_loadRun | dsimp only | split)

theorem State.keeps_loadTile {s : State} {t : State} (h : Keeps calm s t)
    (p : Nat) (core : Nat) (o : OpRec) (h0 : Nat) (t0 : Nat) :
    Keeps calm s (State.loadTile t p core o h0 t0).2 := by
  unfold State.loadTile
  repeat' (first | with_reducible assumption | with_reducible apply State.keeps_loadRecord | with_reducible apply State.keeps_loadRun)

theorem State.keeps_storeTile {s : State} {t : State} (h : Keeps calm s t)
    (p : Nat) (o : OpRec) (h0 : Nat) (t0 : Nat) (w : WTile) (keep : Nat → Bool) :
    Keeps calm s (State.storeTile t p o h0 t0 w keep).1 := by
  unfold State.storeTile
  repeat' (first
    | with_reducible assumption | with_reducible apply State.keeps_storeRun | with_reducible apply State.keeps_setDir
    | dsimp only | split
    | refine keeps_mk ?_ (fun _ => ⟨rfl, rfl⟩) rfl rfl rfl rfl rfl rfl rfl rfl rfl rfl rfl rfl rfl rfl rfl rfl rfl rfl (by first | exact Nat.le_refl _ | exact Nat.le_succ _))

theorem State.keeps_updHist {s : State} {t : State} (h : Keeps calm s t)
    (p : Nat) (id : Nat) (f : Hist → Hist) :
    Keeps calm s (State.updHist t p id f) := by
  unfold State.updHist
  repeat' (first | with_reducible assumption | with_reducible apply State.keeps_updPrt)

theorem State.keeps_storeEncoded {s : State} {t : State} (h : Keeps calm s t)
    (p : Nat) (o : OpRec) (h0 : Nat) (enc : Encoded) :
    Keeps calm s (State.storeEncoded t p o h0 enc).1 := by
  unfold State.storeEncoded
  repeat' (first
    | with_reducible assumption | with_reducible apply State.keeps_loadRun | with_reducible apply State.keeps_storeRun | split)

theorem State.keeps_storeElems {s : State} {t : State} (h : Keeps calm s t)
    (p : Nat) (o : OpRec) (h0 : Nat) (sat : Bool) (fold : Bool) (vals : List OutVal) :
    Keeps calm s (State.storeElems t p o h0 sat fold vals).st := by
  unfold State.storeElems
  repeat' (first
    | with_reducible assumption | with_reducible apply State.keeps_storeEncoded | with_reducible apply State.keeps_updHist
    | dsimp only | split)

theorem State.keeps_storeRaw {s : State} {t : State} (h : Keeps calm s t)
    (p : Nat) (o : OpRec) (h0 : Nat) (off : Nat) (bs : List Byte) :
    Keeps calm s (State.storeRaw t p o h0 off bs).1 := by
  unfold State.storeRaw
  repeat' (first | with_reducible assumption | with_reducible apply State.keeps_storeRun)

theorem State.keeps_loadRaw {s : State} {t : State} (h : Keeps calm s t)
    (p : Nat) (o : OpRec) (h0 : Nat) (off : Nat) (n : Nat) :
    Keeps calm s (State.loadRaw t p o h0 off n).2 := by
  unfold State.loadRaw
  repeat' (first | with_reducible assumption | with_reducible apply State.keeps_loadRun)

theorem State.keeps_finishOp {s : State} {t : State} (h : Keeps calm s t)
    (p : Nat) (seq : Nat) (status : BitVec 8) (flags : FlagWord) :
    Keeps calm s (State.finishOp t p seq status flags) := by
  unfold State.finishOp
  repeat' (first | with_reducible assumption | with_reducible apply State.keeps_updOp)

theorem keeps_Work_finish {s : State} {w : Work} (h : Keeps calm s w.st) (p : Nat) (o : OpRec) : Keeps calm s (w.finish p o) :=
  State.keeps_finishOp h _ _ _ _

theorem State.keeps_undefine {s : State} {t : State} (h : Keeps calm s t)
    (p : Nat) (o : OpRec) (r : Place) :
    Keeps calm s (State.undefine t p o r) := by
  unfold State.undefine
  repeat' (first
    | with_reducible assumption | with_reducible apply State.keeps_storeRun | split
    | refine keeps_mk ?_ (fun _ => ⟨rfl, rfl⟩) rfl rfl rfl rfl rfl rfl rfl rfl rfl rfl rfl rfl rfl rfl rfl rfl rfl rfl (by first | exact Nat.le_refl _ | exact Nat.le_succ _))

theorem State.keeps_undefineDest {s : State} {t : State} (h : Keeps calm s t)
    (p : Nat) (o : OpRec) :
    Keeps calm s (State.undefineDest t p o) := by
  unfold State.undefineDest
  repeat' (first | with_reducible assumption | with_reducible apply State.keeps_undefine | with_reducible apply keeps_foldl | (intro _))

/-! ### Access -/

theorem State.keeps_access {s t : State} (h : Keeps calm s t) (a : Access) (f : State → State)
    (hf : ∀ u, Keeps calm s u → Keeps calm s (f u)) :
    Keeps calm s (State.access t a f) := by
  unfold State.access
  repeat' (first | with_reducible assumption | (apply hf; assumption) | (apply hf) | with_reducible apply State.keeps_emit | split)

theorem State.keeps_viaPrt {s t : State} (h : Keeps calm s t) (via : Via) (p : Nat) (f : State → State)
    (hf : ∀ u, Keeps calm s u → Keeps calm s (f u)) :
    Keeps calm s (State.viaPrt t via p f) := by
  unfold State.viaPrt
  repeat' (first | with_reducible assumption | (apply hf; assumption) | (apply hf) | with_reducible apply State.keeps_access)

theorem State.keeps_readEntry {s : State} {t : State} (h : Keeps calm s t)
    (p : Nat) (h0 : Nat) :
    Keeps calm s (State.readEntry t p h0).2 := by
  unfold State.readEntry
  repeat' (first | with_reducible assumption | with_reducible apply State.keeps_loadRun | dsimp only | split)

theorem State.keeps_checkHandle {s : State} {t : State} (h : Keeps calm s t)
    (p : Nat) (h0 : Nat) :
    Keeps calm s (State.checkHandle t p h0).2 := by
  unfold State.checkHandle
  repeat' (first | with_reducible assumption | with_reducible apply State.keeps_readEntry | dsimp only | split)

/-! ### HostReads -/

theorem State.keeps_askLine {s : State} {t : State} (h : Keeps calm s t)
    (p : Nat) (seq : Nat) (e : Entry) (n : LineNeed) :
    Keeps calm s (State.askLine t p seq e n).1 := by
  unfold State.askLine
  repeat' (first
    | with_reducible assumption | with_reducible apply State.keeps_updHst | with_reducible apply State.keeps_emit | dsimp only
    | split)

theorem State.keeps_askLines {s t : State} (h : Keeps calm s t) (p seq : Nat) (ent : Nat → Entry) (ns : List LineNeed) :
    Keeps calm s (State.askLines t p seq ent ns).1 := by
  induction ns generalizing t with
  | nil => exact h
  | cons n ns ih =>
    unfold State.askLines
    dsimp only
    split
    · exact h
    · exact ih (State.keeps_askLine h _ _ _ _)

theorem State.keeps_askOp {s : State} {t : State} (h : Keeps calm s t)
    (p : Nat) (seq : Nat) :
    Keeps calm s (State.askOp t p seq) := by
  unfold State.askOp
  repeat' (first | with_reducible assumption | with_reducible apply State.keeps_askLines | with_reducible apply State.keeps_updOp | split)

theorem State.keeps_askAll {s : State} {t : State} (h : Keeps calm s t)  : Keeps calm s (State.askAll t) := by
  unfold State.askAll
  repeat' (first | with_reducible assumption | with_reducible apply State.keeps_askOp | with_reducible apply keeps_foldl | (intro _))

theorem State.keeps_runOp {s t : State} (h : Keeps calm s t) (p seq op : Nat) (sub : Nat → Bool) (f : OpRec → State)
    (hf : ∀ o, Keeps calm s (f o)) :
    Keeps calm s (State.runOp t p seq op sub f) := by
  unfold State.runOp
  repeat' (first
    | with_reducible assumption | (apply hf; assumption) | (apply hf) | with_reducible apply State.keeps_askOp
    | with_reducible apply State.keeps_finishOp | split)

end Sys2Proof.Machine
end

