-- ==== Sys2Proof/Laws/KeepsQueues.lean ====
section
/-! SUPPORT. What queues, acceptance and the order of operations keep: one lemma for each operation and each command. -/

namespace Sys2Proof.Machine

variable {calm : Bool}

/-! ### Queues -/

theorem State.keeps_stopQueue {s : State} {t : State} (h : Keeps calm s t)
    (p : Nat) (n : Nat) :
    Keeps calm s (State.stopQueue t p n) := by
  unfold State.stopQueue
  repeat' (first
    | with_reducible assumption | with_reducible apply State.keeps_updPrt | with_reducible apply State.keeps_updHst
    | with_reducible apply State.keeps_updQueue | split)

theorem State.keeps_writeQsize {s : State} {t : State} (h : Keeps calm s t)
    (p : Nat) (n : Nat) (v : Reg) :
    Keeps calm s (State.writeQsize t p n v) := by
  unfold State.writeQsize
  repeat' (first
    | with_reducible assumption | with_reducible apply State.keeps_updQueue | with_reducible apply State.keeps_stopQueue
    | dsimp only | split)

theorem keeps_execDoorbellWrite {s : State} {t : State} (h : Keeps calm s t)
    (via : Via) (p : Nat) (n : Nat) (value : Reg) :
    Keeps calm s (afterOf t (execDoorbellWrite via p n value t)) := by
  unfold execDoorbellWrite afterOf
  repeat' (first
    | with_reducible assumption | with_reducible apply State.keeps_viaPrt | with_reducible apply State.keeps_raiseErr
    | with_reducible apply State.keeps_updQueue | dsimp only | split | (intro _))

theorem keeps_execQueueEnable {s : State} {t : State} (h : Keeps calm s t)
    (via : Via) (p : Nat) (n : Nat) (value : Reg) :
    Keeps calm s (afterOf t (execQueueEnable via p n value t)) := by
  unfold execQueueEnable afterOf
  repeat' (first
    | with_reducible assumption | with_reducible apply State.keeps_viaPrt | with_reducible apply State.keeps_writeQsize
    | (intro _))

theorem keeps_execQueueDisable {s : State} {t : State} (h : Keeps calm s t)
    (via : Via) (p : Nat) (n : Nat) (value : Reg) :
    Keeps calm s (afterOf t (execQueueDisable via p n value t)) := by
  unfold execQueueDisable afterOf
  repeat' (first
    | with_reducible assumption | with_reducible apply State.keeps_viaPrt | with_reducible apply State.keeps_writeQsize
    | (intro _))

/-! ### Accept -/

theorem State.keeps_giveOrdinals {s : State} {t : State} (h : Keeps calm s t)
    (p : Nat) (seq : Nat) (d : Desc) :
    Keeps calm s (State.giveOrdinals t p seq d) := by
  unfold State.giveOrdinals
  repeat' (first
    | with_reducible assumption | with_reducible apply State.keeps_updSa | with_reducible apply State.keeps_updOp
    | with_reducible apply keeps_foldl | dsimp only | split | (intro _))

theorem State.keeps_readAt {s : State} {t : State} (h : Keeps calm s t)
    (p : Nat) (ib : Sparse (List Byte)) (d : Desc) (ents : List (Nat × Entry)) (h0 : Nat) (off : Nat) (n : Nat) :
    Keeps calm s (State.readAt t p ib d ents h0 off n).2 := by
  unfold State.readAt
  repeat' (first | with_reducible assumption | with_reducible apply State.keeps_loadRun | split)

theorem State.keeps_checkHandles {s t : State} (h : Keeps calm s t) (p : Nat) (hs : List Nat) : Keeps calm s (State.checkHandles t p hs).2 := by
  induction hs generalizing t with
  | nil => exact h
  | cons x hs ih =>
    unfold State.checkHandles
    dsimp only
    split
    · exact State.keeps_checkHandle h _ _
    · exact ih (State.keeps_checkHandle h _ _)

theorem State.keeps_passing {s t : State} (h : Keeps calm s t) (p : Nat) (hs : List Nat) : Keeps calm s (State.passing t p hs).2 := by
  induction hs generalizing t with
  | nil => exact h
  | cons x hs ih => exact ih (State.keeps_checkHandle h _ _)

theorem State.keeps_adapters {s : State} {t : State} (h : Keeps calm s t)
    (p : Nat) (ib : Sparse (List Byte)) (d : Desc) (ents : List (Nat × Entry)) (vars : List (Option Byte)) :
    Keeps calm s (State.adapters t p ib d ents vars).2 := by
  unfold State.adapters
  repeat' (first
    | with_reducible assumption | with_reducible apply State.keeps_readAt | with_reducible apply State.keeps_passing
    | with_reducible apply keeps_foldl_snd | split | (intro _))

theorem State.keeps_readInputs {s : State} {t : State} (h : Keeps calm s t)
    (p : Nat) (ib : Sparse (List Byte)) (d : Desc) (ents : List (Nat × Entry)) :
    Keeps calm s (State.readInputs t p ib d ents).st := by
  unfold State.readInputs
  repeat' (first | with_reducible assumption | with_reducible apply State.keeps_readAt | with_reducible apply State.keeps_adapters)

theorem State.keeps_fmtEntry {s : State} {t : State} (h : Keeps calm s t)
    (p : Nat) (i : Nat) :
    Keeps calm s (State.fmtEntry t p i).2 := by
  unfold State.fmtEntry
  repeat' (first | with_reducible assumption | with_reducible apply State.keeps_loadRun)

theorem State.keeps_passHead {s : State} {t : State} (h : Keeps calm s t)
    (p : Nat) (n : Nat) :
    Keeps calm s (State.passHead t p n) := by
  unfold State.passHead
  repeat' (first | with_reducible assumption | with_reducible apply State.keeps_updQueue)

theorem State.keeps_failDesc {s : State} {t : State} (h : Keeps calm s t)
    (p : Nat) (n : Nat) (d : Desc) (st : BitVec 8) (slot : Bool) :
    Keeps calm s (State.failDesc t p n d st slot) := by
  unfold State.failDesc
  repeat' (first
    | with_reducible assumption | with_reducible apply State.keeps_stamp | with_reducible apply State.keeps_writeSlot
    | with_reducible apply State.keeps_passHead | with_reducible apply State.keeps_pushJnl
    | with_reducible apply State.keeps_msixVf | split)

theorem State.keeps_failRing {s : State} {t : State} (h : Keeps calm s t)
    (p : Nat) (n : Nat) :
    Keeps calm s (State.failRing t p n) := by
  unfold State.failRing
  repeat' (first | with_reducible assumption | with_reducible apply State.keeps_msixVf | with_reducible apply State.keeps_updQueue)

theorem State.keeps_belayTensors {s : State} {t : State} (h : Keeps calm s t)
    (p : Nat) :
    Keeps calm s (State.belayTensors t p).2 := by
  unfold State.belayTensors
  repeat' (first | with_reducible assumption | with_reducible apply State.keeps_passing)

theorem State.keeps_acceptDesc {s t : State} (h : Keeps calm s t) (p n : Nat) (d : Desc) (ents : List (Nat × Entry)) (i : Inputs) :
    Keeps calm s (State.acceptDesc t p n d ents i) := by
  have h1 : Keeps calm s ((t.stamp p).2.pushJnl p (fun q => jnlBytes q n d 1#8 0#8 0#32 (t.stamp p).1 0)) := State.keeps_pushJnl (State.keeps_stamp h _) _ _
  unfold State.acceptDesc
  extract_lets T s1 v seq all belay more named
  have h1' : Keeps calm s s1 := h1
  have hm : Keeps calm s more.2 := by
    unfold more
    repeat' (first
      | with_reducible assumption | with_reducible apply State.keeps_passing | with_reducible apply State.keeps_belayTensors
      | split)
  repeat' (first
    | with_reducible assumption | with_reducible apply State.keeps_giveOrdinals | with_reducible apply State.keeps_finishOp
    | with_reducible apply State.keeps_passHead | with_reducible apply State.keeps_setPrt | split)

theorem State.keeps_insertBelay {s : State} {t : State} (h : Keeps calm s t)
    (p : Nat) (kind : BitVec 8) (target : Nat) (h0 : BitVec 16) (step : Nat) :
    Keeps calm s (State.insertBelay t p kind target h0 step) := by
  unfold State.insertBelay
  repeat' (first
    | with_reducible assumption | with_reducible apply State.keeps_belayTensors | with_reducible apply State.keeps_passing
    | with_reducible apply State.keeps_updPrt)

theorem State.keeps_insertRisk {s : State} {t : State} (h : Keeps calm s t) (p : Nat) : Keeps calm s (State.insertRisk t p) := by
  unfold State.insertRisk
  repeat' (first
    | with_reducible assumption | with_reducible apply State.keeps_insertBelay | with_reducible apply State.keeps_updPrt
    | dsimp only | split)

theorem State.keeps_runChecks {s : State} {t : State} (h : Keeps calm s t)
    (p : Nat) (n : Nat) (d : Desc) :
    Keeps calm s (State.runChecks t p n d) := by
  unfold State.runChecks
  repeat' (first
    | with_reducible assumption | with_reducible apply State.keeps_failDesc | with_reducible apply State.keeps_checkHandles
    | with_reducible apply State.keeps_updQueue | with_reducible apply State.keeps_askLines
    | with_reducible apply State.keeps_readInputs | with_reducible apply State.keeps_acceptDesc | dsimp only | split)

theorem State.keeps_takeDesc {s : State} {t : State} (h : Keeps calm s t)
    (p : Nat) (n : Nat) (d : Desc) :
    Keeps calm s (State.takeDesc t p n d) := by
  unfold State.takeDesc
  repeat' (first
    | with_reducible assumption | with_reducible apply State.keeps_failDesc | with_reducible apply State.keeps_runChecks
    | with_reducible apply State.keeps_updQueue | with_reducible apply State.keeps_msixVf
    | with_reducible apply State.keeps_updPrt | dsimp only | split)

theorem State.keeps_readRing {s : State} {t : State} (h : Keeps calm s t)
    (p : Nat) (n : Nat) :
    Keeps calm s (State.readRing t p n).2 := by
  unfold State.readRing
  repeat' (first
    | with_reducible assumption | with_reducible apply State.keeps_checkHandle | with_reducible apply State.keeps_loadRun
    | dsimp only | split)

theorem State.keeps_askRing {s t u : State} (h : Keeps calm s t) (p n : Nat) (he : t.askRing p n = some u) : Keeps calm s u := by
  simp only [State.askRing, Option.map_eq_some_iff] at he
  obtain ⟨a, -, rfl⟩ := he
  exact State.keeps_emit (State.keeps_takeTokensDir h _ _ _ _) _

theorem State.keeps_acceptFrom {s : State} {t : State} (h : Keeps calm s t) (p : Nat) (n : Nat) (ring : Option Desc) :
    Keeps calm s (State.acceptFrom t p n ring) := by
  have key : ∀ d u, (if ((t.prt p).queue n).loc then some (t.readRing p n) else (t.askRing p n).map (fun t => (ring, t)))
      = some (d, u) → Keeps calm s u := by
    intro d u he
    split at he
    · obtain ⟨-, rfl⟩ := Prod.mk.inj (Option.some.inj he)
      exact State.keeps_readRing h _ _
    · simp only [Option.map_eq_some_iff] at he
      obtain ⟨a, ha, he⟩ := he
      obtain ⟨-, rfl⟩ := Prod.mk.inj he
      exact State.keeps_askRing h _ _ ha
  unfold State.acceptFrom
  dsimp only
  split
  · exact State.keeps_takeDesc h _ _ _
  · split
    · exact h
    · exact State.keeps_failRing (key _ _ ‹_›) _ _
    · exact State.keeps_takeDesc (key _ _ ‹_›) _ _ _

theorem State.keeps_acceptTurn {s : State} {t : State} (h : Keeps calm s t)
    (p : Nat) (ring : Option Desc) :
    Keeps calm s (State.acceptTurn t p ring) := by
  unfold State.acceptTurn
  repeat' (first
    | with_reducible assumption | with_reducible apply State.keeps_insertRisk | with_reducible apply State.keeps_updQueue
    | with_reducible apply State.keeps_acceptFrom | with_reducible apply State.keeps_updPrt | with_reducible apply keeps_foldl
    | dsimp only | split | (intro _))

theorem keeps_execAcceptDescriptor {s : State} {t : State} (h : Keeps calm s t)
    (p : Nat) (ring : Option Desc) :
    Keeps calm s (afterOf t (execAcceptDescriptor p ring t)) := by
  unfold execAcceptDescriptor afterOf
  repeat' (first | with_reducible assumption | with_reducible apply State.keeps_acceptTurn)

theorem keeps_execRiskBelayInsert {s : State} {t : State} (h : Keeps calm s t)
    (p : Nat) :
    Keeps calm s (afterOf t (execRiskBelayInsert p t)) := by
  unfold execRiskBelayInsert afterOf
  repeat' (first | with_reducible assumption | with_reducible apply State.keeps_insertRisk)

/-! ### Sched -/

theorem State.keeps_startOp {s : State} {t : State} (h : Keeps calm s t)
    (p : Nat) (seq : Nat) :
    Keeps calm s (State.startOp t p seq) := by
  unfold State.startOp
  repeat' (first
    | with_reducible assumption | with_reducible apply State.keeps_stamp | with_reducible apply State.keeps_updJnl
    | with_reducible apply State.keeps_askOp | with_reducible apply State.keeps_updOp | split)

theorem keeps_execOperationStart {s : State} {t : State} (h : Keeps calm s t)
    (p : Nat) (seq : Nat) :
    Keeps calm s (afterOf t (execOperationStart p seq t)) := by
  unfold execOperationStart afterOf
  repeat' (first | with_reducible assumption | with_reducible apply State.keeps_startOp)

theorem State.keeps_grantToken {s : State} {t : State} (h : Keeps calm s t)
    (p : Nat) (seq : Nat) (h0 : Nat) (t0 : Nat) :
    Keeps calm s (State.grantToken t p seq h0 t0) := by
  unfold State.grantToken
  repeat' (first
    | with_reducible assumption | with_reducible apply State.keeps_updOp | split
    | refine keeps_mk ?_ (fun _ => ⟨rfl, rfl⟩) rfl rfl rfl rfl rfl rfl rfl rfl rfl rfl rfl rfl rfl rfl rfl rfl rfl rfl (Nat.le_refl _))

theorem keeps_execSlotTokenGrant {s : State} {t : State} (h : Keeps calm s t)
    (p : Nat) (seq : Nat) (handle : Nat) (tile : Nat) :
    Keeps calm s (afterOf t (execSlotTokenGrant p seq handle tile t)) := by
  unfold execSlotTokenGrant afterOf
  repeat' (first | with_reducible assumption | with_reducible apply State.keeps_grantToken)

theorem State.keeps_runFence {s : State} {t : State} (h : Keeps calm s t)
    (p : Nat) (seq : Nat) (sub : Nat) :
    Keeps calm s (State.runFence t p seq sub) := by
  unfold State.runFence
  repeat' (first
    | with_reducible assumption | with_reducible apply State.keeps_runOp | with_reducible apply State.keeps_finishOp | split
    | (intro _))

theorem keeps_execFenceQueue {s : State} {t : State} (h : Keeps calm s t)
    (p : Nat) (seq : Nat) :
    Keeps calm s (afterOf t (execFenceQueue p seq t)) := by
  unfold execFenceQueue afterOf
  repeat' (first | with_reducible assumption | with_reducible apply State.keeps_runFence)

theorem keeps_execFencePartition {s : State} {t : State} (h : Keeps calm s t)
    (p : Nat) (seq : Nat) :
    Keeps calm s (afterOf t (execFencePartition p seq t)) := by
  unfold execFencePartition afterOf
  repeat' (first | with_reducible assumption | with_reducible apply State.keeps_runFence)

theorem keeps_execVersionRelease {s : State} {t : State} (h : Keeps calm s t)
    (p : Nat) (seq : Nat) :
    Keeps calm s (afterOf t (execVersionRelease p seq t)) := by
  unfold execVersionRelease afterOf
  repeat' (first | with_reducible assumption | with_reducible apply State.keeps_finishOp | dsimp only | split)

theorem State.keeps_setFmt {s : State} {t : State} (h : Keeps calm s t)
    (p : Nat) (i : Nat) (off : Nat) (bs : List Byte) :
    Keeps calm s (State.setFmt t p i off bs) := by
  unfold State.setFmt
  repeat' (first | with_reducible assumption | with_reducible apply State.keeps_storeRun)

theorem State.keeps_setFormat {s : State} {t : State} (h : Keeps calm s t)
    (p : Nat) (h0 : Nat) (e : Entry) (f : Fmt) :
    Keeps calm s (State.setFormat t p h0 e f) := by
  unfold State.setFormat
  repeat' (first | with_reducible assumption | with_reducible apply State.keeps_storeRun)

theorem State.keeps_clearHist {s : State} {t : State} (h : Keeps calm s t)
    (p : Nat) (i : Nat) :
    Keeps calm s (State.clearHist t p i) := by
  unfold State.clearHist
  repeat' (first | with_reducible assumption | with_reducible apply State.keeps_updHist)

theorem State.keeps_choose {s : State} {t : State} (h : Keeps calm s t)
    (p : Nat) (i : Nat) (bs : List Byte) (ge : Entry) (f : Fmt) (centre : Nat) :
    Keeps calm s (State.choose t p i bs ge f centre).1 := by
  unfold State.choose
  repeat' (first
    | with_reducible assumption | with_reducible apply State.keeps_setFmt | with_reducible apply State.keeps_setFormat | split)

theorem State.keeps_evalAuto {s : State} {t : State} (h : Keeps calm s t)
    (p : Nat) (i : Nat) (bs : List Byte) (ge : Entry) :
    Keeps calm s (State.evalAuto t p i bs ge).1 := by
  unfold State.evalAuto
  repeat' (first
    | with_reducible assumption | with_reducible apply State.keeps_readEntry | with_reducible apply State.keeps_clearHist
    | with_reducible apply State.keeps_loadRun | with_reducible apply State.keeps_storeRun
    | with_reducible apply State.keeps_setFmt | with_reducible apply State.keeps_choose | with_reducible apply keeps_foldl_snd
    | dsimp only | split | (intro _))

theorem State.keeps_evalFmt {s : State} {t : State} (h : Keeps calm s t)
    (p : Nat) (i : Nat) (ok : Bool) :
    Keeps calm s (State.evalFmt t p i ok).1 := by
  unfold State.evalFmt
  repeat' (first
    | with_reducible assumption | with_reducible apply State.keeps_fmtEntry | with_reducible apply State.keeps_clearHist
    | with_reducible apply State.keeps_readEntry | with_reducible apply State.keeps_evalAuto
    | with_reducible apply State.keeps_choose | dsimp only | split)

theorem State.keeps_evalAll {s : State} {t : State} (h : Keeps calm s t)
    (p : Nat) (ok : Bool) :
    Keeps calm s (State.evalAll t p ok).1 := by
  unfold State.evalAll
  repeat' (first
    | with_reducible assumption | with_reducible apply State.keeps_evalFmt | with_reducible apply keeps_foldl_fst | (intro _))

theorem State.keeps_abortOp {s : State} {t : State} (h : Keeps calm s t) (p : Nat) (o : OpRec) (status : BitVec 8) :
    Keeps calm s (State.abortOp t p o status) := by
  unfold State.abortOp
  repeat' (first
    | with_reducible assumption | with_reducible apply State.keeps_undefineDest
    | with_reducible apply State.keeps_evalAll | with_reducible apply State.keeps_endOp | dsimp only | split)

theorem State.keeps_abortAll {s : State} {t : State} (h : Keeps calm s t) (p : Nat) (status : BitVec 8) :
    Keeps calm s (State.abortAll t p status) := by
  unfold State.abortAll
  repeat' (first
    | with_reducible assumption | with_reducible apply State.keeps_abortOp | with_reducible apply keeps_foldl
    | with_reducible apply keeps_foldl_snd | with_reducible apply keeps_foldl_fst | dsimp only | split | (intro _))

theorem State.keeps_endCommit {s t u : State} {p : Nat} {o : OpRec} (e : t.endCommit p o = some u) (h : Keeps calm s t) : Keeps calm s u := by
  unfold State.endCommit at e
  dsimp only at e
  split at e
  · simp at e
  · cases e
    exact keeps_foldl _ _ _ (State.keeps_evalAll h _ _) (fun u c hu => State.keeps_pushJnl (State.keeps_stamp hu _) _ _)

theorem State.keeps_completeOp {s : State} {t : State} (h : Keeps calm s t)
    (p : Nat) (seq : Nat) :
    Keeps calm s (State.completeOp t p seq) := by
  unfold State.completeOp
  repeat' (first
    | with_reducible assumption | with_reducible apply State.keeps_askAll | with_reducible apply State.keeps_endOp
    | exact State.keeps_endCommit (by assumption) (by assumption) | split)

theorem keeps_execOperationComplete {s : State} {t : State} (h : Keeps calm s t)
    (p : Nat) (seq : Nat) :
    Keeps calm s (afterOf t (execOperationComplete p seq t)) := by
  unfold execOperationComplete afterOf
  repeat' (first | with_reducible assumption | with_reducible apply State.keeps_completeOp)

end Sys2Proof.Machine
end

