-- ==== Sys2Proof/Laws/KeepsFlits.lean ====
section
/-! SUPPORT. What the link layer, recovery and windows keep: one lemma for each operation and each command. -/

namespace Sys2Proof.Machine

variable {calm : Bool}

/-! ### Flits -/

theorem State.keeps_transmit {s : State} {t : State} (h : Keeps calm s t)
    (i : Nat) (raw : List Byte) :
    Keeps calm s (State.transmit t i raw) := by
  unfold State.transmit
  repeat' (first
    | with_reducible assumption | with_reducible apply State.keeps_updLnk | with_reducible apply State.keeps_emit
    | with_reducible apply State.keeps_updSa | with_reducible apply State.keeps_takeTokens
    | with_reducible apply State.keeps_spendEnergy | dsimp only | split)

theorem State.keeps_awaitToken {s : State} {t : State} (h : Keeps calm s t) (i : Nat) (a : Nat) :
    Keeps calm s (State.awaitToken t i a) := by
  unfold State.awaitToken
  repeat' (first
    | with_reducible assumption | with_reducible apply State.keeps_updWeir)

theorem State.keeps_drainVc {s t : State} (h : Keeps calm s t) (i v n : Nat) : Keeps calm s (State.drainVc t i v n) := by
  induction n generalizing t with
  | zero => exact h
  | succ n ih =>
    unfold State.drainVc
    split
    · exact h
    · split
      · split
        · exact ih (State.keeps_transmit (State.keeps_updVc h _ _ _) _ _)
        · exact State.keeps_awaitToken h _ _
      · exact h

theorem State.keeps_drainPort {s : State} {t : State} (h : Keeps calm s t) (i : Nat) : Keeps calm s (State.drainPort t i) := by
  unfold State.drainPort
  repeat' (first | with_reducible assumption | with_reducible apply State.keeps_drainVc | with_reducible apply keeps_foldl | (intro _))

theorem State.keeps_sendFlit {s : State} {t : State} (h : Keeps calm s t)
    (i : Nat) (a : Nat) (h0 : FlitHdr) (payload : List Byte) :
    Keeps calm s (State.sendFlit t i a h0 payload) := by
  unfold State.sendFlit
  repeat' (first | with_reducible assumption | with_reducible apply State.keeps_updVc | with_reducible apply State.keeps_drainVc | split)

theorem State.keeps_sendMgmt {s : State} {t : State} (h : Keeps calm s t)
    (i : Nat) (type : Nat) (payload : List Byte) :
    Keeps calm s (State.sendMgmt t i type payload) := by
  unfold State.sendMgmt
  repeat' (first | with_reducible assumption | with_reducible apply State.keeps_sendFlit)

theorem State.keeps_sendControl {s : State} {t : State} (h : Keeps calm s t)
    (i : Nat) (type : Nat) :
    Keeps calm s (State.sendControl t i type) := by
  unfold State.sendControl
  repeat' (first
    | with_reducible assumption | with_reducible apply State.keeps_emit | with_reducible apply State.keeps_updVc
    | with_reducible apply State.keeps_updSa | dsimp only | split)

theorem State.keeps_sendNak {s : State} {t : State} (h : Keeps calm s t) (i : Nat) : Keeps calm s (State.sendNak t i) := by
  unfold State.sendNak
  repeat' (first | with_reducible assumption | with_reducible apply State.keeps_sendControl)

theorem State.keeps_sendCreditReq {s : State} {t : State} (h : Keeps calm s t) (i : Nat) (v : Nat) (epoch : BitVec 8) :
    Keeps calm s (State.sendCreditReq t i v epoch) := by
  unfold State.sendCreditReq
  repeat' (first
    | with_reducible assumption | with_reducible apply State.keeps_transmit | with_reducible apply State.keeps_updVc
    | with_reducible apply State.keeps_sendMgmt | dsimp only | split)

theorem State.keeps_loseOps {s : State} {t : State} (h : Keeps calm s t)
    (p : Nat) (st : BitVec 8) (f : OpRec → Bool) :
    Keeps calm s (State.loseOps t p st f) := by
  unfold State.loseOps
  repeat' (first | with_reducible assumption | with_reducible apply State.keeps_updPrt)

theorem State.keeps_losePeer {s : State} {t : State} (h : Keeps calm s t)
    (p : Nat) (q : Nat) :
    Keeps calm s (State.losePeer t p q) := by
  unfold State.losePeer
  repeat' (first | with_reducible assumption | with_reducible apply State.keeps_loseOps)

theorem State.keeps_dropWaiting {s : State} {t : State} (h : Keeps calm s t) (i : Nat) (a : Nat) :
    Keeps calm s (State.dropWaiting t i a) := by
  unfold State.dropWaiting
  repeat' (first
    | with_reducible assumption | with_reducible apply State.keeps_updVc | with_reducible apply keeps_foldl
    | with_reducible apply keeps_foldl_snd | with_reducible apply keeps_foldl_fst | dsimp only | split | (intro _))

theorem State.keeps_dropReplica {s : State} {t : State} (h : Keeps calm s t) (i : Nat) (p : Nat) :
    Keeps calm s (State.dropReplica t i p) := by
  unfold State.dropReplica
  repeat' (first
    | with_reducible assumption | with_reducible apply State.keeps_updPrt)

theorem State.keeps_closeSa {s : State} {t : State} (h : Keeps calm s t) (i : Nat) (a : Nat) (state : SaState) (lose : Bool) :
    Keeps calm s (State.closeSa t i a state lose) := by
  unfold State.closeSa
  repeat' (first
    | with_reducible assumption | with_reducible apply State.keeps_updSa
    | with_reducible apply State.keeps_dropWaiting | with_reducible apply State.keeps_dropReplica
    | with_reducible apply State.keeps_sendCreditReq | with_reducible apply State.keeps_updPrt
    | with_reducible apply State.keeps_losePeer | dsimp only | split)

theorem State.keeps_takeAck {s : State} {t : State} (h : Keeps calm s t)
    (i : Nat) (h0 : FlitHdr) :
    Keeps calm s (State.takeAck t i h0) := by
  unfold State.takeAck
  repeat' (first
    | with_reducible assumption | with_reducible apply State.keeps_updLnk | with_reducible apply State.keeps_updVc
    | with_reducible apply State.keeps_drainPort | split)

theorem State.keeps_rejectFlit {s : State} {t : State} (h : Keeps calm s t) (i : Nat) : Keeps calm s (State.rejectFlit t i) := by
  unfold State.rejectFlit
  repeat' (first | with_reducible assumption | with_reducible apply State.keeps_sendNak)

theorem State.keeps_gcmFail {s : State} {t : State} (h : Keeps calm s t) (i : Nat) (a : Nat) (h0 : FlitHdr) :
    Keeps calm s (State.gcmFail t i a h0) := by
  unfold State.gcmFail
  repeat' (first
    | with_reducible assumption | with_reducible apply State.keeps_rejectFlit | with_reducible apply State.keeps_updSa
    | with_reducible apply State.keeps_closeSa | with_reducible apply State.keeps_raiseErr | dsimp only | split)

theorem State.keeps_acceptSeq {s : State} {t : State} (h : Keeps calm s t)
    (i : Nat) (h0 : FlitHdr) :
    Keeps calm s (State.acceptSeq t i h0) := by
  unfold State.acceptSeq
  repeat' (first
    | with_reducible assumption | with_reducible apply State.keeps_takeAck | with_reducible apply State.keeps_progress
    | with_reducible apply State.keeps_updLnk)

/-- The state that receiving a flit leaves. -/
def Rx.after : Rx → State
  | .drop t => t
  | .deliver _ _ _ t => t

theorem Rx.after_drop (t : State) : (Rx.drop t).after = t := rfl

theorem Rx.after_deliver (h : FlitHdr) (b : List Byte) (a : Nat) (t : State) : (Rx.deliver h b a t).after = t := rfl

theorem State.keeps_receive {s : State} {t : State} (h : Keeps calm s t) (i : Nat) (flit : List Byte) :
    Keeps calm s (Rx.after (State.receive t i flit)) := by
  unfold State.receive
  repeat' (first
    | with_reducible assumption | with_reducible apply State.keeps_rejectFlit
    | with_reducible apply State.keeps_raiseErr | with_reducible apply State.keeps_gcmFail
    | with_reducible apply State.keeps_updSa | with_reducible apply State.keeps_takeAck
    | with_reducible apply State.keeps_acceptSeq | dsimp only [Rx.after_drop, Rx.after_deliver] | split)

theorem State.keeps_receive_drop {s t u : State} {i : Nat} {flit : List Byte} (e : t.receive i flit = .drop u) (h : Keeps calm s t) :
    Keeps calm s u := by
  have k := State.keeps_receive h i flit
  rw [e] at k
  exact k

theorem State.keeps_receive_deliver {s t u : State} {i : Nat} {flit : List Byte} {x : FlitHdr} {b : List Byte} {a : Nat}
    (e : t.receive i flit = .deliver x b a u) (h : Keeps calm s t) : Keeps calm s u := by
  have k := State.keeps_receive h i flit
  rw [e] at k
  exact k

theorem State.keeps_onFlit {s t : State} (h : Keeps calm s t) (i : Nat) (flit : List Byte) (type : Nat)
    (f : FlitHdr → List Byte → Nat → State → State) (hf : ∀ x b a u, Keeps calm s u → Keeps calm s (f x b a u)) :
    Keeps calm s (State.onFlit t i flit type f) := by
  unfold State.onFlit
  split
  · exact h
  · split
    · exact State.keeps_receive_drop (by assumption) h
    · exact hf _ _ _ _ (State.keeps_receive_deliver (by assumption) h)

/-! ### Recovery -/

theorem State.keeps_clearHung {s : State} {t : State} (h : Keeps calm s t)
    (p : Nat) (k : BitVec 2) :
    Keeps calm s (State.clearHung t p k) := by
  unfold State.clearHung
  repeat' (first
    | with_reducible assumption | with_reducible apply State.keeps_updHdr | with_reducible apply keeps_foldl | split | (intro _))

theorem State.keeps_stopAccess {s : State} {t : State} (h : Keeps calm s t) (p : Nat) : Keeps calm s (State.stopAccess t p) := by
  unfold State.stopAccess
  repeat' (first
    | with_reducible assumption | with_reducible apply State.keeps_stopQueue | with_reducible apply State.keeps_updPrt
    | with_reducible apply keeps_foldl | split | (intro _))

theorem State.keeps_sendClose {s : State} {t : State} (h : Keeps calm s t)
    (i : Nat) (p : Nat) (reason : Nat) (lose : Bool) :
    Keeps calm s (State.sendClose t i p reason lose) := by
  unfold State.sendClose
  repeat' (first
    | with_reducible assumption | with_reducible apply State.keeps_closeSa | with_reducible apply State.keeps_sendMgmt
    | dsimp only | split)

theorem State.keeps_renewCredits {s : State} {t : State} (h : Keeps calm s t) (i : Nat) (p : Nat) :
    Keeps calm s (State.renewCredits t i p) := by
  unfold State.renewCredits
  repeat' (first
    | with_reducible assumption | with_reducible apply State.keeps_sendCreditReq | dsimp only | split)

theorem State.keeps_closeAll {s : State} {t : State} (h : Keeps calm s t) (p : Nat) (reason : Nat) :
    Keeps calm s (State.closeAll t p reason) := by
  unfold State.closeAll
  repeat' (first
    | with_reducible assumption | with_reducible apply State.keeps_sendClose
    | with_reducible apply State.keeps_renewCredits | with_reducible apply keeps_foldl
    | with_reducible apply keeps_foldl_snd | with_reducible apply keeps_foldl_fst | dsimp only | split | (intro _))

theorem State.keeps_clearBlocks {s t : State} (h : Keeps calm s t) (p : Nat) : Keeps calm s (State.clearBlocks t p) := by
  unfold State.clearBlocks
  dsimp only
  refine keeps_foldl _ _ _ (h.of_memory (fun _ => ⟨rfl, rfl⟩) rfl rfl rfl ?_ rfl rfl rfl) (fun u x hu => State.keeps_updUpd hu _ _)
  simp only [Memory.wf, Bool.and_eq_true, and_imp]
  intro a b c d e f g
  exact ⟨⟨⟨⟨⟨⟨a, b⟩, Sparse.wf_dropKeys _ _ _ c⟩, Sparse.wf_dropKeys _ _ _ d⟩, Sparse.wf_dropKeys _ _ _ e⟩, Sparse.wf_dropKeys _ _ _ f⟩, g⟩

theorem State.keeps_freeKeys {s : State} {t : State} (h : Keeps calm s t) (p : Nat) : Keeps calm s (State.freeKeys t p) := by
  unfold State.freeKeys
  repeat' (first | with_reducible assumption | with_reducible apply State.keeps_updMce | with_reducible apply keeps_foldl | (intro _))

theorem State.keeps_zeroPool {s t : State} (h : Keeps calm s t) (p : Nat) : Keeps calm s (State.zeroPool t p) := by
  refine h.of_memory (fun _ => ⟨rfl, rfl⟩) rfl rfl rfl ?_ rfl rfl rfl
  simp only [Memory.wf, State.zeroPool, Bool.and_eq_true, and_imp]
  intro a b c d e f g
  exact ⟨⟨⟨⟨⟨⟨Sparse.wf_dropKeys _ _ _ a, Sparse.wf_dropKeys _ _ _ b⟩, c⟩, d⟩, e⟩, f⟩, g⟩

theorem State.keeps_dropReads {s : State} {t : State} (h : Keeps calm s t) (p : Nat) : Keeps calm s (State.dropReads t p) := by
  unfold State.dropReads
  repeat' (first | with_reducible assumption | with_reducible apply State.keeps_updHst | with_reducible apply keeps_foldl | (intro _))

theorem State.keeps_tearDown {s : State} {t : State} (h : Keeps calm s t)
    (p : Nat) (party : Bool) :
    Keeps calm s (State.tearDown t p party) := by
  unfold State.tearDown
  repeat' (first
    | with_reducible assumption | with_reducible apply State.keeps_updPrt | with_reducible apply State.keeps_stopAccess
    | with_reducible apply State.keeps_abortAll | with_reducible apply State.keeps_closeAll
    | with_reducible apply State.keeps_zeroPool | with_reducible apply State.keeps_freeKeys
    | with_reducible apply State.keeps_dropReads | with_reducible apply State.keeps_clearBlocks)

theorem State.keeps_eraseParty {s : State} {t : State} (h : Keeps calm s t) (p : Nat) : Keeps calm s (State.eraseParty t p) := by
  unfold State.eraseParty
  repeat' (first
    | with_reducible assumption | with_reducible apply State.keeps_updUpd | with_reducible apply State.keeps_updPrt
    | with_reducible apply keeps_foldl | (intro _))

theorem State.keeps_becomeEmpty {s : State} {t : State} (h : Keeps calm s t)
    (p : Nat) :
    Keeps calm s (State.becomeEmpty t p) := by
  unfold State.becomeEmpty
  repeat' (first
    | with_reducible assumption | with_reducible apply State.keeps_updPrt | with_reducible apply State.keeps_msixVf
    | with_reducible apply State.keeps_updHdr | with_reducible apply keeps_foldl | (intro _))

theorem State.keeps_startTeardown {s : State} {t : State} (h : Keeps calm s t) (p : Nat) (party : Bool) :
    Keeps calm s (State.startTeardown t p party) := by
  unfold State.startTeardown
  repeat' (first
    | with_reducible assumption | with_reducible apply State.keeps_raiseErr | with_reducible apply State.keeps_updPrt
    | with_reducible apply State.keeps_stopAccess | with_reducible apply State.keeps_closeAll
    | with_reducible apply State.keeps_clearBlocks | with_reducible apply State.keeps_freeKeys
    | with_reducible apply State.keeps_eraseParty | with_reducible apply State.keeps_zeroPool
    | with_reducible apply State.keeps_becomeEmpty | with_reducible apply State.keeps_tearDown
    | with_reducible apply State.keeps_msixVf | dsimp only | split)

theorem keeps_execContextTeardown {s : State} {t : State} (h : Keeps calm s t)
    (via : Via) (p : Nat) :
    Keeps calm s (afterOf t (execContextTeardown via p t)) := by
  unfold execContextTeardown afterOf
  repeat' (first
    | with_reducible assumption | with_reducible apply State.keeps_viaPrt | with_reducible apply State.keeps_startTeardown
    | (intro _))

theorem keeps_execPartyTeardown {s : State} {t : State} (h : Keeps calm s t)
    (via : Via) (p : Nat) :
    Keeps calm s (afterOf t (execPartyTeardown via p t)) := by
  unfold execPartyTeardown afterOf
  repeat' (first
    | with_reducible assumption | with_reducible apply State.keeps_viaPrt | with_reducible apply State.keeps_startTeardown
    | (intro _))

theorem keeps_execReadDone {s : State} {t : State} (h : Keeps calm s t)
    (via : Via) (p : Nat) (value : Reg) :
    Keeps calm s (afterOf t (execReadDone via p value t)) := by
  unfold execReadDone afterOf
  repeat' (first
    | with_reducible assumption | with_reducible apply State.keeps_viaPrt | with_reducible apply State.keeps_becomeEmpty | split
    | (intro _))

theorem keeps_execJournalClearTimeout {s : State} {t : State} (h : Keeps calm s t)
    (p : Nat) :
    Keeps calm s (afterOf t (execJournalClearTimeout p t)) := by
  unfold execJournalClearTimeout afterOf
  repeat' (first | with_reducible assumption | with_reducible apply State.keeps_becomeEmpty | dsimp only | split)

theorem State.keeps_resetContext {s : State} {t : State} (h : Keeps calm s t)
    (p : Nat) :
    Keeps calm s (State.resetContext t p) := by
  unfold State.resetContext
  repeat' (first
    | with_reducible assumption | with_reducible apply State.keeps_updPrt | with_reducible apply State.keeps_stopAccess
    | with_reducible apply State.keeps_abortAll | with_reducible apply State.keeps_closeAll
    | with_reducible apply State.keeps_clearBlocks)

theorem State.keeps_afterReset {s : State} {t : State} (h : Keeps calm s t) (p : Nat) : Keeps calm s (State.afterReset t p) := by
  unfold State.afterReset
  repeat' (first
    | with_reducible assumption | with_reducible apply State.keeps_startTeardown | with_reducible apply State.keeps_updPrt
    | split)

theorem State.keeps_endContextReset {s : State} {t : State} (h : Keeps calm s t)
    (p : Nat) :
    Keeps calm s (State.endContextReset t p) := by
  unfold State.endContextReset
  repeat' (first
    | with_reducible assumption | with_reducible apply State.keeps_afterReset | with_reducible apply State.keeps_msixVf
    | with_reducible apply State.keeps_updPrt)

theorem State.keeps_startContextReset {s : State} {t : State} (h : Keeps calm s t)
    (p : Nat) (byMgc : Bool) (confirmed : Bool) :
    Keeps calm s (State.startContextReset t p byMgc confirmed) := by
  unfold State.startContextReset
  repeat' (first
    | with_reducible assumption | with_reducible apply State.keeps_clearHung | with_reducible apply State.keeps_resetContext
    | with_reducible apply State.keeps_updPrt | with_reducible apply State.keeps_endContextReset | dsimp only | split)

theorem keeps_execContextReset {s : State} {t : State} (h : Keeps calm s t)
    (via : Via) (p : Nat) (confirmed : Bool) :
    Keeps calm s (afterOf t (execContextReset via p confirmed t)) := by
  unfold execContextReset afterOf
  repeat' (first
    | with_reducible assumption | with_reducible apply State.keeps_viaPrt | with_reducible apply State.keeps_startContextReset
    | (intro _))

theorem State.keeps_dropPort {s : State} {t : State} (h : Keeps calm s t) (i : Nat) : Keeps calm s (State.dropPort t i) := by
  unfold State.dropPort
  repeat' (first
    | with_reducible assumption | with_reducible apply State.keeps_closeSa | with_reducible apply State.keeps_updLnk
    | with_reducible apply keeps_foldl | (intro _))

theorem State.keeps_trainPort {s : State} {t : State} (h : Keeps calm s t) (i : Nat) : Keeps calm s (State.trainPort t i) := by
  unfold State.trainPort
  repeat' (first | with_reducible assumption | with_reducible apply State.keeps_msixPf0 | with_reducible apply State.keeps_updLnk)

theorem State.keeps_deepReset {s : State} {t : State} (h : Keeps calm s t) (p : Nat) : Keeps calm s (State.deepReset t p) := by
  unfold State.deepReset
  repeat' (first
    | with_reducible assumption | with_reducible apply State.keeps_zeroPool | with_reducible apply State.keeps_freeKeys
    | with_reducible apply State.keeps_updBas | with_reducible apply State.keeps_trainPort
    | with_reducible apply State.keeps_dropPort | with_reducible apply keeps_foldl | split | (intro _))

theorem State.keeps_startPartitionReset {s : State} {t : State} (h : Keeps calm s t)
    (p : Nat) (byMgc : Bool) :
    Keeps calm s (State.startPartitionReset t p byMgc) := by
  unfold State.startPartitionReset
  repeat' (first
    | with_reducible assumption | with_reducible apply State.keeps_updPrt | with_reducible apply State.keeps_resetContext
    | with_reducible apply State.keeps_clearHung | with_reducible apply State.keeps_deepReset | dsimp only | split)

theorem keeps_execPartitionReset {s : State} {t : State} (h : Keeps calm s t)
    (via : Via) (p : Nat) :
    Keeps calm s (afterOf t (execPartitionReset via p t)) := by
  unfold execPartitionReset afterOf
  repeat' (first
    | with_reducible assumption | with_reducible apply State.keeps_viaPrt | with_reducible apply State.keeps_startPartitionReset
    | (intro _))

theorem State.keeps_endPartitionReset {s : State} {t : State} (h : Keeps calm s t)
    (p : Nat) :
    Keeps calm s (State.endPartitionReset t p) := by
  unfold State.endPartitionReset
  repeat' (first
    | with_reducible assumption | with_reducible apply State.keeps_updBas | with_reducible apply State.keeps_afterReset
    | with_reducible apply State.keeps_msixVf | with_reducible apply State.keeps_updPrt | with_reducible apply keeps_foldl
    | (intro _))

/-! ### Windows -/

theorem keeps_execSlotRelease {s : State} {t : State} (h : Keeps calm s t)
    (via : Via) (p : Nat) (slot : Nat) (value : Reg) :
    Keeps calm s (afterOf t (execSlotRelease via p slot value t)) := by
  unfold execSlotRelease afterOf
  repeat' (first
    | with_reducible assumption | with_reducible apply State.keeps_viaPrt | with_reducible apply State.keeps_updPrt | (intro _))

theorem keeps_execJnlWindowWrite {s : State} {t : State} (h : Keeps calm s t)
    (via : Via) (p : Nat) (value : Reg) :
    Keeps calm s (afterOf t (execJnlWindowWrite via p value t)) := by
  unfold execJnlWindowWrite afterOf
  repeat' (first
    | with_reducible assumption | with_reducible apply State.keeps_viaPrt | with_reducible apply State.keeps_updPrt | (intro _))

theorem State.keeps_writeWinHandle {s : State} {t : State} (h : Keeps calm s t)
    (p : Nat) (n : Nat) (value : Reg) :
    Keeps calm s (State.writeWinHandle t p n value) := by
  unfold State.writeWinHandle
  repeat' (first
    | with_reducible assumption | with_reducible apply State.keeps_updPrt | with_reducible apply State.keeps_readEntry
    | with_reducible apply State.keeps_raiseErr | dsimp only | split)

theorem keeps_execWinHandleWrite {s : State} {t : State} (h : Keeps calm s t)
    (via : Via) (p : Nat) (n : Nat) (value : Reg) :
    Keeps calm s (afterOf t (execWinHandleWrite via p n value t)) := by
  unfold execWinHandleWrite afterOf
  repeat' (first
    | with_reducible assumption | with_reducible apply State.keeps_viaPrt | with_reducible apply State.keeps_writeWinHandle
    | (intro _))

theorem State.keeps_chargePort {s : State} {t : State} (h : Keeps calm s t) (h0 : Bool) (p : Nat) (len : Nat) (out : Bool) :
    Keeps calm s (State.chargePort t h0 p len out) := by
  unfold State.chargePort
  repeat' (first
    | with_reducible assumption | with_reducible apply State.keeps_takeTokensDir)

theorem State.keeps_readPart {s : State} {t : State} (h : Keeps calm s t)
    (p : Nat) (x : WinPart) :
    Keeps calm s (State.readPart t p x).2 := by
  unfold State.readPart
  repeat' (first | with_reducible assumption | with_reducible apply State.keeps_loadRun)

theorem State.keeps_refuseWindow {s : State} {t : State} (h : Keeps calm s t)
    (p : Nat) (port : Bool) :
    Keeps calm s (State.refuseWindow t p port) := by
  unfold State.refuseWindow
  repeat' (first | with_reducible assumption | with_reducible apply State.keeps_emit | with_reducible apply State.keeps_raiseErr)

theorem State.keeps_readWindow {s : State} {t : State} (h : Keeps calm s t) (port : Bool) (p : Nat) (off : Nat) (len : Nat) :
    Keeps calm s (State.readWindow t port p off len) := by
  unfold State.readWindow
  repeat' (first
    | with_reducible assumption | with_reducible apply State.keeps_refuseWindow
    | with_reducible apply State.keeps_updHst | with_reducible apply State.keeps_chargePort
    | with_reducible apply State.keeps_emit | with_reducible apply State.keeps_readPart
    | with_reducible apply keeps_foldl | with_reducible apply keeps_foldl_snd | with_reducible apply keeps_foldl_fst
    | dsimp only | split | (intro _))

theorem keeps_execWindowRead {s : State} {t : State} (h : Keeps calm s t)
    (via : Via) (p : Nat) (offset : Nat) (len : Nat) :
    Keeps calm s (afterOf t (execWindowRead via p offset len t)) := by
  unfold execWindowRead afterOf
  repeat' (first
    | with_reducible assumption | with_reducible apply State.keeps_viaPrt | with_reducible apply State.keeps_readWindow
    | with_reducible apply State.keeps_emit | dsimp only | split | (intro _))

theorem State.keeps_writeWindow {s : State} {t : State} (h : Keeps calm s t) (port : Bool) (p : Nat) (off : Nat) (bs : List Byte) :
    Keeps calm s (State.writeWindow t port p off bs) := by
  unfold State.writeWindow
  repeat' (first
    | with_reducible assumption | with_reducible apply State.keeps_refuseWindow
    | with_reducible apply State.keeps_updHst | with_reducible apply State.keeps_storeRun
    | with_reducible apply State.keeps_chargePort | with_reducible apply keeps_foldl
    | with_reducible apply keeps_foldl_snd | with_reducible apply keeps_foldl_fst | dsimp only | split | (intro _))

theorem keeps_execWindowWrite {s : State} {t : State} (h : Keeps calm s t)
    (via : Via) (p : Nat) (offset : Nat) (bytes : List Byte) :
    Keeps calm s (afterOf t (execWindowWrite via p offset bytes t)) := by
  unfold execWindowWrite afterOf
  repeat' (first
    | with_reducible assumption | with_reducible apply State.keeps_viaPrt | with_reducible apply State.keeps_writeWindow
    | dsimp only | split | (intro _))

theorem keeps_execBaseLoWrite {s : State} {t : State} (h : Keeps calm s t)
    (via : Via) (p : Nat) (reg : BaseReg) (value : Reg) :
    Keeps calm s (afterOf t (execBaseLoWrite via p reg value t)) := by
  unfold execBaseLoWrite afterOf
  repeat' (first
    | with_reducible assumption | with_reducible apply State.keeps_viaPrt | with_reducible apply State.keeps_updPrt | (intro _))

theorem keeps_execBaseHiWrite {s : State} {t : State} (h : Keeps calm s t)
    (via : Via) (p : Nat) (reg : BaseReg) (value : Reg) :
    Keeps calm s (afterOf t (execBaseHiWrite via p reg value t)) := by
  unfold execBaseHiWrite afterOf
  repeat' (first
    | with_reducible assumption | with_reducible apply State.keeps_viaPrt | with_reducible apply State.keeps_updPrt | (intro _))

end Sys2Proof.Machine
end

