-- ==== Sys2Proof/Laws/KeepsArray.lean ====
section
/-! SUPPORT. What the matrix arrays keep: one lemma for each operation and each command. -/

namespace Sys2Proof.Machine

variable {calm : Bool}

/-! ### Partials -/

theorem keeps_Stored_work {s : State} {t : Stored} (h : Keeps calm s t.st)  : Keeps calm s (Stored.work t).st := by
  unfold Stored.work
  repeat' (first | with_reducible assumption)

theorem State.keeps_storeWp {s : State} {t : State} (h : Keeps calm s t)
    (p : Nat) (o : OpRec) (h0 : Nat) (accum : Bool) (t0 : Nat) (new : WTile) :
    Keeps calm s (State.storeWp t p o h0 accum t0 new).st := by
  unfold State.storeWp
  repeat' (first
    | with_reducible assumption | with_reducible apply State.keeps_loadTile | with_reducible apply State.keeps_storeTile
    | with_reducible apply State.keeps_updHist | dsimp only | split)

theorem State.keeps_storeConv {s : State} {t : State} (h : Keeps calm s t)
    (p : Nat) (o : OpRec) (h0 : Nat) (tiles : List (Nat × WTile)) :
    Keeps calm s (State.storeConv t p o h0 tiles).st := by
  unfold State.storeConv
  repeat' (first
    | with_reducible assumption | with_reducible apply State.keeps_storeEncoded | with_reducible apply State.keeps_updHist
    | with_reducible apply keeps_foldl | dsimp only | split | (intro _))

theorem State.keeps_storePartials {s : State} {t : State} (h : Keeps calm s t)
    (p : Nat) (o : OpRec) (h0 : Nat) (accum : Bool) (tiles : List (Nat × WTile)) :
    Keeps calm s (State.storePartials t p o h0 accum tiles).st := by
  unfold State.storePartials
  repeat' (first
    | with_reducible assumption | with_reducible apply State.keeps_storeWp | with_reducible apply State.keeps_storeConv
    | with_reducible apply keeps_foldl_Stored | split | (intro _))

theorem State.keeps_gemm {s : State} {t : State} (h : Keeps calm s t) (p : Nat) (o : OpRec) :
    Keeps calm s (State.gemm t p o).2 := by
  unfold State.gemm
  repeat' (first
    | with_reducible assumption | with_reducible apply State.keeps_loadTensorBy)

theorem State.keeps_passOf {s : State} {t : State} (h : Keeps calm s t) (p : Nat) (o : OpRec) (g : Gemm) (v : Nat) :
    Keeps calm s (State.passOf t p o g v).2 := by
  unfold State.passOf
  repeat' (first
    | with_reducible assumption | with_reducible apply State.keeps_loadRaw
    | with_reducible apply State.keeps_loadTensorBy | dsimp only | split)

theorem State.keeps_addVariant {s : State} {t : State} (h : Keeps calm s t) (p : Nat) (o : OpRec) (g : Gemm) (vs : Variants) (v : Nat) :
    Keeps calm s (State.addVariant t p o g vs v).2 := by
  unfold State.addVariant
  repeat' (first
    | with_reducible assumption | with_reducible apply State.keeps_loadRaw | with_reducible apply State.keeps_adapters
    | with_reducible apply State.keeps_loadTensorBy | dsimp only | split)

theorem State.keeps_variants {s : State} {t : State} (h : Keeps calm s t)
    (p : Nat) (o : OpRec) (g : Gemm) :
    Keeps calm s (State.variants t p o g).2 := by
  unfold State.variants
  repeat' (first
    | with_reducible assumption | with_reducible apply State.keeps_addVariant | with_reducible apply keeps_foldl_snd | dsimp only
    | split | (intro _))

theorem State.keeps_anchorOf {s : State} {t : State} (h : Keeps calm s t)
    (p : Nat) (o : OpRec) (g : Gemm) (vs : Variants) :
    Keeps calm s (State.anchorOf t p o g vs).2 := by
  unfold State.anchorOf
  repeat' (first | with_reducible assumption | with_reducible apply State.keeps_loadRaw | split)

/-! ### Matmul -/

theorem State.keeps_takeShape {s : State} {t : State} (h : Keeps calm s t) (p : Nat) (x : Plan) :
    Keeps calm s (State.takeShape t p x) := by
  unfold State.takeShape
  dsimp only
  split
  · exact h
  · exact h.of_same (fun _ => ⟨rfl, rfl⟩) rfl rfl rfl rfl rfl rfl rfl rfl rfl rfl id (List.prefix_refl _) (le_refl _)

theorem State.keeps_countPitch {s : State} {t : State} (h : Keeps calm s t) (p : Nat) (o : OpRec) (x : Plan) (g : Gemm) (vs : Variants) (words : List (Nat × FlagWord)) (y : Entry) (c : Pitch) :
    Keeps calm s (State.countPitch t p o x g vs words y c) := by
  unfold State.countPitch
  repeat' (first
    | with_reducible assumption | with_reducible apply State.keeps_spendEnergy
    | with_reducible apply State.keeps_updEng | with_reducible apply State.keeps_progress)

theorem State.keeps_countPass {s : State} {t : State} (h : Keeps calm s t) (p : Nat) (o : OpRec) (g : Gemm) (v : Nat) :
    Keeps calm s (State.countPass t p o g v) := by
  unfold State.countPass
  repeat' (first
    | with_reducible assumption | with_reducible apply State.keeps_passOf
    | with_reducible apply State.keeps_countPitch | with_reducible apply keeps_foldl
    | with_reducible apply keeps_foldl_snd | with_reducible apply keeps_foldl_fst | dsimp only | split | (intro _))

theorem State.keeps_releaseEngines {s : State} {t : State} (h : Keeps calm s t)
    (p : Nat) (seq : Nat) :
    Keeps calm s (State.releaseEngines t p seq) := by
  unfold State.releaseEngines
  repeat' (first
    | with_reducible assumption
    | refine keeps_mk ?_ (fun _ => ⟨rfl, rfl⟩) rfl rfl rfl rfl rfl rfl rfl rfl rfl rfl rfl rfl rfl rfl rfl rfl rfl rfl (Nat.le_refl _))

theorem State.keeps_runMatmul {s : State} {t : State} (h : Keeps calm s t) (p : Nat) (o : OpRec) :
    Keeps calm s (State.runMatmul t p o) := by
  unfold State.runMatmul
  repeat' (first
    | with_reducible assumption | with_reducible apply State.keeps_gemm | with_reducible apply State.keeps_variants
    | with_reducible apply State.keeps_finishOp | with_reducible apply State.keeps_anchorOf
    | with_reducible apply State.keeps_adapters | with_reducible apply State.keeps_countPass
    | with_reducible apply State.keeps_takeShape | with_reducible apply State.keeps_storePartials
    | with_reducible apply State.keeps_countPitch | with_reducible apply keeps_foldl
    | with_reducible apply keeps_foldl_snd | with_reducible apply keeps_foldl_fst | dsimp only | split | (intro _))

theorem keeps_execMatmul {s : State} {t : State} (h : Keeps calm s t)
    (p : Nat) (seq : Nat) :
    Keeps calm s (afterOf t (execMatmul p seq t)) := by
  unfold execMatmul afterOf
  repeat' (first | with_reducible assumption | with_reducible apply State.keeps_runOp | with_reducible apply State.keeps_runMatmul)

theorem State.keeps_runScan {s : State} {t : State} (h : Keeps calm s t) (p : Nat) (o : OpRec) (isMax : Bool) :
    Keeps calm s (State.runScan t p o isMax) := by
  unfold State.runScan
  repeat' (first
    | with_reducible assumption | with_reducible apply State.keeps_gemm | with_reducible apply State.keeps_variants
    | with_reducible apply State.keeps_adapters | with_reducible apply State.keeps_finishOp
    | with_reducible apply State.keeps_countPass | with_reducible apply State.keeps_takeShape
    | with_reducible apply State.keeps_loadRaw | with_reducible apply State.keeps_storeRaw
    | with_reducible apply keeps_foldl | with_reducible apply keeps_foldl_snd | with_reducible apply keeps_foldl_fst
    | dsimp only | split | (intro _))

theorem keeps_execAnchorScanWrite {s : State} {t : State} (h : Keeps calm s t)
    (p : Nat) (seq : Nat) :
    Keeps calm s (afterOf t (execAnchorScanWrite p seq t)) := by
  unfold execAnchorScanWrite afterOf
  repeat' (first
    | with_reducible assumption | with_reducible apply State.keeps_runOp | with_reducible apply State.keeps_runScan | (intro _))

theorem keeps_execAnchorScanMax {s : State} {t : State} (h : Keeps calm s t)
    (p : Nat) (seq : Nat) :
    Keeps calm s (afterOf t (execAnchorScanMax p seq t)) := by
  unfold execAnchorScanMax afterOf
  repeat' (first
    | with_reducible assumption | with_reducible apply State.keeps_runOp | with_reducible apply State.keeps_runScan | (intro _))

theorem State.keeps_arrayStep {s t : State} (h : Keeps calm s t) (p seq : Nat) (f : OpRec → Gemm → State → State)
    (hf : ∀ o g u, Keeps calm s u → Keeps calm s (f o g u)) :
    Keeps calm s (State.arrayStep t p seq f) := by
  unfold State.arrayStep
  repeat' (first | with_reducible assumption | (apply hf; assumption) | (apply hf) | with_reducible apply State.keeps_gemm | split)

theorem keeps_execAdapterPass {s : State} {t : State} (h : Keeps calm s t)
    (p : Nat) (seq : Nat) (variant : Nat) :
    Keeps calm s (afterOf t (execAdapterPass p seq variant t)) := by
  unfold execAdapterPass afterOf
  repeat' (first
    | with_reducible assumption | with_reducible apply State.keeps_arrayStep | with_reducible apply State.keeps_finishOp
    | with_reducible apply State.keeps_takeShape | with_reducible apply State.keeps_countPass
    | with_reducible apply State.keeps_passOf | with_reducible apply State.keeps_updOp | dsimp only | split | (intro _))

theorem keeps_execAnchorScanPhase {s : State} {t : State} (h : Keeps calm s t)
    (p : Nat) (seq : Nat) (core : Nat) :
    Keeps calm s (afterOf t (execAnchorScanPhase p seq core t)) := by
  unfold execAnchorScanPhase afterOf
  repeat' (first
    | with_reducible assumption | with_reducible apply State.keeps_arrayStep | with_reducible apply State.keeps_variants
    | with_reducible apply State.keeps_finishOp | with_reducible apply State.keeps_updOp | dsimp only | split | (intro _))

theorem keeps_execAnchorAgree {s : State} {t : State} (h : Keeps calm s t)
    (p : Nat) (seq : Nat) :
    Keeps calm s (afterOf t (execAnchorAgree p seq t)) := by
  unfold execAnchorAgree afterOf
  repeat' (first
    | with_reducible assumption | with_reducible apply State.keeps_arrayStep | with_reducible apply State.keeps_updOp
    | with_reducible apply State.keeps_anchorOf | with_reducible apply State.keeps_finishOp | dsimp only | split | (intro _))

theorem State.keeps_foldSources {s : State} {t : State} (h : Keeps calm s t)
    (p : Nat) (o : OpRec) (t0 : Nat) :
    Keeps calm s (State.foldSources t p o t0).2 := by
  unfold State.foldSources
  repeat' (first
    | with_reducible assumption | with_reducible apply State.keeps_loadTile | with_reducible apply keeps_foldl_snd | split
    | (intro _))

theorem State.keeps_runReduce {s : State} {t : State} (h : Keeps calm s t)
    (p : Nat) (o : OpRec) :
    Keeps calm s (State.runReduce t p o) := by
  unfold State.runReduce
  repeat' (first
    | with_reducible assumption | with_reducible apply State.keeps_foldSources | with_reducible apply keeps_Work_finish
    | with_reducible apply keeps_Stored_work | with_reducible apply State.keeps_storePartials
    | with_reducible apply keeps_foldl_snd | (intro _))

theorem keeps_execReduce {s : State} {t : State} (h : Keeps calm s t)
    (p : Nat) (seq : Nat) :
    Keeps calm s (afterOf t (execReduce p seq t)) := by
  unfold execReduce afterOf
  repeat' (first | with_reducible assumption | with_reducible apply State.keeps_runOp | with_reducible apply State.keeps_runReduce)

/-! ### Engines -/

theorem State.keeps_workOf {s t u : State} {p seq : Nat} {w : Work2} (e : t.workOf p seq = some (w, u)) (h : Keeps calm s t) : Keeps calm s u := by
  unfold State.workOf at e
  split at e
  · simp at e
  · split at e
    · simp only [Option.map_eq_some_iff] at e
      obtain ⟨a, _, e⟩ := e
      cases e
      exact State.keeps_variants (State.keeps_gemm h _ _) _ _ _
    · simp at e

theorem State.keeps_loadTeam {s : State} {t : State} (h : Keeps calm s t) (p : Nat) (seq : Nat) (core : Nat) (team : List Nat) (block : Nat) (group : Nat) (load : Nat) :
    Keeps calm s (State.loadTeam t p seq core team block group load) := by
  unfold State.loadTeam
  repeat' (first
    | with_reducible assumption | exact State.keeps_workOf (by assumption) (by assumption)
    | with_reducible apply State.keeps_updEng | with_reducible apply State.keeps_takeShape
    | with_reducible apply keeps_foldl | with_reducible apply keeps_foldl_snd | with_reducible apply keeps_foldl_fst
    | dsimp only | split | (intro _))

theorem keeps_execStationaryLoad {s : State} {t : State} (h : Keeps calm s t)
    (p : Nat) (seq : Nat) (core : Nat) (team : List Nat) (block : Nat) (group : Nat) (k0 : Nat) :
    Keeps calm s (afterOf t (execStationaryLoad p seq core team block group k0 t)) := by
  unfold execStationaryLoad afterOf
  repeat' (first | with_reducible assumption | with_reducible apply State.keeps_loadTeam)

theorem State.keeps_jobWork {s t u : State} {core e0 : Nat} {j : Job} {w : Work2} (e : t.jobWork core e0 = some (j, w, u)) (h : Keeps calm s t) :
    Keeps calm s u := by
  unfold State.jobWork at e
  split at e
  · simp at e
  · simp only [Option.map_eq_some_iff] at e
    obtain ⟨⟨a, b⟩, e1, e⟩ := e
    cases e
    exact State.keeps_workOf e1 h

theorem State.keeps_swapBanks {s : State} {t : State} (h : Keeps calm s t)
    (core : Nat) (e : Nat) :
    Keeps calm s (State.swapBanks t core e) := by
  unfold State.swapBanks
  repeat' (first
    | with_reducible assumption | with_reducible apply State.keeps_progress | with_reducible apply State.keeps_updEng
    | exact State.keeps_jobWork (by assumption) (by assumption) | dsimp only | split)

theorem keeps_execSwap {s : State} {t : State} (h : Keeps calm s t)
    (core : Nat) (engine : Nat) :
    Keeps calm s (afterOf t (execSwap core engine t)) := by
  unfold execSwap afterOf
  repeat' (first | with_reducible assumption | with_reducible apply State.keeps_swapBanks)

theorem State.keeps_stepCell {s : State} {t : State} (h : Keeps calm s t)
    (core : Nat) (e : Nat) (k : Nat) (n : Nat) (row : Nat) (u0 : Upset) :
    Keeps calm s (State.stepCell t core e k n row u0) := by
  unfold State.stepCell
  repeat' (first
    | with_reducible assumption | with_reducible apply State.keeps_updEng | with_reducible apply State.keeps_spendEnergy
    | exact State.keeps_jobWork (by assumption) (by assumption) | dsimp only | split)

theorem keeps_execCellStep {s : State} {t : State} (h : Keeps calm s t)
    (core : Nat) (engine : Nat) (k : Nat) (n : Nat) (row : Nat) (upset : Upset) :
    Keeps calm s (afterOf t (execCellStep core engine k n row upset t)) := by
  unfold execCellStep afterOf
  repeat' (first | with_reducible assumption | with_reducible apply State.keeps_stepCell)

theorem State.keeps_countFail {s : State} {t : State} (h : Keeps calm s t)
    (core : Nat) (e : Nat) :
    Keeps calm s (State.countFail t core e) := by
  unfold State.countFail
  repeat' (first
    | with_reducible assumption | with_reducible apply State.keeps_riskEvent | with_reducible apply State.keeps_raiseErr
    | with_reducible apply State.keeps_updEng)

theorem State.keeps_failPitch {s : State} {t : State} (h : Keeps calm s t)
    (core : Nat) (e : Nat) (row : Nat) (col : Nat) (load : Nat) (syn : Nat) (jseq : Nat) (cap : List Byte) :
    Keeps calm s (State.failPitch t core e row col load syn jseq cap) := by
  unfold State.failPitch
  repeat' (first
    | with_reducible assumption | with_reducible apply State.keeps_countFail | with_reducible apply State.keeps_updHlt
    | with_reducible apply State.keeps_updEng | split)

theorem State.keeps_addFoot {s : State} {t : State} (h : Keeps calm s t)
    (core : Nat) (e : Nat) (col : Nat) (u0 : Upset) :
    Keeps calm s (State.addFoot t core e col u0) := by
  unfold State.addFoot
  repeat' (first
    | with_reducible assumption | with_reducible apply State.keeps_failPitch | with_reducible apply State.keeps_updEng
    | exact State.keeps_jobWork (by assumption) (by assumption) | dsimp only | split)

theorem keeps_execFootAddition {s : State} {t : State} (h : Keeps calm s t)
    (core : Nat) (engine : Nat) (column : Nat) (upset : Upset) :
    Keeps calm s (afterOf t (execFootAddition core engine column upset t)) := by
  unfold execFootAddition afterOf
  repeat' (first | with_reducible assumption | with_reducible apply State.keeps_addFoot)

theorem State.keeps_setPartial {s : State} {t : State} (h : Keeps calm s t)
    (x : Partial) :
    Keeps calm s (State.setPartial t x) := by
  unfold State.setPartial
  repeat' (first
    | with_reducible assumption
    | refine keeps_mk ?_ (fun _ => ⟨rfl, rfl⟩) rfl rfl rfl rfl rfl rfl rfl rfl rfl rfl rfl rfl rfl rfl rfl rfl rfl rfl (Nat.le_refl _))

theorem State.keeps_repeatAdd {s : State} {t : State} (h : Keeps calm s t)
    (core : Nat) (bad : Bool) :
    Keeps calm s (State.repeatAdd t core bad) := by
  unfold State.repeatAdd
  repeat' (first
    | with_reducible assumption | with_reducible apply State.keeps_riskEvent | with_reducible apply State.keeps_makeSuspect
    | with_reducible apply State.keeps_report | split)

theorem State.keeps_writeBack {s : State} {t : State} (h : Keeps calm s t)
    (core : Nat) (e : Nat) (u0 : Upset) (u2 : Upset) :
    Keeps calm s (State.writeBack t core e u0 u2) := by
  unfold State.writeBack
  repeat' (first
    | with_reducible assumption | with_reducible apply State.keeps_failPitch | with_reducible apply State.keeps_repeatAdd
    | with_reducible apply State.keeps_setPartial | with_reducible apply State.keeps_updOp
    | with_reducible apply State.keeps_progress | with_reducible apply State.keeps_updEng
    | exact State.keeps_jobWork (by assumption) (by assumption) | with_reducible apply keeps_foldl | dsimp only | split
    | (intro _))

theorem keeps_execWriteBack {s : State} {t : State} (h : Keeps calm s t)
    (core : Nat) (engine : Nat) (upset : Upset) (again : Upset) :
    Keeps calm s (afterOf t (execWriteBack core engine upset again t)) := by
  unfold execWriteBack afterOf
  repeat' (first | with_reducible assumption | with_reducible apply State.keeps_writeBack)

theorem State.keeps_reportFails {s : State} {t : State} (h : Keeps calm s t)
    (fs : List CperEvent) (outcome : BitVec 8) (fatal : Bool) :
    Keeps calm s (State.reportFails t fs outcome fatal) := by
  unfold State.reportFails
  repeat' (first | with_reducible assumption | with_reducible apply State.keeps_report | with_reducible apply keeps_foldl | (intro _))

theorem Work2.keeps_dropPitch {s : State} {t : State} (h : Keeps calm s t) (w : Work2) (j : Job) :
    Keeps calm s (Work2.dropPitch w t j) := by
  unfold Work2.dropPitch
  repeat' (first
    | with_reducible assumption | with_reducible apply State.keeps_updOp)

theorem State.keeps_retryPitch {s : State} {t : State} (h : Keeps calm s t) (core : Nat) (e : Nat) (same : Bool) (other : Bool) :
    Keeps calm s (State.retryPitch t core e same other) := by
  unfold State.retryPitch
  repeat' (first
    | with_reducible assumption | with_reducible apply State.keeps_reportFails
    | with_reducible apply State.keeps_updEng | with_reducible apply State.keeps_countFail
    | with_reducible apply State.keeps_makeSuspect | with_reducible apply Work2.keeps_dropPitch | dsimp only | split
    | (intro _) | exact State.keeps_jobWork (by assumption) (by assumption))

theorem keeps_execPitchRetry {s : State} {t : State} (h : Keeps calm s t)
    (core : Nat) (engine : Nat) (samePasses : Bool) (otherPasses : Bool) :
    Keeps calm s (afterOf t (execPitchRetry core engine samePasses otherPasses t)) := by
  unfold execPitchRetry afterOf
  repeat' (first | with_reducible assumption | with_reducible apply State.keeps_retryPitch)

theorem State.keeps_failPartial {s : State} {t : State} (h : Keeps calm s t) (x : Partial) (outcome : BitVec 8) (fatal : Bool) :
    Keeps calm s (State.failPartial t x outcome fatal) := by
  unfold State.failPartial
  repeat' (first
    | with_reducible assumption | with_reducible apply State.keeps_countFail | with_reducible apply State.keeps_report)

theorem State.keeps_mergePartial {s : State} {t : State} (h : Keeps calm s t) (p : Nat) (seq : Nat) (core : Nat) (tile : Nat) (u0 : Upset) (u2 : Upset) :
    Keeps calm s (State.mergePartial t p seq core tile u0 u2) := by
  unfold State.mergePartial
  repeat' (first
    | with_reducible assumption | with_reducible apply State.keeps_failPartial
    | with_reducible apply State.keeps_countFail | with_reducible apply State.keeps_updEng
    | with_reducible apply State.keeps_makeSuspect | with_reducible apply State.keeps_setPartial
    | with_reducible apply keeps_foldl | with_reducible apply keeps_foldl_snd | with_reducible apply keeps_foldl_fst
    | dsimp only | split | (intro _) | exact State.keeps_workOf (by assumption) (by assumption)
    | refine keeps_mk ?_ (fun _ => ⟨rfl, rfl⟩) rfl rfl rfl rfl rfl rfl rfl rfl rfl rfl rfl rfl rfl rfl rfl rfl rfl rfl (by first | exact Nat.le_refl _ | exact Nat.le_succ _))

theorem keeps_execConfluenceMerge {s : State} {t : State} (h : Keeps calm s t)
    (p : Nat) (seq : Nat) (core : Nat) (tile : Nat) (upset : Upset) (again : Upset) :
    Keeps calm s (afterOf t (execConfluenceMerge p seq core tile upset again t)) := by
  unfold execConfluenceMerge afterOf
  repeat' (first | with_reducible assumption | with_reducible apply State.keeps_mergePartial)

theorem State.keeps_compareFail {s : State} {t : State} (h : Keeps calm s t)
    (core : Nat) (mismatches : Nat) :
    Keeps calm s (State.compareFail t core mismatches) := by
  unfold State.compareFail
  repeat' (first
    | with_reducible assumption | with_reducible apply State.keeps_makeSuspect | split
    | refine keeps_mk ?_ (fun _ => ⟨rfl, rfl⟩) rfl rfl rfl rfl rfl rfl rfl rfl rfl rfl rfl rfl rfl rfl rfl rfl rfl rfl (Nat.le_refl _))

theorem State.keeps_convertTile {s : State} {t : State} (h : Keeps calm s t)
    (p : Nat) (seq : Nat) (tile : Nat) (mismatches : Nat) :
    Keeps calm s (State.convertTile t p seq tile mismatches) := by
  unfold State.convertTile
  repeat' (first
    | with_reducible assumption | with_reducible apply State.keeps_compareFail | with_reducible apply State.keeps_storePartials
    | with_reducible apply State.keeps_updOp | with_reducible apply State.keeps_finishOp
    | exact State.keeps_workOf (by assumption) (by assumption) | dsimp only | split
    | refine keeps_mk ?_ (fun _ => ⟨rfl, rfl⟩) rfl rfl rfl rfl rfl rfl rfl rfl rfl rfl rfl rfl rfl rfl rfl rfl rfl rfl (Nat.le_refl _))

theorem keeps_execOutputConversion {s : State} {t : State} (h : Keeps calm s t)
    (p : Nat) (seq : Nat) (tile : Nat) (mismatches : Nat) :
    Keeps calm s (afterOf t (execOutputConversion p seq tile mismatches t)) := by
  unfold execOutputConversion afterOf
  repeat' (first | with_reducible assumption | with_reducible apply State.keeps_convertTile)

end Sys2Proof.Machine
end

