-- ==== Sys2Proof/Laws/KeepsVec.lean ====
section
/-! SUPPORT. What the vector units, collectives, MOVE and OFFLOAD keep: one lemma for each operation and each command. -/

namespace Sys2Proof.Machine

variable {calm : Bool}

/-! ### Vec -/

theorem State.keeps_loadSrc {s : State} {t : State} (h : Keeps calm s t) (p : Nat) (o : OpRec) (h0 : Nat) :
    Keeps calm s (State.loadSrc t p o h0).2 := by
  unfold State.loadSrc
  repeat' (first
    | with_reducible assumption | with_reducible apply State.keeps_loadTensorBy)

theorem State.keeps_loadSrcs {s : State} {t : State} (h : Keeps calm s t)
    (p : Nat) (o : OpRec) (hs : List Nat) :
    Keeps calm s (State.loadSrcs t p o hs).2 := by
  unfold State.loadSrcs
  repeat' (first
    | with_reducible assumption | with_reducible apply State.keeps_loadSrc | with_reducible apply keeps_foldl_snd | (intro _))

theorem State.keeps_vecElems {s : State} {t : State} (h : Keeps calm s t)
    (p : Nat) (o : OpRec) :
    Keeps calm s (State.vecElems t p o) := by
  unfold State.vecElems
  repeat' (first
    | with_reducible assumption | with_reducible apply State.keeps_loadSrcs | with_reducible apply keeps_Work_finish
    | with_reducible apply State.keeps_storeElems)

theorem State.keeps_runVec {s : State} {t : State} (h : Keeps calm s t) (p : Nat) (seq : Nat) (sub : Nat) (fails : List Nat) :
    Keeps calm s (State.runVec t p seq sub fails) := by
  unfold State.runVec
  repeat' (first
    | with_reducible assumption | with_reducible apply State.keeps_runOp
    | with_reducible apply State.keeps_compareFail | with_reducible apply State.keeps_vecElems
    | with_reducible apply keeps_foldl | with_reducible apply keeps_foldl_snd | with_reducible apply keeps_foldl_fst
    | dsimp only | split | (intro _))

theorem State.keeps_loadTiles {s : State} {t : State} (h : Keeps calm s t)
    (p : Nat) (o : OpRec) (h0 : Nat) :
    Keeps calm s (State.loadTiles t p o h0).2 := by
  unfold State.loadTiles
  repeat' (first
    | with_reducible assumption | with_reducible apply State.keeps_loadTile | with_reducible apply keeps_foldl_snd | (intro _))

theorem keeps_Work_flagged {s : State} {w : Work} (h : Keeps calm s w.st) (f : FlagWord) : Keeps calm s (w.flagged f).st := h

theorem State.keeps_runCopy {s : State} {t : State} (h : Keeps calm s t) (p : Nat) (o : OpRec) :
    Keeps calm s (State.runCopy t p o) := by
  unfold State.runCopy
  repeat' (first
    | with_reducible assumption | with_reducible apply State.keeps_loadTiles
    | with_reducible apply State.keeps_storeElems | with_reducible apply keeps_Work_flagged
    | with_reducible apply keeps_Work_finish | with_reducible apply State.keeps_loadSrc
    | with_reducible apply keeps_foldl | with_reducible apply keeps_foldl_snd | with_reducible apply keeps_foldl_fst
    | with_reducible apply keeps_foldl_pair | dsimp only | split)

theorem keeps_execVecCopy {s : State} {t : State} (h : Keeps calm s t)
    (p : Nat) (seq : Nat) :
    Keeps calm s (afterOf t (execVecCopy p seq t)) := by
  unfold execVecCopy afterOf
  repeat' (first | with_reducible assumption | with_reducible apply State.keeps_runOp | with_reducible apply State.keeps_runCopy)

theorem keeps_execVecAdd {s : State} {t : State} (h : Keeps calm s t)
    (p : Nat) (seq : Nat) :
    Keeps calm s (afterOf t (execVecAdd p seq t)) := by
  unfold execVecAdd afterOf
  repeat' (first | with_reducible assumption | with_reducible apply State.keeps_runVec)

theorem keeps_execVecSub {s : State} {t : State} (h : Keeps calm s t)
    (p : Nat) (seq : Nat) :
    Keeps calm s (afterOf t (execVecSub p seq t)) := by
  unfold execVecSub afterOf
  repeat' (first | with_reducible assumption | with_reducible apply State.keeps_runVec)

theorem keeps_execVecMul {s : State} {t : State} (h : Keeps calm s t)
    (p : Nat) (seq : Nat) :
    Keeps calm s (afterOf t (execVecMul p seq t)) := by
  unfold execVecMul afterOf
  repeat' (first | with_reducible assumption | with_reducible apply State.keeps_runVec)

theorem keeps_execVecFma {s : State} {t : State} (h : Keeps calm s t)
    (p : Nat) (seq : Nat) :
    Keeps calm s (afterOf t (execVecFma p seq t)) := by
  unfold execVecFma afterOf
  repeat' (first | with_reducible assumption | with_reducible apply State.keeps_runVec)

theorem keeps_execVecMax {s : State} {t : State} (h : Keeps calm s t)
    (p : Nat) (seq : Nat) :
    Keeps calm s (afterOf t (execVecMax p seq t)) := by
  unfold execVecMax afterOf
  repeat' (first | with_reducible assumption | with_reducible apply State.keeps_runVec)

theorem keeps_execVecMin {s : State} {t : State} (h : Keeps calm s t)
    (p : Nat) (seq : Nat) :
    Keeps calm s (afterOf t (execVecMin p seq t)) := by
  unfold execVecMin afterOf
  repeat' (first | with_reducible assumption | with_reducible apply State.keeps_runVec)

theorem keeps_execVecAbs {s : State} {t : State} (h : Keeps calm s t)
    (p : Nat) (seq : Nat) :
    Keeps calm s (afterOf t (execVecAbs p seq t)) := by
  unfold execVecAbs afterOf
  repeat' (first | with_reducible assumption | with_reducible apply State.keeps_runVec)

theorem keeps_execVecScale2 {s : State} {t : State} (h : Keeps calm s t)
    (p : Nat) (seq : Nat) :
    Keeps calm s (afterOf t (execVecScale2 p seq t)) := by
  unfold execVecScale2 afterOf
  repeat' (first | with_reducible assumption | with_reducible apply State.keeps_runVec)

theorem keeps_execVecExp {s : State} {t : State} (h : Keeps calm s t) (p : Nat) (seq : Nat) (fails : List Nat) :
    Keeps calm s (afterOf t (execVecExp p seq fails t)) := by
  unfold execVecExp afterOf
  repeat' (first
    | with_reducible assumption | with_reducible apply State.keeps_runVec)

theorem keeps_execVecLog {s : State} {t : State} (h : Keeps calm s t) (p : Nat) (seq : Nat) (fails : List Nat) :
    Keeps calm s (afterOf t (execVecLog p seq fails t)) := by
  unfold execVecLog afterOf
  repeat' (first
    | with_reducible assumption | with_reducible apply State.keeps_runVec)

theorem keeps_execVecRsqrt {s : State} {t : State} (h : Keeps calm s t)
    (p : Nat) (seq : Nat) :
    Keeps calm s (afterOf t (execVecRsqrt p seq t)) := by
  unfold execVecRsqrt afterOf
  repeat' (first | with_reducible assumption | with_reducible apply State.keeps_runVec)

theorem keeps_execVecSigmoid {s : State} {t : State} (h : Keeps calm s t) (p : Nat) (seq : Nat) (fails : List Nat) :
    Keeps calm s (afterOf t (execVecSigmoid p seq fails t)) := by
  unfold execVecSigmoid afterOf
  repeat' (first
    | with_reducible assumption | with_reducible apply State.keeps_runVec)

theorem keeps_execVecTanh {s : State} {t : State} (h : Keeps calm s t) (p : Nat) (seq : Nat) (fails : List Nat) :
    Keeps calm s (afterOf t (execVecTanh p seq fails t)) := by
  unfold execVecTanh afterOf
  repeat' (first
    | with_reducible assumption | with_reducible apply State.keeps_runVec)

theorem State.keeps_storeAux {s : State} {t : State} (h : Keeps calm s t)
    (p : Nat) (o : OpRec) (h0 : Nat) (vals : List OutVal) :
    Keeps calm s (State.storeAux t p o h0 vals).st := by
  unfold State.storeAux
  repeat' (first | with_reducible assumption | with_reducible apply State.keeps_storeEncoded)

theorem keeps_Work_and {s : State} {b : Work} (h : Keeps calm s b.st) (a : Work) : Keeps calm s (a.and b).st := h

theorem State.keeps_vecRows {s : State} {t : State} (h : Keeps calm s t)
    (p : Nat) (o : OpRec) (f : List F32 → RowRes) :
    Keeps calm s (State.vecRows t p o f) := by
  unfold State.vecRows
  repeat' (first
    | with_reducible assumption | with_reducible apply State.keeps_loadSrc | with_reducible apply State.keeps_storeElems
    | with_reducible apply keeps_Work_finish | with_reducible apply keeps_Work_and | with_reducible apply State.keeps_storeAux
    | dsimp only | split)

theorem keeps_execVecSoftmax {s : State} {t : State} (h : Keeps calm s t)
    (p : Nat) (seq : Nat) :
    Keeps calm s (afterOf t (execVecSoftmax p seq t)) := by
  unfold execVecSoftmax afterOf
  repeat' (first
    | with_reducible assumption | with_reducible apply State.keeps_runOp | with_reducible apply State.keeps_vecRows | (intro _))

theorem keeps_execVecNorm {s : State} {t : State} (h : Keeps calm s t)
    (p : Nat) (seq : Nat) :
    Keeps calm s (afterOf t (execVecNorm p seq t)) := by
  unfold execVecNorm afterOf
  repeat' (first
    | with_reducible assumption | with_reducible apply State.keeps_runOp | with_reducible apply State.keeps_vecRows | (intro _))

theorem keeps_execVecRowsum {s : State} {t : State} (h : Keeps calm s t)
    (p : Nat) (seq : Nat) :
    Keeps calm s (afterOf t (execVecRowsum p seq t)) := by
  unfold execVecRowsum afterOf
  repeat' (first
    | with_reducible assumption | with_reducible apply State.keeps_runOp | with_reducible apply State.keeps_vecRows | (intro _))

theorem keeps_execVecRowmax {s : State} {t : State} (h : Keeps calm s t)
    (p : Nat) (seq : Nat) :
    Keeps calm s (afterOf t (execVecRowmax p seq t)) := by
  unfold execVecRowmax afterOf
  repeat' (first
    | with_reducible assumption | with_reducible apply State.keeps_runOp | with_reducible apply State.keeps_vecRows | (intro _))

theorem State.keeps_runProgram {s : State} {t : State} (h : Keeps calm s t)
    (p : Nat) (o : OpRec) :
    Keeps calm s (State.runProgram t p o) := by
  unfold State.runProgram
  repeat' (first
    | with_reducible assumption | with_reducible apply State.keeps_loadRaw | with_reducible apply State.keeps_finishOp
    | with_reducible apply State.keeps_loadSrcs | with_reducible apply keeps_Work_finish
    | with_reducible apply State.keeps_storeElems | dsimp only | split)

theorem keeps_execVecProgram {s : State} {t : State} (h : Keeps calm s t)
    (p : Nat) (seq : Nat) :
    Keeps calm s (afterOf t (execVecProgram p seq t)) := by
  unfold execVecProgram afterOf
  repeat' (first | with_reducible assumption | with_reducible apply State.keeps_runOp | with_reducible apply State.keeps_runProgram)

theorem State.keeps_runSoftmaxBwd {s : State} {t : State} (h : Keeps calm s t)
    (p : Nat) (o : OpRec) :
    Keeps calm s (State.runSoftmaxBwd t p o) := by
  unfold State.runSoftmaxBwd
  repeat' (first
    | with_reducible assumption | with_reducible apply State.keeps_loadSrcs | with_reducible apply keeps_Work_finish
    | with_reducible apply State.keeps_storeElems)

theorem keeps_execSoftmaxBwd {s : State} {t : State} (h : Keeps calm s t)
    (p : Nat) (seq : Nat) :
    Keeps calm s (afterOf t (execSoftmaxBwd p seq t)) := by
  unfold execSoftmaxBwd afterOf
  repeat' (first | with_reducible assumption | with_reducible apply State.keeps_runOp | with_reducible apply State.keeps_runSoftmaxBwd)

theorem State.keeps_runNormBwd {s : State} {t : State} (h : Keeps calm s t)
    (p : Nat) (o : OpRec) :
    Keeps calm s (State.runNormBwd t p o) := by
  unfold State.runNormBwd
  repeat' (first
    | with_reducible assumption | with_reducible apply State.keeps_loadSrcs | with_reducible apply State.keeps_storeElems
    | with_reducible apply keeps_Work_finish | with_reducible apply keeps_Work_and | with_reducible apply State.keeps_storeAux
    | dsimp only | split)

theorem keeps_execNormBwd {s : State} {t : State} (h : Keeps calm s t)
    (p : Nat) (seq : Nat) :
    Keeps calm s (afterOf t (execNormBwd p seq t)) := by
  unfold execNormBwd afterOf
  repeat' (first | with_reducible assumption | with_reducible apply State.keeps_runOp | with_reducible apply State.keeps_runNormBwd)

/-! ### Tables -/

theorem State.keeps_readHist {s : State} {t : State} (h : Keeps calm s t)
    (p : Nat) (o : OpRec) (clear : Bool) :
    Keeps calm s (State.readHist t p o clear) := by
  unfold State.readHist
  repeat' (first
    | with_reducible assumption | with_reducible apply State.keeps_storeRaw | with_reducible apply State.keeps_updHist
    | with_reducible apply State.keeps_finishOp | split)

theorem keeps_execHistRead {s : State} {t : State} (h : Keeps calm s t)
    (p : Nat) (seq : Nat) :
    Keeps calm s (afterOf t (execHistRead p seq t)) := by
  unfold execHistRead afterOf
  repeat' (first
    | with_reducible assumption | with_reducible apply State.keeps_runOp | with_reducible apply State.keeps_readHist | (intro _))

theorem keeps_execReadClear {s : State} {t : State} (h : Keeps calm s t)
    (p : Nat) (seq : Nat) :
    Keeps calm s (afterOf t (execReadClear p seq t)) := by
  unfold execReadClear afterOf
  repeat' (first
    | with_reducible assumption | with_reducible apply State.keeps_runOp | with_reducible apply State.keeps_readHist | (intro _))

theorem keeps_execHistInit {s : State} {t : State} (h : Keeps calm s t)
    (p : Nat) (seq : Nat) :
    Keeps calm s (afterOf t (execHistInit p seq t)) := by
  unfold execHistInit afterOf
  repeat' (first
    | with_reducible assumption | with_reducible apply State.keeps_runOp | with_reducible apply State.keeps_finishOp
    | with_reducible apply State.keeps_updHist | (intro _))

theorem State.keeps_runRng {s : State} {t : State} (h : Keeps calm s t)
    (p : Nat) (o : OpRec) :
    Keeps calm s (State.runRng t p o) := by
  unfold State.runRng
  repeat' (first | with_reducible assumption | with_reducible apply State.keeps_storeRaw | with_reducible apply State.keeps_finishOp)

theorem keeps_execRngFillBits {s : State} {t : State} (h : Keeps calm s t)
    (p : Nat) (seq : Nat) :
    Keeps calm s (afterOf t (execRngFillBits p seq t)) := by
  unfold execRngFillBits afterOf
  repeat' (first | with_reducible assumption | with_reducible apply State.keeps_runOp | with_reducible apply State.keeps_runRng)

theorem keeps_execRngFillUniform {s : State} {t : State} (h : Keeps calm s t)
    (p : Nat) (seq : Nat) :
    Keeps calm s (afterOf t (execRngFillUniform p seq t)) := by
  unfold execRngFillUniform afterOf
  repeat' (first | with_reducible assumption | with_reducible apply State.keeps_runOp | with_reducible apply State.keeps_runRng)

theorem keeps_execRngFillBernoulli {s : State} {t : State} (h : Keeps calm s t)
    (p : Nat) (seq : Nat) :
    Keeps calm s (afterOf t (execRngFillBernoulli p seq t)) := by
  unfold execRngFillBernoulli afterOf
  repeat' (first | with_reducible assumption | with_reducible apply State.keeps_runOp | with_reducible apply State.keeps_runRng)

/-! ### Collectives -/

theorem State.keeps_collFlit {s : State} {t : State} (h : Keeps calm s t) (p : Nat) (o : OpRec) (q : Nat) (type : Nat) (msg : Nat) (off : Nat) (last : Bool) (prov : Bool) (payload : List Byte) :
    Keeps calm s (State.collFlit t p o q type msg off last prov payload) := by
  unfold State.collFlit
  repeat' (first
    | with_reducible assumption | with_reducible apply State.keeps_sendFlit)

theorem State.keeps_sendPart {s : State} {t : State} (h : Keeps calm s t) (p : Nat) (o : OpRec) (q : Nat) (msg : Nat) (prov : Bool) (bs : List Byte) (lo : Nat) (n : Nat) :
    Keeps calm s (State.sendPart t p o q msg prov bs lo n) := by
  unfold State.sendPart
  repeat' (first
    | with_reducible assumption | with_reducible apply State.keeps_collFlit | with_reducible apply keeps_foldl
    | with_reducible apply keeps_foldl_snd | with_reducible apply keeps_foldl_fst | dsimp only | split | (intro _))

theorem State.keeps_sendData {s : State} {t : State} (h : Keeps calm s t) (p : Nat) (o : OpRec) (q : Nat) (msg : Nat) (bs : List Byte) :
    Keeps calm s (State.sendData t p o q msg bs) := by
  unfold State.sendData
  repeat' (first
    | with_reducible assumption | with_reducible apply State.keeps_sendPart)

theorem State.keeps_sendChecks {s : State} {t : State} (h : Keeps calm s t) (p : Nat) (seq : Nat) :
    Keeps calm s (State.sendChecks t p seq) := by
  unfold State.sendChecks
  repeat' (first
    | with_reducible assumption | with_reducible apply State.keeps_collFlit | with_reducible apply State.keeps_updOp
    | with_reducible apply keeps_foldl | with_reducible apply keeps_foldl_snd | with_reducible apply keeps_foldl_fst
    | dsimp only | split | (intro _))

theorem State.keeps_endColl {s : State} {t : State} (h : Keeps calm s t)
    (p : Nat) (seq : Nat) (st : BitVec 8) :
    Keeps calm s (State.endColl t p seq st) := by
  unfold State.endColl
  repeat' (first | with_reducible assumption | with_reducible apply State.keeps_loseOps)

theorem State.keeps_checkMsg {s : State} {t : State} (h : Keeps calm s t) (p : Nat) (o : OpRec) (q : Nat) (m : CollMsg) :
    Keeps calm s (State.checkMsg t p o q m) := by
  unfold State.checkMsg
  repeat' (first
    | with_reducible assumption | with_reducible apply State.keeps_updOp | with_reducible apply State.keeps_collFlit
    | dsimp only | split)

theorem State.keeps_takeData {s : State} {t : State} (h : Keeps calm s t)
    (p : Nat) (o : OpRec) (q : Nat) (h0 : FlitHdr) (pl : List Byte) :
    Keeps calm s (State.takeData t p o q h0 pl) := by
  unfold State.takeData
  repeat' (first | with_reducible assumption | with_reducible apply State.keeps_checkMsg | split)

theorem State.keeps_takeAnchors {s : State} {t : State} (h : Keeps calm s t)
    (p : Nat) (o : OpRec) (q : Nat) (h0 : FlitHdr) (pl : List Byte) :
    Keeps calm s (State.takeAnchors t p o q h0 pl) := by
  unfold State.takeAnchors
  repeat' (first | with_reducible assumption | with_reducible apply State.keeps_updOp)

theorem State.keeps_deliverColl {s : State} {t : State} (h : Keeps calm s t)
    (p : Nat) (o : OpRec) (q : Nat) (h0 : FlitHdr) (pl : List Byte) :
    Keeps calm s (State.deliverColl t p o q h0 pl) := by
  unfold State.deliverColl
  repeat' (first
    | with_reducible assumption | with_reducible apply State.keeps_updOp | with_reducible apply State.keeps_endColl
    | with_reducible apply State.keeps_sendChecks | with_reducible apply State.keeps_takeAnchors
    | with_reducible apply State.keeps_takeData | with_reducible apply State.keeps_checkMsg | split)

theorem State.keeps_deliverEarly {s : State} {t : State} (h : Keeps calm s t)
    (p : Nat) (q : Nat) (c : Nat) :
    Keeps calm s (State.deliverEarly t p q c) := by
  unfold State.deliverEarly
  repeat' (first
    | with_reducible assumption | with_reducible apply State.keeps_deliverColl | with_reducible apply State.keeps_updPrt
    | with_reducible apply keeps_foldl | split | (intro _))

theorem State.keeps_receiveColl {s : State} {t : State} (h : Keeps calm s t)
    (p : Nat) (q : Nat) (h0 : FlitHdr) (pl : List Byte) :
    Keeps calm s (State.receiveColl t p q h0 pl) := by
  unfold State.receiveColl
  repeat' (first
    | with_reducible assumption | with_reducible apply State.keeps_deliverEarly | with_reducible apply State.keeps_deliverColl
    | with_reducible apply State.keeps_updPrt | dsimp only | split)

theorem State.keeps_resendMsg {s : State} {t : State} (h : Keeps calm s t) (p : Nat) (q : Nat) (h0 : FlitHdr) (lasting : Bool) :
    Keeps calm s (State.resendMsg t p q h0 lasting) := by
  unfold State.resendMsg
  repeat' (first
    | with_reducible assumption | with_reducible apply State.keeps_repeatAdd
    | with_reducible apply State.keeps_collFlit | with_reducible apply State.keeps_endColl
    | with_reducible apply State.keeps_sendData | dsimp only | split)

theorem State.keeps_numberWaiting {s : State} {t : State} (h : Keeps calm s t)
    (p : Nat) (q : Nat) :
    Keeps calm s (State.numberWaiting t p q) := by
  unfold State.numberWaiting
  repeat' (first
    | with_reducible assumption | with_reducible apply State.keeps_updSa | with_reducible apply State.keeps_updOp
    | with_reducible apply keeps_foldl | split | (intro _))

theorem State.keeps_fillStage {s : State} {t : State} (h : Keeps calm s t) (p : Nat) : Keeps calm s (State.fillStage t p) := by
  unfold State.fillStage
  repeat' (first
    | with_reducible assumption | with_reducible apply State.keeps_storePool
    | refine keeps_mk ?_ (fun _ => ⟨rfl, rfl⟩) rfl rfl rfl rfl rfl rfl rfl rfl rfl rfl rfl rfl rfl rfl rfl rfl rfl rfl (by first | exact Nat.le_refl _ | exact Nat.le_succ _))

theorem State.keeps_sendAnchors {s : State} {t : State} (h : Keeps calm s t) (p : Nat) (o : OpRec) :
    Keeps calm s (State.sendAnchors t p o) := by
  unfold State.sendAnchors
  repeat' (first
    | with_reducible assumption | with_reducible apply State.keeps_loadTile
    | with_reducible apply State.keeps_collFlit | with_reducible apply keeps_foldl
    | with_reducible apply keeps_foldl_snd | with_reducible apply keeps_foldl_fst | dsimp only | split | (intro _))

theorem State.keeps_sendSources {s : State} {t : State} (h : Keeps calm s t) (p : Nat) (o : OpRec) :
    Keeps calm s (State.sendSources t p o) := by
  unfold State.sendSources
  repeat' (first
    | with_reducible assumption | with_reducible apply State.keeps_sendData | with_reducible apply keeps_foldl
    | with_reducible apply keeps_foldl_snd | with_reducible apply keeps_foldl_fst | dsimp only | split | (intro _))

theorem State.keeps_sendProvisional {s : State} {t : State} (h : Keeps calm s t) (p : Nat) (o : OpRec) :
    Keeps calm s (State.sendProvisional t p o).1 := by
  unfold State.sendProvisional
  refine keeps_foldl_pair _ _ _ h (fun u q hu => ?_)
  refine keeps_foldl_by (fun y : (State × List (Nat × Nat × Nat)) × Nat => y.1.1) _ _ (u, provRoom) hu (fun y m hy => ?_)
  exact State.keeps_sendPart hy _ _ _ _ _ _ _ _

theorem State.keeps_giveVerdict {s : State} {t : State} (h : Keeps calm s t) (p : Nat) (o : OpRec) (fails : List (Nat × Bool)) (q : Nat) (m : Nat) (n : Nat) :
    Keeps calm s (State.giveVerdict t p o fails q m n) := by
  unfold State.giveVerdict
  repeat' (first
    | with_reducible assumption | with_reducible apply State.keeps_collFlit
    | with_reducible apply State.keeps_sendData | with_reducible apply State.keeps_sendPart | dsimp only | split)

theorem State.keeps_giveVerdicts {s : State} {t : State} (h : Keeps calm s t) (p : Nat) (o : OpRec) (fails : List (Nat × Bool)) (sent : List (Nat × Nat × Nat)) :
    Keeps calm s (State.giveVerdicts t p o fails sent) := by
  unfold State.giveVerdicts
  repeat' (first
    | with_reducible assumption | with_reducible apply State.keeps_repeatAdd
    | with_reducible apply State.keeps_giveVerdict | with_reducible apply State.keeps_endColl
    | with_reducible apply keeps_foldl | with_reducible apply keeps_foldl_snd | with_reducible apply keeps_foldl_fst
    | dsimp only | split | (intro _))

theorem State.keeps_sendPartials {s : State} {t : State} (h : Keeps calm s t) (p : Nat) (o : OpRec) (fails : List (Nat × Bool)) :
    Keeps calm s (State.sendPartials t p o fails) := by
  unfold State.sendPartials
  repeat' (first
    | with_reducible assumption | with_reducible apply State.keeps_sendProvisional
    | with_reducible apply State.keeps_updOp | with_reducible apply State.keeps_giveVerdicts | dsimp only | split)

theorem State.keeps_updColl {s : State} {t : State} (h : Keeps calm s t)
    (p : Nat) (seq : Nat) (f : Coll → Coll) :
    Keeps calm s (State.updColl t p seq f) := by
  unfold State.updColl
  repeat' (first | with_reducible assumption | with_reducible apply State.keeps_updOp)

theorem State.keeps_phase {s t : State} (h : Keeps calm s t) (p seq : Nat) (ok : State → OpRec → Bool) (f : State → OpRec → State)
    (hf : ∀ u o, Keeps calm s u → Keeps calm s (f u o)) :
    Keeps calm s (State.phase t p seq ok f) := by
  unfold State.phase
  repeat' (first | with_reducible assumption | (apply hf; assumption) | (apply hf) | split)

theorem State.keeps_runColl {s : State} {t : State} (h : Keeps calm s t) (p : Nat) (fails : List (Nat × Bool)) (o : OpRec) :
    Keeps calm s (State.runColl t p fails o) := by
  unfold State.runColl
  repeat' (first
    | with_reducible assumption | with_reducible apply State.keeps_deliverEarly
    | with_reducible apply State.keeps_phase | with_reducible apply State.keeps_sendChecks
    | with_reducible apply State.keeps_updColl | with_reducible apply State.keeps_fillStage
    | with_reducible apply State.keeps_sendAnchors | with_reducible apply State.keeps_giveVerdicts
    | with_reducible apply State.keeps_sendPartials | with_reducible apply State.keeps_sendSources
    | with_reducible apply State.keeps_sendData | with_reducible apply keeps_foldl
    | with_reducible apply keeps_foldl_snd | with_reducible apply keeps_foldl_fst | dsimp only | split | (intro _))

theorem keeps_execAllReduce {s : State} {t : State} (h : Keeps calm s t) (p : Nat) (run : MergeRun) :
    Keeps calm s (afterOf t (execAllReduce p run t)) := by
  unfold execAllReduce afterOf
  repeat' (first
    | with_reducible assumption | with_reducible apply State.keeps_runOp | with_reducible apply State.keeps_runColl)

theorem keeps_execReduceScatter {s : State} {t : State} (h : Keeps calm s t) (p : Nat) (run : MergeRun) :
    Keeps calm s (afterOf t (execReduceScatter p run t)) := by
  unfold execReduceScatter afterOf
  repeat' (first
    | with_reducible assumption | with_reducible apply State.keeps_runOp | with_reducible apply State.keeps_runColl)

theorem keeps_execAllGather {s : State} {t : State} (h : Keeps calm s t)
    (p : Nat) (seq : Nat) :
    Keeps calm s (afterOf t (execAllGather p seq t)) := by
  unfold execAllGather afterOf
  repeat' (first | with_reducible assumption | with_reducible apply State.keeps_runOp | with_reducible apply State.keeps_runColl)

theorem keeps_execBroadcast {s : State} {t : State} (h : Keeps calm s t)
    (p : Nat) (seq : Nat) :
    Keeps calm s (afterOf t (execBroadcast p seq t)) := by
  unfold execBroadcast afterOf
  repeat' (first | with_reducible assumption | with_reducible apply State.keeps_runOp | with_reducible apply State.keeps_runColl)

theorem State.keeps_copyTiles {s : State} {t : State} (h : Keeps calm s t)
    (p : Nat) (o : OpRec) :
    Keeps calm s (State.copyTiles t p o).st := by
  unfold State.copyTiles
  repeat' (first
    | with_reducible assumption | with_reducible apply State.keeps_storeTile | with_reducible apply State.keeps_updHist
    | with_reducible apply keeps_foldl_Work | split | (intro _))

theorem State.keeps_copyStreams {s : State} {t : State} (h : Keeps calm s t)
    (p : Nat) (o : OpRec) :
    Keeps calm s (State.copyStreams t p o).st := by
  unfold State.copyStreams
  repeat' (first | with_reducible assumption | with_reducible apply State.keeps_storeEncoded)

theorem State.keeps_copyStage {s : State} {t : State} (h : Keeps calm s t)
    (p : Nat) (seq : Nat) :
    Keeps calm s (State.copyStage t p seq) := by
  unfold State.copyStage
  repeat' (first
    | with_reducible assumption | with_reducible apply keeps_Stored_work | with_reducible apply State.keeps_storePartials
    | with_reducible apply State.keeps_copyTiles | with_reducible apply State.keeps_copyStreams
    | with_reducible apply keeps_Work_finish | split)

theorem keeps_execStagingCopy {s : State} {t : State} (h : Keeps calm s t)
    (p : Nat) (seq : Nat) :
    Keeps calm s (afterOf t (execStagingCopy p seq t)) := by
  unfold execStagingCopy afterOf
  repeat' (first | with_reducible assumption | with_reducible apply State.keeps_copyStage)

theorem State.keeps_lossRecord {s : State} {t : State} (h : Keeps calm s t)
    (p : Nat) (o : OpRec) :
    Keeps calm s (State.lossRecord t p o).2 := by
  unfold State.lossRecord
  repeat' (first | with_reducible assumption | with_reducible apply State.keeps_loadRaw | split)

theorem State.keeps_noteLoss {s : State} {t : State} (h : Keeps calm s t)
    (p : Nat) (step : Nat) (loss : List Byte) :
    Keeps calm s (State.noteLoss t p step loss) := by
  unfold State.noteLoss
  repeat' (first | with_reducible assumption | with_reducible apply State.keeps_updPrt)

theorem State.keeps_takeCommits {s : State} {t : State} (h : Keeps calm s t)
    (p : Nat) (o : OpRec) :
    Keeps calm s (State.takeCommits t p o) := by
  unfold State.takeCommits
  repeat' (first | with_reducible assumption | with_reducible apply State.keeps_updPrt | with_reducible apply State.keeps_updColl)

theorem State.keeps_commitStep {s : State} {t : State} (h : Keeps calm s t) (p : Nat) (o : OpRec) :
    Keeps calm s (State.commitStep t p o) := by
  unfold State.commitStep
  repeat' (first
    | with_reducible assumption | with_reducible apply State.keeps_finishOp
    | with_reducible apply State.keeps_collFlit | with_reducible apply State.keeps_updColl
    | with_reducible apply State.keeps_takeCommits | with_reducible apply State.keeps_phase
    | with_reducible apply keeps_foldl | with_reducible apply keeps_foldl_snd | with_reducible apply keeps_foldl_fst
    | dsimp only | split | (intro _))

theorem State.keeps_runCommit {s : State} {t : State} (h : Keeps calm s t)
    (p : Nat) (o : OpRec) :
    Keeps calm s (State.runCommit t p o) := by
  unfold State.runCommit
  repeat' (first
    | with_reducible assumption | with_reducible apply State.keeps_lossRecord | with_reducible apply State.keeps_noteLoss
    | with_reducible apply State.keeps_commitStep | with_reducible apply State.keeps_updPrt
    | with_reducible apply State.keeps_finishOp | dsimp only | split)

theorem keeps_execStepCommit {s : State} {t : State} (h : Keeps calm s t)
    (p : Nat) (seq : Nat) :
    Keeps calm s (afterOf t (execStepCommit p seq t)) := by
  unfold execStepCommit afterOf
  repeat' (first | with_reducible assumption | with_reducible apply State.keeps_runOp | with_reducible apply State.keeps_runCommit)

theorem State.keeps_receiveCommit {s : State} {t : State} (h : Keeps calm s t)
    (p : Nat) (q : Nat) (step : Nat) :
    Keeps calm s (State.receiveCommit t p q step) := by
  unfold State.receiveCommit
  repeat' (first | with_reducible assumption | with_reducible apply State.keeps_updColl | with_reducible apply State.keeps_updPrt | split)

/-! ### Moves -/

theorem State.keeps_loadFor {s : State} {t : State} (h : Keeps calm s t) (p : Nat) (o : OpRec) (r : Place) (dst : Place) (n : Nat) :
    Keeps calm s (State.loadFor t p o r dst n).2 := by
  unfold State.loadFor
  repeat' (first
    | with_reducible assumption | with_reducible apply State.keeps_loadRun | dsimp only | split)

theorem State.keeps_storeFor {s : State} {t : State} (h : Keeps calm s t) (p : Nat) (o : OpRec) (r : Place) (dst : Place)
    (bs : List (Option Byte)) : Keeps calm s (State.storeFor t p o r dst bs).1 := by
  unfold State.storeFor
  split
  · refine h.of_memory (fun _ => ⟨rfl, rfl⟩) rfl rfl rfl ?_ rfl rfl rfl
    simp only [Memory.wf, Bool.and_eq_true, and_imp]
    intro a b c d e f g
    exact ⟨⟨⟨⟨⟨⟨storeBytes_wf _ _ a, storePoison_wf _ _ _ b⟩, c⟩, d⟩, e⟩, f⟩, g⟩
  · exact State.keeps_storeRun h _ _ _ _ _

theorem State.keeps_loadSide {s : State} {t : State} (h : Keeps calm s t) (p : Nat) (o : OpRec) (h0 : Nat) (ver : Nat) (dst : Place) :
    Keeps calm s (State.loadSide t p o h0 ver dst).2 := by
  unfold State.loadSide
  repeat' (first
    | with_reducible assumption | with_reducible apply State.keeps_loadFor | dsimp only | split)

theorem State.keeps_storeSide {s : State} {t : State} (h : Keeps calm s t) (p : Nat) (o : OpRec) (h0 : Nat) (ver : Nat) (r : Place) (bs : List (Option Byte)) :
    Keeps calm s (State.storeSide t p o h0 ver r bs).1 := by
  unfold State.storeSide
  repeat' (first
    | with_reducible assumption | with_reducible apply State.keeps_setDir | with_reducible apply State.keeps_storeFor
    | with_reducible apply keeps_foldl | with_reducible apply keeps_foldl_snd | with_reducible apply keeps_foldl_fst
    | dsimp only | split | (intro _))

theorem State.keeps_readBoth {s : State} {t : State} (h : Keeps calm s t) (p : Nat) (o : OpRec) (h0 : Nat) (ver : Nat) (dd : Place) (ds : Place) :
    Keeps calm s (State.readBoth t p o h0 ver dd ds).st := by
  unfold State.readBoth
  repeat' (first
    | with_reducible assumption | with_reducible apply State.keeps_loadFor | with_reducible apply State.keeps_loadSide)

theorem State.keeps_runMove {s : State} {t : State} (h : Keeps calm s t) (p : Nat) (o : OpRec) :
    Keeps calm s (State.runMove t p o) := by
  unfold State.runMove
  repeat' (first
    | with_reducible assumption | with_reducible apply State.keeps_readBoth
    | with_reducible apply State.keeps_storeFor | with_reducible apply State.keeps_storeSide
    | with_reducible apply keeps_Work_finish)

theorem keeps_execMove {s : State} {t : State} (h : Keeps calm s t)
    (p : Nat) (seq : Nat) :
    Keeps calm s (afterOf t (execMove p seq t)) := by
  unfold execMove afterOf
  repeat' (first | with_reducible assumption | with_reducible apply State.keeps_runOp | with_reducible apply State.keeps_runMove)

theorem keeps_execPrefetch {s : State} {t : State} (h : Keeps calm s t)
    (p : Nat) (seq : Nat) :
    Keeps calm s (afterOf t (execPrefetch p seq t)) := by
  unfold execPrefetch afterOf
  repeat' (first | with_reducible assumption | with_reducible apply State.keeps_runOp | with_reducible apply State.keeps_runMove)

theorem State.keeps_claimBuf {s : State} {t : State} (h : Keeps calm s t)
    (p : Nat) (buf : Nat) (port : Bool) (k : Nat) :
    Keeps calm s (State.claimBuf t p buf port k) := by
  unfold State.claimBuf
  repeat' (first | with_reducible assumption | with_reducible apply State.keeps_updPrt | with_reducible apply State.keeps_updKey)

theorem State.keeps_storeOffload {s : State} {t : State} (h : Keeps calm s t)
    (p : Nat) (buf : Nat) (r : Place) (bs : List (Option Byte)) :
    Keeps calm s (State.storeOffload t p buf r bs).1 := by
  unfold State.storeOffload
  repeat' (first
    | with_reducible assumption | with_reducible apply State.keeps_poisonHost | with_reducible apply State.keeps_postHostLine
    | with_reducible apply keeps_foldl_fst | dsimp only | split | (intro _))

theorem State.keeps_runOffload {s : State} {t : State} (h : Keeps calm s t) (p : Nat) (o : OpRec) :
    Keeps calm s (State.runOffload t p o) := by
  unfold State.runOffload
  repeat' (first
    | with_reducible assumption | with_reducible apply State.keeps_readBoth
    | with_reducible apply State.keeps_claimBuf | with_reducible apply State.keeps_writeSlot
    | with_reducible apply State.keeps_storeOffload | with_reducible apply keeps_Work_finish)

theorem keeps_execOffload {s : State} {t : State} (h : Keeps calm s t)
    (p : Nat) (seq : Nat) :
    Keeps calm s (afterOf t (execOffload p seq t)) := by
  unfold execOffload afterOf
  repeat' (first | with_reducible assumption | with_reducible apply State.keeps_runOp | with_reducible apply State.keeps_runOffload)

end Sys2Proof.Machine
end

