-- ==== Sys2Proof/Laws/KeepsUpdate.lean ====
section
/-! SUPPORT. What the update engine and belays keep: one lemma for each operation and each command. -/

namespace Sys2Proof.Machine

variable {calm : Bool}

/-! ### Update -/

theorem State.keeps_loadPart {s : State} {t : State} (h : Keeps calm s t)
    (p : Nat) (o : OpRec) (h0 : Nat) (q0 : Nat) (n : Nat) :
    Keeps calm s (State.loadPart t p o h0 q0 n).2 := by
  unfold State.loadPart
  repeat' (first
    | with_reducible assumption | with_reducible apply State.keeps_loadTile | with_reducible apply State.keeps_loadRun
    | with_reducible apply keeps_foldl_snd | dsimp only | split | (intro _))

theorem State.keeps_loadState {s : State} {t : State} (h : Keeps calm s t)
    (p : Nat) (o : OpRec) (q0 : Nat) (n : Nat) :
    Keeps calm s (State.loadState t p o q0 n).2 := by
  unfold State.loadState
  repeat' (first | with_reducible assumption | with_reducible apply State.keeps_loadPart | split)

theorem State.keeps_codeRule {s : State} {t : State} (h : Keeps calm s t) (p : Nat) (o : OpRec) (k : Nat) (j : Nat) (image : List Byte) (w : List Lane) (g : List Lane) (m : List Lane) :
    Keeps calm s (State.codeRule t p o k j image w g m).2 := by
  unfold State.codeRule
  repeat' (first
    | with_reducible assumption | with_reducible apply State.keeps_updUpd)

theorem State.keeps_computeRoots {s : State} {t : State} (h : Keeps calm s t) (p : Nat) (o : OpRec) (m : Nat) (n : Nat) :
    Keeps calm s (State.computeRoots t p o m n).1 := by
  unfold State.computeRoots
  repeat' (first
    | with_reducible assumption | with_reducible apply State.keeps_loadPart
    | with_reducible apply State.keeps_storeRaw | with_reducible apply State.keeps_updOp)

theorem State.keeps_direction {s : State} {t : State} (h : Keeps calm s t)
    (p : Nat) (o : OpRec) :
    Keeps calm s (State.direction t p o).st := by
  unfold State.direction
  repeat' (first
    | with_reducible assumption | with_reducible apply State.keeps_loadRaw | with_reducible apply State.keeps_computeRoots
    | with_reducible apply State.keeps_loadPart | split)

theorem State.keeps_writeWeights {s : State} {t : State} (h : Keeps calm s t)
    (p : Nat) (o : OpRec) (q0 : Nat) (old : Part) (vals : List OutVal) :
    Keeps calm s (State.writeWeights t p o q0 old vals).st := by
  unfold State.writeWeights
  repeat' (first | with_reducible assumption | with_reducible apply State.keeps_storeRun)

theorem State.keeps_writeMoments {s : State} {t : State} (h : Keeps calm s t)
    (p : Nat) (o : OpRec) (q0 : Nat) (old : Part) (vals : List OutVal) :
    Keeps calm s (State.writeMoments t p o q0 old vals).st := by
  unfold State.writeMoments
  repeat' (first | with_reducible assumption | with_reducible apply State.keeps_storeRun | split)

theorem State.keeps_tensorBytes {s : State} {t : State} (h : Keeps calm s t) (p : Nat) (o : OpRec) (h0 : Nat) (ver : Nat) :
    Keeps calm s (State.tensorBytes t p o h0 ver).st := by
  unfold State.tensorBytes
  repeat' (first
    | with_reducible assumption | with_reducible apply State.keeps_readBoth)

theorem State.keeps_forget {s t : State} (h : Keeps calm s t) (p : Nat) (o : OpRec) (r : Place) : Keeps calm s (State.forget t p o r) := by
  have k := State.keeps_undefine h p o r
  refine ⟨k.pending, k.fuses, k.jtag, k.inject, k.debugUsed, k.power, k.memory, fun b => ?_, k.out, k.draws, k.still⟩
  have k1 := k.blocks b
  have k2 := h.blocks b
  simp only [Blocks.wf, Bool.and_eq_true] at k1 k2
  simp only [Blocks.wf, State.forget, Bool.and_eq_true]
  exact ⟨k1.1, k2.2⟩

theorem State.keeps_idleDies {s : State} {t : State} (h : Keeps calm s t) (p : Nat) : Keeps calm s (State.idleDies t p) := by
  unfold State.idleDies
  repeat' (first
    | with_reducible assumption | with_reducible apply State.keeps_updUpd | with_reducible apply keeps_foldl | split | (intro _))

theorem State.keeps_voidUpdate {s : State} {t : State} (h : Keeps calm s t)
    (p : Nat) (o : OpRec) (st : BitVec 8) :
    Keeps calm s (State.voidUpdate t p o st) := by
  unfold State.voidUpdate
  repeat' (first
    | with_reducible assumption | with_reducible apply State.keeps_finishOp | with_reducible apply State.keeps_updPrt
    | with_reducible apply State.keeps_idleDies | with_reducible apply State.keeps_forget | split)

theorem State.keeps_countFrozen {s : State} {t : State} (h : Keeps calm s t)
    (p : Nat) (n : Nat) :
    Keeps calm s (State.countFrozen t p n).1 := by
  unfold State.countFrozen
  repeat' (first | with_reducible assumption | with_reducible apply State.keeps_updUpd | split)

theorem State.keeps_skipUpdate {s : State} {t : State} (h : Keeps calm s t)
    (p : Nat) (o : OpRec) :
    Keeps calm s (State.skipUpdate t p o) := by
  unfold State.skipUpdate
  repeat' (first | with_reducible assumption | with_reducible apply State.keeps_countFrozen | with_reducible apply State.keeps_finishOp)

theorem State.keeps_finishUpdate {s : State} {t : State} (h : Keeps calm s t)
    (p : Nat) (o : OpRec) :
    Keeps calm s (State.finishUpdate t p o) := by
  unfold State.finishUpdate
  repeat' (first
    | with_reducible assumption | with_reducible apply State.keeps_countFrozen | with_reducible apply State.keeps_updPrt
    | with_reducible apply State.keeps_idleDies | with_reducible apply State.keeps_finishOp | split)

theorem State.keeps_trapUpdate {s : State} {t : State} (h : Keeps calm s t)
    (p : Nat) (o : OpRec) (die : Nat) (cause : Byte) :
    Keeps calm s (State.trapUpdate t p o die cause) := by
  unfold State.trapUpdate
  repeat' (first
    | with_reducible assumption | with_reducible apply State.keeps_raiseErr | with_reducible apply State.keeps_updUpd
    | with_reducible apply State.keeps_undefine | with_reducible apply State.keeps_voidUpdate | split)

theorem State.keeps_loadProg {s : State} {t : State} (h : Keeps calm s t)
    (p : Nat) (o : OpRec) :
    Keeps calm s (State.loadProg t p o).2 := by
  unfold State.loadProg
  repeat' (first | with_reducible assumption | with_reducible apply State.keeps_loadRaw)

theorem State.keeps_ruleChunk {s : State} {t : State} (h : Keeps calm s t) (p : Nat) (o : OpRec) (j : Nat) :
    Keeps calm s (State.ruleChunk t p o j).st := by
  unfold State.ruleChunk
  repeat' (first
    | with_reducible assumption | with_reducible apply State.keeps_direction
    | with_reducible apply State.keeps_loadPart | with_reducible apply State.keeps_loadState
    | with_reducible apply State.keeps_loadProg | with_reducible apply State.keeps_codeRule
    | with_reducible apply State.keeps_updUpd | dsimp only | split)

theorem State.keeps_holdChunk {s : State} {t : State} (h : Keeps calm s t) (k : Nat) (seq : Nat) (j : Nat) (st : BitVec 4) :
    Keeps calm s (State.holdChunk t k seq j st) := by
  unfold State.holdChunk
  repeat' (first
    | with_reducible assumption | with_reducible apply State.keeps_updUpd)

theorem State.keeps_writeChunk {s : State} {t : State} (h : Keeps calm s t) (p : Nat) (o : OpRec) (j : Nat) :
    Keeps calm s (State.writeChunk t p o j) := by
  unfold State.writeChunk
  repeat' (first
    | with_reducible assumption | with_reducible apply State.keeps_ruleChunk
    | with_reducible apply State.keeps_trapUpdate | with_reducible apply State.keeps_holdChunk
    | with_reducible apply State.keeps_writeWeights | with_reducible apply keeps_Work_and
    | with_reducible apply State.keeps_writeMoments | with_reducible apply State.keeps_updOp
    | with_reducible apply State.keeps_updUpd | with_reducible apply State.keeps_progress | dsimp only | split)

theorem State.keeps_closeUpdate {s : State} {t : State} (h : Keeps calm s t)
    (p : Nat) (seq : Nat) :
    Keeps calm s (State.closeUpdate t p seq) := by
  unfold State.closeUpdate
  repeat' (first | with_reducible assumption | with_reducible apply State.keeps_finishUpdate | split)

theorem State.keeps_runChunk {s : State} {t : State} (h : Keeps calm s t)
    (p : Nat) (seq : Nat) (j : Nat) :
    Keeps calm s (State.runChunk t p seq j) := by
  unfold State.runChunk
  repeat' (first
    | with_reducible assumption | with_reducible apply State.keeps_closeUpdate | with_reducible apply State.keeps_writeChunk
    | split)

theorem State.keeps_runUpdate {s t : State} (h : Keeps calm s t) (p seq : Nat) (sub : Nat → Bool) (f : OpRec → State)
    (hf : ∀ o, Keeps calm s (f o)) :
    Keeps calm s (State.runUpdate t p seq sub f) := by
  unfold State.runUpdate
  try dsimp only
  repeat' (first
    | with_reducible assumption | (apply hf; assumption) | (apply hf) | with_reducible apply State.keeps_askOp
    | with_reducible apply State.keeps_voidUpdate | with_reducible apply State.keeps_skipUpdate | split)

theorem State.keeps_runChunks {s : State} {t : State} (h : Keeps calm s t)
    (p : Nat) (o : OpRec) :
    Keeps calm s (State.runChunks t p o) := by
  unfold State.runChunks
  repeat' (first | with_reducible assumption | with_reducible apply State.keeps_runChunk | with_reducible apply keeps_foldl | (intro _))

theorem keeps_execUpdateElement {s : State} {t : State} (h : Keeps calm s t)
    (p : Nat) (seq : Nat) :
    Keeps calm s (afterOf t (execUpdateElement p seq t)) := by
  unfold execUpdateElement afterOf
  repeat' (first | with_reducible assumption | with_reducible apply State.keeps_runUpdate | with_reducible apply State.keeps_runChunks)

theorem keeps_execUpdatePrecond {s : State} {t : State} (h : Keeps calm s t)
    (p : Nat) (seq : Nat) :
    Keeps calm s (afterOf t (execUpdatePrecond p seq t)) := by
  unfold execUpdatePrecond afterOf
  repeat' (first | with_reducible assumption | with_reducible apply State.keeps_runUpdate | with_reducible apply State.keeps_runChunks)

theorem keeps_execUpdateChunk {s : State} {t : State} (h : Keeps calm s t)
    (p : Nat) (seq : Nat) (chunk : Nat) :
    Keeps calm s (afterOf t (execUpdateChunk p seq chunk t)) := by
  unfold execUpdateChunk afterOf
  repeat' (first
    | with_reducible assumption | with_reducible apply State.keeps_runUpdate | with_reducible apply State.keeps_runChunk
    | (intro _))

theorem State.keeps_rerunChunk {s : State} {t : State} (h : Keeps calm s t) (p : Nat) (k : Nat) (failsAgain : Bool) (c : Nat × Nat) :
    Keeps calm s (State.rerunChunk t p k failsAgain c) := by
  unfold State.rerunChunk
  repeat' (first
    | with_reducible assumption | with_reducible apply State.keeps_holdChunk
    | with_reducible apply State.keeps_countUe | with_reducible apply State.keeps_raiseErr
    | with_reducible apply State.keeps_riskEvent | with_reducible apply State.keeps_report
    | with_reducible apply State.keeps_makeSuspect | with_reducible apply State.keeps_countCe
    | with_reducible apply State.keeps_runChunk | dsimp only | split)

theorem State.keeps_rerunDie {s : State} {t : State} (h : Keeps calm s t) (k : Nat) (failsAgain : Bool) :
    Keeps calm s (State.rerunDie t k failsAgain) := by
  unfold State.rerunDie
  repeat' (first
    | with_reducible assumption | with_reducible apply State.keeps_runUpdate
    | with_reducible apply State.keeps_rerunChunk | dsimp only | split | (intro _))

theorem keeps_execChunkRerun {s : State} {t : State} (h : Keeps calm s t) (die : Nat) (failsAgain : Bool) :
    Keeps calm s (afterOf t (execChunkRerun die failsAgain t)) := by
  unfold execChunkRerun afterOf
  repeat' (first
    | with_reducible assumption | with_reducible apply State.keeps_rerunDie)

theorem State.keeps_digestTensor {s : State} {t : State} (h : Keeps calm s t)
    (p : Nat) (o : OpRec) :
    Keeps calm s (State.digestTensor t p o) := by
  unfold State.digestTensor
  repeat' (first
    | with_reducible assumption | with_reducible apply State.keeps_tensorBytes | with_reducible apply State.keeps_finishOp
    | with_reducible apply State.keeps_storeRaw | dsimp only | split)

theorem keeps_execDigestTensor {s : State} {t : State} (h : Keeps calm s t)
    (p : Nat) (seq : Nat) :
    Keeps calm s (afterOf t (execDigestTensor p seq t)) := by
  unfold execDigestTensor afterOf
  repeat' (first | with_reducible assumption | with_reducible apply State.keeps_runOp | with_reducible apply State.keeps_digestTensor)

theorem State.keeps_sendDigest {s : State} {t : State} (h : Keeps calm s t)
    (p : Nat) (i : Nat) (step : Nat) (own : Nat) :
    Keeps calm s (State.sendDigest t p i step own) := by
  unfold State.sendDigest
  repeat' (first | with_reducible assumption | with_reducible apply State.keeps_sendFlit)

theorem State.keeps_startReplica {s : State} {t : State} (h : Keeps calm s t)
    (p : Nat) (o : OpRec) :
    Keeps calm s (State.startReplica t p o) := by
  unfold State.startReplica
  repeat' (first
    | with_reducible assumption | with_reducible apply State.keeps_updUpd | with_reducible apply State.keeps_updPrt
    | with_reducible apply State.keeps_sendDigest | with_reducible apply State.keeps_updOp | with_reducible apply keeps_foldl
    | (intro _))

theorem State.keeps_afterReplica {s : State} {t : State} (h : Keeps calm s t)
    (p : Nat) (out : Nat) (rep : Bool) :
    Keeps calm s (State.afterReplica t p out rep) := by
  unfold State.afterReplica
  repeat' (first
    | with_reducible assumption | with_reducible apply State.keeps_startContextReset
    | with_reducible apply State.keeps_drainCause | split)

theorem State.keeps_endReplica {s : State} {t : State} (h : Keeps calm s t)
    (p : Nat) (o : OpRec) :
    Keeps calm s (State.endReplica t p o) := by
  unfold State.endReplica
  repeat' (first
    | with_reducible assumption | with_reducible apply State.keeps_storeRaw | with_reducible apply State.keeps_updSa
    | with_reducible apply State.keeps_updPrt | with_reducible apply State.keeps_report
    | with_reducible apply State.keeps_sendClose | with_reducible apply State.keeps_finishOp
    | with_reducible apply State.keeps_afterReplica | with_reducible apply State.keeps_completeOp
    | with_reducible apply keeps_foldl | dsimp only | split | (intro _))

theorem State.keeps_digestReplica {s : State} {t : State} (h : Keeps calm s t)
    (p : Nat) (o : OpRec) :
    Keeps calm s (State.digestReplica t p o) := by
  unfold State.digestReplica
  repeat' (first
    | with_reducible assumption | with_reducible apply State.keeps_startReplica | with_reducible apply State.keeps_endReplica
    | dsimp only | split)

theorem keeps_execDigestReplica {s : State} {t : State} (h : Keeps calm s t)
    (p : Nat) (seq : Nat) :
    Keeps calm s (afterOf t (execDigestReplica p seq t)) := by
  unfold execDigestReplica afterOf
  repeat' (first | with_reducible assumption | with_reducible apply State.keeps_runOp | with_reducible apply State.keeps_digestReplica)

theorem State.keeps_receiveDigest {s : State} {t : State} (h : Keeps calm s t)
    (i : Nat) (p : Nat) (payload : List Byte) :
    Keeps calm s (State.receiveDigest t i p payload) := by
  unfold State.receiveDigest
  repeat' (first | with_reducible assumption | with_reducible apply State.keeps_updSa)

/-! ### Belays -/

theorem keeps_Body_put {s st : State} (h : Keeps calm s st) (b : Body) (type handle flags : Nat) (content : List Byte) (bad : Bool) :
    Keeps calm s (b.put type handle flags content bad st).st := h

theorem keeps_Body_tensor {s : State} {b : Body} (h : Keeps calm s b.st) (p : Nat) (o : OpRec) (k : Nat) : Keeps calm s (b.tensor p o k).st := by
  unfold Body.tensor
  dsimp only
  with_reducible apply keeps_Body_put
  with_reducible apply keeps_foldl_quad
  · exact h
  · intro u x hu
    with_reducible apply State.keeps_loadRun
    with_reducible apply State.keeps_loadRun
    exact hu

theorem keeps_Body_frozen {s : State} {t : Body} (h : Keeps calm s t.st)
    (p : Nat) (o : OpRec) (h0 : Nat) :
    Keeps calm s (Body.frozen t p o h0).st := by
  unfold Body.frozen
  repeat' (first | with_reducible assumption | with_reducible apply State.keeps_tensorBytes | with_reducible apply keeps_Body_put)

theorem keeps_Body_cursor {s : State} {t : Body} (h : Keeps calm s t.st)
    (p : Nat) (o : OpRec) :
    Keeps calm s (Body.cursor t p o).st := by
  unfold Body.cursor
  repeat' (first | with_reducible assumption | with_reducible apply State.keeps_loadRaw | with_reducible apply keeps_Body_put | split)

theorem keeps_copyFormat {s : State} {t : List Byte × Bool × State} (h : Keeps calm s t.2.2) (p i : Nat) :
    Keeps calm s (copyFormat p t i).2.2 := by
  unfold copyFormat
  by_cases k : t.2.2.fmtLegal p i = true
  · rw [if_pos k]
    exact keeps_triple (State.keeps_fmtEntry h _ _) _ _
  · rw [if_neg k]
    exact keeps_triple h _ _

theorem keeps_Body_formats {s : State} {b : Body} (h : Keeps calm s b.st) (p : Nat) : Keeps calm s (b.formats p).st := by
  have k : Keeps calm s ((List.range (b.st.prt p).fmtEntries).foldl (copyFormat p) ([], false, b.st)).2.2 :=
    keeps_foldl_triple (copyFormat p) _ ([], false, b.st) h (fun _ _ hu => keeps_copyFormat hu _ _)
  unfold Body.formats
  dsimp only
  with_reducible apply keeps_Body_put
  exact k

theorem State.keeps_belayBody {s : State} {t : State} (h : Keeps calm s t)
    (p : Nat) (o : OpRec) (b : BelayRun) :
    Keeps calm s (State.belayBody t p o b).st := by
  unfold State.belayBody
  repeat' (first
    | with_reducible assumption | with_reducible apply keeps_Body_put | with_reducible apply keeps_Body_cursor
    | with_reducible apply keeps_Body_formats | with_reducible apply keeps_Body_tensor | with_reducible apply keeps_Body_frozen
    | with_reducible apply keeps_foldl_Body | split | (intro _))

theorem State.keeps_updBelay {s : State} {t : State} (h : Keeps calm s t)
    (p : Nat) (seq : Nat) (f : BelayRun → BelayRun) :
    Keeps calm s (State.updBelay t p seq f) := by
  unfold State.updBelay
  repeat' (first | with_reducible assumption | with_reducible apply State.keeps_updOp)

theorem State.keeps_belayOut {s : State} {t : State} (h : Keeps calm s t)
    (p : Nat) (q : Nat) (msg : Nat) (off : Nat) (last : Bool) (payload : List Byte) :
    Keeps calm s (State.belayOut t p q msg off last payload) := by
  unfold State.belayOut
  repeat' (first | with_reducible assumption | with_reducible apply State.keeps_sendFlit)

theorem State.keeps_belayMsg {s : State} {t : State} (h : Keeps calm s t)
    (p : Nat) (q : Nat) (msg : Nat) (bs : List Byte) :
    Keeps calm s (State.belayMsg t p q msg bs) := by
  unfold State.belayMsg
  repeat' (first | with_reducible assumption | with_reducible apply State.keeps_belayOut | with_reducible apply keeps_foldl | (intro _))

theorem State.keeps_writeSeal {s : State} {t : State} (h : Keeps calm s t)
    (p : Nat) (o : OpRec) (b : BelayRun) :
    Keeps calm s (State.writeSeal t p o b).1 := by
  unfold State.writeSeal
  repeat' (first
    | with_reducible assumption | with_reducible apply State.keeps_belayMsg | with_reducible apply State.keeps_storeRun | split)

theorem State.keeps_sealBelay {s : State} {t : State} (h : Keeps calm s t)
    (p : Nat) (o : OpRec) (b : BelayRun) :
    Keeps calm s (State.sealBelay t p o b) := by
  unfold State.sealBelay
  repeat' (first | with_reducible assumption | with_reducible apply State.keeps_writeSeal | with_reducible apply State.keeps_finishOp)

theorem State.keeps_writeImage {s t : State} {body : Body} (h : Keeps calm s body.st) (p : Nat) (o : OpRec) (b : BelayRun) (target : Option Place) :
    Keeps calm s (State.writeImage t p o b body target) := by
  unfold State.writeImage
  repeat' (first
    | with_reducible assumption | with_reducible apply State.keeps_sealBelay | with_reducible apply State.keeps_updOp
    | with_reducible apply State.keeps_storeRun | with_reducible apply State.keeps_belayMsg
    | with_reducible apply State.keeps_belayOut | with_reducible apply State.keeps_drawRandom | dsimp only | split)

theorem State.keeps_copyBelay {s : State} {t : State} (h : Keeps calm s t)
    (p : Nat) (o : OpRec) (b : BelayRun) :
    Keeps calm s (State.copyBelay t p o b) := by
  unfold State.copyBelay
  repeat' (first
    | with_reducible assumption | with_reducible apply State.keeps_belayBody | with_reducible apply State.keeps_writeImage
    | with_reducible apply State.keeps_finishOp | dsimp only | split)

theorem State.keeps_runBelay {s : State} {t : State} (h : Keeps calm s t)
    (p : Nat) (seq : Nat) (sub : Nat) :
    Keeps calm s (State.runBelay t p seq sub) := by
  unfold State.runBelay
  repeat' (first
    | with_reducible assumption | with_reducible apply State.keeps_finishOp | with_reducible apply State.keeps_askOp
    | with_reducible apply State.keeps_copyBelay | split)

theorem keeps_execBelayLocal {s : State} {t : State} (h : Keeps calm s t)
    (p : Nat) (seq : Nat) :
    Keeps calm s (afterOf t (execBelayLocal p seq t)) := by
  unfold execBelayLocal afterOf
  repeat' (first | with_reducible assumption | with_reducible apply State.keeps_runBelay)

theorem keeps_execBelayPeer {s : State} {t : State} (h : Keeps calm s t)
    (p : Nat) (seq : Nat) :
    Keeps calm s (afterOf t (execBelayPeer p seq t)) := by
  unfold execBelayPeer afterOf
  repeat' (first | with_reducible assumption | with_reducible apply State.keeps_runBelay)

theorem keeps_execBelayHost {s : State} {t : State} (h : Keeps calm s t)
    (p : Nat) (seq : Nat) :
    Keeps calm s (afterOf t (execBelayHost p seq t)) := by
  unfold execBelayHost afterOf
  repeat' (first | with_reducible assumption | with_reducible apply State.keeps_runBelay)

theorem State.keeps_runSeal {s : State} {t : State} (h : Keeps calm s t)
    (p : Nat) (seq : Nat) :
    Keeps calm s (State.runSeal t p seq) := by
  unfold State.runSeal
  repeat' (first | with_reducible assumption | with_reducible apply State.keeps_sealBelay | split)

theorem keeps_execBelaySeal {s : State} {t : State} (h : Keeps calm s t)
    (p : Nat) (seq : Nat) :
    Keeps calm s (afterOf t (execBelaySeal p seq t)) := by
  unfold execBelaySeal afterOf
  repeat' (first | with_reducible assumption | with_reducible apply State.keeps_runSeal)

theorem State.keeps_rxTensor {s : State} {t : State} (h : Keeps calm s t)
    (p : Nat) (q : Nat) :
    Keeps calm s (State.rxTensor t p q).2 := by
  unfold State.rxTensor
  repeat' (first | with_reducible assumption | with_reducible apply State.keeps_checkHandle | dsimp only | split)

theorem State.keeps_storeHalf {s : State} {t : State} (h : Keeps calm s t)
    (p : Nat) (e : Entry) (off : Nat) (bs : List Byte) :
    Keeps calm s (State.storeHalf t p e off bs) := by
  unfold State.storeHalf
  repeat' (first | with_reducible assumption | with_reducible apply State.keeps_storeRun)

theorem State.keeps_belayRefused {s : State} {t : State} (h : Keeps calm s t)
    (p : Nat) (q : Nat) :
    Keeps calm s (State.belayRefused t p q) := by
  unfold State.belayRefused
  repeat' (first | with_reducible assumption | with_reducible apply State.keeps_finishOp | split)

theorem State.keeps_receiveBelay {s : State} {t : State} (h : Keeps calm s t)
    (p : Nat) (q : Nat) (h0 : FlitHdr) (payload : List Byte) :
    Keeps calm s (State.receiveBelay t p q h0 payload) := by
  unfold State.receiveBelay
  repeat' (first
    | with_reducible assumption | with_reducible apply State.keeps_belayRefused | with_reducible apply State.keeps_rxTensor
    | with_reducible apply State.keeps_belayOut | with_reducible apply State.keeps_updPrt
    | with_reducible apply State.keeps_storeHalf | dsimp only | split)

theorem State.keeps_verifyImage {s : State} {t : State} (h : Keeps calm s t)
    (p : Nat) (i : Image) (step : Nat) :
    Keeps calm s (State.verifyImage t p i step).2 := by
  unfold State.verifyImage
  repeat' (first | with_reducible assumption | with_reducible apply State.keeps_checkHandles | dsimp only | split)

theorem State.keeps_restoreTensor {s : State} {t : State} (h : Keeps calm s t)
    (p : Nat) (e : Entry) (x : Sect) :
    Keeps calm s (State.restoreTensor t p e x).1 := by
  unfold State.restoreTensor
  repeat' (first
    | with_reducible assumption | with_reducible apply State.keeps_storeRun | with_reducible apply keeps_foldl_fst | (intro _))

theorem keeps_restoreFormat {s : State} {t : State × Bool} (h : Keeps calm s t.1) (p : Nat) (v : Prt) (content : List Byte) (i : Nat) :
    Keeps calm s (restoreFormat p v content t i).1 := by
  unfold restoreFormat
  by_cases k : t.1.fmtLegal p i = true
  · rw [if_pos k]
    exact keeps_pair_fst (State.keeps_storeRun h _ _ _ _ _) _
  · rw [if_neg k]
    exact h

theorem State.keeps_restoreSection {s t : State} (h : Keeps calm s t) (p : Nat) (ents : List (Nat × Entry)) (x : Sect) :
    Keeps calm s (t.restoreSection p ents x).1 := by
  unfold State.restoreSection
  split
  · exact keeps_pair_fst (State.keeps_updPrt h _ _) _
  · dsimp only
    split
    · exact State.keeps_storeRun (State.keeps_checkHandle h _ _) _ _ _ _ _
    · exact keeps_pair_fst (State.keeps_checkHandle h _ _) _
  · exact keeps_pair_fst (State.keeps_updPrt h _ _) _
  · exact keeps_foldl_pair _ _ _ h (fun _ _ hu => keeps_restoreFormat hu _ _ _ _)
  · exact keeps_pair_fst (State.keeps_updPrt h _ _) _
  · split
    · exact State.keeps_restoreTensor h _ _ _
    · exact h
  · exact h

theorem State.keeps_restoreAll {s : State} {t : State} (h : Keeps calm s t)
    (p : Nat) (o : OpRec) (w : Verified) :
    Keeps calm s (State.restoreAll t p o w) := by
  unfold State.restoreAll
  repeat' (first
    | with_reducible assumption | with_reducible apply State.keeps_restoreSection | with_reducible apply State.keeps_finishOp
    | with_reducible apply State.keeps_updPrt | with_reducible apply keeps_foldl_fst | (intro _))

theorem State.keeps_restoreImage {s : State} {t : State} (h : Keeps calm s t)
    (p : Nat) (o : OpRec) (i : Image) :
    Keeps calm s (State.restoreImage t p o i) := by
  unfold State.restoreImage
  repeat' (first
    | with_reducible assumption | with_reducible apply State.keeps_verifyImage | with_reducible apply State.keeps_finishOp
    | with_reducible apply State.keeps_restoreAll | dsimp only | split)

theorem State.keeps_runRestore {s : State} {t : State} (h : Keeps calm s t)
    (p : Nat) (o : OpRec) :
    Keeps calm s (State.runRestore t p o) := by
  unfold State.runRestore
  repeat' (first | with_reducible assumption | with_reducible apply State.keeps_loadRaw | with_reducible apply State.keeps_restoreImage)

theorem keeps_execRestore {s : State} {t : State} (h : Keeps calm s t)
    (p : Nat) (seq : Nat) :
    Keeps calm s (afterOf t (execRestore p seq t)) := by
  unfold execRestore afterOf
  repeat' (first | with_reducible assumption | with_reducible apply State.keeps_runOp | with_reducible apply State.keeps_runRestore)

theorem State.keeps_runRestorePeer {s : State} {t : State} (h : Keeps calm s t)
    (p : Nat) (halves : List (List Byte)) (newest : Bool) (o : OpRec) :
    Keeps calm s (State.runRestorePeer t p halves newest o) := by
  unfold State.runRestorePeer
  repeat' (first
    | with_reducible assumption | with_reducible apply State.keeps_finishOp | with_reducible apply State.keeps_restoreImage
    | dsimp only | split)

theorem keeps_execRestorePeer {s : State} {t : State} (h : Keeps calm s t)
    (p : Nat) (seq : Nat) (halves : List (List Byte)) (newest : Bool) :
    Keeps calm s (afterOf t (execRestorePeer p seq halves newest t)) := by
  unfold execRestorePeer afterOf
  repeat' (first | with_reducible assumption | with_reducible apply State.keeps_runOp | with_reducible apply State.keeps_runRestorePeer)

end Sys2Proof.Machine
end

