-- ==== Sys2Proof/Laws/KeepsKeys.lean ====
section
/-! SUPPORT. What the memory crypto engines and the host keep: one lemma for each operation and each command. -/

namespace Sys2Proof.Machine

variable {calm : Bool}

/-! ### Keys -/

theorem State.keeps_refuseKey {s : State} {t : State} (h : Keeps calm s t) (m : Nat) : Keeps calm s (State.refuseKey t m) := by
  unfold State.refuseKey
  repeat' (first | with_reducible assumption | with_reducible apply State.keeps_updMce)

theorem State.keeps_writeKeySel {s : State} {t : State} (h : Keeps calm s t)
    (via : Via) (m : Nat) (value : Reg) :
    Keeps calm s (State.writeKeySel t via m value) := by
  unfold State.writeKeySel
  repeat' (first
    | with_reducible assumption | with_reducible apply State.keeps_refuseKey | with_reducible apply State.keeps_updMce
    | dsimp only | split)

theorem keeps_execKeySelWrite {s : State} {t : State} (h : Keeps calm s t)
    (via : Via) (m : Nat) (value : Reg) :
    Keeps calm s (afterOf t (execKeySelWrite via m value t)) := by
  unfold execKeySelWrite afterOf
  repeat' (first
    | with_reducible assumption | with_reducible apply State.keeps_access | with_reducible apply State.keeps_writeKeySel
    | (intro _))

theorem State.keeps_keyCommand {s t : State} (h : Keeps calm s t) (via : Via) (m : Nat) (f : Nat → State → State)
    (hf : ∀ k u, Keeps calm s u → Keeps calm s (f k u)) :
    Keeps calm s (State.keyCommand t via m f) := by
  unfold State.keyCommand
  try dsimp only
  repeat' (first
    | with_reducible assumption | (apply hf; assumption) | (apply hf) | with_reducible apply State.keeps_access
    | with_reducible apply State.keeps_refuseKey | split | (intro _))

theorem State.keeps_loadKey {s : State} {t : State} (h : Keeps calm s t)
    (m : Nat) (k : Nat) :
    Keeps calm s (State.loadKey t m k) := by
  unfold State.loadKey
  repeat' (first
    | with_reducible assumption | with_reducible apply State.keeps_refuseKey | with_reducible apply State.keeps_drawRandom
    | with_reducible apply State.keeps_updKey | dsimp only | split)

theorem keeps_execKeyLoad {s : State} {t : State} (h : Keeps calm s t)
    (via : Via) (m : Nat) :
    Keeps calm s (afterOf t (execKeyLoad via m t)) := by
  unfold execKeyLoad afterOf
  repeat' (first
    | with_reducible assumption | with_reducible apply State.keeps_keyCommand | with_reducible apply State.keeps_loadKey
    | (intro _))

theorem State.keeps_activateKey {s : State} {t : State} (h : Keeps calm s t)
    (m : Nat) (k : Nat) :
    Keeps calm s (State.activateKey t m k) := by
  unfold State.activateKey
  repeat' (first
    | with_reducible assumption | with_reducible apply State.keeps_updKey | with_reducible apply State.keeps_refuseKey
    | dsimp only | split)

theorem keeps_execKeyActivate {s : State} {t : State} (h : Keeps calm s t)
    (via : Via) (m : Nat) :
    Keeps calm s (afterOf t (execKeyActivate via m t)) := by
  unfold execKeyActivate afterOf
  repeat' (first
    | with_reducible assumption | with_reducible apply State.keeps_keyCommand | with_reducible apply State.keeps_activateKey
    | (intro _))

theorem State.keeps_drainKey {s : State} {t : State} (h : Keeps calm s t)
    (m : Nat) (k : Nat) :
    Keeps calm s (State.drainKey t m k) := by
  unfold State.drainKey
  repeat' (first
    | with_reducible assumption | with_reducible apply State.keeps_refuseKey | with_reducible apply State.keeps_updKey
    | dsimp only | split)

theorem keeps_execKeyDrain {s : State} {t : State} (h : Keeps calm s t)
    (via : Via) (m : Nat) :
    Keeps calm s (afterOf t (execKeyDrain via m t)) := by
  unfold execKeyDrain afterOf
  repeat' (first
    | with_reducible assumption | with_reducible apply State.keeps_keyCommand | with_reducible apply State.keeps_drainKey
    | (intro _))

theorem State.keeps_retireKey {s : State} {t : State} (h : Keeps calm s t)
    (m : Nat) (k : Nat) :
    Keeps calm s (State.retireKey t m k) := by
  unfold State.retireKey
  repeat' (first
    | with_reducible assumption | with_reducible apply State.keeps_updKey | with_reducible apply State.keeps_refuseKey
    | dsimp only | split)

theorem keeps_execKeyRetire {s : State} {t : State} (h : Keeps calm s t)
    (via : Via) (m : Nat) :
    Keeps calm s (afterOf t (execKeyRetire via m t)) := by
  unfold execKeyRetire afterOf
  repeat' (first
    | with_reducible assumption | with_reducible apply State.keeps_keyCommand | with_reducible apply State.keeps_retireKey
    | (intro _))

theorem State.keeps_foundUe {s : State} {t : State} (h : Keeps calm s t)
    (page : Nat) (bit : Option Nat) (info : Reg) :
    Keeps calm s (State.foundUe t page bit info) := by
  unfold State.foundUe
  repeat' (first
    | with_reducible assumption | with_reducible apply State.keeps_report | with_reducible apply State.keeps_countUe
    | with_reducible apply State.keeps_raiseErr | split)

theorem State.keeps_losesLine {s : State} {t : State} (h : Keeps calm s t)
    (u0 : Nat) (n : Nat) :
    Keeps calm s (State.losesLine t u0 n) := by
  unfold State.losesLine
  repeat' (first | with_reducible assumption | with_reducible apply State.keeps_poisonLine | with_reducible apply State.keeps_foundUe)

theorem State.keeps_mceRead {s : State} {t : State} (h : Keeps calm s t) (u0 : Nat) (ecc : EccRead) (verified : Bool) :
    Keeps calm s (State.mceRead t u0 ecc verified) := by
  unfold State.mceRead
  repeat' (first
    | with_reducible assumption | with_reducible apply State.keeps_countCe | dsimp only | split)

theorem State.keeps_readBasin {s : State} {t : State} (h : Keeps calm s t) (u0 : Nat) (n : Nat) (k : Nat) (ecc : EccRead) :
    Keeps calm s (State.readBasin t u0 n k ecc).2 := by
  unfold State.readBasin
  repeat' (first
    | with_reducible assumption | with_reducible apply State.keeps_losesLine
    | with_reducible apply State.keeps_getLine | with_reducible apply State.keeps_mceRead | dsimp only | split)

theorem State.keeps_chargeScrub {s : State} {t : State} (h : Keeps calm s t)
    (u0 : Nat) :
    Keeps calm s (State.chargeScrub t u0) := by
  unfold State.chargeScrub
  repeat' (first | with_reducible assumption | with_reducible apply State.keeps_takeTokens | split)

theorem State.keeps_sweepAt {s : State} {t : State} (h : Keeps calm s t) (m : Nat) (k : Nat) (n : Nat) (ecc : EccRead) :
    Keeps calm s (State.sweepAt t m k n ecc) := by
  unfold State.sweepAt
  repeat' (first
    | with_reducible assumption | with_reducible apply State.keeps_losesLine
    | with_reducible apply State.keeps_mceRead | with_reducible apply State.keeps_chargeScrub
    | with_reducible apply State.keeps_putLine | dsimp only | split)

theorem keeps_execSweepStep {s : State} {t : State} (h : Keeps calm s t)
    (m : Nat) (slot : Nat) (ecc : EccRead) :
    Keeps calm s (afterOf t (execSweepStep m slot ecc t)) := by
  unfold execSweepStep afterOf
  repeat' (first
    | with_reducible assumption | with_reducible apply State.keeps_updKey | with_reducible apply State.keeps_progress
    | with_reducible apply State.keeps_sweepAt | with_reducible apply State.keeps_chargeScrub | dsimp only | split)

theorem keeps_execSweepFlush {s : State} {t : State} (h : Keeps calm s t)
    (m : Nat) (slot : Nat) :
    Keeps calm s (afterOf t (execSweepFlush m slot t)) := by
  unfold execSweepFlush afterOf
  repeat' (first | with_reducible assumption | with_reducible apply State.keeps_updKey | dsimp only | split)

theorem State.keeps_loseTree {s : State} {t : State} (h : Keeps calm s t)
    (u0 : Nat) (k : Nat) (l : Nat) :
    Keeps calm s (State.loseTree t u0 k l) := by
  unfold State.loseTree
  repeat' (first | with_reducible assumption | with_reducible apply State.keeps_raiseErr | with_reducible apply State.keeps_updMce)

theorem State.keeps_readTree {s : State} {t : State} (h : Keeps calm s t)
    (u0 : Nat) (n : Nat) (k : Nat) (tree : EccRead) :
    Keeps calm s (State.readTree t u0 n k tree) := by
  unfold State.readTree
  repeat' (first
    | with_reducible assumption | with_reducible apply State.keeps_raiseErr | with_reducible apply State.keeps_countCe
    | with_reducible apply State.keeps_loseTree | with_reducible apply State.keeps_report
    | with_reducible apply State.keeps_countUe | dsimp only | split)

theorem keeps_execBasinRead {s : State} {t : State} (h : Keeps calm s t)
    (m : Nat) (line : Nat) (slot : Nat) (ecc : EccRead) (tree : EccRead) (level : Nat) :
    Keeps calm s (afterOf t (execBasinRead m line slot ecc tree level t)) := by
  unfold execBasinRead afterOf
  repeat' (first
    | with_reducible assumption | with_reducible apply State.keeps_progress | with_reducible apply State.keeps_readBasin
    | with_reducible apply State.keeps_readTree | dsimp only | split)

theorem keeps_execBasinWrite {s : State} {t : State} (h : Keeps calm s t)
    (m : Nat) (line : Nat) (slot : Nat) (data : List Byte) :
    Keeps calm s (afterOf t (execBasinWrite m line slot data t)) := by
  unfold execBasinWrite afterOf
  repeat' (first
    | with_reducible assumption | with_reducible apply State.keeps_progress | with_reducible apply State.keeps_putLine
    | dsimp only | split)

theorem State.keeps_mergeLine {s : State} {t : State} (h : Keeps calm s t)
    (u0 : Nat) (n : Nat) (k : Nat) (offset : Nat) (data : List Byte) (ecc : EccRead) :
    Keeps calm s (State.mergeLine t u0 n k offset data ecc) := by
  unfold State.mergeLine
  repeat' (first
    | with_reducible assumption | with_reducible apply State.keeps_putLine | with_reducible apply State.keeps_readBasin
    | dsimp only | split)

theorem keeps_execBasinPartialWrite {s : State} {t : State} (h : Keeps calm s t)
    (m : Nat) (line : Nat) (slot : Nat) (offset : Nat) (data : List Byte) (ecc : EccRead) :
    Keeps calm s (afterOf t (execBasinPartialWrite m line slot offset data ecc t)) := by
  unfold execBasinPartialWrite afterOf
  repeat' (first
    | with_reducible assumption | with_reducible apply State.keeps_progress | with_reducible apply State.keeps_mergeLine
    | dsimp only | split)

theorem keeps_execTreeEviction {s : State} {t : State} (h : Keeps calm s t)
    (m : Nat) (level : Nat) (line : Nat) :
    Keeps calm s (afterOf t (execTreeEviction m level line t)) := by
  unfold execTreeEviction afterOf
  repeat' (first
    | with_reducible assumption | with_reducible apply State.keeps_raiseErr | with_reducible apply State.keeps_updMce
    | dsimp only | split)

theorem State.keeps_dropBasin {s t : State} (h : Keeps calm s t) (f : Nat → Bool) :
    Keeps calm s { t with basin := Sparse.dropKeys t.basin f } := by
  refine h.of_memory (fun _ => ⟨rfl, rfl⟩) rfl rfl rfl ?_ rfl rfl rfl
  simp only [Memory.wf, Bool.and_eq_true, and_imp]
  intro a b c d e f g
  exact ⟨⟨⟨⟨⟨⟨a, b⟩, c⟩, d⟩, e⟩, f⟩, Sparse.wf_dropKeys _ _ _ g⟩

theorem keeps_execSubtreeReinit {s : State} {t : State} (h : Keeps calm s t) (m : Nat) :
    Keeps calm s (afterOf t (execSubtreeReinit m t)) := by
  unfold execSubtreeReinit afterOf
  repeat' (first
    | with_reducible assumption | with_reducible apply State.keeps_raiseErr | with_reducible apply State.keeps_updMce
    | with_reducible apply State.keeps_dropBasin | dsimp only | split)

theorem keeps_execGroupRebuild {s t : State} (h : Keeps calm s t) (m : Nat) : Keeps calm s (afterOf t (execGroupRebuild m t)) := by
  unfold execGroupRebuild afterOf
  dsimp only
  split
  · exact State.keeps_updMce (State.keeps_dropBasin h _) _ _
  · exact h

theorem State.keeps_scrubLoss {s : State} {t : State} (h : Keeps calm s t)
    (k : Nat) (n : Nat) :
    Keeps calm s (State.scrubLoss t k n) := by
  unfold State.scrubLoss
  repeat' (first
    | with_reducible assumption | with_reducible apply State.keeps_poisonLine | with_reducible apply State.keeps_foundUe
    | with_reducible apply State.keeps_raiseErr | with_reducible apply State.keeps_updMce
    | with_reducible apply State.keeps_loseTree | with_reducible apply State.keeps_report | dsimp only | split)

theorem keeps_execScrubStep {s : State} {t : State} (h : Keeps calm s t)
    (k : Nat) (ecc : EccRead) :
    Keeps calm s (afterOf t (execScrubStep k ecc t)) := by
  unfold execScrubStep afterOf
  repeat' (first
    | with_reducible assumption | with_reducible apply State.keeps_raiseErr | with_reducible apply State.keeps_countCe
    | with_reducible apply State.keeps_scrubLoss | with_reducible apply State.keeps_updBas
    | with_reducible apply State.keeps_progress | with_reducible apply State.keeps_chargeScrub | dsimp only | split)

theorem keeps_execLineTest {s : State} {t : State} (h : Keeps calm s t)
    (page : Nat) (test : TestRead) :
    Keeps calm s (afterOf t (execLineTest page test t)) := by
  unfold execLineTest afterOf
  repeat' (first | with_reducible assumption | with_reducible apply State.keeps_makeSuspect | dsimp only | split)

theorem State.keeps_markPool {s t u : State} (h : Keeps calm s u) (k : Keeps calm s t) (w : Nat) :
    Keeps calm s { u with poolBad := Sparse.set false t.poolBad w true } := by
  refine ⟨h.pending, h.fuses, h.jtag, h.inject, h.debugUsed, h.power, fun m => ?_, h.blocks, h.out, h.draws, h.still⟩
  have a := h.memory m
  have b := k.memory m
  simp only [Memory.wf, Bool.and_eq_true] at a b ⊢
  exact ⟨⟨⟨⟨⟨⟨a.1.1.1.1.1.1, Sparse.wf_set _ _ _ _ b.1.1.1.1.1.2⟩, a.1.1.1.1.2⟩, a.1.1.1.2⟩, a.1.1.2⟩, a.1.2⟩, a.2⟩

theorem State.keeps_sramRead {s : State} {t : State} (h : Keeps calm s t) (page : Nat) (ce : Option Nat) (ue : Option Nat) (ecc : EccRead) (lost : State → State) (hlost : ∀ u, Keeps calm s u → Keeps calm s (lost u)) :
    Keeps calm s (State.sramRead t page ce ue ecc lost) := by
  unfold State.sramRead
  repeat' (first
    | with_reducible assumption | (apply hlost; assumption) | (apply hlost)
    | with_reducible apply State.keeps_raiseErr | with_reducible apply State.keeps_countCe
    | with_reducible apply State.keeps_foundUe | dsimp only | split)

theorem State.keeps_markSpd {s t u : State} (h : Keeps calm s u) (k : Keeps calm s t) (w : Nat) :
    Keeps calm s { u with spdBad := Sparse.set false t.spdBad w true } := by
  refine ⟨h.pending, h.fuses, h.jtag, h.inject, h.debugUsed, h.power, fun m => ?_, h.blocks, h.out, h.draws, h.still⟩
  have a := h.memory m
  have b := k.memory m
  simp only [Memory.wf, Bool.and_eq_true] at a b ⊢
  exact ⟨⟨⟨⟨⟨⟨a.1.1.1.1.1.1, a.1.1.1.1.1.2⟩, a.1.1.1.1.2⟩, Sparse.wf_set _ _ _ _ b.1.1.1.2⟩, a.1.1.2⟩, a.1.2⟩, a.2⟩

theorem keeps_execPoolRead {s : State} {t : State} (h : Keeps calm s t) (array : SramArray) (offset : Nat) (ecc : EccRead) :
    Keeps calm s (afterOf t (execPoolRead array offset ecc t)) := by
  unfold execPoolRead afterOf
  repeat' (first
    | with_reducible assumption | with_reducible apply State.keeps_sramRead
    | with_reducible apply State.keeps_makeSuspect | with_reducible apply State.keeps_markPool
    | with_reducible apply State.keeps_markSpd | dsimp only | split | (intro _))

theorem keeps_execPoolScrub {s : State} {t : State} (h : Keeps calm s t)
    (block : Nat) :
    Keeps calm s (afterOf t (execPoolScrub block t)) := by
  unfold execPoolScrub afterOf
  repeat' (first
    | with_reducible assumption | dsimp only | split
    | refine keeps_mk ?_ (fun _ => ⟨rfl, rfl⟩) rfl rfl rfl rfl rfl rfl rfl rfl rfl rfl rfl rfl rfl rfl rfl rfl rfl rfl (Nat.le_refl _))

theorem keeps_execBasinRefresh {s : State} {t : State} (h : Keeps calm s t)
    (k : Nat) :
    Keeps calm s (afterOf t (execBasinRefresh k t)) := by
  unfold execBasinRefresh afterOf
  repeat' (first | with_reducible assumption)

/-! ### Host -/

theorem State.keeps_giveOp {s : State} {t : State} (h : Keeps calm s t)
    (r : HostRead) (data : HostLine) :
    Keeps calm s (State.giveOp t r data) := by
  unfold State.giveOp
  repeat' (first
    | with_reducible assumption | with_reducible apply State.keeps_raiseErr | with_reducible apply State.keeps_updMce
    | with_reducible apply State.keeps_updOp | with_reducible apply State.keeps_chargeHost | split)

theorem State.keeps_giveQueue {s : State} {t : State} (h : Keeps calm s t)
    (r : HostRead) (n : Nat) (data : HostLine) :
    Keeps calm s (State.giveQueue t r n data) := by
  unfold State.giveQueue
  repeat' (first
    | with_reducible assumption | with_reducible apply State.keeps_readEntry | with_reducible apply State.keeps_raiseErr
    | with_reducible apply State.keeps_updMce | with_reducible apply State.keeps_updQueue
    | with_reducible apply State.keeps_chargeHost | split)

theorem State.keeps_endRead {s : State} {t : State} (h : Keeps calm s t)
    (port : Bool) (r : HostRead) (data : HostLine) :
    Keeps calm s (State.endRead t port r data) := by
  unfold State.endRead
  repeat' (first
    | with_reducible assumption | with_reducible apply State.keeps_updHst | with_reducible apply State.keeps_giveQueue
    | with_reducible apply State.keeps_giveOp | dsimp only | split)

theorem keeps_execHostReadCompletion {s : State} {t : State} (h : Keeps calm s t)
    (port : Bool) (tag : Nat) (data : HostLine) :
    Keeps calm s (afterOf t (execHostReadCompletion port tag data t)) := by
  unfold execHostReadCompletion afterOf
  repeat' (first
    | with_reducible assumption | with_reducible apply State.keeps_progress | with_reducible apply State.keeps_askAll
    | with_reducible apply State.keeps_endRead | dsimp only | split)

theorem keeps_execHostCompletionTimeout {s : State} {t : State} (h : Keeps calm s t)
    (port : Bool) (tag : Nat) :
    Keeps calm s (afterOf t (execHostCompletionTimeout port tag t)) := by
  unfold execHostCompletionTimeout afterOf
  repeat' (first
    | with_reducible assumption | with_reducible apply State.keeps_askAll | with_reducible apply State.keeps_raiseErr
    | with_reducible apply State.keeps_endRead | dsimp only | split)

theorem State.keeps_endReads {s : State} {t : State} (h : Keeps calm s t)
    (port : Bool) (f : HostRead → Bool) :
    Keeps calm s (State.endReads t port f) := by
  unfold State.endReads
  repeat' (first | with_reducible assumption | with_reducible apply State.keeps_endRead | with_reducible apply keeps_foldl | (intro _))

theorem State.keeps_dropHostLink {s : State} {t : State} (h : Keeps calm s t)
    (port : Bool) (dst : HostLink) :
    Keeps calm s (State.dropHostLink t port dst) := by
  unfold State.dropHostLink
  repeat' (first
    | with_reducible assumption | with_reducible apply State.keeps_updHst | with_reducible apply State.keeps_endReads
    | with_reducible apply State.keeps_msix | with_reducible apply State.keeps_raiseErr | split)

theorem keeps_execHostLinkDown {s : State} {t : State} (h : Keeps calm s t)
    (port : Bool) :
    Keeps calm s (afterOf t (execHostLinkDown port t)) := by
  unfold execHostLinkDown afterOf
  repeat' (first | with_reducible assumption | with_reducible apply State.keeps_askAll | with_reducible apply State.keeps_dropHostLink)

theorem State.keeps_raiseHostLink {s : State} {t : State} (h : Keeps calm s t)
    (port : Bool) (speed : BitVec 4) (width : BitVec 4) (flit : Bool) :
    Keeps calm s (State.raiseHostLink t port speed width flit) := by
  unfold State.raiseHostLink
  repeat' (first | with_reducible assumption | with_reducible apply State.keeps_msix | with_reducible apply State.keeps_updHst)

theorem keeps_execHostLinkUp {s : State} {t : State} (h : Keeps calm s t)
    (port : Bool) (speed : BitVec 4) (width : BitVec 4) (flit : Bool) :
    Keeps calm s (afterOf t (execHostLinkUp port speed width flit t)) := by
  unfold execHostLinkUp afterOf
  repeat' (first | with_reducible assumption | with_reducible apply State.keeps_raiseHostLink | dsimp only | split)

theorem State.keeps_setTdi {s : State} {t : State} (h : Keeps calm s t)
    (port : Bool) (p : Nat) (t0 : Tdi) :
    Keeps calm s (State.setTdi t port p t0) := by
  unfold State.setTdi
  repeat' (first | with_reducible assumption | with_reducible apply State.keeps_updHst)

theorem State.keeps_detach {s : State} {t : State} (h : Keeps calm s t)
    (port : Bool) (p : Nat) :
    Keeps calm s (State.detach t port p) := by
  unfold State.detach
  repeat' (first
    | with_reducible assumption | with_reducible apply State.keeps_setTdi | with_reducible apply State.keeps_stopQueue
    | with_reducible apply State.keeps_updPrt | with_reducible apply State.keeps_askAll
    | with_reducible apply State.keeps_endReads | with_reducible apply keeps_foldl | dsimp only | split | (intro _))

theorem keeps_execFlr {s : State} {t : State} (h : Keeps calm s t) (port : Bool) (fn : Nat) :
    Keeps calm s (afterOf t (execFlr port fn t)) := by
  unfold execFlr afterOf
  repeat' (first
    | with_reducible assumption | with_reducible apply State.keeps_updHst | with_reducible apply State.keeps_detach
    | dsimp only | split)

theorem State.keeps_tdispError {s : State} {t : State} (h : Keeps calm s t)
    (port : Bool) (vf : Nat) :
    Keeps calm s (State.tdispError t port vf) := by
  unfold State.tdispError
  repeat' (first | with_reducible assumption | with_reducible apply State.keeps_emit)

theorem State.keeps_stopInterface {s : State} {t : State} (h : Keeps calm s t) (port : Bool) (vf : Nat) :
    Keeps calm s (State.stopInterface t port vf) := by
  unfold State.stopInterface
  repeat' (first
    | with_reducible assumption | with_reducible apply State.keeps_detach | with_reducible apply State.keeps_emit
    | dsimp only | split)

theorem keeps_execStopInterface {s : State} {t : State} (h : Keeps calm s t) (port : Bool) (vf : Nat) :
    Keeps calm s (afterOf t (execStopInterface port vf t)) := by
  unfold execStopInterface afterOf
  repeat' (first
    | with_reducible assumption | with_reducible apply State.keeps_stopInterface)

theorem State.keeps_tdispVersion {s : State} {t : State} (h : Keeps calm s t) (port : Bool) (vf : Nat) :
    Keeps calm s (State.tdispVersion t port vf) := by
  unfold State.tdispVersion
  repeat' (first
    | with_reducible assumption | with_reducible apply State.keeps_emit | dsimp only | split)

theorem keeps_execGetTdispVersion {s : State} {t : State} (h : Keeps calm s t) (port : Bool) (vf : Nat) :
    Keeps calm s (afterOf t (execGetTdispVersion port vf t)) := by
  unfold execGetTdispVersion afterOf
  repeat' (first
    | with_reducible assumption | with_reducible apply State.keeps_tdispVersion)

theorem State.keeps_tdispCapabilities {s : State} {t : State} (h : Keeps calm s t) (port : Bool) (vf : Nat) :
    Keeps calm s (State.tdispCapabilities t port vf) := by
  unfold State.tdispCapabilities
  repeat' (first
    | with_reducible assumption | with_reducible apply State.keeps_emit | dsimp only | split)

theorem keeps_execGetTdispCapabilities {s : State} {t : State} (h : Keeps calm s t) (port : Bool) (vf : Nat) :
    Keeps calm s (afterOf t (execGetTdispCapabilities port vf t)) := by
  unfold execGetTdispCapabilities afterOf
  repeat' (first
    | with_reducible assumption | with_reducible apply State.keeps_tdispCapabilities)

theorem State.keeps_lockInterface {s : State} {t : State} (h : Keeps calm s t) (port : Bool) (vf : Nat) :
    Keeps calm s (State.lockInterface t port vf) := by
  unfold State.lockInterface
  repeat' (first
    | with_reducible assumption | with_reducible apply State.keeps_tdispError
    | with_reducible apply State.keeps_drawRandom | with_reducible apply State.keeps_setTdi
    | with_reducible apply State.keeps_emit | dsimp only | split)

theorem keeps_execLockInterface {s : State} {t : State} (h : Keeps calm s t) (port : Bool) (vf : Nat) :
    Keeps calm s (afterOf t (execLockInterface port vf t)) := by
  unfold execLockInterface afterOf
  repeat' (first
    | with_reducible assumption | with_reducible apply State.keeps_lockInterface)

theorem State.keeps_interfaceReport {s : State} {t : State} (h : Keeps calm s t) (port : Bool) (vf : Nat) :
    Keeps calm s (State.interfaceReport t port vf) := by
  unfold State.interfaceReport
  repeat' (first
    | with_reducible assumption | with_reducible apply State.keeps_emit | with_reducible apply State.keeps_tdispError
    | dsimp only | split)

theorem keeps_execGetDeviceInterfaceReport {s : State} {t : State} (h : Keeps calm s t) (port : Bool) (vf : Nat) :
    Keeps calm s (afterOf t (execGetDeviceInterfaceReport port vf t)) := by
  unfold execGetDeviceInterfaceReport afterOf
  repeat' (first
    | with_reducible assumption | with_reducible apply State.keeps_interfaceReport)

theorem State.keeps_interfaceState {s : State} {t : State} (h : Keeps calm s t) (port : Bool) (vf : Nat) :
    Keeps calm s (State.interfaceState t port vf) := by
  unfold State.interfaceState
  repeat' (first
    | with_reducible assumption | with_reducible apply State.keeps_emit | dsimp only | split)

theorem keeps_execGetDeviceInterfaceState {s : State} {t : State} (h : Keeps calm s t) (port : Bool) (vf : Nat) :
    Keeps calm s (afterOf t (execGetDeviceInterfaceState port vf t)) := by
  unfold execGetDeviceInterfaceState afterOf
  repeat' (first
    | with_reducible assumption | with_reducible apply State.keeps_interfaceState)

theorem State.keeps_startInterface {s : State} {t : State} (h : Keeps calm s t) (port : Bool) (vf : Nat) :
    Keeps calm s (State.startInterface t port vf) := by
  unfold State.startInterface
  repeat' (first
    | with_reducible assumption | with_reducible apply State.keeps_setTdi | with_reducible apply State.keeps_emit
    | with_reducible apply State.keeps_tdispError | dsimp only | split)

theorem keeps_execStartInterface {s : State} {t : State} (h : Keeps calm s t) (port : Bool) (vf : Nat) :
    Keeps calm s (afterOf t (execStartInterface port vf t)) := by
  unfold execStartInterface afterOf
  repeat' (first
    | with_reducible assumption | with_reducible apply State.keeps_startInterface)

theorem State.keeps_ideKey {s : State} {t : State} (h : Keeps calm s t) (port : Bool) (vf : Nat) (session : Nat) (key : List Byte) :
    Keeps calm s (State.ideKey t port vf session key) := by
  unfold State.ideKey
  repeat' (first
    | with_reducible assumption | with_reducible apply State.keeps_updHst | dsimp only | split)

theorem keeps_execIdeKm {s : State} {t : State} (h : Keeps calm s t) (port : Bool) (vf : Nat) (session : Nat) (key : List Byte) :
    Keeps calm s (afterOf t (execIdeKm port vf session key t)) := by
  unfold execIdeKm afterOf
  repeat' (first
    | with_reducible assumption | with_reducible apply State.keeps_ideKey)

theorem keeps_execIdeIntegrityFailure {s : State} {t : State} (h : Keeps calm s t)
    (port : Bool) (vf : Nat) :
    Keeps calm s (afterOf t (execIdeIntegrityFailure port vf t)) := by
  unfold execIdeIntegrityFailure afterOf
  repeat' (first
    | with_reducible assumption | with_reducible apply State.keeps_raiseErr | with_reducible apply State.keeps_updHst
    | dsimp only | split)

theorem State.keeps_tdispMessage {s : State} {t : State} (h : Keeps calm s t) (port : Bool) (payload : List Byte) :
    Keeps calm s (State.tdispMessage t port payload) := by
  unfold State.tdispMessage
  repeat' (first
    | with_reducible assumption | with_reducible apply State.keeps_tdispVersion
    | with_reducible apply State.keeps_tdispCapabilities | with_reducible apply State.keeps_lockInterface
    | with_reducible apply State.keeps_interfaceReport | with_reducible apply State.keeps_interfaceState
    | with_reducible apply State.keeps_startInterface | with_reducible apply State.keeps_stopInterface
    | with_reducible apply State.keeps_tdispError | dsimp only | split)

theorem State.keeps_signed {s : State} {t : State} (h : Keeps calm s t)
    (msg : List Byte) :
    Keeps calm s (State.signed t msg).2 := by
  unfold State.signed
  repeat' (first | with_reducible assumption | with_reducible apply State.keeps_drawRandom)

theorem State.keeps_spdmAnswer {s : State} {t : State} (h : Keeps calm s t) (path : SpdmPath) (code : Nat) (bs : List Byte) :
    Keeps calm s (State.spdmAnswer t path code bs) := by
  unfold State.spdmAnswer
  repeat' (first
    | with_reducible assumption | with_reducible apply State.keeps_emit)

theorem State.keeps_spdmError {s : State} {t : State} (h : Keeps calm s t) (path : SpdmPath) (code : BitVec 8) :
    Keeps calm s (State.spdmError t path code) := by
  unfold State.spdmError
  repeat' (first
    | with_reducible assumption | with_reducible apply State.keeps_emit)

theorem State.keeps_spdmRequest {s : State} {t : State} (h : Keeps calm s t) (path : SpdmPath) (needs : Bool) (f : State → State) (hf : ∀ u, Keeps calm s u → Keeps calm s (f u)) :
    Keeps calm s (State.spdmRequest t path needs f) := by
  unfold State.spdmRequest
  repeat' (first
    | with_reducible assumption | (apply hf; assumption) | (apply hf) | with_reducible apply State.keeps_spdmError
    | dsimp only | split)

theorem State.keeps_spdmRestart {s : State} {t : State} (h : Keeps calm s t) (path : SpdmPath) :
    Keeps calm s (State.spdmRestart t path) := by
  unfold State.spdmRestart
  repeat' (first
    | with_reducible assumption | with_reducible apply State.keeps_updHst | dsimp only | split | (intro _)
    | refine keeps_mk ?_ (fun _ => ⟨rfl, rfl⟩) rfl rfl rfl rfl rfl rfl rfl rfl rfl rfl rfl rfl rfl rfl rfl rfl rfl rfl (by first | exact Nat.le_refl _ | exact Nat.le_succ _))

theorem keeps_execGetVersion {s : State} {t : State} (h : Keeps calm s t) (path : SpdmPath) :
    Keeps calm s (afterOf t (execGetVersion path t)) := by
  unfold execGetVersion afterOf
  repeat' (first
    | with_reducible assumption | with_reducible apply State.keeps_spdmRequest
    | with_reducible apply State.keeps_spdmRestart | with_reducible apply State.keeps_spdmAnswer | dsimp only | split
    | (intro _))

theorem keeps_execGetCapabilities {s : State} {t : State} (h : Keeps calm s t) (path : SpdmPath) :
    Keeps calm s (afterOf t (execGetCapabilities path t)) := by
  unfold execGetCapabilities afterOf
  repeat' (first
    | with_reducible assumption | with_reducible apply State.keeps_spdmRequest
    | with_reducible apply State.keeps_spdmAnswer | dsimp only | split | (intro _))

theorem State.keeps_spdmSelect {s : State} {t : State} (h : Keeps calm s t) (path : SpdmPath) (aes : Bool) (sm4 : Bool) :
    Keeps calm s (State.spdmSelect t path aes sm4) := by
  unfold State.spdmSelect
  repeat' (first
    | with_reducible assumption | with_reducible apply State.keeps_updHst
    | with_reducible apply State.keeps_spdmAnswer | dsimp only | split | (intro _)
    | refine keeps_mk ?_ (fun _ => ⟨rfl, rfl⟩) rfl rfl rfl rfl rfl rfl rfl rfl rfl rfl rfl rfl rfl rfl rfl rfl rfl rfl (by first | exact Nat.le_refl _ | exact Nat.le_succ _))

theorem keeps_execNegotiateAlgorithms {s : State} {t : State} (h : Keeps calm s t) (path : SpdmPath) (offer : SpdmOffer) :
    Keeps calm s (afterOf t (execNegotiateAlgorithms path offer t)) := by
  unfold execNegotiateAlgorithms afterOf
  repeat' (first
    | with_reducible assumption | with_reducible apply State.keeps_spdmRequest
    | with_reducible apply State.keeps_spdmSelect | with_reducible apply State.keeps_spdmError | dsimp only | split
    | (intro _))

theorem keeps_execGetDigests {s : State} {t : State} (h : Keeps calm s t) (path : SpdmPath) :
    Keeps calm s (afterOf t (execGetDigests path t)) := by
  unfold execGetDigests afterOf
  repeat' (first
    | with_reducible assumption | with_reducible apply State.keeps_spdmRequest
    | with_reducible apply State.keeps_spdmAnswer | dsimp only | split | (intro _))

theorem keeps_execGetCertificate {s : State} {t : State} (h : Keeps calm s t) (path : SpdmPath) (slot : Nat) (offset : Nat) (len : Nat) :
    Keeps calm s (afterOf t (execGetCertificate path slot offset len t)) := by
  unfold execGetCertificate afterOf
  repeat' (first
    | with_reducible assumption | with_reducible apply State.keeps_spdmRequest
    | with_reducible apply State.keeps_spdmAnswer | with_reducible apply State.keeps_spdmError | dsimp only | split
    | (intro _))

theorem State.keeps_spdmSigned {s : State} {t : State} (h : Keeps calm s t) (path : SpdmPath) (code : Nat) (bs : List Byte) (nonce : List Byte) :
    Keeps calm s (State.spdmSigned t path code bs nonce) := by
  unfold State.spdmSigned
  repeat' (first
    | with_reducible assumption | with_reducible apply State.keeps_signed
    | with_reducible apply State.keeps_spdmAnswer | with_reducible apply State.keeps_spdmError | dsimp only | split)

theorem keeps_execChallenge {s : State} {t : State} (h : Keeps calm s t) (path : SpdmPath) (nonce : List Byte) :
    Keeps calm s (afterOf t (execChallenge path nonce t)) := by
  unfold execChallenge afterOf
  repeat' (first
    | with_reducible assumption | with_reducible apply State.keeps_spdmRequest
    | with_reducible apply State.keeps_spdmSigned | dsimp only | split | (intro _))

theorem keeps_execGetMeasurements {s : State} {t : State} (h : Keeps calm s t) (path : SpdmPath) (index : Nat) (nonce : List Byte) :
    Keeps calm s (afterOf t (execGetMeasurements path index nonce t)) := by
  unfold execGetMeasurements afterOf
  repeat' (first
    | with_reducible assumption | with_reducible apply State.keeps_spdmRequest
    | with_reducible apply State.keeps_spdmSigned | with_reducible apply State.keeps_spdmError | dsimp only | split
    | (intro _))

theorem keeps_execKeyExchange {s : State} {t : State} (h : Keeps calm s t) (port : Bool) (id : Nat) (mutualAuth : Bool) :
    Keeps calm s (afterOf t (execKeyExchange port id mutualAuth t)) := by
  unfold execKeyExchange afterOf
  repeat' (first
    | with_reducible assumption | with_reducible apply State.keeps_spdmRequest
    | with_reducible apply State.keeps_spdmError | with_reducible apply State.keeps_drawRandom
    | with_reducible apply State.keeps_updHst | with_reducible apply State.keeps_spdmSigned | dsimp only | split
    | (intro _))

theorem State.keeps_inSession {s : State} {t : State} (h : Keeps calm s t) (port : Bool) (id : Nat) (finished : Bool) (f : State → State) (hf : ∀ u, Keeps calm s u → Keeps calm s (f u)) :
    Keeps calm s (State.inSession t port id finished f) := by
  unfold State.inSession
  repeat' (first
    | with_reducible assumption | (apply hf; assumption) | (apply hf) | with_reducible apply State.keeps_spdmRequest
    | with_reducible apply State.keeps_spdmError | dsimp only | split | (intro _))

theorem State.keeps_updSession {s : State} {t : State} (h : Keeps calm s t)
    (port : Bool) (id : Nat) (f : Session → Session) :
    Keeps calm s (State.updSession t port id f) := by
  unfold State.updSession
  repeat' (first | with_reducible assumption | with_reducible apply State.keeps_updHst)

theorem State.keeps_endSession {s : State} {t : State} (h : Keeps calm s t)
    (port : Bool) (id : Nat) :
    Keeps calm s (State.endSession t port id) := by
  unfold State.endSession
  repeat' (first | with_reducible assumption | with_reducible apply State.keeps_updHst)

theorem keeps_execFinish {s : State} {t : State} (h : Keeps calm s t) (port : Bool) (id : Nat) (verified : Bool) :
    Keeps calm s (afterOf t (execFinish port id verified t)) := by
  unfold execFinish afterOf
  repeat' (first
    | with_reducible assumption | with_reducible apply State.keeps_inSession
    | with_reducible apply State.keeps_updSession | with_reducible apply State.keeps_spdmAnswer
    | with_reducible apply State.keeps_endSession | with_reducible apply State.keeps_spdmError | dsimp only | split
    | (intro _))

theorem keeps_execKeyUpdate {s : State} {t : State} (h : Keeps calm s t) (port : Bool) (id : Nat) :
    Keeps calm s (afterOf t (execKeyUpdate port id t)) := by
  unfold execKeyUpdate afterOf
  repeat' (first
    | with_reducible assumption | with_reducible apply State.keeps_inSession
    | with_reducible apply State.keeps_updSession | with_reducible apply State.keeps_spdmAnswer | dsimp only | split
    | (intro _))

theorem keeps_execHeartbeat {s : State} {t : State} (h : Keeps calm s t) (port : Bool) (id : Nat) :
    Keeps calm s (afterOf t (execHeartbeat port id t)) := by
  unfold execHeartbeat afterOf
  repeat' (first
    | with_reducible assumption | with_reducible apply State.keeps_inSession
    | with_reducible apply State.keeps_spdmAnswer | dsimp only | split | (intro _))

theorem keeps_execEndSession {s : State} {t : State} (h : Keeps calm s t) (port : Bool) (id : Nat) :
    Keeps calm s (afterOf t (execEndSession port id t)) := by
  unfold execEndSession afterOf
  repeat' (first
    | with_reducible assumption | with_reducible apply State.keeps_inSession
    | with_reducible apply State.keeps_endSession | with_reducible apply State.keeps_spdmAnswer | dsimp only | split
    | (intro _))

theorem keeps_execVendorDefinedRequest {s : State} {t : State} (h : Keeps calm s t) (port : Bool) (id : Nat) (ide : Bool) (payload : List Byte) :
    Keeps calm s (afterOf t (execVendorDefinedRequest port id ide payload t)) := by
  unfold execVendorDefinedRequest afterOf
  repeat' (first
    | with_reducible assumption | with_reducible apply State.keeps_inSession | with_reducible apply State.keeps_ideKey
    | with_reducible apply State.keeps_tdispMessage | with_reducible apply State.keeps_spdmAnswer | dsimp only | split
    | (intro _))

/-! ### Report -/

theorem State.keeps_makeReport {s : State} {t : State} (h : Keeps false s t)
    (p : Nat) (nonce : List Byte) :
    Keeps false s (State.makeReport t p nonce).2 := by
  unfold State.makeReport
  repeat' (first | with_reducible assumption | with_reducible apply State.keeps_signed | with_reducible apply State.keeps_updSec)

end Sys2Proof.Machine
end

