-- ==== Sys2Proof/Laws/KeepsPlatform.lean ====
section
/-! SUPPORT. What links, power, trust and health keep: one lemma for each operation and each command. -/

namespace Sys2Proof.Machine

variable {calm : Bool}

/-! ### Links -/

theorem State.keeps_enterLost {s : State} {t : State} (h : Keeps calm s t) (i : Nat) : Keeps calm s (State.enterLost t i) := by
  unfold State.enterLost
  repeat' (first
    | with_reducible assumption | with_reducible apply State.keeps_dropPort | with_reducible apply State.keeps_updLnk
    | with_reducible apply State.keeps_msixPf0 | with_reducible apply State.keeps_raiseErr)

theorem State.keeps_startTraining {s : State} {t : State} (h : Keeps calm s t)
    (i : Nat) :
    Keeps calm s (State.startTraining t i) := by
  unfold State.startTraining
  repeat' (first
    | with_reducible assumption | with_reducible apply State.keeps_trainPort | with_reducible apply State.keeps_riskEvent | split)

theorem State.keeps_openDevice {s : State} {t : State} (h : Keeps calm s t)
    (i : Nat) (peerKey : List Byte) :
    Keeps calm s (State.openDevice t i peerKey) := by
  unfold State.openDevice
  repeat' (first | with_reducible assumption | with_reducible apply State.keeps_updSa)

theorem State.keeps_portUp {s : State} {t : State} (h : Keeps calm s t)
    (i : Nat) (t0 : Training) (act : BitVec 8) :
    Keeps calm s (State.portUp t i t0 act) := by
  unfold State.portUp
  repeat' (first
    | with_reducible assumption | with_reducible apply State.keeps_updLnk | with_reducible apply State.keeps_drainPort
    | with_reducible apply State.keeps_emit | with_reducible apply State.keeps_openDevice
    | with_reducible apply State.keeps_msixPf0 | with_reducible apply keeps_foldl | split | (intro _))

theorem State.keeps_finishTraining {s : State} {t : State} (h : Keeps calm s t)
    (i : Nat) (t0 : Training) :
    Keeps calm s (State.finishTraining t i t0) := by
  unfold State.finishTraining
  repeat' (first
    | with_reducible assumption | with_reducible apply State.keeps_enterLost | with_reducible apply State.keeps_raiseErr
    | with_reducible apply State.keeps_msixPf0 | with_reducible apply State.keeps_dropPort
    | with_reducible apply State.keeps_updLnk | with_reducible apply State.keeps_portUp | dsimp only | split)

theorem keeps_execLinkTraining {s : State} {t : State} (h : Keeps calm s t)
    (link : Nat) (result : Training) :
    Keeps calm s (afterOf t (execLinkTraining link result t)) := by
  unfold execLinkTraining afterOf
  repeat' (first | with_reducible assumption | with_reducible apply State.keeps_finishTraining | dsimp only | split)

theorem keeps_execLinkLost {s : State} {t : State} (h : Keeps calm s t)
    (link : Nat) :
    Keeps calm s (afterOf t (execLinkLost link t)) := by
  unfold execLinkLost afterOf
  repeat' (first
    | with_reducible assumption | with_reducible apply State.keeps_updLnk | with_reducible apply State.keeps_enterLost
    | dsimp only | split)

theorem keeps_execReceiveTimeout {s : State} {t : State} (h : Keeps calm s t)
    (link : Nat) :
    Keeps calm s (afterOf t (execReceiveTimeout link t)) := by
  unfold execReceiveTimeout afterOf
  repeat' (first | with_reducible assumption | with_reducible apply State.keeps_enterLost | dsimp only | split)

theorem keeps_execLoopbackTest {s : State} {t : State} (h : Keeps calm s t)
    (link : Nat) (passes : Bool) :
    Keeps calm s (afterOf t (execLoopbackTest link passes t)) := by
  unfold execLoopbackTest afterOf
  repeat' (first
    | with_reducible assumption | with_reducible apply State.keeps_updLnk | with_reducible apply State.keeps_makeSuspect
    | with_reducible apply State.keeps_report | with_reducible apply State.keeps_startTraining | dsimp only | split)

theorem keeps_execLightReturns {s : State} {t : State} (h : Keeps calm s t)
    (link : Nat) :
    Keeps calm s (afterOf t (execLightReturns link t)) := by
  unfold execLightReturns afterOf
  repeat' (first
    | with_reducible assumption | with_reducible apply State.keeps_updLnk | with_reducible apply State.keeps_startTraining
    | dsimp only | split)

theorem State.keeps_setTakeover {s : State} {t : State} (h : Keeps calm s t)
    (i : Nat) (enable : Bool) :
    Keeps calm s (State.setTakeover t i enable) := by
  unfold State.setTakeover
  repeat' (first
    | with_reducible assumption | with_reducible apply State.keeps_msixPf0 | with_reducible apply State.keeps_dropPort
    | with_reducible apply State.keeps_updLnk | with_reducible apply State.keeps_riskEvent
    | with_reducible apply State.keeps_startTraining | dsimp only | split)

theorem State.keeps_writeRole {s : State} {t : State} (h : Keeps calm s t) (i : Nat) (enable : Bool) :
    Keeps calm s (State.writeRole t i enable) := by
  unfold State.writeRole
  repeat' (first
    | with_reducible assumption | with_reducible apply State.keeps_setTakeover
    | with_reducible apply State.keeps_updLnk | dsimp only | split)

theorem keeps_execTakeover {s : State} {t : State} (h : Keeps calm s t) (via : Via) (link : Nat) (enable : Bool) :
    Keeps calm s (afterOf t (execTakeover via link enable t)) := by
  unfold execTakeover afterOf
  repeat' (first
    | with_reducible assumption | with_reducible apply State.keeps_writeRole
    | with_reducible apply State.keeps_setTakeover | dsimp only | split)

theorem keeps_execTrainLinks {s : State} {t : State} (h : Keeps false s t)  : Keeps false s (afterOf t (execTrainLinks t)) := by
  unfold execTrainLinks afterOf
  repeat' (first
    | with_reducible assumption | with_reducible apply State.keeps_startTraining | with_reducible apply State.keeps_updDev
    | with_reducible apply keeps_foldl | dsimp only | split | (intro _) | exact ⟨rfl, rfl, rfl, rfl, rfl, rfl⟩)

theorem State.keeps_replay {s : State} {t : State} (h : Keeps calm s t) (i : Nat) : Keeps calm s (State.replay t i) := by
  unfold State.replay
  repeat' (first
    | with_reducible assumption | with_reducible apply State.keeps_updLnk | with_reducible apply State.keeps_riskEvent
    | with_reducible apply State.keeps_startTraining | with_reducible apply State.keeps_raiseErr
    | with_reducible apply State.keeps_emit | with_reducible apply keeps_foldl | dsimp only | split | (intro _))

theorem keeps_execKeepalive {s : State} {t : State} (h : Keeps calm s t)
    (link : Nat) (flit : List Byte) :
    Keeps calm s (afterOf t (execKeepalive link flit t)) := by
  unfold execKeepalive afterOf
  repeat' (first | with_reducible assumption | with_reducible apply State.keeps_onFlit | (intro _))

theorem keeps_execNak {s : State} {t : State} (h : Keeps calm s t)
    (link : Nat) (flit : List Byte) :
    Keeps calm s (afterOf t (execNak link flit t)) := by
  unfold execNak afterOf
  repeat' (first
    | with_reducible assumption | with_reducible apply State.keeps_onFlit | with_reducible apply State.keeps_replay | (intro _))

theorem keeps_execKeepaliveSend {s : State} {t : State} (h : Keeps calm s t)
    (link : Nat) :
    Keeps calm s (afterOf t (execKeepaliveSend link t)) := by
  unfold execKeepaliveSend afterOf
  repeat' (first | with_reducible assumption | with_reducible apply State.keeps_sendControl | dsimp only | split)

theorem keeps_execFlitCrcOrGcmFail {s : State} {t : State} (h : Keeps calm s t)
    (link : Nat) (flit : List Byte) :
    Keeps calm s (afterOf t (execFlitCrcOrGcmFail link flit t)) := by
  unfold execFlitCrcOrGcmFail afterOf
  repeat' (first | with_reducible assumption | exact State.keeps_receive_drop (by assumption) (by assumption) | dsimp only | split)

theorem keeps_execUnlistedFlitType {s : State} {t : State} (h : Keeps calm s t)
    (link : Nat) (flit : List Byte) :
    Keeps calm s (afterOf t (execUnlistedFlitType link flit t)) := by
  unfold execUnlistedFlitType afterOf
  repeat' (first | with_reducible assumption | exact State.keeps_receive_drop (by assumption) (by assumption) | dsimp only | split)

theorem keeps_execCreditReq {s : State} {t : State} (h : Keeps calm s t)
    (link : Nat) (flit : List Byte) :
    Keeps calm s (afterOf t (execCreditReq link flit t)) := by
  unfold execCreditReq afterOf
  repeat' (first
    | with_reducible assumption | with_reducible apply State.keeps_onFlit | with_reducible apply State.keeps_sendMgmt
    | with_reducible apply State.keeps_updVc | dsimp only | split | (intro _))

theorem keeps_execCreditReset {s : State} {t : State} (h : Keeps calm s t)
    (link : Nat) (flit : List Byte) :
    Keeps calm s (afterOf t (execCreditReset link flit t)) := by
  unfold execCreditReset afterOf
  repeat' (first
    | with_reducible assumption | with_reducible apply State.keeps_onFlit | with_reducible apply State.keeps_drainPort
    | with_reducible apply State.keeps_updVc | dsimp only | split | (intro _))

theorem keeps_execCreditReqTimeout {s : State} {t : State} (h : Keeps calm s t)
    (link : Nat) (vc : Nat) :
    Keeps calm s (afterOf t (execCreditReqTimeout link vc t)) := by
  unfold execCreditReqTimeout afterOf
  repeat' (first
    | with_reducible assumption | with_reducible apply State.keeps_sendCreditReq | with_reducible apply State.keeps_closeSa
    | with_reducible apply State.keeps_updSa | with_reducible apply State.keeps_updVc | dsimp only | split)

theorem State.keeps_beginExchange {s : State} {t : State} (h : Keeps calm s t)
    (i : Nat) (a : Nat) (state : SaState) :
    Keeps calm s (State.beginExchange t i a state) := by
  unfold State.beginExchange
  repeat' (first
    | with_reducible assumption | with_reducible apply State.keeps_drawRandom | with_reducible apply State.keeps_sendMgmt
    | with_reducible apply State.keeps_updSa | split)

theorem State.keeps_sendReport {s : State} {t : State} (h : Keeps false s t)
    (i : Nat) (a : Nat) :
    Keeps false s (State.sendReport t i a) := by
  unfold State.sendReport
  repeat' (first
    | with_reducible assumption | with_reducible apply State.keeps_makeReport | with_reducible apply State.keeps_sendFlit
    | with_reducible apply keeps_foldl | split | (intro _))

theorem State.keeps_answerExchange {s : State} {t : State} (h : Keeps false s t)
    (i : Nat) (a : Nat) :
    Keeps false s (State.answerExchange t i a) := by
  unfold State.answerExchange
  repeat' (first | with_reducible assumption | with_reducible apply State.keeps_sendReport | dsimp only | split)

theorem State.keeps_failSa {s : State} {t : State} (h : Keeps calm s t)
    (i : Nat) (a : Nat) (cause : BitVec 3) :
    Keeps calm s (State.failSa t i a cause) := by
  unfold State.failSa
  repeat' (first | with_reducible assumption | with_reducible apply State.keeps_updSa | with_reducible apply State.keeps_closeSa)

theorem State.keeps_writeSaCtrl {s : State} {t : State} (h : Keeps calm s t)
    (i : Nat) (value : Reg) :
    Keeps calm s (State.writeSaCtrl t i value) := by
  unfold State.writeSaCtrl
  repeat' (first | with_reducible assumption | with_reducible apply State.keeps_updSa | dsimp only | split)

theorem State.keeps_openSa {s : State} {t : State} (h : Keeps false s t)
    (i : Nat) (value : Reg) :
    Keeps false s (State.openSa t i value) := by
  unfold State.openSa
  repeat' (first
    | with_reducible assumption | with_reducible apply State.keeps_updSa | with_reducible apply State.keeps_failSa
    | with_reducible apply State.keeps_answerExchange | with_reducible apply State.keeps_beginExchange | dsimp only | split)

theorem keeps_execOpenSa {s : State} {t : State} (h : Keeps false s t)
    (via : Via) (link : Nat) (value : Reg) :
    Keeps false s (afterOf t (execOpenSa via link value t)) := by
  unfold execOpenSa afterOf
  repeat' (first
    | with_reducible assumption | with_reducible apply State.keeps_access | with_reducible apply State.keeps_openSa
    | with_reducible apply State.keeps_writeSaCtrl | (intro _))

theorem keeps_execRekey {s : State} {t : State} (h : Keeps calm s t)
    (via : Via) (link : Nat) (value : Reg) :
    Keeps calm s (afterOf t (execRekey via link value t)) := by
  unfold execRekey afterOf
  repeat' (first
    | with_reducible assumption | with_reducible apply State.keeps_access | with_reducible apply State.keeps_writeSaCtrl
    | with_reducible apply State.keeps_beginExchange | dsimp only | split | (intro _))

theorem keeps_execCloseSa {s : State} {t : State} (h : Keeps calm s t)
    (via : Via) (link : Nat) (value : Reg) :
    Keeps calm s (afterOf t (execCloseSa via link value t)) := by
  unfold execCloseSa afterOf
  repeat' (first
    | with_reducible assumption | with_reducible apply State.keeps_access | with_reducible apply State.keeps_writeSaCtrl
    | with_reducible apply State.keeps_sendClose | dsimp only | split | (intro _))

theorem keeps_execCreditResetReq {s : State} {t : State} (h : Keeps calm s t)
    (via : Via) (link : Nat) (value : Reg) :
    Keeps calm s (afterOf t (execCreditResetReq via link value t)) := by
  unfold execCreditResetReq afterOf
  repeat' (first
    | with_reducible assumption | with_reducible apply State.keeps_access | with_reducible apply State.keeps_sendCreditReq
    | dsimp only | split | (intro _))

theorem State.keeps_completeExchange {s : State} {t : State} (h : Keeps calm s t)
    (i : Nat) (a : Nat) :
    Keeps calm s (State.completeExchange t i a) := by
  unfold State.completeExchange
  repeat' (first
    | with_reducible assumption | with_reducible apply State.keeps_updSa | with_reducible apply State.keeps_sendCreditReq
    | with_reducible apply State.keeps_numberWaiting | dsimp only | split)

theorem State.keeps_receiveExchange {s : State} {t : State} (h : Keeps false s t)
    (i : Nat) (a : Nat) (src : Nat) (body : List Byte) :
    Keeps false s (State.receiveExchange t i a src body) := by
  unfold State.receiveExchange
  repeat' (first
    | with_reducible assumption | with_reducible apply State.keeps_updSa | with_reducible apply State.keeps_beginExchange
    | with_reducible apply State.keeps_answerExchange | dsimp only | split)

theorem State.keeps_receiveReport {s : State} {t : State} (h : Keeps calm s t)
    (i : Nat) (a : Nat) (src : Nat) (h0 : FlitHdr) (certOk : Bool) (body : List Byte) :
    Keeps calm s (State.receiveReport t i a src h0 certOk body) := by
  unfold State.receiveReport
  repeat' (first
    | with_reducible assumption | with_reducible apply State.keeps_updSa | with_reducible apply State.keeps_completeExchange
    | with_reducible apply State.keeps_failSa | dsimp only | split)

theorem keeps_execSaSetup {s : State} {t : State} (h : Keeps false s t)
    (link : Nat) (flit : List Byte) (certOk : Bool) :
    Keeps false s (afterOf t (execSaSetup link flit certOk t)) := by
  unfold execSaSetup afterOf
  repeat' (first
    | with_reducible assumption | with_reducible apply State.keeps_onFlit | with_reducible apply State.keeps_receiveExchange
    | with_reducible apply State.keeps_receiveReport | dsimp only | split | (intro _))

theorem keeps_execSaClose {s : State} {t : State} (h : Keeps calm s t)
    (link : Nat) (flit : List Byte) :
    Keeps calm s (afterOf t (execSaClose link flit t)) := by
  unfold execSaClose afterOf
  repeat' (first
    | with_reducible assumption | with_reducible apply State.keeps_onFlit | with_reducible apply State.keeps_updSa
    | with_reducible apply State.keeps_closeSa | with_reducible apply keeps_foldl | dsimp only | split | (intro _))

theorem State.keeps_onColl {s t : State} (h : Keeps calm s t) (i : Nat) (flit : List Byte) (type : Nat) (f : Nat → Nat → FlitHdr → List Byte → State → State)
    (hf : ∀ p q x b u, Keeps calm s u → Keeps calm s (f p q x b u)) :
    Keeps calm s (State.onColl t i flit type f) := by
  unfold State.onColl
  repeat' (first
    | with_reducible assumption | (apply hf; assumption) | (apply hf) | with_reducible apply State.keeps_onFlit | split
    | (intro _))

theorem keeps_execData {s : State} {t : State} (h : Keeps calm s t)
    (link : Nat) (flit : List Byte) :
    Keeps calm s (afterOf t (execData link flit t)) := by
  unfold execData afterOf
  repeat' (first
    | with_reducible assumption | with_reducible apply State.keeps_onColl | with_reducible apply State.keeps_receiveColl
    | (intro _))

theorem keeps_execAnchor {s : State} {t : State} (h : Keeps calm s t)
    (link : Nat) (flit : List Byte) :
    Keeps calm s (afterOf t (execAnchor link flit t)) := by
  unfold execAnchor afterOf
  repeat' (first
    | with_reducible assumption | with_reducible apply State.keeps_onColl | with_reducible apply State.keeps_receiveColl
    | (intro _))

theorem keeps_execVerdict {s : State} {t : State} (h : Keeps calm s t)
    (link : Nat) (flit : List Byte) :
    Keeps calm s (afterOf t (execVerdict link flit t)) := by
  unfold execVerdict afterOf
  repeat' (first
    | with_reducible assumption | with_reducible apply State.keeps_onColl | with_reducible apply State.keeps_receiveColl
    | (intro _))

theorem keeps_execRetract {s : State} {t : State} (h : Keeps calm s t)
    (link : Nat) (flit : List Byte) :
    Keeps calm s (afterOf t (execRetract link flit t)) := by
  unfold execRetract afterOf
  repeat' (first
    | with_reducible assumption | with_reducible apply State.keeps_onColl | with_reducible apply State.keeps_receiveColl
    | (intro _))

theorem keeps_execResend {s : State} {t : State} (h : Keeps calm s t)
    (link : Nat) (flit : List Byte) (lasting : Bool) :
    Keeps calm s (afterOf t (execResend link flit lasting t)) := by
  unfold execResend afterOf
  repeat' (first
    | with_reducible assumption | with_reducible apply State.keeps_onColl | with_reducible apply State.keeps_resendMsg
    | (intro _))

theorem keeps_execCommit {s : State} {t : State} (h : Keeps calm s t)
    (link : Nat) (flit : List Byte) :
    Keeps calm s (afterOf t (execCommit link flit t)) := by
  unfold execCommit afterOf
  repeat' (first
    | with_reducible assumption | with_reducible apply State.keeps_onColl | with_reducible apply State.keeps_receiveCommit
    | (intro _))

theorem keeps_execDescCheck {s : State} {t : State} (h : Keeps calm s t)
    (link : Nat) (flit : List Byte) :
    Keeps calm s (afterOf t (execDescCheck link flit t)) := by
  unfold execDescCheck afterOf
  repeat' (first
    | with_reducible assumption | with_reducible apply State.keeps_onColl | with_reducible apply State.keeps_receiveColl
    | (intro _))

theorem keeps_execDigestFlit {s : State} {t : State} (h : Keeps calm s t)
    (link : Nat) (flit : List Byte) :
    Keeps calm s (afterOf t (execDigestFlit link flit t)) := by
  unfold execDigestFlit afterOf
  repeat' (first
    | with_reducible assumption | with_reducible apply State.keeps_onFlit | with_reducible apply State.keeps_receiveDigest
    | split | (intro _))

theorem keeps_execBelayFlit {s : State} {t : State} (h : Keeps calm s t)
    (link : Nat) (flit : List Byte) :
    Keeps calm s (afterOf t (execBelayFlit link flit t)) := by
  unfold execBelayFlit afterOf
  repeat' (first
    | with_reducible assumption | with_reducible apply State.keeps_onColl | with_reducible apply State.keeps_receiveBelay
    | (intro _))

/-! ### Firmware -/

theorem svn_fold_le (f : Nat → Nat) (l : List Nat) (m : Sparse Nat) (i : Nat) :
    Sparse.get 0 m i ≤ Sparse.get 0 (l.foldl (fun m i => Sparse.modify 0 m i (fun n => max n (f i))) m) i := by
  induction l generalizing m with
  | nil => exact le_refl _
  | cons k l ih =>
    refine le_trans ?_ (ih _)
    exact Sparse.get_le_modify _ _ _ (f k)

theorem State.keeps_confirmBank {s t : State} (h : Keeps false s t) : Keeps false s (State.confirmBank t) := by
  refine h.trans ⟨rfl, ⟨rfl, rfl, rfl, ?_, ?_, fun k => ⟨le_refl _, k⟩⟩, .inl, .inl, .inl, id, id, id, List.prefix_refl _, le_refl _, Bool.noConfusion⟩
  · intro k; simp [State.confirmBank, k]
  · intro i; exact svn_fold_le _ _ _ _

theorem State.keeps_burnMark {s t : State} (h : Keeps false s t) (record : List Byte) : Keeps false s (State.burnMark t record) := by
  refine h.trans ⟨rfl, ⟨rfl, rfl, rfl, id, fun _ => le_refl _, ?_⟩, .inl, .inl, .inl, id, id, id, List.prefix_refl _, le_refl _, Bool.noConfusion⟩
  intro k
  simp only [State.burnMark]
  omega

/-! ### Cper -/

theorem State.keeps_buildRecord {s : State} {t : State} (h : Keeps calm s t) (e : CperEvent) :
    Keeps calm s (State.buildRecord t e).2 := by
  unfold State.buildRecord
  repeat' (first
    | with_reducible assumption | with_reducible apply State.keeps_updHlt
    | with_reducible apply State.keeps_drawRandom)

theorem State.keeps_writeRecord {s : State} {t : State} (h : Keeps calm s t)
    (e : CperEvent) :
    Keeps calm s (State.writeRecord t e) := by
  unfold State.writeRecord
  repeat' (first
    | with_reducible assumption | with_reducible apply State.keeps_buildRecord | with_reducible apply State.keeps_msixPf0
    | with_reducible apply State.keeps_updHlt)

theorem keeps_execCperRecord {s : State} {t : State} (h : Keeps calm s t)  : Keeps calm s (afterOf t (execCperRecord t)) := by
  unfold execCperRecord afterOf
  repeat' (first
    | with_reducible assumption | with_reducible apply State.keeps_writeRecord | with_reducible apply State.keeps_updHlt
    | dsimp only | split)

theorem keeps_execCperTailWrite {s : State} {t : State} (h : Keeps calm s t)
    (via : Via) (value : Reg) :
    Keeps calm s (afterOf t (execCperTailWrite via value t)) := by
  unfold execCperTailWrite afterOf
  repeat' (first
    | with_reducible assumption | with_reducible apply State.keeps_access | with_reducible apply State.keeps_updHlt | (intro _))

theorem State.keeps_vendorAnswer {s : State} {t : State} (h : Keeps calm s t)
    (result : Nat) (bs : List Byte) :
    Keeps calm s (State.vendorAnswer t result bs) := by
  unfold State.vendorAnswer
  repeat' (first | with_reducible assumption | with_reducible apply State.keeps_emit)

theorem keeps_execGetCper {s : State} {t : State} (h : Keeps calm s t)
    (count : Nat) :
    Keeps calm s (afterOf t (execGetCper count t)) := by
  unfold execGetCper afterOf
  repeat' (first | with_reducible assumption | with_reducible apply State.keeps_vendorAnswer | dsimp only | split)

theorem keeps_execPatternLoad {s : State} {t : State} (h : Keeps calm s t)
    (index : Nat) (bytes : List Byte) :
    Keeps calm s (afterOf t (execPatternLoad index bytes t)) := by
  unfold execPatternLoad afterOf
  repeat' (first
    | with_reducible assumption | with_reducible apply State.keeps_vendorAnswer | with_reducible apply State.keeps_updHlt
    | dsimp only | split)

/-! ### Power -/

theorem State.keeps_deviceReset {s t : State} (h : Keeps false s t) : Keeps false s (State.deviceReset t) := by
  refine h.trans ⟨rfl, fusesKept_refl t, ?_, ?_, ?_, ?_, fun _ => rfl, fun _ => rfl, List.prefix_refl _, le_refl _, Bool.noConfusion⟩
  · intro k; simp [State.deviceReset, Dev.reset] at k
  · intro k; simp [State.deviceReset, Dev.reset] at k
  · intro k; simp [State.deviceReset, Dev.reset] at k
  · intro _
    refine ⟨?_, ?_, le_refl _⟩ <;> simp [State.deviceReset, Dev.reset, legalMillivolts]

theorem keeps_execRstNAssert {s : State} {t : State} (h : Keeps false s t)  : Keeps false s (afterOf t (execRstNAssert t)) := by
  unfold execRstNAssert afterOf
  repeat' (first
    | with_reducible assumption | with_reducible apply State.keeps_deviceReset | with_reducible apply State.keeps_updDev
    | (intro _) | exact ⟨rfl, rfl, rfl, rfl, rfl, rfl⟩)

theorem keeps_execPwrOkFall {s : State} {t : State} (h : Keeps false s t)  : Keeps false s (afterOf t (execPwrOkFall t)) := by
  unfold execPwrOkFall afterOf
  repeat' (first
    | with_reducible assumption | with_reducible apply State.keeps_deviceReset | with_reducible apply State.keeps_updDev
    | (intro _) | exact ⟨rfl, rfl, rfl, rfl, rfl, rfl⟩)

theorem keeps_execVin48TurnOff {s : State} {t : State} (h : Keeps false s t)  : Keeps false s (afterOf t (execVin48TurnOff t)) := by
  unfold execVin48TurnOff afterOf
  repeat' (first
    | with_reducible assumption | with_reducible apply State.keeps_deviceReset | with_reducible apply State.keeps_updDev
    | (intro _) | exact ⟨rfl, rfl, rfl, rfl, rfl, rfl⟩)

theorem keeps_execDeviceResetCommand {s : State} {t : State} (h : Keeps false s t)
     :
    Keeps false s (afterOf t (execDeviceResetCommand t)) := by
  unfold execDeviceResetCommand afterOf
  repeat' (first | with_reducible assumption | with_reducible apply State.keeps_deviceReset | dsimp only | split)

theorem keeps_execLaserSwitch {s : State} {t : State} (h : Keeps false s t)
    (pair : Nat) :
    Keeps false s (afterOf t (execLaserSwitch pair t)) := by
  unfold execLaserSwitch afterOf
  repeat' (first
    | with_reducible assumption | with_reducible apply State.keeps_riskEvent | with_reducible apply State.keeps_updDev
    | dsimp only | split | (intro _) | exact ⟨rfl, rfl, rfl, rfl, rfl, rfl⟩)

theorem State.keeps_loseEdge {s : State} {t : State} (h : Keeps calm s t) (k : Nat) : Keeps calm s (State.loseEdge t k) := by
  unfold State.loseEdge
  repeat' (first
    | with_reducible assumption | with_reducible apply State.keeps_updLnk | with_reducible apply State.keeps_enterLost
    | with_reducible apply State.keeps_dropHostLink | with_reducible apply keeps_foldl | split | (intro _))

theorem keeps_execLaserPairLost {s : State} {t : State} (h : Keeps false s t)
    (pair : Nat) :
    Keeps false s (afterOf t (execLaserPairLost pair t)) := by
  unfold execLaserPairLost afterOf
  repeat' (first
    | with_reducible assumption | with_reducible apply State.keeps_askAll | with_reducible apply State.keeps_loseEdge
    | with_reducible apply State.keeps_updDev | dsimp only | split | (intro _) | exact ⟨rfl, rfl, rfl, rfl, rfl, rfl⟩)

theorem State.keeps_faultDark {s : State} {t : State} (h : Keeps false s t)  : Keeps false s (State.faultDark t) := by
  unfold State.faultDark
  repeat' (first
    | with_reducible assumption | with_reducible apply State.keeps_setDevState | with_reducible apply State.keeps_updDev
    | (intro _) | exact ⟨rfl, rfl, rfl, rfl, rfl, rfl⟩)

theorem State.keeps_enterRecovery {s : State} {t : State} (h : Keeps false s t)  : Keeps false s (State.enterRecovery t) := by
  unfold State.enterRecovery
  repeat' (first
    | with_reducible assumption | with_reducible apply State.keeps_faultDark
    | refine keeps_mk ?_ Bool.noConfusion rfl rfl rfl rfl rfl rfl rfl rfl rfl rfl rfl rfl rfl rfl rfl rfl rfl rfl (Nat.le_refl _))

theorem State.keeps_drawStart {s : State} {t : State} (h : Keeps false s t)  : Keeps false s (State.drawStart t) := by
  unfold State.drawStart
  repeat' (first
    | with_reducible assumption | with_reducible apply State.keeps_drawRandom | with_reducible apply State.keeps_updSec
    | with_reducible apply State.keeps_updMce | with_reducible apply keeps_foldl | (intro _))

theorem State.keeps_lightUp {s t : State} (h : Keeps false s t) (f : StartFacts) : Keeps false s (State.lightUp t f) := by
  refine h.of_dev _ rfl rfl rfl ?_
  intro ⟨a, b, c⟩
  exact ⟨b, b, c⟩

theorem State.keeps_startMemories {s : State} {t : State} (h : Keeps calm s t)
    (f : StartFacts) :
    Keeps calm s (State.startMemories t f) := by
  unfold State.startMemories
  repeat' (first
    | with_reducible assumption | with_reducible apply State.keeps_updBas | with_reducible apply State.keeps_updUpd
    | with_reducible apply keeps_foldl | (intro _)
    | refine keeps_mk ?_ (fun _ => ⟨rfl, rfl⟩) rfl rfl rfl rfl rfl rfl rfl rfl rfl rfl rfl rfl rfl rfl rfl rfl rfl rfl (Nat.le_refl _))

theorem State.keeps_startPorts {s : State} {t : State} (h : Keeps calm s t)
    (f : StartFacts) :
    Keeps calm s (State.startPorts t f) := by
  unfold State.startPorts
  repeat' (first
    | with_reducible assumption | with_reducible apply State.keeps_updLnk | with_reducible apply State.keeps_finishTraining
    | with_reducible apply State.keeps_startTraining | with_reducible apply State.keeps_raiseHostLink
    | with_reducible apply keeps_foldl | dsimp only | split | (intro _))

theorem State.keeps_startTicks {s : State} {t : State} (h : Keeps calm s t)
    (f : StartFacts) :
    Keeps calm s (State.startTicks t f) := by
  unfold State.startTicks
  repeat' (first
    | with_reducible assumption | with_reducible apply State.keeps_updHdr | with_reducible apply keeps_foldl | split | (intro _))

theorem State.keeps_startEnd {s : State} {t : State} (h : Keeps false s t)
    (f : StartFacts) (fromTry : Bool) :
    Keeps false s (State.startEnd t f fromTry) := by
  unfold State.startEnd
  repeat' (first
    | with_reducible assumption | with_reducible apply State.keeps_setDevState | with_reducible apply State.keeps_updDev
    | with_reducible apply State.keeps_makeSuspect | with_reducible apply State.keeps_burnMark
    | with_reducible apply State.keeps_confirmBank | with_reducible apply keeps_foldl | split | (intro _)
    | refine keeps_mk ?_ Bool.noConfusion rfl rfl rfl rfl rfl rfl rfl rfl rfl rfl rfl rfl rfl rfl rfl rfl rfl rfl (by first | exact Nat.le_refl _ | exact Nat.le_succ _)
    | exact ⟨rfl, rfl, rfl, rfl, rfl, rfl⟩)

theorem State.keeps_startUp {s : State} {t : State} (h : Keeps false s t) (f : StartFacts) : Keeps false s (State.startUp t f) := by
  unfold State.startUp
  repeat' (first
    | with_reducible assumption | with_reducible apply State.keeps_updSec | with_reducible apply State.keeps_updDev
    | with_reducible apply State.keeps_enterRecovery | with_reducible apply State.keeps_drawStart
    | with_reducible apply State.keeps_faultDark | with_reducible apply State.keeps_startEnd
    | with_reducible apply State.keeps_startPorts | with_reducible apply State.keeps_startMemories
    | with_reducible apply State.keeps_lightUp | with_reducible apply keeps_foldl | split | (intro _)
    | refine keeps_mk ?_ Bool.noConfusion rfl rfl rfl rfl rfl rfl rfl rfl rfl rfl rfl rfl rfl rfl rfl rfl rfl rfl (Nat.le_refl _)
    | exact ⟨rfl, rfl, rfl, rfl, rfl, rfl⟩)

theorem keeps_execStartUp {s : State} {t : State} (h : Keeps false s t)
    (facts : StartFacts) :
    Keeps false s (afterOf t (execStartUp facts t)) := by
  unfold execStartUp afterOf
  repeat' (first | with_reducible assumption | with_reducible apply State.keeps_startUp | dsimp only | split)

theorem keeps_execRefClockLoss {s : State} {t : State} (h : Keeps false s t)  : Keeps false s (afterOf t (execRefClockLoss t)) := by
  unfold execRefClockLoss afterOf
  repeat' (first
    | with_reducible assumption | with_reducible apply State.keeps_abortAll | with_reducible apply State.keeps_faultDark
    | with_reducible apply State.keeps_enterLost | with_reducible apply State.keeps_askAll
    | with_reducible apply State.keeps_dropHostLink | with_reducible apply keeps_foldl | dsimp only | split | (intro _))

theorem State.keeps_servePower {s t : State} (h : Keeps calm s t) (boundary : Bool) : Keeps calm s (t.servePower boundary) := by
  unfold State.servePower
  split
  · exact State.keeps_updWeir h _ _
  · exact h

theorem State.keeps_setCap {s t : State} (h : Keeps false s t) (watts : Nat) : Keeps false s (State.setCap t watts) := by
  refine State.keeps_servePower ?_ _
  refine h.of_dev _ rfl rfl rfl ?_
  intro ⟨a, b, c⟩
  exact ⟨a, b, Nat.min_le_right _ _⟩

theorem keeps_execPkgPowerCapWrite {s : State} {t : State} (h : Keeps false s t)
    (via : Via) (value : Reg) :
    Keeps false s (afterOf t (execPkgPowerCapWrite via value t)) := by
  unfold execPkgPowerCapWrite afterOf
  repeat' (first
    | with_reducible assumption | with_reducible apply State.keeps_access | with_reducible apply State.keeps_setCap | (intro _))

theorem State.keeps_capActs {s : State} {t : State} (h : Keeps false s t)  : Keeps false s (State.capActs t) := by
  unfold State.capActs
  repeat' (first
    | with_reducible assumption | with_reducible apply State.keeps_riskEvent | with_reducible apply State.keeps_announce
    | with_reducible apply State.keeps_updDev | split | (intro _) | exact ⟨rfl, rfl, rfl, rfl, rfl, rfl⟩)

theorem State.keeps_capReleases {s : State} {t : State} (h : Keeps false s t)  : Keeps false s (State.capReleases t) := by
  unfold State.capReleases
  repeat' (first
    | with_reducible assumption | with_reducible apply State.keeps_announce | with_reducible apply State.keeps_updDev | split
    | (intro _) | exact ⟨rfl, rfl, rfl, rfl, rfl, rfl⟩)

theorem State.keeps_vcore {s t : State} (h : Keeps false s t) (mv : Nat) (hm : PowerSane t → legalMillivolts mv) :
    Keeps false s (t.updDev (fun d => { d with vcore := mv })) := by
  refine h.of_dev _ rfl rfl rfl ?_
  intro k
  exact ⟨hm k, k.2.1, k.2.2⟩

theorem State.keeps_measure {s t : State} (h : Keeps false s t) (watts : Nat) : Keeps false s (t.measure watts) :=
  State.keeps_updDev h _ (fun _ => ⟨rfl, rfl, rfl, rfl, rfl, rfl⟩)

theorem State.keeps_lowerPower {s t : State} (h : Keeps false s t) : Keeps false s t.lowerPower := by
  unfold State.lowerPower
  split
  · refine State.keeps_capActs (State.keeps_vcore h (t.dev.vcore - 10) (fun ⟨a, _, _⟩ => ?_))
    unfold legalMillivolts at *
    omega
  · split
    · exact State.keeps_capActs (State.keeps_updDev h _ (fun _ => ⟨rfl, rfl, rfl, rfl, rfl, rfl⟩))
    · exact State.keeps_updDev h _ (fun _ => ⟨rfl, rfl, rfl, rfl, rfl, rfl⟩)

theorem keeps_execPowerCapInterval {s t : State} (h : Keeps false s t) (watts : Nat) :
    Keeps false s (afterOf t (execPowerCapInterval watts t)) := by
  unfold execPowerCapInterval afterOf
  repeat' (first
    | with_reducible assumption | with_reducible apply State.keeps_lowerPower | with_reducible apply State.keeps_measure
    | with_reducible apply State.keeps_capReleases | dsimp only | split)

theorem keeps_execVcoreRaise {s t : State} (h : Keeps false s t) (watts : Nat) :
    Keeps false s (afterOf t (execVcoreRaise watts t)) := by
  unfold execVcoreRaise afterOf
  dsimp only
  split
  · exact h
  · split
    · exact State.keeps_capReleases (State.keeps_updDev h _ (fun _ => ⟨rfl, rfl, rfl, rfl, rfl, rfl⟩))
    · split
      · refine State.keeps_capReleases (State.keeps_vcore h (min t.dev.target (t.dev.vcore + 10)) (fun ⟨a, b, _⟩ => ?_))
        unfold legalMillivolts at *
        omega
      · exact h

theorem keeps_execThermalSlowdown {s : State} {t : State} (h : Keeps false s t)
    (field : Nat) (temp : BitVec 12) :
    Keeps false s (afterOf t (execThermalSlowdown field temp t)) := by
  unfold execThermalSlowdown afterOf
  repeat' (first
    | with_reducible assumption | with_reducible apply State.keeps_announce | with_reducible apply State.keeps_updDev
    | dsimp only | split | (intro _)
    | refine keeps_mk ?_ Bool.noConfusion rfl rfl rfl rfl rfl rfl rfl rfl rfl rfl rfl rfl rfl rfl rfl rfl rfl rfl (Nat.le_refl _)
    | exact ⟨rfl, rfl, rfl, rfl, rfl, rfl⟩)

theorem keeps_execThermalStep {s t : State} (h : Keeps false s t) (temp : BitVec 12) : Keeps false s (afterOf t (execThermalStep temp t)) := by
  unfold execThermalStep afterOf
  dsimp only
  split
  · refine State.keeps_vcore h (t.dev.vcore - 10) (fun ⟨a, _, _⟩ => ?_)
    unfold legalMillivolts at *
    omega
  · exact h

theorem keeps_execThermalSlowdownEnd {s : State} {t : State} (h : Keeps false s t)
     :
    Keeps false s (afterOf t (execThermalSlowdownEnd t)) := by
  unfold execThermalSlowdownEnd afterOf
  repeat' (first
    | with_reducible assumption | with_reducible apply State.keeps_announce | with_reducible apply State.keeps_updDev
    | dsimp only | split | (intro _) | exact ⟨rfl, rfl, rfl, rfl, rfl, rfl⟩)

theorem keeps_execThermalTrip {s : State} {t : State} (h : Keeps false s t)  : Keeps false s (afterOf t (execThermalTrip t)) := by
  unfold execThermalTrip afterOf
  repeat' (first
    | with_reducible assumption | with_reducible apply State.keeps_updDev | with_reducible apply State.keeps_deviceReset
    | (intro _) | exact ⟨rfl, rfl, rfl, rfl, rfl, rfl⟩)

theorem keeps_execPaceBreak {s : State} {t : State} (h : Keeps false s t)  : Keeps false s (afterOf t (execPaceBreak t)) := by
  unfold execPaceBreak afterOf
  repeat' (first
    | with_reducible assumption | with_reducible apply State.keeps_announce | with_reducible apply State.keeps_updDev
    | dsimp only | split | (intro _) | exact ⟨rfl, rfl, rfl, rfl, rfl, rfl⟩)

theorem keeps_execPaceRestore {s : State} {t : State} (h : Keeps false s t)  : Keeps false s (afterOf t (execPaceRestore t)) := by
  unfold execPaceRestore afterOf
  repeat' (first
    | with_reducible assumption | with_reducible apply State.keeps_announce | with_reducible apply State.keeps_updDev
    | dsimp only | split | (intro _) | exact ⟨rfl, rfl, rfl, rfl, rfl, rfl⟩)

theorem keeps_execWeirPeriod {s : State} {t : State} (h : Keeps calm s t) (weir : Nat) :
    Keeps calm s (afterOf t (execWeirPeriod weir t)) := by
  unfold execWeirPeriod afterOf
  repeat' (first
    | with_reducible assumption | with_reducible apply State.keeps_updWeir | with_reducible apply State.keeps_servePower
    | with_reducible apply State.keeps_drainPort | dsimp only | split)

theorem keeps_execVcoreDroop {s : State} {t : State} (h : Keeps calm s t)
    (field : Nat) :
    Keeps calm s (afterOf t (execVcoreDroop field t)) := by
  unfold execVcoreDroop afterOf
  repeat' (first
    | with_reducible assumption | dsimp only | split
    | refine keeps_mk ?_ (fun _ => ⟨rfl, rfl⟩) rfl rfl rfl rfl rfl rfl rfl rfl rfl rfl rfl rfl rfl rfl rfl rfl rfl rfl (Nat.le_refl _))

/-! ### Trust -/

theorem keeps_execGetReport {s : State} {t : State} (h : Keeps false s t)
    (p : Nat) (nonce : List Byte) :
    Keeps false s (afterOf t (execGetReport p nonce t)) := by
  unfold execGetReport afterOf
  repeat' (first
    | with_reducible assumption | with_reducible apply State.keeps_vendorAnswer | with_reducible apply State.keeps_makeReport
    | dsimp only | split)

theorem keeps_execPolicyLoad {s : State} {t : State} (h : Keeps calm s t)
    (p : Nat) (policy : List Byte) :
    Keeps calm s (afterOf t (execPolicyLoad p policy t)) := by
  unfold execPolicyLoad afterOf
  repeat' (first
    | with_reducible assumption | with_reducible apply State.keeps_vendorAnswer | with_reducible apply State.keeps_drawRandom
    | with_reducible apply State.keeps_updPrt | dsimp only | split)

theorem State.keeps_setupWeir {s : State} {t : State} (h : Keeps calm s t) (p : Nat) : Keeps calm s (State.setupWeir t p) := by
  unfold State.setupWeir
  repeat' (first | with_reducible assumption | with_reducible apply State.keeps_updWeir)

theorem State.keeps_activate {s : State} {t : State} (h : Keeps calm s t)
    (p : Nat) (q : Party) :
    Keeps calm s (State.activate t p q) := by
  unfold State.activate
  repeat' (first
    | with_reducible assumption | with_reducible apply State.keeps_updUpd | with_reducible apply State.keeps_updPrt
    | with_reducible apply State.keeps_setupWeir | with_reducible apply keeps_foldl | (intro _))

theorem keeps_execKeyRecord {s : State} {t : State} (h : Keeps calm s t)
    (p : Nat) (record : List Byte) :
    Keeps calm s (afterOf t (execKeyRecord p record t)) := by
  unfold execKeyRecord afterOf
  repeat' (first
    | with_reducible assumption | with_reducible apply State.keeps_vendorAnswer | with_reducible apply State.keeps_updPrt
    | with_reducible apply State.keeps_activate | dsimp only | split)

theorem keeps_execStageBegin {s : State} {t : State} (h : Keeps false s t)
    (size : Nat) :
    Keeps false s (afterOf t (execStageBegin size t)) := by
  unfold execStageBegin afterOf
  repeat' (first
    | with_reducible assumption | with_reducible apply State.keeps_vendorAnswer | with_reducible apply State.keeps_updSec
    | dsimp only | split)

theorem keeps_execStageData {s : State} {t : State} (h : Keeps false s t)
    (offset : Nat) (bytes : List Byte) :
    Keeps false s (afterOf t (execStageData offset bytes t)) := by
  unfold execStageData afterOf
  repeat' (first
    | with_reducible assumption | with_reducible apply State.keeps_vendorAnswer | with_reducible apply State.keeps_updSec
    | dsimp only | split)

theorem State.keeps_dropStaging {s : State} {t : State} (h : Keeps false s t)  : Keeps false s (State.dropStaging t) := by
  unfold State.dropStaging
  repeat' (first | with_reducible assumption | with_reducible apply State.keeps_updSec)

theorem keeps_execStageEnd {s : State} {t : State} (h : Keeps false s t)  : Keeps false s (afterOf t (execStageEnd t)) := by
  unfold execStageEnd afterOf
  repeat' (first
    | with_reducible assumption | with_reducible apply State.keeps_vendorAnswer | with_reducible apply State.keeps_msixPf0
    | with_reducible apply State.keeps_updSec | with_reducible apply State.keeps_deviceReset
    | with_reducible apply State.keeps_dropStaging | dsimp only | split)

theorem keeps_execStageAbort {s : State} {t : State} (h : Keeps false s t)  : Keeps false s (afterOf t (execStageAbort t)) := by
  unfold execStageAbort afterOf
  repeat' (first
    | with_reducible assumption | with_reducible apply State.keeps_vendorAnswer | with_reducible apply State.keeps_dropStaging
    | dsimp only | split)

theorem keeps_execEntropyHealthTest {s : State} {t : State} (h : Keeps false s t)
    (passes : Bool) :
    Keeps false s (afterOf t (execEntropyHealthTest passes t)) := by
  unfold execEntropyHealthTest afterOf
  repeat' (first | with_reducible assumption | with_reducible apply State.keeps_updSec)

theorem keeps_execDebugAccess {s t : State} (h : Keeps false s t) : Keeps false s (afterOf t (execDebugAccess t)) := by
  unfold execDebugAccess afterOf
  dsimp only
  split
  · exact h
  · rename_i k
    have k1 : t.fuses.debugDisabled = false := by simpa using k
    exact h.trans ⟨rfl, fusesKept_refl t, fun _ => .inr k1, fun _ => .inr k1, fun _ => .inr k1, id, id, id, List.prefix_refl _, le_refl _, Bool.noConfusion⟩

theorem keeps_execMctpControl {s : State} {t : State} (h : Keeps false s t) (call : MctpCall) (data : List Byte) :
    Keeps false s (afterOf t (execMctpControl call data t)) := by
  unfold execMctpControl afterOf
  repeat' (first
    | with_reducible assumption | with_reducible apply State.keeps_emit | with_reducible apply State.keeps_updDev
    | dsimp only | split | (intro _)
    | exact ⟨rfl, rfl, rfl, rfl, rfl, rfl⟩)

theorem keeps_execPldmBaseCommand {s : State} {t : State} (h : Keeps false s t) (call : MctpCall) (data : List Byte) :
    Keeps false s (afterOf t (execPldmBaseCommand call data t)) := by
  unfold execPldmBaseCommand afterOf
  repeat' (first
    | with_reducible assumption | with_reducible apply State.keeps_updDev | with_reducible apply State.keeps_emit
    | dsimp only | split | (intro _)
    | exact ⟨rfl, rfl, rfl, rfl, rfl, rfl⟩)

theorem keeps_execGetSensorReading {s : State} {t : State} (h : Keeps calm s t) (call : MctpCall) (volts : Nat) :
    Keeps calm s (afterOf t (execGetSensorReading call volts t)) := by
  unfold execGetSensorReading afterOf
  repeat' (first
    | with_reducible assumption | with_reducible apply State.keeps_emit | dsimp only | split)

theorem keeps_execGetStateSensorReadings {s : State} {t : State} (h : Keeps calm s t) (call : MctpCall) :
    Keeps calm s (afterOf t (execGetStateSensorReadings call t)) := by
  unfold execGetStateSensorReadings afterOf
  repeat' (first
    | with_reducible assumption | with_reducible apply State.keeps_emit | dsimp only | split)

theorem keeps_execNumericEffecterWrite {s : State} {t : State} (h : Keeps false s t) (call : MctpCall) (value : Nat) :
    Keeps false s (afterOf t (execNumericEffecterWrite call value t)) := by
  unfold execNumericEffecterWrite afterOf
  repeat' (first
    | with_reducible assumption | with_reducible apply State.keeps_setCap | with_reducible apply State.keeps_emit
    | dsimp only | split)

theorem keeps_execPlatformEventMessage {s : State} {t : State} (h : Keeps calm s t)
    (id : Nat) (reading : Nat) (high : Bool) :
    Keeps calm s (afterOf t (execPlatformEventMessage id reading high t)) := by
  unfold execPlatformEventMessage afterOf
  repeat' (first | with_reducible assumption | with_reducible apply State.keeps_emit | dsimp only | split)

/-! ### Layouts -/

theorem State.keeps_createPart {s : State} {t : State} (h : Keeps calm s t) (x : PartLayout) :
    Keeps calm s (State.createPart t x) := by
  unfold State.createPart
  repeat' (first
    | with_reducible assumption | with_reducible apply State.keeps_setPrt
    | with_reducible apply State.keeps_clearBlocks | with_reducible apply State.keeps_deepReset
    | with_reducible apply State.keeps_updBas | with_reducible apply keeps_foldl
    | with_reducible apply keeps_foldl_snd | with_reducible apply keeps_foldl_fst
    | with_reducible apply keeps_foldl_pair | dsimp only | split | (intro _))

theorem State.keeps_applyLayout {s : State} {t : State} (h : Keeps false s t)
    (l : Layout) :
    Keeps false s (State.applyLayout t l) := by
  unfold State.applyLayout
  repeat' (first
    | with_reducible assumption | with_reducible apply State.keeps_updPrt | with_reducible apply State.keeps_createPart
    | with_reducible apply State.keeps_updLnk | with_reducible apply State.keeps_updWeir | with_reducible apply keeps_foldl
    | split | (intro _)
    | refine keeps_mk ?_ Bool.noConfusion rfl rfl rfl rfl rfl rfl rfl rfl rfl rfl rfl rfl rfl rfl rfl rfl rfl rfl (Nat.le_refl _))

theorem keeps_execLayoutChange {s : State} {t : State} (h : Keeps false s t)
    (layout : Layout) :
    Keeps false s (afterOf t (execLayoutChange layout t)) := by
  unfold execLayoutChange afterOf
  repeat' (first
    | with_reducible assumption | with_reducible apply State.keeps_msixPf0 | with_reducible apply State.keeps_applyLayout
    | dsimp only | split)

/-! ### Health -/

theorem State.keeps_restartBlock {s t : State} (h : Keeps false s t) (n : Nat) : Keeps false s (State.restartBlock t n) := by
  unfold State.restartBlock
  dsimp only
  split
  · repeat' (first
    | with_reducible assumption | with_reducible apply State.keeps_startTraining | with_reducible apply State.keeps_updLnk
    | with_reducible apply State.keeps_enterLost | split)
  · repeat' (first
    | with_reducible assumption | with_reducible apply State.keeps_askAll | with_reducible apply State.keeps_dropHostLink | split)
  · split
    · apply State.keeps_askAll
      exact keeps_foldl _ _ _ h (fun u x hu => State.keeps_endReads hu _ _)
    · exact State.keeps_updMce h _ _
  · exact State.keeps_updBas h _ _
  · exact State.keeps_updUpd h _ _
  · exact State.keeps_updEng h _ _ _
  · split
    · exact h
    · exact h.of_same Bool.noConfusion rfl rfl rfl rfl rfl rfl rfl rfl rfl rfl id (List.prefix_refl _) (le_refl _)
  · refine h.of_memory Bool.noConfusion rfl rfl rfl ?_ rfl rfl rfl
    simp only [Memory.wf, Bool.and_eq_true, and_imp]
    intro a b c d e f g
    exact ⟨⟨⟨⟨⟨⟨a, b⟩, Sparse.wf_dropKeys _ _ _ c⟩, Sparse.wf_dropKeys _ _ _ d⟩, Sparse.wf_dropKeys _ _ _ e⟩, Sparse.wf_dropKeys _ _ _ f⟩, g⟩
  · refine h.of_memory Bool.noConfusion rfl rfl rfl ?_ rfl rfl rfl
    simp only [Memory.wf, Bool.and_eq_true, and_imp]
    intro a b c d e f g
    exact ⟨⟨⟨⟨⟨⟨Sparse.wf_dropKeys _ _ _ a, Sparse.wf_dropKeys _ _ _ b⟩, c⟩, d⟩, e⟩, f⟩, g⟩
  · exact State.keeps_updWeir h _ _
  · repeat' (first | with_reducible assumption | with_reducible apply State.keeps_dropStaging | split)
  · exact State.keeps_updHlt h _
  all_goals exact h

theorem State.keeps_resetBlock {s : State} {t : State} (h : Keeps false s t) (n : Nat) : Keeps false s (State.resetBlock t n) := by
  unfold State.resetBlock
  repeat' (first
    | with_reducible assumption | with_reducible apply State.keeps_updHdr | with_reducible apply State.keeps_restartBlock | split)

theorem keeps_execResetReq {s : State} {t : State} (h : Keeps false s t)
    (via : Via) (page : Nat) :
    Keeps false s (afterOf t (execResetReq via page t)) := by
  unfold execResetReq afterOf
  repeat' (first | with_reducible assumption | with_reducible apply State.keeps_resetBlock | dsimp only | split)

theorem State.keeps_condemn {s : State} {t : State} (h : Keeps calm s t) (n : Nat) : Keeps calm s (State.condemn t n) := by
  unfold State.condemn
  repeat' (first | with_reducible assumption | with_reducible apply State.keeps_makeSuspect | split)

theorem State.keeps_condemnOwned {s : State} {t : State} (h : Keeps calm s t)
    (n : Nat) :
    Keeps calm s (State.condemnOwned t n) := by
  unfold State.condemnOwned
  repeat' (first
    | with_reducible assumption | with_reducible apply State.keeps_condemn | with_reducible apply State.keeps_drainCause
    | dsimp only | split)

theorem State.keeps_reportHung {s : State} {t : State} (h : Keeps calm s t) (n : Nat) : Keeps calm s (State.reportHung t n) := by
  unfold State.reportHung
  repeat' (first
    | with_reducible assumption | with_reducible apply State.keeps_updHdr | with_reducible apply State.keeps_msixPf0
    | with_reducible apply State.keeps_msixVf | dsimp only | split)

theorem State.keeps_escalate {s : State} {t : State} (h : Keeps false s t)
    (n : Nat) (e : BitVec 2) :
    Keeps false s (State.escalate t n e) := by
  unfold State.escalate
  repeat' (first
    | with_reducible assumption | with_reducible apply State.keeps_condemnOwned
    | with_reducible apply State.keeps_startPartitionReset | with_reducible apply State.keeps_resetBlock
    | with_reducible apply State.keeps_condemn | split)

theorem keeps_execWatchdogExpiry {s : State} {t : State} (h : Keeps false s t)
    (page : Nat) :
    Keeps false s (afterOf t (execWatchdogExpiry page t)) := by
  unfold execWatchdogExpiry afterOf
  repeat' (first
    | with_reducible assumption | with_reducible apply State.keeps_reportHung | with_reducible apply State.keeps_escalate
    | dsimp only | split)

theorem keeps_execHangGraceExpiry {s : State} {t : State} (h : Keeps calm s t)
    (p : Nat) (confirmed : Bool) :
    Keeps calm s (afterOf t (execHangGraceExpiry p confirmed t)) := by
  unfold execHangGraceExpiry afterOf
  repeat' (first
    | with_reducible assumption | with_reducible apply State.keeps_startContextReset
    | with_reducible apply State.keeps_startPartitionReset | dsimp only | split)

theorem keeps_execContextResetTimeout {s : State} {t : State} (h : Keeps calm s t)
    (p : Nat) :
    Keeps calm s (afterOf t (execContextResetTimeout p t)) := by
  unfold execContextResetTimeout afterOf
  repeat' (first | with_reducible assumption | with_reducible apply State.keeps_startPartitionReset | dsimp only | split)

theorem keeps_execPartitionResetTimeout {s : State} {t : State} (h : Keeps calm s t)
    (p : Nat) (page : Nat) :
    Keeps calm s (afterOf t (execPartitionResetTimeout p page t)) := by
  unfold execPartitionResetTimeout afterOf
  repeat' (first | with_reducible assumption | with_reducible apply State.keeps_condemnOwned | dsimp only | split)

theorem keeps_execBasinPhyRetrained {s : State} {t : State} (h : Keeps calm s t)
    (p : Nat) (links : List (Nat × Training)) :
    Keeps calm s (afterOf t (execBasinPhyRetrained p links t)) := by
  unfold execBasinPhyRetrained afterOf
  repeat' (first
    | with_reducible assumption | with_reducible apply State.keeps_finishTraining
    | with_reducible apply State.keeps_endPartitionReset | with_reducible apply keeps_foldl | dsimp only | split | (intro _))

theorem State.keeps_requestBelays {s : State} {t : State} (h : Keeps calm s t)  : Keeps calm s (State.requestBelays t) := by
  unfold State.requestBelays
  repeat' (first
    | with_reducible assumption | with_reducible apply State.keeps_updPrt | with_reducible apply keeps_foldl | split | (intro _))

theorem keeps_execRiskPeriod {s : State} {t : State} (h : Keeps calm s t)
    (hottest : Nat) :
    Keeps calm s (afterOf t (execRiskPeriod hottest t)) := by
  unfold execRiskPeriod afterOf
  repeat' (first
    | with_reducible assumption | with_reducible apply State.keeps_updHlt | with_reducible apply State.keeps_requestBelays
    | with_reducible apply State.keeps_drainCause | dsimp only | split)

theorem State.keeps_wipeEngine {s : State} {t : State} (h : Keeps calm s t)
    (c : Nat) (e : Nat) :
    Keeps calm s (State.wipeEngine t c e) := by
  unfold State.wipeEngine
  repeat' (first | with_reducible assumption | with_reducible apply State.keeps_updEng)

theorem State.keeps_failPatrol {s : State} {t : State} (h : Keeps calm s t)
    (e : Nat) (c0 : Nat) (pattern : Bool) (bad : List Nat) :
    Keeps calm s (State.failPatrol t e c0 pattern bad) := by
  unfold State.failPatrol
  repeat' (first
    | with_reducible assumption | with_reducible apply State.keeps_report | with_reducible apply State.keeps_riskEvent
    | with_reducible apply State.keeps_updHlt | with_reducible apply State.keeps_makeSuspect | with_reducible apply keeps_foldl
    | (intro _))

theorem keeps_execPatrolTest {s : State} {t : State} (h : Keeps calm s t)
    (core0 : Nat) (core1 : Nat) (core2 : Nat) (engine : Nat) (runs : Bool) (reruns : Bool) (third : PatrolRun) :
    Keeps calm s (afterOf t (execPatrolTest core0 core1 core2 engine runs reruns third t)) := by
  unfold execPatrolTest afterOf
  repeat' (first
    | with_reducible assumption | with_reducible apply State.keeps_takeTokens | with_reducible apply State.keeps_updHlt
    | with_reducible apply State.keeps_wipeEngine | with_reducible apply State.keeps_failPatrol
    | with_reducible apply keeps_foldl | dsimp only | split | (intro _))

theorem State.keeps_startDrainBelay {s : State} {t : State} (h : Keeps calm s t)
    (p : Nat) (dirty : List Nat) :
    Keeps calm s (State.startDrainBelay t p dirty) := by
  unfold State.startDrainBelay
  repeat' (first
    | with_reducible assumption | with_reducible apply State.keeps_insertBelay | with_reducible apply State.keeps_updPrt
    | dsimp only | split)

theorem State.keeps_writeDue {s : State} {t : State} (h : Keeps calm s t)  : Keeps calm s (State.writeDue t) := by
  unfold State.writeDue
  repeat' (first
    | with_reducible assumption | with_reducible apply State.keeps_writeRecord | with_reducible apply State.keeps_updHlt
    | with_reducible apply keeps_foldl | (intro _))

theorem State.keeps_endDrain {s : State} {t : State} (h : Keeps false s t)
    (marks : Nat) :
    Keeps false s (State.endDrain t marks) := by
  unfold State.endDrain
  repeat' (first
    | with_reducible assumption | with_reducible apply State.keeps_writeDue | with_reducible apply State.keeps_closeAll
    | with_reducible apply State.keeps_burnMark | with_reducible apply State.keeps_updHlt
    | with_reducible apply State.keeps_writeRecord | with_reducible apply State.keeps_setDevState
    | with_reducible apply State.keeps_updDev | with_reducible apply keeps_foldl | (intro _)
    | exact ⟨rfl, rfl, rfl, rfl, rfl, rfl⟩)

theorem State.keeps_continueDrain {s : State} {t : State} (h : Keeps false s t)  : Keeps false s (State.continueDrain t) := by
  unfold State.continueDrain
  repeat' (first | with_reducible assumption | with_reducible apply State.keeps_endDrain | split)

theorem State.keeps_startDrain {s : State} {t : State} (h : Keeps false s t)
    (marks : Nat) :
    Keeps false s (State.startDrain t marks) := by
  unfold State.startDrain
  repeat' (first
    | with_reducible assumption | with_reducible apply State.keeps_announce | with_reducible apply State.keeps_setDevState
    | with_reducible apply State.keeps_updDev | with_reducible apply State.keeps_abortAll
    | with_reducible apply State.keeps_startDrainBelay | with_reducible apply State.keeps_continueDrain
    | with_reducible apply State.keeps_updHlt | with_reducible apply keeps_foldl | (intro _)
    | exact ⟨rfl, rfl, rfl, rfl, rfl, rfl⟩)

theorem keeps_execDrain {s : State} {t : State} (h : Keeps false s t)
    (selfCheckFailed : Bool) :
    Keeps false s (afterOf t (execDrain selfCheckFailed t)) := by
  unfold execDrain afterOf
  repeat' (first
    | with_reducible assumption | with_reducible apply State.keeps_drainCause | with_reducible apply State.keeps_startDrain
    | with_reducible apply State.keeps_updHlt | with_reducible apply State.keeps_continueDrain | dsimp only | split)

theorem keeps_execDrainBelayTimeout {s : State} {t : State} (h : Keeps false s t)
    (p : Nat) :
    Keeps false s (afterOf t (execDrainBelayTimeout p t)) := by
  unfold execDrainBelayTimeout afterOf
  repeat' (first
    | with_reducible assumption | with_reducible apply State.keeps_continueDrain | with_reducible apply State.keeps_endOp
    | dsimp only | split)

end Sys2Proof.Machine
end

