-- ==== Sys2Proof/Laws/KeepsExec.lean ====
section
/-! SUPPORT. What register writes, every command and the step keep: one lemma for each operation and each command. -/

namespace Sys2Proof.Machine

variable {calm : Bool}

/-! ### Registers -/

theorem State.keeps_clearErr {s : State} {t : State} (h : Keeps calm s t)
    (n : Nat) (value : Reg) :
    Keeps calm s (State.clearErr t n value) := by
  unfold State.clearErr
  repeat' (first | with_reducible assumption | with_reducible apply State.keeps_updHdr)

theorem keeps_execErrStatusClear {s : State} {t : State} (h : Keeps calm s t)
    (via : Via) (page : Nat) (value : Reg) :
    Keeps calm s (afterOf t (execErrStatusClear via page value t)) := by
  unfold execErrStatusClear afterOf
  repeat' (first
    | with_reducible assumption | with_reducible apply State.keeps_access | with_reducible apply State.keeps_clearErr | (intro _))

theorem State.keeps_inject {s : State} {t : State} (h : Keeps calm s t)
    (n : Nat) (b : Nat) :
    Keeps calm s (State.inject t n b) := by
  unfold State.inject
  repeat' (first
    | with_reducible assumption | with_reducible apply State.keeps_raiseErr | with_reducible apply State.keeps_countCe
    | with_reducible apply State.keeps_foundUe | split)

theorem State.keeps_writeInject {s : State} {t : State} (h : Keeps calm s t)
    (n : Nat) (value : Reg) :
    Keeps calm s (State.writeInject t n value) := by
  unfold State.writeInject
  repeat' (first | with_reducible assumption | with_reducible apply State.keeps_updHdr | with_reducible apply State.keeps_inject | split)

theorem keeps_execErrInject {s : State} {t : State} (h : Keeps calm s t)
    (via : Via) (page : Nat) (value : Reg) :
    Keeps calm s (afterOf t (execErrInject via page value t)) := by
  unfold execErrInject afterOf
  repeat' (first
    | with_reducible assumption | with_reducible apply State.keeps_access | with_reducible apply State.keeps_writeInject
    | (intro _))

theorem State.keeps_writeWeir {s : State} {t : State} (h : Keeps calm s t)
    (w : Nat) (period : Bool) (value : Reg) :
    Keeps calm s (State.writeWeir t w period value) := by
  unfold State.writeWeir
  repeat' (first
    | with_reducible assumption | with_reducible apply State.keeps_updWeir | with_reducible apply State.keeps_raiseErr
    | dsimp only | split)

theorem keeps_execWeirWrite {s : State} {t : State} (h : Keeps calm s t)
    (via : Via) (weir : Nat) (period : Bool) (value : Reg) :
    Keeps calm s (afterOf t (execWeirWrite via weir period value t)) := by
  unfold execWeirWrite afterOf
  repeat' (first
    | with_reducible assumption | with_reducible apply State.keeps_access | with_reducible apply State.keeps_writeWeir
    | (intro _))

theorem State.keeps_writeHeader {s : State} {t : State} (h : Keeps false s t)
    (byMgc : Bool) (n : Nat) (off : Nat) (value : Reg) :
    Keeps false s (State.writeHeader t byMgc n off value) := by
  unfold State.writeHeader
  repeat' (first
    | with_reducible assumption | with_reducible apply State.keeps_updHdr | with_reducible apply State.keeps_resetBlock | split)

theorem State.keeps_writeTarget {s t : State} (h : Keeps false s t) (mv : Nat) : Keeps false s (State.writeTarget t mv) := by
  unfold State.writeTarget
  split
  · exact h
  · rename_i hm
    apply State.keeps_capReleases
    refine h.of_dev _ rfl rfl rfl ?_
    intro ⟨a, b, c⟩
    have hl : legalMillivolts mv := by
      unfold legalMillivolts; omega
    refine ⟨?_, hl, c⟩
    simp only [State.updDev]
    split
    · exact a
    · split
      · rcases Nat.le_total t.dev.vcore mv with k | k
        · rw [Nat.min_eq_left k]; exact a
        · rw [Nat.min_eq_right k]; exact hl
      · exact hl

theorem State.keeps_writeDev {s : State} {t : State} (h : Keeps false s t)
    (byMgc : Bool) (off : Nat) (value : Reg) :
    Keeps false s (State.writeDev t byMgc off value) := by
  unfold State.writeDev
  repeat' (first
    | with_reducible assumption | with_reducible apply State.keeps_writeTarget | with_reducible apply State.keeps_updDev | split
    | (intro _) | exact ⟨rfl, rfl, rfl, rfl, rfl, rfl⟩)

theorem State.keeps_writeBlock {s : State} {t : State} (h : Keeps false s t) (via : Via) (n : Nat) (off : Nat) (value : Reg) :
    Keeps false s (State.writeBlock t via n off value) := by
  unfold State.writeBlock
  repeat' (first
    | with_reducible assumption | with_reducible apply State.keeps_writeDev | with_reducible apply State.keeps_updHlt
    | with_reducible apply State.keeps_updPrt | with_reducible apply State.keeps_updHst
    | with_reducible apply State.keeps_writeRole | with_reducible apply State.keeps_access
    | with_reducible apply State.keeps_writeSaCtrl | with_reducible apply State.keeps_updLnk
    | with_reducible apply State.keeps_updMce | with_reducible apply State.keeps_updUpd
    | with_reducible apply State.keeps_updWeir | dsimp only | split | (intro _))

/-- Whatever a command write answers keeps the guarantees. -/
def KeepsIf (s t : State) (r : Option (Host.Outcome State Fault Refusal)) : Prop := ∀ o, r = some o → Keeps false s (afterOf t o)

theorem keepsIf_none (s t : State) : KeepsIf s t none := by
  intro o e
  cases e

theorem keepsIf_some {s t : State} {o : Host.Outcome State Fault Refusal} (h : Keeps false s (afterOf t o)) : KeepsIf s t (some o) := by
  intro x e
  cases e
  exact h

theorem keepsIf_ite {s t : State} {c : Prop} [Decidable c] {a b : Option (Host.Outcome State Fault Refusal)} (ha : KeepsIf s t a)
    (hb : KeepsIf s t b) : KeepsIf s t (if c then a else b) := by
  by_cases k : c
  · rw [if_pos k]; exact ha
  · rw [if_neg k]; exact hb

theorem State.keeps_commandWrite {s t : State} {via : Via} {n off : Nat} {value : Reg} {o : Host.Outcome State Fault Refusal}
    (e : t.commandWrite via n off value = some o) (h : Keeps false s t) : Keeps false s (afterOf t o) := by
  have k : KeepsIf s t (t.commandWrite via n off value) := by
    unfold State.commandWrite
    repeat' (first
      | exact keepsIf_none _ _ | with_reducible apply keepsIf_ite | with_reducible apply keepsIf_some
      | (with_reducible exact keeps_execBaseHiWrite h .. ) | (with_reducible exact keeps_execBaseLoWrite h .. )
      | (with_reducible exact keeps_execCloseSa h .. ) | (with_reducible exact keeps_execContextReset h .. )
      | (with_reducible exact keeps_execContextTeardown h .. ) | (with_reducible exact keeps_execCperTailWrite h .. )
      | (with_reducible exact keeps_execCreditResetReq h .. ) | (with_reducible exact keeps_execDoorbellWrite h .. )
      | (with_reducible exact keeps_execErrInject h .. ) | (with_reducible exact keeps_execErrStatusClear h .. )
      | (with_reducible exact keeps_execJnlWindowWrite h .. ) | (with_reducible exact keeps_execKeyActivate h .. )
      | (with_reducible exact keeps_execKeyDrain h .. ) | (with_reducible exact keeps_execKeyLoad h .. )
      | (with_reducible exact keeps_execKeyRetire h .. ) | (with_reducible exact keeps_execKeySelWrite h .. )
      | (with_reducible exact keeps_execOpenSa h .. ) | (with_reducible exact keeps_execPartitionReset h .. )
      | (with_reducible exact keeps_execPartyTeardown h .. ) | (with_reducible exact keeps_execPkgPowerCapWrite h .. )
      | (with_reducible exact keeps_execQueueDisable h .. ) | (with_reducible exact keeps_execQueueEnable h .. )
      | (with_reducible exact keeps_execReadDone h .. ) | (with_reducible exact keeps_execRekey h .. )
      | (with_reducible exact keeps_execWeirWrite h .. ) | (with_reducible exact keeps_execWinHandleWrite h .. ) | split)
  exact k o e

theorem State.keeps_writePage {s : State} {t : State} (h : Keeps false s t)
    (via : Via) (n : Nat) (off : Nat) (value : Reg) :
    Keeps false s (State.writePage t via n off value) := by
  unfold State.writePage
  repeat' (first
    | with_reducible assumption | with_reducible apply State.keeps_access | with_reducible apply State.keeps_writeHeader
    | with_reducible apply State.keeps_writeBlock | exact State.keeps_commandWrite (by assumption) (by assumption) | split
    | (intro _))

theorem State.keeps_writeVf {s : State} {t : State} (h : Keeps false s t)
    (port : Bool) (p : Nat) (secured : Bool) (off : Nat) (value : Reg) :
    Keeps false s (State.writeVf t port p secured off value) := by
  unfold State.writeVf
  repeat' (first
    | with_reducible assumption | with_reducible apply State.keeps_writePage | with_reducible apply keeps_execSlotRelease
    | with_reducible apply State.keeps_access | with_reducible apply keeps_execWindowWrite | split | (intro _)
    | refine keeps_mk ?_ (fun _ => ⟨rfl, rfl⟩) rfl rfl rfl rfl rfl rfl rfl rfl rfl rfl rfl rfl rfl rfl rfl rfl rfl rfl (Nat.le_refl _))

theorem keeps_execRegisterWrite {s : State} {t : State} (h : Keeps false s t)
    (via : Via) (offset : Nat) (size : Nat) (value : Reg) :
    Keeps false s (afterOf t (execRegisterWrite via offset size value t)) := by
  unfold execRegisterWrite afterOf
  repeat' (first
    | with_reducible assumption | with_reducible apply State.keeps_writeVf | with_reducible apply State.keeps_writePage
    | dsimp only | split)

/-! ### Every command -/

/-- A calm step from `s` to `t` is a step. -/
theorem Keeps.rough {s t : State} (h : Keeps calm s t) : Keeps false s t :=
  ⟨h.pending, h.fuses, h.jtag, h.inject, h.debugUsed, h.power, h.memory, h.blocks, h.out, h.draws, Bool.noConfusion⟩

/-- A step need not be calm where none is asked for. -/
theorem Keeps.of_rough {s t : State} (hc : calm = true → False) (h : Keeps false s t) : Keeps calm s t :=
  ⟨h.pending, h.fuses, h.jtag, h.inject, h.debugUsed, h.power, h.memory, h.blocks, h.out, h.draws, fun e => (hc e).elim⟩

/-- Executing a command keeps the guarantees, calmly where the command is none of the platform. -/
theorem keeps_exec {s t : State} (h : Keeps calm s t) (c : Instr) (hc : calm = true → platform c = false) :
    Keeps calm s (afterOf t (exec c t)) := by
  cases c with
  | doorbellWrite via p n value => exact keeps_execDoorbellWrite h via p n value
  | queueEnable via p n value => exact keeps_execQueueEnable h via p n value
  | queueDisable via p n value => exact keeps_execQueueDisable h via p n value
  | acceptDescriptor p ring => exact keeps_execAcceptDescriptor h p ring
  | operationStart p seq => exact keeps_execOperationStart h p seq
  | slotTokenGrant p seq handle tile => exact keeps_execSlotTokenGrant h p seq handle tile
  | matmul p seq => exact keeps_execMatmul h p seq
  | anchorScanWrite p seq => exact keeps_execAnchorScanWrite h p seq
  | anchorScanMax p seq => exact keeps_execAnchorScanMax h p seq
  | adapterPass p seq variant => exact keeps_execAdapterPass h p seq variant
  | anchorScanPhase p seq core => exact keeps_execAnchorScanPhase h p seq core
  | anchorAgree p seq => exact keeps_execAnchorAgree h p seq
  | stationaryLoad p seq core team block group k0 => exact keeps_execStationaryLoad h p seq core team block group k0
  | swap core engine => exact keeps_execSwap h core engine
  | cellStep core engine k n row upset => exact keeps_execCellStep h core engine k n row upset
  | footAddition core engine column upset => exact keeps_execFootAddition h core engine column upset
  | writeBack core engine upset again => exact keeps_execWriteBack h core engine upset again
  | pitchRetry core engine samePasses otherPasses => exact keeps_execPitchRetry h core engine samePasses otherPasses
  | confluenceMerge p seq core tile upset again => exact keeps_execConfluenceMerge h p seq core tile upset again
  | outputConversion p seq tile mismatches => exact keeps_execOutputConversion h p seq tile mismatches
  | operationComplete p seq => exact keeps_execOperationComplete h p seq
  | vecCopy p seq => exact keeps_execVecCopy h p seq
  | vecAdd p seq => exact keeps_execVecAdd h p seq
  | vecSub p seq => exact keeps_execVecSub h p seq
  | vecMul p seq => exact keeps_execVecMul h p seq
  | vecFma p seq => exact keeps_execVecFma h p seq
  | vecMax p seq => exact keeps_execVecMax h p seq
  | vecMin p seq => exact keeps_execVecMin h p seq
  | vecAbs p seq => exact keeps_execVecAbs h p seq
  | vecScale2 p seq => exact keeps_execVecScale2 h p seq
  | vecExp p seq mismatches => exact keeps_execVecExp h p seq mismatches
  | vecLog p seq mismatches => exact keeps_execVecLog h p seq mismatches
  | vecRsqrt p seq => exact keeps_execVecRsqrt h p seq
  | vecSigmoid p seq mismatches => exact keeps_execVecSigmoid h p seq mismatches
  | vecTanh p seq mismatches => exact keeps_execVecTanh h p seq mismatches
  | vecSoftmax p seq => exact keeps_execVecSoftmax h p seq
  | vecNorm p seq => exact keeps_execVecNorm h p seq
  | vecRowsum p seq => exact keeps_execVecRowsum h p seq
  | vecRowmax p seq => exact keeps_execVecRowmax h p seq
  | vecProgram p seq => exact keeps_execVecProgram h p seq
  | softmaxBwd p seq => exact keeps_execSoftmaxBwd h p seq
  | normBwd p seq => exact keeps_execNormBwd h p seq
  | reduce p seq => exact keeps_execReduce h p seq
  | histRead p seq => exact keeps_execHistRead h p seq
  | readClear p seq => exact keeps_execReadClear h p seq
  | histInit p seq => exact keeps_execHistInit h p seq
  | rngFillBits p seq => exact keeps_execRngFillBits h p seq
  | rngFillUniform p seq => exact keeps_execRngFillUniform h p seq
  | rngFillBernoulli p seq => exact keeps_execRngFillBernoulli h p seq
  | allReduce p run => exact keeps_execAllReduce h p run
  | reduceScatter p run => exact keeps_execReduceScatter h p run
  | allGather p seq => exact keeps_execAllGather h p seq
  | broadcast p seq => exact keeps_execBroadcast h p seq
  | stagingCopy p seq => exact keeps_execStagingCopy h p seq
  | stepCommit p seq => exact keeps_execStepCommit h p seq
  | move p seq => exact keeps_execMove h p seq
  | offload p seq => exact keeps_execOffload h p seq
  | prefetch p seq => exact keeps_execPrefetch h p seq
  | updateElement p seq => exact keeps_execUpdateElement h p seq
  | updatePrecond p seq => exact keeps_execUpdatePrecond h p seq
  | updateChunk p seq chunk => exact keeps_execUpdateChunk h p seq chunk
  | chunkRerun die failsAgain => exact keeps_execChunkRerun h die failsAgain
  | versionRelease p seq => exact keeps_execVersionRelease h p seq
  | digestTensor p seq => exact keeps_execDigestTensor h p seq
  | digestReplica p seq => exact keeps_execDigestReplica h p seq
  | belayLocal p seq => exact keeps_execBelayLocal h p seq
  | belayPeer p seq => exact keeps_execBelayPeer h p seq
  | belayHost p seq => exact keeps_execBelayHost h p seq
  | belaySeal p seq => exact keeps_execBelaySeal h p seq
  | riskBelayInsert p => exact keeps_execRiskBelayInsert h p
  | restore p seq => exact keeps_execRestore h p seq
  | restorePeer p seq halves newest => exact keeps_execRestorePeer h p seq halves newest
  | fenceQueue p seq => exact keeps_execFenceQueue h p seq
  | fencePartition p seq => exact keeps_execFencePartition h p seq
  | slotRelease via p slot value => exact keeps_execSlotRelease h via p slot value
  | jnlWindowWrite via p value => exact keeps_execJnlWindowWrite h via p value
  | readDone via p value => exact keeps_execReadDone h via p value
  | journalClearTimeout p => exact keeps_execJournalClearTimeout h p
  | windowRead via p offset len => exact keeps_execWindowRead h via p offset len
  | windowWrite via p offset bytes => exact keeps_execWindowWrite h via p offset bytes
  | winHandleWrite via p n value => exact keeps_execWinHandleWrite h via p n value
  | baseLoWrite via p reg value => exact keeps_execBaseLoWrite h via p reg value
  | baseHiWrite via p reg value => exact keeps_execBaseHiWrite h via p reg value
  | contextTeardown via p => exact keeps_execContextTeardown h via p
  | partyTeardown via p => exact keeps_execPartyTeardown h via p
  | contextReset via p confirmed => exact keeps_execContextReset h via p confirmed
  | partitionReset via p => exact keeps_execPartitionReset h via p
  | keySelWrite via m value => exact keeps_execKeySelWrite h via m value
  | keyLoad via m => exact keeps_execKeyLoad h via m
  | keyActivate via m => exact keeps_execKeyActivate h via m
  | keyDrain via m => exact keeps_execKeyDrain h via m
  | keyRetire via m => exact keeps_execKeyRetire h via m
  | sweepStep m slot ecc => exact keeps_execSweepStep h m slot ecc
  | sweepFlush m slot => exact keeps_execSweepFlush h m slot
  | basinRead m line slot ecc tree level => exact keeps_execBasinRead h m line slot ecc tree level
  | basinWrite m line slot data => exact keeps_execBasinWrite h m line slot data
  | basinPartialWrite m line slot offset data ecc => exact keeps_execBasinPartialWrite h m line slot offset data ecc
  | treeEviction m level line => exact keeps_execTreeEviction h m level line
  | subtreeReinit m => exact keeps_execSubtreeReinit h m
  | groupRebuild m => exact keeps_execGroupRebuild h m
  | scrubStep k ecc => exact keeps_execScrubStep h k ecc
  | lineTest page test => exact keeps_execLineTest h page test
  | poolRead array offset ecc => exact keeps_execPoolRead h array offset ecc
  | poolScrub block => exact keeps_execPoolScrub h block
  | basinRefresh k => exact keeps_execBasinRefresh h k
  | hostReadCompletion port tag data => exact keeps_execHostReadCompletion h port tag data
  | hostCompletionTimeout port tag => exact keeps_execHostCompletionTimeout h port tag
  | hostLinkDown port => exact keeps_execHostLinkDown h port
  | hostLinkUp port speed width flit => exact keeps_execHostLinkUp h port speed width flit
  | flr port fn => exact keeps_execFlr h port fn
  | stopInterface port vf => exact keeps_execStopInterface h port vf
  | getTdispVersion port vf => exact keeps_execGetTdispVersion h port vf
  | getTdispCapabilities port vf => exact keeps_execGetTdispCapabilities h port vf
  | lockInterface port vf => exact keeps_execLockInterface h port vf
  | getDeviceInterfaceReport port vf => exact keeps_execGetDeviceInterfaceReport h port vf
  | getDeviceInterfaceState port vf => exact keeps_execGetDeviceInterfaceState h port vf
  | startInterface port vf => exact keeps_execStartInterface h port vf
  | ideKm port vf session key => exact keeps_execIdeKm h port vf session key
  | ideIntegrityFailure port vf => exact keeps_execIdeIntegrityFailure h port vf
  | getVersion port => exact keeps_execGetVersion h port
  | getCapabilities port => exact keeps_execGetCapabilities h port
  | negotiateAlgorithms path offer => exact keeps_execNegotiateAlgorithms h path offer
  | getDigests port => exact keeps_execGetDigests h port
  | getCertificate port slot offset len => exact keeps_execGetCertificate h port slot offset len
  | challenge port nonce => exact keeps_execChallenge h port nonce
  | getMeasurements port index nonce => exact keeps_execGetMeasurements h port index nonce
  | keyExchange port id mutualAuth => exact keeps_execKeyExchange h port id mutualAuth
  | finish port id verified => exact keeps_execFinish h port id verified
  | keyUpdate port id => exact keeps_execKeyUpdate h port id
  | heartbeat port id => exact keeps_execHeartbeat h port id
  | endSession port id => exact keeps_execEndSession h port id
  | vendorDefinedRequest port id ide payload => exact keeps_execVendorDefinedRequest h port id ide payload
  | mctpControl call data =>
    exact .of_rough (fun e => Bool.noConfusion (hc e)) (keeps_execMctpControl h.rough call data)
  | pldmBaseCommand call data =>
    exact .of_rough (fun e => Bool.noConfusion (hc e)) (keeps_execPldmBaseCommand h.rough call data)
  | getSensorReading call volts => exact keeps_execGetSensorReading h call volts
  | getStateSensorReadings call => exact keeps_execGetStateSensorReadings h call
  | numericEffecterWrite call value =>
    exact .of_rough (fun e => Bool.noConfusion (hc e)) (keeps_execNumericEffecterWrite h.rough call value)
  | platformEventMessage id volts high => exact keeps_execPlatformEventMessage h id volts high
  | getReport p nonce =>
    exact .of_rough (fun e => Bool.noConfusion (hc e)) (keeps_execGetReport h.rough p nonce)
  | policyLoad p policy => exact keeps_execPolicyLoad h p policy
  | keyRecord p record => exact keeps_execKeyRecord h p record
  | stageBegin size =>
    exact .of_rough (fun e => Bool.noConfusion (hc e)) (keeps_execStageBegin h.rough size)
  | stageData offset bytes =>
    exact .of_rough (fun e => Bool.noConfusion (hc e)) (keeps_execStageData h.rough offset bytes)
  | stageEnd =>
    exact .of_rough (fun e => Bool.noConfusion (hc e)) (keeps_execStageEnd h.rough)
  | stageAbort =>
    exact .of_rough (fun e => Bool.noConfusion (hc e)) (keeps_execStageAbort h.rough)
  | getCper count => exact keeps_execGetCper h count
  | patternLoad index bytes => exact keeps_execPatternLoad h index bytes
  | layoutChange layout =>
    exact .of_rough (fun e => Bool.noConfusion (hc e)) (keeps_execLayoutChange h.rough layout)
  | deviceResetCommand =>
    exact .of_rough (fun e => Bool.noConfusion (hc e)) (keeps_execDeviceResetCommand h.rough)
  | trainLinks =>
    exact .of_rough (fun e => Bool.noConfusion (hc e)) (keeps_execTrainLinks h.rough)
  | takeover via link enable => exact keeps_execTakeover h via link enable
  | openSa via link value =>
    exact .of_rough (fun e => Bool.noConfusion (hc e)) (keeps_execOpenSa h.rough via link value)
  | rekey via link value => exact keeps_execRekey h via link value
  | closeSa via link value => exact keeps_execCloseSa h via link value
  | creditResetReq via link value => exact keeps_execCreditResetReq h via link value
  | pkgPowerCapWrite via value =>
    exact .of_rough (fun e => Bool.noConfusion (hc e)) (keeps_execPkgPowerCapWrite h.rough via value)
  | weirWrite via weir period value => exact keeps_execWeirWrite h via weir period value
  | cperTailWrite via value => exact keeps_execCperTailWrite h via value
  | errStatusClear via page value => exact keeps_execErrStatusClear h via page value
  | errInject via page value => exact keeps_execErrInject h via page value
  | resetReq via page =>
    exact .of_rough (fun e => Bool.noConfusion (hc e)) (keeps_execResetReq h.rough via page)
  | registerWrite via offset size value =>
    exact .of_rough (fun e => Bool.noConfusion (hc e)) (keeps_execRegisterWrite h.rough via offset size value)
  | keepalive link flit => exact keeps_execKeepalive h link flit
  | nak link flit => exact keeps_execNak h link flit
  | creditReq link flit => exact keeps_execCreditReq h link flit
  | creditReset link flit => exact keeps_execCreditReset h link flit
  | saSetup link flit certOk =>
    exact .of_rough (fun e => Bool.noConfusion (hc e)) (keeps_execSaSetup h.rough link flit certOk)
  | saClose link flit => exact keeps_execSaClose h link flit
  | data link flit => exact keeps_execData h link flit
  | anchor link flit => exact keeps_execAnchor h link flit
  | verdict link flit => exact keeps_execVerdict h link flit
  | retract link flit => exact keeps_execRetract h link flit
  | resend link flit lasting => exact keeps_execResend h link flit lasting
  | commit link flit => exact keeps_execCommit h link flit
  | descCheck link flit => exact keeps_execDescCheck h link flit
  | digestFlit link flit => exact keeps_execDigestFlit h link flit
  | belayFlit link flit => exact keeps_execBelayFlit h link flit
  | keepaliveSend link => exact keeps_execKeepaliveSend h link
  | receiveTimeout link => exact keeps_execReceiveTimeout h link
  | linkLost link => exact keeps_execLinkLost h link
  | loopbackTest link passes => exact keeps_execLoopbackTest h link passes
  | linkTraining link result => exact keeps_execLinkTraining h link result
  | creditReqTimeout link vc => exact keeps_execCreditReqTimeout h link vc
  | laserSwitch pair =>
    exact .of_rough (fun e => Bool.noConfusion (hc e)) (keeps_execLaserSwitch h.rough pair)
  | laserPairLost pair =>
    exact .of_rough (fun e => Bool.noConfusion (hc e)) (keeps_execLaserPairLost h.rough pair)
  | rstNAssert =>
    exact .of_rough (fun e => Bool.noConfusion (hc e)) (keeps_execRstNAssert h.rough)
  | pwrOkFall =>
    exact .of_rough (fun e => Bool.noConfusion (hc e)) (keeps_execPwrOkFall h.rough)
  | startUp facts =>
    exact .of_rough (fun e => Bool.noConfusion (hc e)) (keeps_execStartUp h.rough facts)
  | vin48TurnOff =>
    exact .of_rough (fun e => Bool.noConfusion (hc e)) (keeps_execVin48TurnOff h.rough)
  | refClockLoss =>
    exact .of_rough (fun e => Bool.noConfusion (hc e)) (keeps_execRefClockLoss h.rough)
  | thermalTrip =>
    exact .of_rough (fun e => Bool.noConfusion (hc e)) (keeps_execThermalTrip h.rough)
  | thermalSlowdown field temp =>
    exact .of_rough (fun e => Bool.noConfusion (hc e)) (keeps_execThermalSlowdown h.rough field temp)
  | thermalStep temp =>
    exact .of_rough (fun e => Bool.noConfusion (hc e)) (keeps_execThermalStep h.rough temp)
  | thermalSlowdownEnd =>
    exact .of_rough (fun e => Bool.noConfusion (hc e)) (keeps_execThermalSlowdownEnd h.rough)
  | powerCapInterval watts =>
    exact .of_rough (fun e => Bool.noConfusion (hc e)) (keeps_execPowerCapInterval h.rough watts)
  | vcoreRaise watts =>
    exact .of_rough (fun e => Bool.noConfusion (hc e)) (keeps_execVcoreRaise h.rough watts)
  | paceBreak =>
    exact .of_rough (fun e => Bool.noConfusion (hc e)) (keeps_execPaceBreak h.rough)
  | paceRestore =>
    exact .of_rough (fun e => Bool.noConfusion (hc e)) (keeps_execPaceRestore h.rough)
  | weirPeriod weir => exact keeps_execWeirPeriod h weir
  | watchdogExpiry page =>
    exact .of_rough (fun e => Bool.noConfusion (hc e)) (keeps_execWatchdogExpiry h.rough page)
  | hangGraceExpiry p confirmed => exact keeps_execHangGraceExpiry h p confirmed
  | contextResetTimeout p => exact keeps_execContextResetTimeout h p
  | partitionResetTimeout p page => exact keeps_execPartitionResetTimeout h p page
  | riskPeriod hottest => exact keeps_execRiskPeriod h hottest
  | patrolTest core0 core1 core2 engine runs reruns third => exact keeps_execPatrolTest h core0 core1 core2 engine runs reruns third
  | drain selfCheckFailed =>
    exact .of_rough (fun e => Bool.noConfusion (hc e)) (keeps_execDrain h.rough selfCheckFailed)
  | cperRecord => exact keeps_execCperRecord h
  | vcoreDroop field => exact keeps_execVcoreDroop h field
  | flitCrcOrGcmFail link flit => exact keeps_execFlitCrcOrGcmFail h link flit
  | unlistedFlitType link flit => exact keeps_execUnlistedFlitType h link flit
  | lightReturns link => exact keeps_execLightReturns h link
  | basinPhyRetrained p links => exact keeps_execBasinPhyRetrained h p links
  | drainBelayTimeout p =>
    exact .of_rough (fun e => Bool.noConfusion (hc e)) (keeps_execDrainBelayTimeout h.rough p)
  | entropyHealthTest passes =>
    exact .of_rough (fun e => Bool.noConfusion (hc e)) (keeps_execEntropyHealthTest h.rough passes)
  | debugAccess =>
    exact .of_rough (fun e => Bool.noConfusion (hc e)) (keeps_execDebugAccess h.rough)

end Sys2Proof.Machine
end

