-- ==== Sys2Proof/Laws/ReadBack.lean ====
section
/-! SUPPORT. A block that was just updated reads as its update, and every other block of its table reads as before. -/

namespace Sys2Proof.Machine

variable (s : State)

/-- The partition that was updated reads as its update. -/
theorem State.prt_updPrt (h : Blocks.wf s = true) (p : Nat) (f : Prt → Prt) : (s.updPrt p f).prt p = f (s.prt p) := by
  simp only [Blocks.wf, Bool.and_eq_true] at h
  exact Sparse.get_set_same _ _ _ _ h.1.1.1.1.1.1

/-- Every other partition reads as before; this holds in every state. -/
@[simp] theorem State.prt_updPrt_ne (p q : Nat) (f : Prt → Prt) (h : q ≠ p) : (s.updPrt p f).prt q = s.prt q :=
  Sparse.get_set_ne _ _ _ _ _ h

/-- The link port that was updated reads as its update. -/
theorem State.lnk_updLnk (h : Blocks.wf s = true) (i : Nat) (f : Lnk → Lnk) : (s.updLnk i f).lnk i = f (s.lnk i) := by
  simp only [Blocks.wf, Bool.and_eq_true] at h
  exact Sparse.get_set_same _ _ _ _ h.1.1.1.1.2

/-- Every other link port reads as before; this holds in every state. -/
@[simp] theorem State.lnk_updLnk_ne (i q : Nat) (f : Lnk → Lnk) (h : q ≠ i) : (s.updLnk i f).lnk q = s.lnk q :=
  Sparse.get_set_ne _ _ _ _ _ h

/-- The basin group that was updated reads as its update. -/
theorem State.bas_updBas (h : Blocks.wf s = true) (k : Nat) (f : Bas → Bas) : (s.updBas k f).bas k = f (s.bas k) := by
  simp only [Blocks.wf, Bool.and_eq_true] at h
  exact Sparse.get_set_same _ _ _ _ h.1.1.1.2

/-- Every other basin group reads as before; this holds in every state. -/
@[simp] theorem State.bas_updBas_ne (k q : Nat) (f : Bas → Bas) (h : q ≠ k) : (s.updBas k f).bas q = s.bas q :=
  Sparse.get_set_ne _ _ _ _ _ h

/-- The crypto engine that was updated reads as its update. -/
theorem State.mce_updMce (h : Blocks.wf s = true) (m : Nat) (f : Mce → Mce) : (s.updMce m f).mce m = f (s.mce m) := by
  simp only [Blocks.wf, Bool.and_eq_true] at h
  exact Sparse.get_set_same _ _ _ _ h.1.1.2

/-- Every other crypto engine reads as before; this holds in every state. -/
@[simp] theorem State.mce_updMce_ne (m q : Nat) (f : Mce → Mce) (h : q ≠ m) : (s.updMce m f).mce q = s.mce q :=
  Sparse.get_set_ne _ _ _ _ _ h

/-- The update die that was updated reads as its update. -/
theorem State.upd_updUpd (h : Blocks.wf s = true) (k : Nat) (f : Upd → Upd) : (s.updUpd k f).upd k = f (s.upd k) := by
  simp only [Blocks.wf, Bool.and_eq_true] at h
  exact Sparse.get_set_same _ _ _ _ h.1.2

/-- Every other update die reads as before; this holds in every state. -/
@[simp] theorem State.upd_updUpd_ne (k q : Nat) (f : Upd → Upd) (h : q ≠ k) : (s.updUpd k f).upd q = s.upd q :=
  Sparse.get_set_ne _ _ _ _ _ h

/-- The weir that was updated reads as its update. -/
theorem State.weir_updWeir (h : Blocks.wf s = true) (w : Nat) (f : Weir → Weir) : (s.updWeir w f).weir w = f (s.weir w) := by
  simp only [Blocks.wf, Bool.and_eq_true] at h
  exact Sparse.get_set_same _ _ _ _ h.2

/-- Every other weir reads as before; this holds in every state. -/
@[simp] theorem State.weir_updWeir_ne (w q : Nat) (f : Weir → Weir) (h : q ≠ w) : (s.updWeir w f).weir q = s.weir q :=
  Sparse.get_set_ne _ _ _ _ _ h

/-- The host port that was updated reads as its update. -/
theorem State.hst_updHst (h : Blocks.wf s = true) (b : Bool) (f : Hst → Hst) : (s.updHst b f).hst b = f (s.hst b) := by
  simp only [Blocks.wf, Bool.and_eq_true] at h
  exact Sparse.get_set_same _ _ _ _ h.1.1.1.1.1.2

/-- The other host port reads as before; this holds in every state. -/
@[simp] theorem State.hst_updHst_ne (b c : Bool) (f : Hst → Hst) (h : c ≠ b) : (s.updHst b f).hst c = s.hst c := by
  refine Sparse.get_set_ne _ _ _ _ _ ?_
  cases b <;> cases c <;> simp_all [portIdx]

end Sys2Proof.Machine
end

