-- ==== Sys2Proof/Machine/Views.lean ====
section
/-! DEFINITION. What a read of each register returns (R8, R394-R398, R401-R405 and the field tables), through PF0, a VF or the
MGC. The table of commands has no row for a register read; its one effect is the latch of R283 (log 16). -/

namespace Sys2Proof.Machine

/-- One bit of a register value. -/
def flagAt (b : Bool) (i : Nat) : Nat := if b then 2 ^ i else 0

/-- KEY_STATE codes (Table 10.7). -/
def KeyState.code : KeyState → Nat
  | .free => 0 | .active => 1 | .draining => 2 | .retired => 3

/-- IDLE, BUSY, DONE. -/
def RunState.code : RunState → Nat
  | .idle => 0 | .busy => 1 | .done => 2

/-- The bits of a mask that a viewer sees: a VF of partition p only its own. -/
def viewMask (who : Option Nat) (m : BitVec 8) : Nat := match who with | none => m.toNat | some p => m.toNat &&& 2 ^ p

/-! ### The common header (Tables 18.4, 18.5) -/

/-- CAPS.OWNABLE (R398). -/
def ownable (c : PageClass) (i : Nat) : Bool :=
  match c with
  | .prt | .jnl | .bas | .upd | .pool | .core | .vec | .spd | .eng => true
  | .mce => decide (i < 8) | .wei => decide (40 ≤ i) | _ => false

/-- The block of a page holds no work and takes none: STATUS.QUIESCED. -/
def State.quiesced (s : State) (n : Nat) : Bool := !s.takes n && !s.pendingWork n

/-- STATUS.HUNG: of a PRT page, the OR of R352. -/
def State.hungBit (s : State) (n : Nat) : Bool :=
  match pageClass n with | some (.prt, p) => s.prtHung p | _ => (s.hdr n).hung

/-- A header register of page n. -/
def State.readHeader (s : State) (c : PageClass) (i n off : Nat) : Nat :=
  let h := s.hdr n
  match off with
  | 0x000 => i + 65536 * c.code
  | 0x004 => 1
  | 0x008 => flagAt (decide (c = .wei)) 0 + flagAt (hasWatchdog n) 1 + flagAt (ownable c i) 2 + flagAt s.dev.injectEnabled 3
  | 0x00C => match s.pageOwner n with | some p => p + 16 + 256 * (s.prt p).epoch.toNat | none => 0
  | 0x010 => flagAt h.enable 0 + flagAt h.quiesce 1
  | 0x014 => flagAt (s.pendingWork n) 0 + flagAt (s.quiesced n) 1 + flagAt (s.hungBit n) 2 + flagAt h.suspect 3
      + flagAt (decide (s.dev.state = .drained)) 4
  | 0x018 => h.errStatus.toNat
  | 0x01C => h.errMask.toNat
  | 0x020 => h.errFirst.toNat + flagAt h.errFirstValid 31
  | 0x024 => h.errInfo.toNat
  | 0x028 => h.ce.toNat
  | 0x02C => h.ue.toNat
  | 0x030 => h.injectBit.toNat
  | 0x034 => h.progress.toNat
  | 0x038 => h.watchWindow.toNat
  | 0x03C => flagAt (s.pendingWork n) 0 + flagAt h.expired 1 + 65536 * h.expireCount.toNat
  | _ => 0

/-! ### Device, management and security pages -/

/-- DEV.TICK_CAL.PERIOD of a block: what the calibration recorded (R382); 0 before it. -/
def State.tickPeriod (s : State) (n : Nat) : Nat :=
  let t := (s.hdr n).tickPeriod.toNat
  if t = 0 ∧ 9 ≤ s.mgc.startStep.toNat then 10000 else t

/-- DEV registers (Tables 17.11, 18.8, 14.5); through a VF the period of another's block reads 0. -/
def State.readDev (s : State) (who : Option Nat) (off : Nat) : Nat :=
  let d := s.dev
  match off with
  | 0x080 => 0x4160
  | 0x084 => 0xA1
  | 0x088 => d.ropePos.toNat + 16 * d.bootSel.toNat
  | 0x08C => d.state.code
  | 0x090 => d.vcore + flagAt d.capped 10 + flagAt d.thermal 11 + 4096 * d.rateLimit.toNat + 65536 * d.target + flagAt d.capUnmet 26
  | 0x094 => d.cap + 65536 * d.measured.toNat
  | 0x098 =>
    let n := d.tickCalPage.toNat
    let shown := (pageClass n).isSome && (match who with | none => true | some p => decide (s.pageOwner n = some p))
    n + 65536 * (if shown then s.tickPeriod n else 0)
  | 0x09C => d.laserIn.toNat + 256 * d.laserEnabled.toNat + 65536 * d.laserBackup.toNat + 2 ^ 20 * d.laserLost.toNat
      + 2 ^ 24 * d.laserSwitches.toNat
  | 0x0A0 => s.fuseSummary
  | 0x0A4 => s.debugState
  | _ => 0

/-- MGC registers (Table 18.8). -/
def State.readMgc (s : State) (off : Nat) : Nat :=
  match off with
  | 0x080 => s.mgc.startStep.toNat + flagAt s.mgc.recovery 4
  | 0x084 => sumNat ((List.range 8).map (fun k => (s.unitOwner k).getD 15 * 16 ^ k))
  | 0x088 => s.hostMask false + 256 * s.hostMask true
  | 0x08C => s.mgc.layoutCount.toNat
  | _ => 0

/-- SEC registers (Table 18.8). -/
def State.readSec (s : State) (off : Nat) : Nat :=
  match off with
  | 0x080 => flagAt s.sec.entropyOk 0 + flagAt s.sec.staging.isSome 1
  | 0x084 => match s.sec.staging with | some g => g.written | none => 0
  | _ => 0

/-- ATT registers (Table 18.8). -/
def State.readAtt (s : State) (off : Nat) : Nat :=
  if off = 0x080 then s.sec.reportCount.toNat
  else if 0x084 ≤ off ∧ off ≤ 0x090 then fieldLe s.sec.bootId (off - 0x084) 4 else 0

/-- HLT registers (Tables 15.7, 16.10). -/
def Hlt.read (h : Hlt) (off : Nat) : Nat :=
  match off with
  | 0x080 => h.risk.toNat
  | 0x084 => h.weights0.toNat
  | 0x088 => h.weights1.toNat
  | 0x08C => h.decay.toNat + 256 * h.period.toNat
  | 0x090 => h.belayThresh.toNat
  | 0x094 => h.drainThresh.toNat
  | 0x098 => h.cperHead.toNat
  | 0x09C => h.cperTail.toNat + flagAt h.overrun 16
  | 0x0A0 => flagAt h.patrolEn 0 + flagAt h.patternsEn 1 + 256 * h.patterns.length
  | 0x0A4 => h.patrolFail.toNat + 65536 * h.lastEngine.toNat
  | _ => 0

/-! ### Partition pages -/

/-- The registers of a queue (Table 12.7). -/
def Queue.read (q : Queue) (off : Nat) : Nat :=
  match off with
  | 0 => q.baseLo.toNat
  | 4 => q.baseHi.toNat
  | 8 => q.log2.toNat + flagAt q.loc 8 + flagAt q.port 9 + flagAt q.enable 16
  | _ => q.head + flagAt q.err 16 + flagAt q.slotWait 17 + flagAt q.acceptWait 18

/-- A half of a base register: the value in effect (R403). -/
def Base.half (b : Base) (hi : Bool) : Nat := if hi then b.addr.toNat / 2 ^ 32 else b.addr.toNat % 2 ^ 32

/-- The reset and teardown registers, BELAY and RESTORE registers (Tables 13.9, 16.10). -/
def Prt.readRecovery (v : Prt) (off : Nat) : Nat :=
  let c := v.belayCfg
  match off with
  | 0x200 => 65536 * v.ctxReset.code + flagAt v.ctxByMgc 18
  | 0x204 => 65536 * v.prtReset.code + flagAt v.prtByMgc 18
  | 0x20C => v.teardown.code + flagAt v.teardownParty 2
  | 0x210 => flagAt c.riskEn 0 + 2 * c.riskTarget.toNat + flagAt c.drainEn 3 + 16 * c.drainTarget.toNat + 256 * c.peer.toNat
      + 65536 * c.excludeFrom.toNat
  | 0x214 => c.riskH.toNat + 65536 * c.drainH.toNat
  | 0x218 => c.rxH.toNat + 65536 * c.rxFrom.toNat + flagAt c.rxEn 20 + flagAt c.rxNewest 21
  | 0x21C => flagAt (v.riskPending && c.riskEn) 0 + flagAt v.belayLastOk 1 + 256 * v.belayCount.toNat
  | 0x220 => v.restoreState.toNat + flagAt v.frozenMismatch 3
  | _ => 0

/-- PRT registers of partition p. -/
def State.readPrt (s : State) (p off : Nat) : Nat :=
  let v := s.prt p
  if off = 0x080 then p + 8 * v.log2Units + flagAt v.h0 5 + flagAt v.h1 6 + flagAt v.compat 8
  else if off = 0x084 then v.state.code
  else if off = 0x088 then v.epoch.toNat
  else if off = 0x08C then v.ctxId p
  else if off = 0x090 then flagAt v.paceEn 0 + flagAt v.paceRequired 1
  else if off = 0x094 then flagAt (v.paceEn && !s.dev.paceBroken) 0 + flagAt s.dev.paceBroken 1
  else if off = 0x098 then s.dev.eventKind.toNat + 256 * s.dev.eventSeq.toNat
  else if off = 0x09C then flagAt v.scope 0 + 256 * v.hangGrace.toNat
  else if 0x0A0 ≤ off ∧ off < 0x0E0 then (v.queue ((off - 0x0A0) / 4)).tail
  else if off = 0x0E0 then v.tt.half false
  else if off = 0x0E4 then v.tt.half true
  else if off = 0x0E8 then v.ttKey.toNat + 256 * v.ttEntries
  else if off = 0x0EC then v.fmtKey.toNat + 256 * v.fmtEntries
  else if off = 0x0F0 then v.fmt.half false
  else if off = 0x0F4 then v.fmt.half true
  else if 0x100 ≤ off ∧ off < 0x200 then (v.queue ((off - 0x100) / 16)).read (off % 16)
  else if off = 0x224 then v.stage.half false
  else if off = 0x228 then v.stage.half true
  else if off = 0x22C then v.stagePages
  else if 0x300 ≤ off ∧ off < 0x400 then
    let l := Sparse.get Lend.zero v.lend ((off - 0x300) / 16)
    match off % 16 with
    | 0 => l.base.half false
    | 4 => l.base.half true
    | 8 => l.pages.toNat
    | _ => flagAt l.valid 0 + flagAt l.port 1
  else if 0x400 ≤ off ∧ off < 0x480 then
    let w := v.win ((off - 0x400) / 8)
    if off % 8 = 0 then w.handle.toNat + flagAt w.en 16 else w.page.toNat
  else v.readRecovery off

/-- JNL registers (Table 12.7): the _HI registers are the latched ones (R283). -/
def Prt.readJnl (v : Prt) (off : Nat) : Nat :=
  if off = 0x080 then v.jnlHead % 2 ^ 32
  else if off = 0x084 then v.jnlHeadHi.toNat
  else if off = 0x088 then v.jnlOldest % 2 ^ 32
  else if off = 0x08C then v.jnlOldestHi.toNat
  else if off = 0x090 then v.jnlWindowSeq.toNat
  else if off = 0x094 then flagAt v.readDone 0
  else if 0x100 ≤ off ∧ off < 0x140 then fieldLe v.jnlWindow (off - 0x100) 4
  else 0

/-- The latch of a read of JNL_HEAD or JNL_OLDEST (R283). -/
def Prt.latchJnl (v : Prt) (off : Nat) : Prt :=
  if off = 0x080 then { v with jnlHeadHi := BitVec.ofNat 32 (v.jnlHead / 2 ^ 32) }
  else if off = 0x088 then { v with jnlOldestHi := BitVec.ofNat 32 (v.jnlOldest / 2 ^ 32) } else v

/-! ### Ports -/

/-- An early count: of every function of the port, or of the viewer (Table 12.7). -/
def earlyCount (who : Option Nat) (m : Sparse Nat) : Nat :=
  match who with | none => min 0xFFFFFFFF (sumNat (m.map (·.2))) | some p => Sparse.get 0 m p

/-- HST registers (Table 12.7). -/
def Hst.read (h : Hst) (who : Option Nat) (off : Nat) : Nat :=
  match off with
  | 0x080 => h.link.code + 4 * h.speed.toNat + 64 * h.width.toNat + flagAt h.flit 10 + 65536 * h.downCount.toNat
  | 0x084 => viewMask who h.ideActive + 256 * viewMask who h.ideFailed
  | 0x088 => sumNat ((List.range 8).map (fun v =>
      if who.isNone || who = some v then (h.tdi v).code * 4 ^ v else 0))
  | 0x090 => earlyCount who h.rdEarly
  | 0x094 => earlyCount who h.wrEarly
  | _ => 0

/-- The virtual channel of association a (R248). -/
def Lnk.vcOf (l : Lnk) (a : Nat) : Nat := if a = 8 then 8 else (l.sa a).peerPart.toNat

/-- LNK registers of port i (Table 11.8, R262): a VF sees its own association. -/
def State.readLnk (s : State) (who : Option Nat) (i off : Nat) : Nat :=
  let l := s.lnk i
  let a := who.getD l.saSel.toNat
  let x := l.sa a
  match off with
  | 0x080 => l.state.code + 256 * l.retrains.toNat
  | 0x084 => l.peerPos.toNat + flagAt l.peerValid 4 + 65536 * l.peerIdTag.toNat
  | 0x088 => (if i < 15 then 0 else if i < 23 then 1 else 2)
      + (if i = 23 then 256 * l.takeover.toNat + flagAt l.takeoverEn 13 else 0)
  | 0x08C => l.lambdaActive.toNat + 256 * l.lambdaDisable.toNat
  | 0x090 => l.replayCount.toNat
  | 0x094 => l.fecCorr.toNat
  | 0x098 => l.fecUncorr.toNat
  | 0x0A0 => a
  | 0x0A4 => 256 * x.ctrl.toNat
  | 0x0A8 => x.state.code + 8 * (if x.state = .failed then x.cause.toNat else 0) + 256 * x.gen.toNat
      + 65536 * (if x.serves then x.peerCtx.toNat else 0)
  | 0x0C0 => (l.vc (l.vcOf a)).credits + flagAt (l.vc (l.vcOf a)).waitReset 16
  | _ => 0

/-! ### Memory, update and core pages -/

/-- LINK and LINK_VALID of a slot: its successor, or its DRAINING predecessor (Table 10.7). -/
def Mce.link (e : Mce) (k : Nat) : Option Nat :=
  let x := e.slot k
  if x.state = .draining then x.succ
  else if x.state = .active then
    (List.range 64).find? (fun j => (e.slot j).state = .draining ∧ (e.slot j).succ = some k)
  else none

/-- A VF of partition p sees the slot that KEY_SEL names: in MCE8 and MCE9 one of slots 8p to 8p + 7 (Table 18.3). -/
def Mce.showsSlot (e : Mce) (who : Option Nat) (m : Nat) : Bool :=
  match who with | some p => decide (m < 8 ∨ e.selSlot.toNat / 8 = p) | none => true

/-- MCE registers (Table 10.7, R235). -/
def State.readMce (s : State) (who : Option Nat) (m off : Nat) : Nat :=
  let e := s.mce m
  let k := e.selSlot.toNat
  let x := e.slot k
  if !e.showsSlot who m then 0 else match off with
  | 0x080 => k + 256 * e.selSucc.toNat + flagAt e.selSuccEn 14 + 65536 * e.selHandle.toNat
  | 0x088 => x.state.code + flagAt x.loaded 2 + flagAt x.sweepDone 3 + flagAt e.cmdErr 4
      + (match e.link k with | some j => 256 * j + 2 ^ 14 | none => 0)
  | 0x08C => s.keyInflight m k
  | 0x090 => e.tagFail.toNat
  | 0x094 => e.poisonCount.toNat
  | 0x098 => flagAt (!e.lost.isEmpty) 0 + flagAt (!e.lost.isEmpty) 1 + flagAt e.groupLost 2 + 8 * (match e.lost.head? with | some x => x.1 | none => 0)
      + 256 * e.lossCount.toNat
  | 0x09C => x.sweepLine / 32
  | 0x0A0 => match e.lost.head? with | some x => x.2 | none => 0
  | _ => 0

/-- BAS registers (Table 18.10). -/
def Bas.read (b : Bas) (off : Nat) : Nat :=
  match off with
  | 0x080 => b.state.toNat
  | 0x084 => b.scrubLine / 32 + 2 ^ 28 * b.scrubPasses.toNat
  | _ => 0

/-- UPDATEs in progress on a die (Table 8.15). -/
def State.updatesOn (s : State) (k : Nat) : Nat :=
  match s.unitOwner k with
  | some p => ((s.prt p).ops.filter (fun o => decide (dOp o.desc = 0x40) && !o.done && s.begunOn p o k)).length
  | none => 0

/-- UPD registers (Tables 8.14, 8.15, 18.10); some are meaningful only in the lowest-numbered die (R405). -/
def State.readUpd (s : State) (k off : Nat) : Nat :=
  let u := s.upd k
  let low := match s.unitOwner k with | some p => decide (s.firstUnit p = k) | none => false
  match off with
  | 0x080 => flagAt u.codePermit 0 + flagAt u.coresInService 1
  | 0x084 => (if s.quiesced (pageUpd k) ∧ u.state = 0#4 then 6 else u.state.toNat) + 16 * s.updatesOn k + 256 * u.trapCause.toNat
  | 0x088 => if low then (match s.unitOwner k with | some p => (s.prt p).versions.length | none => 0) else 0
  | 0x08C => u.frozenSkips.toNat
  | 0x090 => flagAt u.strict 0
  | 0x094 => if low then u.digest.toNat % 2 ^ 32 else 0
  | 0x098 => if low then u.digest.toNat / 2 ^ 32 else 0
  | 0x09C => if low then u.digestStep.toNat else 0
  | 0x0A0 => u.progHandle.toNat + 65536 * u.progSteps.toNat
  | _ => 0

/-- WEI_CAPACITY (Table 13.6). -/
def State.weirCapacity (s : State) (w : Nat) : Nat :=
  if w < 24 then (if (s.lnk w).state = .degraded then 384 else 768)
  else if w < 37 then s.sharedCapacity w
  else if w < 40 then 0
  else (if (s.weir w).sel = 4#4 then 512 else 23400) * (s.partUnits (w - 40)).length

/-- WEI registers, the budget included (Table 13.6): a VF reads a shared weir at its own index. -/
def State.readWei (s : State) (who : Option Nat) (w off : Nat) : Nat :=
  if 37 ≤ w ∧ w < 40 then 0
  else
    let v := s.weir w
    let a := match who with | some p => if w < 37 then p else v.sel.toNat | none => v.sel.toNat
    let x := Sparse.get Alloc.zero v.allocs a
    match off with
    | 0x040 => v.nextPeriod
    | 0x044 => x.next
    | 0x048 => x.usedLast.toNat
    | 0x04C => x.denied.toNat
    | 0x080 => a
    | 0x084 => if 40 ≤ w then flagAt v.lend 0 else 0
    | 0x088 => s.weirCapacity w
    | _ => 0

/-- ENG registers (Table 18.11). -/
def State.readEng (s : State) (c e off : Nat) : Nat :=
  let v := s.eng c e
  match off with
  | 0x080 => if s.quiesced (pageEng c e) ∧ v.state = 0#4 then 6 else v.state.toNat
  | 0x084 => flagAt v.wide 0 + 2 * v.format.toNat
  | 0x088 => flagAt v.bankSel 0
  | 0x08C => v.pitchCount.toNat
  | 0x090 => v.tileFlags.toNat
  | 0x094 => v.zeroGated.toNat
  | 0x098 => v.residueFail.toNat
  | _ => 0

/-- CORE_STATE (Table 18.10). -/
def State.readCore (s : State) (c : Nat) : Nat :=
  sumNat ((List.range 16).map (fun e => flagAt (s.hdr (pageEng c e)).suspect e))
    + (match s.unitOwner (c / 32) with | some p => 65536 * (c - 32 * s.firstUnit p) + 2 ^ 24 | none => 0)

/-- A block-specific register of a page. -/
def State.readBlock (s : State) (who : Option Nat) (c : PageClass) (i off : Nat) : Nat :=
  match c with
  | .dev => s.readDev who off
  | .mgc => s.readMgc off
  | .sec => s.readSec off
  | .att => s.readAtt off
  | .hlt => s.hlt.read off
  | .prt => s.readPrt i off
  | .jnl => (s.prt i).readJnl off
  | .hst => (s.hst (decide (i = 1))).read who off
  | .lnk => s.readLnk who i off
  | .bas => (s.bas i).read off
  | .mce => s.readMce who i off
  | .upd => s.readUpd i off
  | .wei => s.readWei who i off
  | .fld => if off = 0x080 then (Sparse.get 0#12 s.temps i).toNat else if off = 0x084 then (Sparse.get 0#32 s.droops i).toNat else 0
  | .pool => if off = 0x080 then (Sparse.get 0#2 s.poolState i).toNat else if off = 0x084 then (Sparse.get 0#32 s.poolPasses i).toNat else 0
  | .core => if off = 0x080 then s.readCore i else 0
  | .vec =>
    if off = 0x080 then (if s.quiesced (pageVec i) ∧ Sparse.get 0#3 s.vecState i = 0#3 then 4 else (Sparse.get 0#3 s.vecState i).toNat)
    else if off = 0x084 then (Sparse.get 0#32 s.vecFails i).toNat else 0
  | .spd =>
    if off = 0x080 then min 128 (s.spdDir.filter (fun x => x.1 / 128 = i)).length
    else if off = 0x084 then (Sparse.get 0#32 s.grantWaits i).toNat else 0
  | .eng => s.readEng (i / 16) (i % 16) off

/-- A register of page n as a viewer that reaches it reads it; an unassigned offset reads 0 (R394). -/
def State.readPage (s : State) (who : Option Nat) (n off : Nat) : Reg :=
  match pageClass n with
  | none => 0#32
  | some (c, i) => BitVec.ofNat 32 (
      if 0x040 ≤ off ∧ off < 0x080 ∧ c ≠ .wei then 0
      else if off < 0x040 then s.readHeader c i n off else s.readBlock who c i off)

/-- The registers of a partition with a party that are closed to PF0 (R265). -/
def State.pf0Hides (s : State) (n off : Nat) : Bool :=
  match pageClass n with
  | some (.prt, p) => (s.prt p).holdsParty &&
      decide ((0x0A0 ≤ off ∧ off < 0x0E0) ∨ (0x100 ≤ off ∧ off < 0x200) ∨ (0x300 ≤ off ∧ off < 0x400))
  | some (.jnl, p) => (s.prt p).holdsParty && decide (0x100 ≤ off ∧ off < 0x140)
  | _ => false

/-- The 32 bytes of a completion slot (Table 12.3). -/
def CSlot.bytes (c : CSlot) : List Byte :=
  let st := match c.state with | .free => 0 | .busy => 1 | .done => 2
  leBytes 4 c.gen.toNat ++ [c.status] ++ leBytes 1 st ++ leBytes 2 c.flags.toNat ++ leBytes 8 c.jseq ++ leBytes 8 c.user.toNat
    ++ zeros 8

/-- The 32-bit word of a completion slot at an offset. -/
def CSlot.word (c : CSlot) (off : Nat) : Reg := BitVec.ofNat 32 (fieldLe c.bytes off 4)

/-- A read of the completion slot region through a VF, of `size` bytes within one aligned slot (R277): as the slot stands at
one moment. None: Unsupported Request, or no link. -/
def State.readSlot (s : State) (port : Bool) (p : Nat) (secured : Bool) (offset size : Nat) : Option (List Byte) :=
  if (s.hst port).link ≠ .up ∨ !s.vfServed port p secured ∨ offset < 0x800000 ∨ 0x820000 ≤ offset
    ∨ 32 < offset % 32 + size then none
  else some (sliceBytes ((s.prt p).slot ((offset - 0x800000) / 32)).bytes (offset % 32) size)

/-- A read of offset `off` of page n through a function: its value, and the state after the latch of R283. -/
def State.readThrough (s : State) (who : Option Nat) (n off : Nat) : Reg × State :=
  (s.readPage who n off, match pageClass n with
    | some (.jnl, p) => s.updPrt p (fun v => v.latchJnl off)
    | _ => s)

/-- A read of a register (R6, R394-R397): any size or alignment but an aligned 32-bit one returns 0. None: Unsupported
Request, or no link. -/
def State.readReg (s : State) (via : Via) (offset size : Nat) : Option (Reg × State) :=
  match via with
  | .mgc => some (if size ≠ 4 ∨ offset % 4 ≠ 0 then (0#32, s) else s.readThrough none (offset / 4096) (offset % 4096))
  | .pf0 port =>
    if (s.hst port).link ≠ .up then none
    else some (if size ≠ 4 ∨ offset % 4 ≠ 0 ∨ s.pf0Hides (offset / 4096) (offset % 4096) then (0#32, s)
      else s.readThrough none (offset / 4096) (offset % 4096))
  | .vf port p secured =>
    if (s.hst port).link ≠ .up ∨ !s.vfServed port p secured then none
    else some (
      if size ≠ 4 ∨ offset % 4 ≠ 0 then (0#32, s)
      else if offset < 0x800000 then
        (if s.sees port p (offset / 4096) (offset % 4096) ∧ (pageClass (offset / 4096)).isSome then s.readThrough (some p) (offset / 4096) (offset % 4096) else (0#32, s))
      else if offset < 0x820000 then (((s.prt p).slot ((offset - 0x800000) / 32)).word (offset % 32), s)
      else match s.engineView p offset with
        | some x => (s.readPage (some p) x.1 x.2, s)
        | none => (0#32, s))

/-! ### What a host port's configuration space says (Table 12.1) -/

/-- The figures of Table 12.1. -/
structure PcieFeatures where
  totalVfs : Nat
  numVfs : Nat
  maxPayload : Nat
  maxReadRequest : Nat
  tags : Nat
  vectors : Nat
deriving DecidableEq, Repr

/-- Both host ports have the figures of Table 12.1 (R263). -/
def pcieFeatures : PcieFeatures :=
  { totalVfs := 8, numVfs := 8, maxPayload := 512, maxReadRequest := 4096, tags := portTags, vectors := 64 }

/-- A configuration request to function `fn` (0 is PF0): every function answers, a VF whose partition is not assigned to the
port too (R266). None: no such function, or no link. -/
def State.configAnswer (s : State) (port : Bool) (fn : Nat) : Option PcieFeatures :=
  if (s.hst port).link = .up ∧ fn ≤ pcieFeatures.totalVfs then some pcieFeatures else none

end Sys2Proof.Machine
end

