-- ==== Sys2Proof/WellFormed.lean ====
section
/-! DEFINITION. Which commands are well formed: every operand lies in the range the spec gives it. -/

namespace Sys2Proof

/-- The sender of an access names one of the eight VFs (R263). -/
def Via.wf : Via → Bool
  | .mgc => true
  | .pf0 _ => true
  | .vf _ part _ => decide (part < 8)

/-- A lend entry is one of sixteen (R202). -/
def BaseReg.wf : BaseReg → Bool
  | .lend n => decide (n < 16)
  | _ => true

/-- A layout names units, partitions, masks and weirs in range (R290, Table 13.3). -/
def Layout.wf (l : Layout) : Bool :=
  l.parts.all (fun x => decide (x.part < 8 ∧ x.log2Units < 4)) && decide (l.masks.length = 24)
    && l.weirs.all (fun w => decide (w.weir < 48 ∧ w.allocs.length ≤ 9))

/-- The well-formedness of a command: its operands name units, ports, slots, lines and lengths that exist. What a message or
a register write carries is not restricted here: the block answers it, or ignores it, by its own rules. -/
def wellFormed : Instr → Bool
  | .doorbellWrite via p n _ => via.wf && decide (p < 8) && decide (n < 16)
  | .queueEnable via p n _ => via.wf && decide (p < 8) && decide (n < 16)
  | .queueDisable via p n _ => via.wf && decide (p < 8) && decide (n < 16)
  | .acceptDescriptor p _ => decide (p < 8)
  | .operationStart p _ => decide (p < 8)
  | .slotTokenGrant p _ _ _ => decide (p < 8)
  | .matmul p _ => decide (p < 8)
  | .anchorScanWrite p _ => decide (p < 8)
  | .anchorScanMax p _ => decide (p < 8)
  | .adapterPass p _ variant => decide (p < 8) && decide (variant < 65536)
  | .anchorScanPhase p _ core => decide (p < 8) && decide (core < 256)
  | .anchorAgree p _ => decide (p < 8)
  | .stationaryLoad p _ core team _ _ _ => decide (p < 8) && decide (core < 256) && team.all (· < 16)
  | .swap core engine => decide (core < 256) && decide (engine < 16)
  | .cellStep core engine k n _ _ => decide (core < 256) && decide (engine < 16) && decide (k < 64) && decide (n < 64)
  | .footAddition core engine column _ => decide (core < 256) && decide (engine < 16) && decide (column < 256)
  | .writeBack core engine _ _ => decide (core < 256) && decide (engine < 16)
  | .pitchRetry core engine _ _ => decide (core < 256) && decide (engine < 16)
  | .confluenceMerge p _ core _ _ _ => decide (p < 8) && decide (core < 256)
  | .outputConversion p _ _ mismatches => decide (p < 8) && decide (mismatches ≤ 2)
  | .operationComplete p _ => decide (p < 8)
  | .vecCopy p _ => decide (p < 8)
  | .vecAdd p _ => decide (p < 8)
  | .vecSub p _ => decide (p < 8)
  | .vecMul p _ => decide (p < 8)
  | .vecFma p _ => decide (p < 8)
  | .vecMax p _ => decide (p < 8)
  | .vecMin p _ => decide (p < 8)
  | .vecAbs p _ => decide (p < 8)
  | .vecScale2 p _ => decide (p < 8)
  | .vecExp p _ fails => decide (p < 8) && fails.all (fun q => decide (fails.count q ≤ 2))
  | .vecLog p _ fails => decide (p < 8) && fails.all (fun q => decide (fails.count q ≤ 2))
  | .vecRsqrt p _ => decide (p < 8)
  | .vecSigmoid p _ fails => decide (p < 8) && fails.all (fun q => decide (fails.count q ≤ 2))
  | .vecTanh p _ fails => decide (p < 8) && fails.all (fun q => decide (fails.count q ≤ 2))
  | .vecSoftmax p _ => decide (p < 8)
  | .vecNorm p _ => decide (p < 8)
  | .vecRowsum p _ => decide (p < 8)
  | .vecRowmax p _ => decide (p < 8)
  | .vecProgram p _ => decide (p < 8)
  | .softmaxBwd p _ => decide (p < 8)
  | .normBwd p _ => decide (p < 8)
  | .reduce p _ => decide (p < 8)
  | .histRead p _ => decide (p < 8)
  | .readClear p _ => decide (p < 8)
  | .histInit p _ => decide (p < 8)
  | .rngFillBits p _ => decide (p < 8)
  | .rngFillUniform p _ => decide (p < 8)
  | .rngFillBernoulli p _ => decide (p < 8)
  | .allReduce p _ => decide (p < 8)
  | .reduceScatter p _ => decide (p < 8)
  | .allGather p _ => decide (p < 8)
  | .broadcast p _ => decide (p < 8)
  | .stagingCopy p _ => decide (p < 8)
  | .stepCommit p _ => decide (p < 8)
  | .move p _ => decide (p < 8)
  | .offload p _ => decide (p < 8)
  | .prefetch p _ => decide (p < 8)
  | .updateElement p _ => decide (p < 8)
  | .updatePrecond p _ => decide (p < 8)
  | .updateChunk p _ _ => decide (p < 8)
  | .chunkRerun die _ => decide (die < 8)
  | .versionRelease p _ => decide (p < 8)
  | .digestTensor p _ => decide (p < 8)
  | .digestReplica p _ => decide (p < 8)
  | .belayLocal p _ => decide (p < 8)
  | .belayPeer p _ => decide (p < 8)
  | .belayHost p _ => decide (p < 8)
  | .belaySeal p _ => decide (p < 8)
  | .riskBelayInsert p => decide (p < 8)
  | .restore p _ => decide (p < 8)
  | .restorePeer p _ _ _ => decide (p < 8)
  | .fenceQueue p _ => decide (p < 8)
  | .fencePartition p _ => decide (p < 8)
  | .slotRelease via p slot _ => via.wf && decide (p < 8) && decide (slot < 4096)
  | .jnlWindowWrite via p _ => via.wf && decide (p < 8)
  | .readDone via p _ => via.wf && decide (p < 8)
  | .journalClearTimeout p => decide (p < 8)
  | .windowRead via p _ len => via.wf && decide (p < 8) && decide (len ≤ 4096)  -- Table 12.1: read request
  | .windowWrite via p _ bytes => via.wf && decide (p < 8) && decide (bytes.length ≤ 512)  -- Table 12.1: payload
  | .winHandleWrite via p n _ => via.wf && decide (p < 8) && decide (n < 16)
  | .baseLoWrite via p reg _ => via.wf && decide (p < 8) && reg.wf
  | .baseHiWrite via p reg _ => via.wf && decide (p < 8) && reg.wf
  | .contextTeardown via p => via.wf && decide (p < 8)
  | .partyTeardown via p => via.wf && decide (p < 8)
  | .contextReset via p _ => via.wf && decide (p < 8)
  | .partitionReset via p => via.wf && decide (p < 8)
  | .keySelWrite via m _ => via.wf && decide (m < 10)
  | .keyLoad via m => via.wf && decide (m < 10)
  | .keyActivate via m => via.wf && decide (m < 10)
  | .keyDrain via m => via.wf && decide (m < 10)
  | .keyRetire via m => via.wf && decide (m < 10)
  | .sweepStep m slot _ => decide (m < 10) && decide (slot < 64)
  | .sweepFlush m slot => decide (m < 10) && decide (slot < 64)
  | .basinRead m line slot _ _ _ => decide (m < 8) && decide (line < 5625000000) && decide (slot < 64)
  | .basinWrite m line slot data => decide (m < 8) && decide (line < 5625000000) && decide (slot < 64) && decide (data.length = 128)
  | .basinPartialWrite m line slot offset data _ => decide (m < 8) && decide (line < 5625000000) && decide (slot < 64) && decide (offset + data.length ≤ 128)
  | .treeEviction m level line => decide (m < 8) && decide (level < 6) && decide (line < 2 ^ 32)
  | .subtreeReinit m => decide (m < 8)
  | .groupRebuild m => decide (m < 8)
  | .scrubStep k _ => decide (k < 8)
  | .lineTest page _ => decide (page < 8192)
  | .poolRead (.pool core) offset _ => decide (core < 256) && decide (offset < 1500000000)
  | .poolRead (.scratchpad core) offset _ => decide (core < 256) && decide (offset < 4194304)
  | .poolRead .store page _ => decide (page < 8192)
  | .poolScrub block => decide (block < 32)
  | .basinRefresh k => decide (k < 8)
  | .hostReadCompletion _ tag data => decide (tag < 768) && (match data with | none => true | some b => decide (b.length = 136))
  | .hostCompletionTimeout _ tag => decide (tag < 768)
  | .hostLinkDown _ => true
  | .hostLinkUp _ speed width _ =>
    decide (1 ≤ speed.toNat ∧ speed.toNat ≤ 6) && decide (width = 4#4 ∨ width = 8#4)
  | .flr _ fn => decide (fn < 9)
  | .stopInterface _ vf => decide (1 ≤ vf ∧ vf ≤ 8)
  | .getTdispVersion _ vf => decide (1 ≤ vf ∧ vf ≤ 8)
  | .getTdispCapabilities _ vf => decide (1 ≤ vf ∧ vf ≤ 8)
  | .lockInterface _ vf => decide (1 ≤ vf ∧ vf ≤ 8)
  | .getDeviceInterfaceReport _ vf => decide (1 ≤ vf ∧ vf ≤ 8)
  | .getDeviceInterfaceState _ vf => decide (1 ≤ vf ∧ vf ≤ 8)
  | .startInterface _ vf => decide (1 ≤ vf ∧ vf ≤ 8)
  | .ideKm _ vf _ key => decide (1 ≤ vf ∧ vf ≤ 8) && decide (key.length = 32)
  | .ideIntegrityFailure _ vf => decide (1 ≤ vf ∧ vf ≤ 8)
  | .getVersion _ => true
  | .getCapabilities _ => true
  | .negotiateAlgorithms _ _ => true
  | .getDigests _ => true
  | .getCertificate _ _ _ _ => true
  | .challenge _ nonce => decide (nonce.length = 32)
  | .getMeasurements _ _ nonce => decide (nonce.length = 32)
  | .keyExchange _ _ _ => true
  | .finish _ _ _ => true
  | .keyUpdate _ _ => true
  | .heartbeat _ _ => true
  | .endSession _ _ => true
  | .vendorDefinedRequest _ _ _ _ => true
  | .mctpControl _ _ => true
  | .pldmBaseCommand _ _ => true
  | .getSensorReading _ _ => true
  | .getStateSensorReadings _ => true
  | .numericEffecterWrite _ _ => true
  | .platformEventMessage _ _ _ => true
  | .getReport p _ => decide (p < 256)
  | .policyLoad p _ => decide (p < 8)
  | .keyRecord p _ => decide (p < 8)
  | .stageBegin _ => true
  | .stageData _ _ => true
  | .stageEnd => true
  | .stageAbort => true
  | .getCper _ => true
  | .patternLoad _ _ => true
  | .layoutChange layout => layout.wf
  | .deviceResetCommand => true
  | .trainLinks => true
  | .takeover via link _ => via.wf && decide (link < 24)
  | .openSa via link _ => via.wf && decide (link < 24)
  | .rekey via link _ => via.wf && decide (link < 24)
  | .closeSa via link _ => via.wf && decide (link < 24)
  | .creditResetReq via link _ => via.wf && decide (link < 24)
  | .pkgPowerCapWrite via _ => via.wf
  | .weirWrite via weir _ _ => via.wf && decide (weir < 48)
  | .cperTailWrite via _ => via.wf
  | .errStatusClear via page _ => via.wf && decide (page < 8192)
  | .errInject via page _ => via.wf && decide (page < 8192)
  | .resetReq via page => via.wf && decide (page < 8192)
  | .registerWrite via _ _ _ => via.wf
  | .keepalive link flit => decide (link < 24) && decide (flit.length = 256)
  | .nak link flit => decide (link < 24) && decide (flit.length = 256)
  | .creditReq link flit => decide (link < 24) && decide (flit.length = 256)
  | .creditReset link flit => decide (link < 24) && decide (flit.length = 256)
  | .saSetup link flit _ => decide (link < 24) && decide (flit.length = 256)
  | .saClose link flit => decide (link < 24) && decide (flit.length = 256)
  | .data link flit => decide (link < 24) && decide (flit.length = 256)
  | .anchor link flit => decide (link < 24) && decide (flit.length = 256)
  | .verdict link flit => decide (link < 24) && decide (flit.length = 256)
  | .retract link flit => decide (link < 24) && decide (flit.length = 256)
  | .resend link flit _ => decide (link < 24) && decide (flit.length = 256)
  | .commit link flit => decide (link < 24) && decide (flit.length = 256)
  | .descCheck link flit => decide (link < 24) && decide (flit.length = 256)
  | .digestFlit link flit => decide (link < 24) && decide (flit.length = 256)
  | .belayFlit link flit => decide (link < 24) && decide (flit.length = 256)
  | .keepaliveSend link => decide (link < 24)
  | .receiveTimeout link => decide (link < 24)
  | .linkLost link => decide (link < 24)
  | .loopbackTest link _ => decide (link < 24)
  | .linkTraining link _ => decide (link < 24)
  | .creditReqTimeout link vc => decide (link < 24) && decide (vc < 9)
  | .laserSwitch pair => decide (pair < 4)
  | .laserPairLost pair => decide (pair < 4)
  | .rstNAssert => true
  | .pwrOkFall => true
  | .startUp _ => true
  | .vin48TurnOff => true
  | .refClockLoss => true
  | .thermalTrip => true
  | .thermalSlowdown field _ => decide (field < 4)
  | .thermalStep _ => true
  | .thermalSlowdownEnd => true
  | .powerCapInterval _ => true
  | .vcoreRaise _ => true
  | .paceBreak => true
  | .paceRestore => true
  | .weirPeriod weir => decide (weir < 48)
  | .watchdogExpiry page => decide (page < 8192)
  | .hangGraceExpiry p _ => decide (p < 8)
  | .contextResetTimeout p => decide (p < 8)
  | .partitionResetTimeout p page => decide (p < 8) && decide (page < 8192)
  | .riskPeriod _ => true
  | .patrolTest core0 core1 core2 engine _ _ _ => decide (core0 < 256) && decide (core1 < 256) && decide (core2 < 256) && decide (engine < 16)
  | .drain _ => true
  | .cperRecord => true
  | .vcoreDroop field => decide (field < 4)
  | .flitCrcOrGcmFail link flit => decide (link < 24) && decide (flit.length = 256)
  | .unlistedFlitType link flit => decide (link < 24) && decide (flit.length = 256)
  | .lightReturns link => decide (link < 24)
  | .basinPhyRetrained p _ => decide (p < 8)
  | .drainBelayTimeout p => decide (p < 8)
  | .entropyHealthTest _ => true
  | .debugAccess => true

end Sys2Proof
end

