-- ==== Sys2Proof/Tests/Slice0.lean ====
section
/-! SUPPORT. Small checks of the model: worked examples of the spec, ill-formed commands that wellFormed refuses, and a
witness for the hypotheses of every statement. -/

namespace Sys2Proof.Tests

set_option Elab.async false

open Sys2Proof Sys2Proof.Machine

/-! ### Small states -/

/-- A descriptor with the named fields: byte offset and value. -/
def desc (fs : List (Nat × Nat)) : Desc := BitVec.ofNat 1024 (fs.foldl (fun a x => a + x.2 * 2 ^ (8 * x.1)) 0)

/-- A tensor-table entry of the context 0x0001 with rank 2: tier, format code, address, columns, rows, and further ATTR bits. -/
def entry (tier fmt addr d0 d1 attr : Nat) : Entry := BitVec.ofNat 512
  (addr + d0 * 2 ^ 192 + d1 * 2 ^ 224 + 2 ^ 256 + 2 ^ 288 + (tier + 8 * fmt + 128 + 2 ^ 15 + attr) * 2 ^ 320 + 2 ^ 368)

/-- A started operation. -/
def opOf (seq : Nat) (d : Desc) (ents : List (Nat × Entry)) : OpRec :=
  { seq := seq, queue := 0, desc := d, ents := ents, phase := .started, done := false, status := stOK, flags := 0#16,
    mask := [], vars := [], compat := false, rngStart := 0, refs := [], destVer := 0, granted := [], scans := [],
    anchor := none, adapters := [], uv := [], pitches := [], tilesDone := [], ordinal := 0, chunks := [], digestW := 0,
    rootFlags := 0#16, blocked := false, held := false, asked := 0, got := 0, inbuf := [], coll := .zero, belay := none,
    internal := false }

/-- A partition of unit 0 with a context of generation 1. -/
def part : Prt := { Prt.reset with h0 := true, state := .active, hasCtx := true, gen := 1#13, ttEntries := 4 }

/-- A READY device: partition 0 holds unit 0, and VF1 of port 0 serves it. -/
def up : State := { State.reset with
  dev := { Dev.reset with state := .ready, railsUp := true }
  mgc := { Mgc.reset with units := [(0, 1)] }
  sec := { Sec.reset with running := true, entropyOk := true }
  prts := [(0, part)]
  hsts := [(0, { Hst.reset with link := .up, tdisp := [(0, .run)], ideActive := 1#8 })] }

/-- `up` with partition 0 changed. -/
def upWith (f : Prt → Prt) : State := up.updPrt 0 f

/-- `up` with operations of partition 0. -/
def upOps (os : List OpRec) : State := upWith (fun v => { v with ops := os })

/-- VF1 of port 0, secured. -/
def vf1 : Via := .vf false 0 true

/-- A VEC COPY in flight from handle 2 to a tensor behind it. -/
def copyOp (a c : Entry) : OpRec := opOf 1 (desc [(0, 0x10), (4, 1), (8, 2), (12, 3)]) [(2, a), (3, c)]

/-- A MATMUL of two one-element LG8 tensors into an FP32 one. -/
def mmDesc : Desc := desc [(0, 1), (4, 1), (6, 7), (8, 2), (10, 3), (12, 4)]
/-- The tensors of `mmDesc`. -/
def mmEnts : List (Nat × Entry) :=
  [(2, entry 0 1 0 1 1 (2 ^ 11)), (3, entry 0 1 64 1 1 (2 ^ 11)), (4, entry 0 3 128 1 1 0)]
/-- The operation. -/
def mmOp : OpRec := opOf 5 mmDesc mmEnts

/-- Engine 0 works on the only load of `mmOp`. -/
def mmEng : Eng := { Eng.zero with state := 3#4, anchor := some 0, footOpen := true, job := some ⟨0, 5, 0, 0, 0, 0, 64, 0⟩ }

/-! ### Witnesses: the queue, the invariants, reset -/

theorem test_StepRunsFront_witness : State.reset.pending = [] := rfl

theorem test_TablesStayCanonical_witness :
    let s := { up with pending := [.doorbellWrite vf1 0 0 7#32] }
    Memory.wf s = true ∧ Blocks.wf s = true ∧ ∃ t, Machine.step s = .next t := ⟨by decide +kernel, by decide +kernel, _, rfl⟩

theorem test_DebugStaysLocked_witness :
    let s := { up with pending := [.debugAccess] }
    DebugLocked s ∧ s.fuses.debugDisabled = true ∧ ∃ t, Machine.step s = .next t :=
  ⟨by intro _; decide +kernel, rfl, _, rfl⟩

theorem test_FusesNeverUnburn_witness : ∃ t, Machine.step { up with pending := [.entropyHealthTest false] } = .next t :=
  ⟨_, rfl⟩

theorem test_SupplyStaysLegal_witness :
    let s := { up with pending := [.powerCapInterval 4600] }
    PowerSane s ∧ ∃ t, Machine.step s = .next t :=
  ⟨by unfold PowerSane legalMillivolts; decide +kernel, _, rfl⟩

theorem test_PlatformFrame_witness : platform (.poolScrub 0) = false ∧ ∃ t, Runs (.poolScrub 0) up t := ⟨rfl, _, rfl⟩

/-- Port 0 is UP and the request of its VF is not secured; port 1 is DOWN. -/
theorem test_UnservedWrites_witness :
    (up.hst false).link = .up ∧ up.vfServed false 0 false = false ∧ (up.hst true).link ≠ .up := by decide +kernel

/-- Every field of a header at its largest value. -/
def lastHdr : FlitHdr :=
  ⟨255, 15, true, true, true, 65535, 255, 4095, 4095, 15, 255, 65535, 255, 2 ^ 24 - 1⟩

theorem test_FlitRoundTrip_witness : FlitHdr.inRange lastHdr ∧ (zeros 224).length = 224 := by
  unfold FlitHdr.inRange; decide +kernel

theorem test_SealedLinesOpen_witness : (zeros 128).length = 128 := by decide +kernel

theorem test_VersionRecordRoundTrip_witness :
    VerRec.inRange ⟨65535, 65535, 2 ^ 32 - 1, 2 ^ 32 - 1, 2 ^ 32 - 1, true, true, true⟩ := by
  unfold VerRec.inRange; decide +kernel

/-! ### Witnesses: queues, slots, journal, windows -/

/-- Partition 0 with queue 0 enabled (64 entries, in the pool) and queue 1 stopped. -/
def upQueue : State := upWith (fun v => { v with queues := [(0, { Queue.zero with log2 := 6#5, loc := true, enable := true })] })

/-- TAIL at the last place and one beyond it; a well-formed and an ill-formed ENABLE; an enabled and a stopped queue. -/
theorem test_QueueRegisters_witness :
    let v := upQueue.prt 0
    upQueue.prtAccess vf1 0 = .serve ∧ (v.queue 0).size = 64 ∧ (63#32).toNat % 65536 < (v.queue 0).size
      ∧ (v.queue 0).size ≤ (64#32).toNat % 65536 ∧ (v.queue 0).enable = true ∧ (v.queue 1).enable = false
      ∧ v.queueFormed ((v.queue 1).sized (0x106#32 ||| 0x10000#32)) = true
      ∧ v.queueFormed ((v.queue 1).sized (1#32 ||| 0x10000#32)) = false := by decide +kernel

/-- Slot 4095 is DONE with GEN 5: a matching write, a write of another value, a write beyond the slots. -/
theorem test_SlotRelease_witness :
    let s := upWith (fun v => { v with slots := [(4095, ⟨5#32, stOK, .done, 0#16, 1, 0#64⟩)] })
    s.prtAccess vf1 0 = .serve ∧ Blocks.wf s = true ∧ ((s.prt 0).slot 4095).state = .done ∧ ((s.prt 0).slot 4095).gen = 5#32
      ∧ ¬ (4095 < 4096 ∧ ((s.prt 0).slot 4095).state = .done ∧ ((s.prt 0).slot 4095).gen = 6#32)
      ∧ ¬ (4096 < 4096 ∧ ((s.prt 0).slot 4096).state = .done ∧ ((s.prt 0).slot 4096).gen = 0#32) := by decide +kernel

/-- The newest entry of a journal, which also waits to be read; and a partition that waits for nothing. -/
theorem test_JournalWindow_witness :
    let e := leBytes 64 9
    let s := upWith (fun v => { v with jnl := [(9, e)], jnlHead := 9, clearing := true })
    s.prtAccess vf1 0 = .serve ∧ vf1 ≠ .mgc ∧ (s.prt 0).jnlEntry 9 = some e ∧ 9 ≤ (s.prt 0).jnlHead ∧ (s.prt 0).jnlHead < 9 + 2 ^ 32
      ∧ Blocks.wf s = true ∧ (s.prt 0).clearing = true ∧ (up.prt 0).clearing = false ∧ up.prtAccess vf1 0 = .serve
      ∧ Blocks.wf up = true := by decide +kernel

/-- A partition with a live key in slot 0 and a tensor table of four entries, of which handle 2 is a RAW pool tensor of 8,192
bytes, granted to tenant 1, whom windows serve; no weir has counted yet. -/
def upTable : State :=
  let s := { upWith (fun v => { v with party := some { Party.fresh (zeros 9 ++ [1#8] ++ zeros 550 ++ [2#8, 0#8, 1#8, 0#8]) 1 with seed := some (zeros 32) } }) with
    mces := [(0, { Mce.reset with slots := [(0, { KeySlot.zero with state := .active, loaded := true, key := zeros 16 })] })] }
  { (s.storeRun 0 [] (s.prt 0).ttPlace 128 ((leBytes 64 (entry 0 6 0 8192 1 0).toNat).map wPut)).1 with weirs := [] }

theorem test_upTable_reads : (upTable.readEntry 0 2).1 = some (entry 0 6 0 8192 1 0) := by decide +kernel

/-- Window 15 is live over handle 2. -/
def upWin : State := upTable.updPrt 0 (fun v => { v with wins := [(15, ⟨2#16, true, 0#32, entry 0 6 0 8192 1 0, 0#32⟩)] })

theorem test_TensorWindows_witness :
    let e := entry 0 6 0 8192 1 0
    let busy := upWin.updPrt 0 (fun v => { v with ops := [copyOp (entry 0 6 65536 64 1 0) e] })
    let off := 15 * windowSize
    upTable.prtAccess vf1 0 = .serve ∧ upWin.prtAccess vf1 0 = .serve ∧ busy.prtAccess vf1 0 = .serve
      ∧ bitAt (2#32) 16 = false ∧ bitAt (0x10002#32) 16 = true
      ∧ (upTable.readEntry 0 2).1 = some e ∧ (upTable.readEntry 0 2).2.windowMay 0 2 e = true
      ∧ (upTable.readEntry 0 4).1 = none
      ∧ (upTable.readEntry 0 3).1 = some 0#512 ∧ (upTable.readEntry 0 3).2.windowMay 0 3 0#512 = false
      ∧ (upWin.prt 0).winLive ((upWin.prt 0).winRequest (14 * windowSize) 4) = false
      ∧ (upWin.prt 0).winLive ((upWin.prt 0).winRequest off 4) = true
      ∧ ((upWin.prt 0).winRequest off 4).any (upWin.partBusy 0) = false
      ∧ (busy.prt 0).winLive ((busy.prt 0).winRequest off 4) = true
      ∧ ((busy.prt 0).winRequest off 4).any (busy.partBusy 0) = true
      ∧ ((busy.prt 0).winRequest off 4).any (busy.partUsed 0) = true := by decide +kernel

/-- Four bytes that straddle the end of a tensor of 8,192 bytes, and the last window. -/
theorem test_WindowAccess_witness :
    let s := upWin
    let off := 15 * windowSize + 8190
    s.prtAccess vf1 0 = .serve ∧ eTier ((s.prt 0).win 15).entry = 0 ∧ ((s.prt 0).win 15).en = true
      ∧ (s.prt 0).winRequest off 4 = [⟨15, 8190, 4⟩] ∧ s.partBusy 0 ⟨15, 8190, 4⟩ = false ∧ s.partUsed 0 ⟨15, 8190, 4⟩ = false
      ∧ Memory.wf s = true
      ∧ s.poolKeys 0 (eAddr ((s.prt 0).win 15).entry) 8191 = [8191]
      ∧ (List.range 4).map (fun i => if 8190 + i < eDataBytes ((s.prt 0).win 15).entry
          then s.poolKeys 0 (eAddr ((s.prt 0).win 15).entry) (8190 + i) else []) = [[8190], [8191], [], []] := by decide +kernel

/-! ### Witnesses: acceptance -/

/-- Queue 0 offers what `q` says. -/
def upOffer (f : Queue → Queue) : State :=
  upWith (fun v => { v with queues := [(0, f { Queue.zero with log2 := 6#5, enable := true, tail := 1 })] })

/-- A full journal: every place holds an entry that has not ended. -/
def fullJnl : Prt := { part with
  jnl := [(1, leBytes 64 (1 + 2 * 2 ^ 80))]
  jnlHead := 4096
  queues := [(0, { Queue.zero with log2 := 6#5, enable := true, tail := 1 })] }

/-- An empty turn, a full journal, a held descriptor, a ring in the pool that cannot be read and one that can, a ring in host
memory, and descriptors with a slot out of range, a busy slot and a free slot. -/
theorem test_AcceptanceTurn_witness :
    let full := up.setPrt 0 fullJnl
    let held := upOffer (fun q => { q with held := some (desc [(0, 0x60)]) })
    let badRing := upOffer (fun q => { q with loc := true, baseLo := 9#32 })
    let ring := upTable.updPrt 0 (fun v =>
      { v with queues := [(0, { Queue.zero with log2 := 6#5, enable := true, tail := 1, loc := true, baseLo := 2#32 })] })
    let host := upOffer (fun q => q)
    let busy := host.updPrt 0 (fun v => { v with slots := [(4095, { CSlot.zero with state := .busy })] })
    up.nextQueue 0 = none
      ∧ (∀ s ∈ [up, full, held, badRing, ring, host, busy], (s.prt 0).riskDue = false ∧ Blocks.wf s = true)
      ∧ (∀ s ∈ [full, held, badRing, ring, host, busy], s.nextQueue 0 = some 0)
      ∧ (full.prt 0).jnlRoom = false ∧ (∀ s ∈ [held, badRing, ring, host, busy], (s.prt 0).jnlRoom = true)
      ∧ ((held.prt 0).queue 0).held = some (desc [(0, 0x60)])
      ∧ ((badRing.prt 0).queue 0).loc = true ∧ (badRing.readRing 0 0).1 = none
      ∧ ((ring.prt 0).queue 0).loc = true ∧ (ring.readRing 0 0).1 = some 0#1024
      ∧ ((host.prt 0).queue 0).held = none ∧ ((host.prt 0).queue 0).loc = false
      ∧ 4096 ≤ dSlot (desc [(6, 4096)]) ∧ dSlot (desc [(6, 4095)]) < 4096
      ∧ ((busy.prt 0).slot 4095).state ≠ .free ∧ ((busy.prt 0).queue 0).slotWait = false
      ∧ ((host.prt 0).slot 4095).state = .free := by decide +kernel

/-- All 768 tags of port 0 are taken. -/
def upTags : State := { (upOffer id) with hsts := [(0, { Hst.reset with
  link := .up, tdisp := [(0, .run)], ideActive := 1#8, reads := (List.range 768).map (fun t => ⟨t, 0, 0#8, 1#13, 3, 2, 0, 0⟩) })] }

/-- A host ring whose port has no free tag, and one whose port has; a descriptor that waits for its slot, and one in its checks. -/
theorem test_AcceptanceTurn_tags_witness :
    upTags.nextQueue 0 = some 0 ∧ (upTags.prt 0).jnlRoom = true ∧ ((upTags.prt 0).queue 0).loc = false
      ∧ upTags.freeTag false = none ∧ (upOffer id).freeTag false = some 0 := by
  refine ⟨by decide +kernel, by decide +kernel, by decide +kernel, ?_, by decide +kernel⟩
  have h : (upTags.hst false).reads = (List.range 768).map (fun t => ⟨t, 0, 0#8, 1#13, 3, 2, 0, 0⟩) := by
    simp [upTags, State.hst, Sparse.get, portIdx]
  simp [State.freeTag, portTags, h]

theorem test_AcceptanceTurn_held_witness :
    let d := desc [(0, 0x60), (6, 4095)]
    let s := (upOffer (fun q => { q with held := some d, slotWait := true })).updPrt 0 (fun v =>
      { v with slots := [(4095, { CSlot.zero with state := .busy })] })
    let c := upOffer (fun q => { q with held := some d })
    ((s.prt 0).queue 0).slotWait = true ∧ ((s.prt 0).slot 4095).state ≠ .free ∧ dSlot d < 4096
      ∧ ((c.prt 0).queue 0).held ≠ none ∧ ((c.prt 0).queue 0).slotWait = false := by decide +kernel

/-- The first check that fails: the device, the codes, the context, a handle. -/
theorem test_AcceptanceTurn_checks_witness :
    let drained := { up with dev := { up.dev with state := .drained } }
    let fence := desc [(0, 0x60), (4, 1)]
    let copy := desc [(0, 0x10), (4, 1), (8, 9), (12, 2)]
    drained.dev.state ≠ .ready ∧ up.dev.state = .ready ∧ checkCodes (desc [(0, 0x61)]) = false ∧ checkCodes fence = true
      ∧ dCtx (desc [(0, 0x60), (4, 2)]) ≠ (up.prt 0).ctxId 0 ∧ checkCodes (desc [(0, 0x60), (4, 2)]) = true
      ∧ (up.prt 0).hasCtx = true ∧ checkCodes copy = true ∧ dCtx copy = (up.prt 0).ctxId 0
      ∧ (up.checkHandles 0 (dHandles copy).eraseDups).1 = none := by decide +kernel

/-! ### Witnesses: the life of an operation -/

theorem test_OperationLifecycle_witness :
    let acc : OpRec := { mmOp with phase := .accepted }
    let s1 := upOps [acc]
    let s2 := upOps [mmOp]
    let s3 := upOps [{ mmOp with done := true }]
    let cm := opOf 5 (desc [(0, 0x21), (4, 1)]) []
    let s4 := upOps [{ cm with done := true }]
    (s1.prt 0).op 5 = some acc ∧ s1.startable 0 acc = true ∧ s1.blocksTake 0 = true
      ∧ (s2.prt 0).op 5 = some mmOp ∧ mmOp.phase = .started ∧ mmOp.done = false ∧ mmOp.asks 4 0 = true
      ∧ (4, 0) ∉ mmOp.granted ∧ (s2.prt 0).tokenFree mmOp 4 0 = true
      ∧ (s3.prt 0).op 5 = some { mmOp with done := true } ∧ dOp mmOp.desc ≠ 0x21
      ∧ (s4.prt 0).op 5 = some { cm with done := true } ∧ dOp cm.desc = 0x21
      ∧ (s4.endCommit 0 { cm with done := true }).isSome = true := by decide +kernel

/-- A tile behind an earlier operation that writes it: a first and a repeated request, with its wait counted. -/
theorem test_OperationLifecycle_waiting_witness :
    let c := opOf 6 (desc [(0, 0x10), (4, 1), (8, 4), (12, 5)]) [(4, entry 0 3 128 1 1 0), (5, entry 0 3 192 1 1 0)]
    let d : OpRec := { c with granted := [(4, waitedMark 0)] }
    ((upOps [mmOp, c]).prt 0).op 6 = some c ∧ c.asks 4 0 = true ∧ (4, 0) ∉ c.granted ∧ ((upOps [mmOp, c]).prt 0).tokenFree c 4 0 = false
      ∧ (4, waitedMark 0) ∉ c.granted ∧ ((upOps [mmOp, d]).prt 0).op 6 = some d ∧ (4, 0) ∉ d.granted
      ∧ ((upOps [mmOp, d]).prt 0).tokenFree d 4 0 = false ∧ (4, waitedMark 0) ∈ d.granted := by decide +kernel

/-- A FENCE alone, a FENCE of the partition behind another operation, and VERSION_RELEASE alone and behind a reader. -/
theorem test_OperationLifecycle_waits_witness :
    let f0 := opOf 6 (desc [(0, 0x60)]) []
    let f1 := opOf 6 (desc [(0, 0x60), (1, 1)]) []
    let a := copyOp (entry 1 6 0 64 1 (2 ^ 13)) (entry 0 6 0 64 1 0)
    let r := opOf 6 (desc [(0, 0x41), (8, 2)]) [(2, entry 1 6 0 64 1 (2 ^ 13))]
    Ready (upOps [f0]) 0 6 0x60 0 f0 ∧ (((upOps [f0]).prt 0).before f0).any (fun x => inFence f0 x) = false
      ∧ Ready (upOps [f1]) 0 6 0x60 1 f1 ∧ ((upOps [f1]).prt 0).before f1 = []
      ∧ Ready (upOps [mmOp, f1]) 0 6 0x60 1 f1 ∧ ((upOps [mmOp, f1]).prt 0).before f1 ≠ []
      ∧ ((upOps [r]).prt 0).op 6 = some r ∧ dOp r.desc = 0x41 ∧ r.phase = .started ∧ ((upOps [r]).prt 0).before r = []
      ∧ ((upOps [a, r]).prt 0).op 6 = some r
      ∧ (((upOps [a, r]).prt 0).before r).any (fun x => x.names (dA r.desc) && !idleHandle x.desc (dA r.desc)
          && x.readsTag (dA r.desc) (dTag r.desc)) = true := by
  unfold Ready; decide +kernel

theorem test_CompletionSlot_witness : mmOp.internal = false ∧ Blocks.wf (upOps [mmOp]) = true ∧ dField mmOp.desc 6 2 = 7 := by
  decide +kernel

/-! ### Witnesses: the array -/

/-- `mmOp` among the operations, and engine 0 of core 0 as `v` says. -/
def upEng (o : OpRec) (v : Eng) : State := { upOps [o] with engs := [(0, v)] }

/-- An operation with one variant: H_VAR is handle 5, the variant table handle 1, the adapters handles 6 and 7. -/
def varOp : OpRec := { opOf 5 (desc [(0, 1), (4, 1), (8, 2), (10, 3), (12, 4), (18, 5)])
  (mmEnts ++ [(1, entry 0 6 1024 16 1 0), (5, entry 0 6 192 2 1 0), (6, entry 0 1 256 1 1 (2 ^ 11)), (7, entry 0 1 320 1 1 (2 ^ 11))])
  with vars := [some 0#8, some 0#8] }

/-- Its variant-table entry: adapters 6 and 7, rank 1, LG8, VALID. -/
def upVar (o : OpRec) : State :=
  { upOps [o] with pool := [(1024, 6#8), (1026, 7#8), (1028, 1#8), (1029, 1#8), (1030, 1#8)] }

theorem test_ArrayOperations_witness :
    let scan := opOf 5 (desc [(0, 2), (4, 1), (8, 2), (10, 3), (12, 4)]) mmEnts
    let scanMax := opOf 5 (desc [(0, 2), (1, 1), (4, 1), (8, 2), (10, 3), (12, 4)]) mmEnts
    let red := opOf 5 (desc [(0, 0x13), (4, 1), (8, 2), (12, 4)]) mmEnts
    Ready (upOps [mmOp]) 0 5 0x01 0 mmOp ∧ Ready (upOps [scan]) 0 5 0x02 0 scan ∧ Ready (upOps [scanMax]) 0 5 0x02 1 scanMax
      ∧ Ready (upOps [red]) 0 5 0x13 0 red := by unfold Ready; decide +kernel

theorem test_ArrayOperations_passes_witness :
    let s := upVar varOp
    let g := (s.gemm 0 varOp).1
    let t := (s.gemm 0 varOp).2
    (s.prt 0).op 5 = some varOp ∧ isArray varOp.desc = true ∧ (s.prt 0).mayRun varOp = true ∧ (s.prt 0).readsVoid varOp = false
      ∧ varOp.adapters.contains 0 = false ∧ dVar varOp.desc ≠ 0
      ∧ (varOp.namedVariants g).contains 0 = true ∧ t.arrayFree 0 5 = true
      ∧ (match (t.passOf 0 varOp g 0).1.1 with | .serves r f h1 h2 => decide (r = 1 ∧ f = .lg8 ∧ h1 = 6 ∧ h2 = 7) | _ => false) = true := by
  decide +kernel

/-- The scan of `mmOp` by its last core, its agreement, and a fixed anchor. -/
theorem test_ArrayOperations_anchor_witness :
    let s := upOps [mmOp]
    let g := (s.gemm 0 mmOp).1
    let t := (s.gemm 0 mmOp).2
    let all : OpRec := { mmOp with scans := (List.range 32).map (fun c => (c, none)) }
    let fix := opOf 5 (desc [(0, 1), (4, 1), (8, 2), (10, 3), (12, 4), (20, 1024 + 511)]) mmEnts
    (s.prt 0).op 5 = some mmOp ∧ dMode mmOp.desc = 0 ∧ mmOp.passesDone g = true ∧ mmOp.anchor = none
      ∧ (t.partCores 0).contains 31 = true ∧ mmOp.scans.any (fun x => x.1 = 31) = false
      ∧ (t.variants 0 mmOp g).1.isSome = true
      ∧ ((upOps [all]).prt 0).op 5 = some all ∧ all.anchor = none
      ∧ (((upOps [all]).gemm 0 all).2.partCores 0).all (fun c => all.scans.any (fun x => x.1 = c)) = true
      ∧ dOp fix.desc = 1 ∧ dMode fix.desc = 1 ∧ ((upOps [fix]).anchorOf 0 fix g ⟨[], []⟩).1 = some 511 := by decide +kernel

/-- An idle engine takes the first load; an engine with a full shadow bank swaps, first and behind the last row. -/
theorem test_LoadsAndSwaps_witness :
    let s := upOps [mmOp]
    let o : OpRec := { mmOp with anchor := some 0 }
    let first := upEng o { mmEng with state := 2#4, shadowFull := true }
    let next := upEng o { mmEng with shadowFull := true, job := some ⟨0, 5, 0, 0, 0, 0, 64, 64⟩ }
    (match s.workOf 0 5 with | some (w, t) => t.mayLoad 0 w 0 15 0 0 0 | none => false) = true
      ∧ (match first.jobWork 0 0 with
        | some (_, w, _) => (first.eng 0 0).shadowFull && first.arrayFree 0 5
            && decide ((first.eng 0 0).state = 2#4 ∧ (first.eng 0 0).next = none ∧ w.o.anchor = some 0)
        | none => false) = true
      ∧ (match next.jobWork 0 0 with
        | some (j, w, _) => (next.eng 0 0).shadowFull
            && decide ((next.eng 0 0).state = 3#4 ∧ (next.eng 0 0).next = none ∧ j.added = w.expected j ∧ w.o.anchor = some 0)
        | none => false) = true := by decide +kernel

/-- Engine 0 takes the second load of its pitch, and, while it streams its last load, the first load of the pitch beside it. -/
theorem test_LoadsAndSwaps_next_witness :
    let o := opOf 5 mmDesc [(2, entry 0 1 0 128 1 (2 ^ 11)), (3, entry 0 1 8192 2112 128 (2 ^ 11)), (4, entry 0 3 524288 2112 1 0)]
    let s := upEng o { mmEng with job := some ⟨0, 5, 0, 0, 0, 0, 64, 0⟩ }
    let u := upEng o { mmEng with job := some ⟨0, 5, 0, 0, 64, 64, 64, 0⟩ }
    (match s.workOf 0 5 with
      | some (w, t) => t.mayLoad 0 w 0 0 0 0 64 && decide ((w.o.loadsOf w.x w.g w.vs 0 (w.x.spanOf 64)).head? ≠ some 64)
      | none => false) = true
    ∧ (match u.workOf 0 5 with
      | some (w, t) => t.mayLoad 0 w 0 0 0 32 0 && decide ((w.o.loadsOf w.x w.g w.vs 0 (w.x.spanOf 0)).head? = some 0)
      | none => false) = true := by decide +kernel

/-- The first cell, which starts a chain; the last cell, whose chain value goes to the foot; a foot with a sound chain value
and one with a wrong residue. -/
theorem test_CellsAndFeet_witness :
    let last := upEng mmOp { mmEng with
      acts := [(4095, some ⟨0, 0, 0#8, 0, 0#8, false, false⟩)], chains := [(4095, some ⟨0, 5, 5, 0#16⟩)] }
    let foot := upEng mmOp { mmEng with feet := [(0, some ⟨0, -1, 65534, 0#16⟩), (63, some ⟨0, 5, 6, 0#16⟩)] }
    (match (upEng mmOp mmEng).jobWork 0 0 with
      | some (j, w, _) => decide ((w.o.loadRows w.x w.g w.vs j.group j.k0)[0]? = some (0, 0)
          ∧ footColumn w.x.mode w.x.wide 0 0 = some 0 ∧ 0 % chainLen w.x.wide = 0)
      | none => false) = true
    ∧ (match last.jobWork 0 0 with
      | some (_, w, _) => decide (footColumn w.x.mode w.x.wide 63 63 = some 63 ∧ 63 % chainLen w.x.wide + 1 = chainLen w.x.wide
          ∧ Sparse.get none (last.eng 0 0).feet 63 = none ∧ (last.eng 0 0).state = 3#4 ∧ (last.eng 0 0).anchor = some 0)
      | none => false) = true
    ∧ (foot.jobWork 0 0).isSome = true ∧ syndrome (-1) 65534 = 0 ∧ syndrome 5 6 ≠ 0 := by decide +kernel

/-- A cell that carries no chain: LG16, column 1. -/
theorem test_CellsAndFeet_gang_witness :
    let o := opOf 5 mmDesc [(2, entry 0 2 0 1 1 0), (3, entry 0 2 64 1 1 0), (4, entry 0 3 128 1 1 0)]
    let s := upEng o { mmEng with acts := [(1, some ⟨0, 0, 0#8, 0, 0#8, false, false⟩)] }
    (match s.jobWork 0 0 with
      | some (_, w, _) => decide (footColumn w.x.mode w.x.wide 0 1 = none)
      | none => false) = true ∧ Sparse.get none (s.eng 0 0).acts 2 = none := by decide +kernel

/-- A chain value of 2^47 − 2 whose residue is right takes a product of 1 in every format but LG4's two. -/
theorem test_ResidueFollowsChain_witness :
    let p := cellProduct .lg8 0 0 0#8 false 0 0#8 false
    syndrome (2 ^ 47 - 2) ((2 ^ 47 - 2) % 65535) = 0 ∧ ((-2) ^ 47 : Int) ≤ 2 ^ 47 - 2 + p.1 ∧ 2 ^ 47 - 2 + p.1 < (2 ^ 47 : Int) := by
  decide +kernel

/-- A complete pitch; a pitch that waits for its retry; a core's complete partial; a tile whose partials are merged. -/
theorem test_PitchesAndTiles_witness :
    let o : OpRec := { mmOp with anchor := some 0 }
    let done := upEng o { mmEng with job := some ⟨0, 5, 0, 0, 0, 0, 64, 64⟩, foot := [(0, ⟨7, 7, 0#16⟩)] }
    let failed := upEng o { mmEng with state := 5#4 }
    let x : Partial := ⟨0, 5, 0, 0, 0, ⟨0, false, 0#16, 1⟩, []⟩
    let part0 := { upOps [o] with partials := [x] }
    let merged := { upOps [o] with partials := [{ x with core := mergedMark }] }
    (match done.jobWork 0 0 with
      | some (j, w, _) => w.pitchDone (done.eng 0 0) j && decide ((done.eng 0 0).foot.find? (fun (x : Nat × Slot) =>
          syndrome x.2.value x.2.residue ≠ 0) = none)
      | none => false) = true
    ∧ (failed.jobWork 0 0).isSome = true ∧ (failed.eng 0 0).state = 5#4
    ∧ (match part0.workOf 0 5 with
      | some (w, t) => decide (t.partialAt 0 5 0 0 = some x
          ∧ x.tr.len = ((t.tilePitches 0 w 0).filter (fun c => c.core = 0)).length
          ∧ x.slots.any (fun (y : Nat × Slot) => syndrome y.2.value y.2.residue ≠ 0) = false)
      | none => false) = true
    ∧ (match merged.workOf 0 5 with
      | some (w, t) => decide (w.o.anchor = some 0 ∧ 0 < eTiles (w.o.ent (dC w.o.desc)) ∧ w.o.tilesDone.contains 0 = false)
          && ((blockTiles (w.o.ent (dC w.o.desc)) 0).filter (fun u => !w.o.tilesDone.contains u)).all (t.tileComplete 0 w)
      | none => false) = true := by decide +kernel

/-- A slot of the foot tile that disagrees with its residue; a pitch that waits for its retry while engine 1 is free; three cores of partition 0 that may be tested. -/
theorem test_FailedComparisons_witness :
    let bad := upEng mmOp { mmEng with job := some ⟨0, 5, 0, 0, 0, 0, 64, 64⟩, foot := [(63, ⟨7, 8, 0#16⟩)] }
    let failed := upEng mmOp { mmEng with state := 5#4 }
    (match bad.jobWork 0 0 with
      | some (j, w, _) => w.pitchDone (bad.eng 0 0) j && decide (w.x.cols = 64 ∧ (bad.eng 0 0).foot.find? (fun (y : Nat × Slot) =>
          syndrome y.2.value y.2.residue ≠ 0) = some (0 * w.x.cols + 63, ⟨7, 8, 0#16⟩))
      | none => false) = true
    ∧ (match failed.jobWork 0 0 with
      | some (_, _, t) => decide ((failed.eng 0 0).state = 5#4
          ∧ (List.range 16).find? (fun k => k ≠ 0 ∧ (t.eng 0 k).state ≠ 7#4) = some 1 ∧ (t.eng 0 1).job = none)
      | none => false) = true
    ∧ up.dev.state = .ready ∧ up.hlt.patrolEn = true ∧ [0, 15, 31].Nodup
    ∧ (∀ c ∈ [0, 15, 31], up.mayPatrol c 15 = true ∧ up.unitOwner (c / 32) = up.unitOwner (0 / 32)) := by decide +kernel

/-! ### Witnesses: vectors, histograms, random words -/

/-- A ready operation for every row of Table 6.1 and Table 6.2 that the statement names. -/
theorem test_VectorOperations_witness :
    let e := entry 0 3 0 1 1 0
    let op (code sub : Nat) := opOf 1 (desc [(0, code), (1, sub), (4, 1), (8, 2), (10, 2), (12, 4)]) [(2, e), (4, entry 0 3 128 1 1 0)]
    (∀ x ∈ [0, 1, 2, 3, 4, 5, 6, 7, 8, 9, 10, 11, 12, 13, 0x10, 0x11, 0x12, 0x13, 0xF0],
      Ready (upOps [op 0x10 x]) 0 1 0x10 x (op 0x10 x))
    ∧ Ready (upOps [op 0x11 0]) 0 1 0x11 0 (op 0x11 0) ∧ Ready (upOps [op 0x12 0]) 0 1 0x12 0 (op 0x12 0) := by
  unfold Ready; decide +kernel

/-- NaNs, both infinities, zeros of both signs, and a number. -/
theorem test_MaxMin_witness :
    fval fNaN = .nan ∧ fval 0x7F800000#32 = .inf false ∧ fval 0xFF800000#32 = .inf true
      ∧ (∃ e, fval 0#32 = .fin 0 e) ∧ (∃ e, fval 0x80000000#32 = .fin 0 e) ∧ fval 0x3F800000#32 ≠ .nan := by
  refine ⟨by decide +kernel, by decide +kernel, by decide +kernel, ⟨_, rfl⟩, ⟨_, rfl⟩, by decide +kernel⟩

/-- HIST_READ, READ_CLEAR, HIST_INIT and the three forms of RNG_FILL, with pool destinations in canonical states. -/
theorem test_HistogramsAndRandom_witness :
    let op (code sub : Nat) := opOf 1 (desc [(0, code), (1, sub), (4, 1), (8, 2), (12, 4), (24, 4095)])
      [(2, entry 0 3 0 1 1 (2 ^ 14 + 2 ^ 25)), (4, entry 0 6 1024 512 1 0)]
    ∀ x ∈ [(0x14, 0), (0x14, 1), (0x14, 2), (0x15, 0), (0x15, 1), (0x15, 2)],
      Ready (upOps [op x.1 x.2]) 0 1 x.1 x.2 (op x.1 x.2) ∧ eTier ((op x.1 x.2).ent (dC (op x.1 x.2).desc)) = 0
        ∧ Memory.wf (upOps [op x.1 x.2]) = true ∧ Blocks.wf (upOps [op x.1 x.2]) = true := by
  unfold Ready; decide +kernel

/-! ### Witnesses: collectives, moves, updates -/

/-- Rope position 1 is reached over port 0, whose association of partition 0 is OPEN. -/
def meshLnk : Lnk := { Lnk.reset with
  state := .up, peerValid := true, peerPos := 1#4, light := true, sas := [(0, { Sa.reset with state := .open_, gen := 3#8 })] }

theorem test_CollectivesAndMoves_witness :
    let e := entry 0 3 0 1 1 0
    let op (code sub : Nat) := opOf 1 (desc [(0, code), (1, sub), (4, 1), (8, 2), (12, 4)]) [(2, e), (4, entry 0 3 128 1 1 0)]
    ∀ x ∈ [(0x20, 0), (0x20, 1), (0x20, 2), (0x20, 3), (0x21, 0), (0x30, 0), (0x32, 0), (0x31, 0)],
      Ready (upOps [op x.1 x.2]) 0 1 x.1 x.2 (op x.1 x.2) := by unfold Ready; decide +kernel

/-- A full staging area behind each SUBOP; behind a gather, a WP72 tensor and a tensor in another format. -/
theorem test_CollectivesAndMoves_staging_witness :
    let op (sub fmt : Nat) : OpRec := { opOf 1 (desc [(0, 0x20), (1, sub), (8, 2), (12, 4)])
      [(2, entry 0 fmt 0 1 1 0), (4, entry 0 fmt 65536 1 1 0)] with coll := { Coll.zero with stageReady := true } }
    (∀ x ∈ [(0, 3), (1, 3), (2, 5), (2, 3), (3, 5), (3, 3)], ((upOps [op x.1 x.2]).prt 0).op 1 = some (op x.1 x.2)
      ∧ dOp (op x.1 x.2).desc = 0x20 ∧ dSub (op x.1 x.2).desc = x.1 ∧ (op x.1 x.2).done = false ∧ (op x.1 x.2).coll.stageReady = true)
    ∧ eFmt ((op 2 5).ent (dA (op 2 5).desc)) = .wp72 ∧ eFmt ((op 3 3).ent (dA (op 3 3).desc)) ≠ .wp72 := by decide +kernel

/-- An UPDATE behind a STEP_COMMIT that failed, one whose version is void, one of a FROZEN tensor, and the two forms that
write, whose only chunk lies on a sound die; and a chunk that a sound die of the partition processes. -/
theorem test_Updates_witness :
    let op (sub attr : Nat) := opOf 4 (desc [(0, 0x40), (1, sub), (4, 1), (8, 2), (10, 3), (14, 4), (22, 1)])
      [(2, entry 1 3 0 1 1 attr), (3, entry 0 3 0 1 1 0), (4, entry 1 3 4096 1 1 0)]
    let s (o : OpRec) := upOps [o]
    let failed := (s (op 0 0)).updPrt 0 (fun v => { v with commits := [(1, 0, some stPeerLost)] })
    let void := (s (op 0 (2 ^ 13))).updPrt 0 (fun v => { v with versions := [⟨2, 1, 0, 0, 0, true, true, false⟩] })
    (∀ x ∈ [failed, s (op 0 0), s (op 1 0)], ∃ o, (x.prt 0).op 4 = some o ∧ dOp o.desc = 0x40 ∧ (x.prt 0).tokensReady o = true)
      ∧ (failed.prt 0).commitStatus (op 0 0) = some stPeerLost
      ∧ (void.prt 0).op 4 = some (op 0 (2 ^ 13)) ∧ (void.prt 0).tokensReady (op 0 (2 ^ 13)) = true
      ∧ (void.prt 0).commitStatus (op 0 (2 ^ 13)) = none ∧ (op 0 (2 ^ 13)).linesIn = true
      ∧ (void.prt 0).readsVoid (op 0 (2 ^ 13)) = true
      ∧ ((s (op 0 (2 ^ 12))).prt 0).tokensReady (op 0 (2 ^ 12)) = true ∧ eFrozen ((op 0 (2 ^ 12)).ent (dA (op 0 (2 ^ 12)).desc)) = true
      ∧ ((s (op 0 (2 ^ 12))).prt 0).commitStatus (op 0 (2 ^ 12)) = none ∧ ((s (op 0 (2 ^ 12))).prt 0).readsVoid (op 0 (2 ^ 12)) = false
      ∧ (∀ sub ∈ [0, 1], ((s (op sub 0)).prt 0).commitStatus (op sub 0) = none ∧ (op sub 0).linesIn = true
          ∧ ((s (op sub 0)).prt 0).readsVoid (op sub 0) = false ∧ eFrozen ((op sub 0).ent (dA (op sub 0).desc)) = false
          ∧ (s (op sub 0)).takesUpdate 0 (op sub 0) ((s (op sub 0)).dieOf 0 (op sub 0) 0) = true ∧ dSub (op sub 0).desc = sub ∧ (op sub 0).done = false
          ∧ (op sub 0).chunks.contains 0 = false ∧ 0 < eChunks ((op sub 0).ent (dA (op sub 0).desc))
          ∧ ((s (op sub 0)).hdr (pageUpd ((s (op sub 0)).dieOf 0 (op sub 0) 0))).suspect = false
          ∧ (s (op sub 0)).takes (pageUpd ((s (op sub 0)).dieOf 0 (op sub 0) 0)) = true)
      ∧ up.unitOwner 0 = some 0 ∧ (s (op 0 0)).chunkOn 0 0 = some (4, 0) ∧ ((s (op 0 0)).hdr (pageUpd 0)).suspect = false := by
  refine ⟨?_, ?_⟩
  · intro x hx
    fin_cases hx
    · exact ⟨_, rfl, by decide +kernel, by decide +kernel⟩
    · exact ⟨_, rfl, by decide +kernel, by decide +kernel⟩
    · exact ⟨_, rfl, by decide +kernel, by decide +kernel⟩
  · decide +kernel

/-- A tensor's digest, sound and with a poisoned word; a comparison of replicas behind an open UPDATE of its STEP, one that
awaits a peer, and one that awaits nobody. -/
theorem test_Updates_digest_witness :
    let d0 := opOf 5 (desc [(0, 0x42), (4, 1), (8, 2), (12, 4)]) [(2, entry 0 6 0 64 1 0), (4, entry 0 6 4096 64 1 0)]
    let d1 : OpRec := { opOf 5 (desc [(0, 0x42), (1, 1), (104, 7)]) [] with coll := { Coll.zero with sentData := true, checked := [0] } }
    let d2 : OpRec := { d1 with coll := { Coll.zero with sentData := true } }
    let u := opOf 4 (desc [(0, 0x40), (104, 7)]) []
    let bad := { upOps [d0] with poolBad := [(0, true)] }
    let wait := { upOps [d1] with lnks := [(0, meshLnk)] }
    Ready (upOps [d0]) 0 5 0x42 0 d0 ∧ ((upOps [d0]).tensorBytes 0 d0 (dA d0.desc) (d0.ver (dA d0.desc))).bad = false
      ∧ Ready bad 0 5 0x42 0 d0 ∧ (bad.tensorBytes 0 d0 (dA d0.desc) (d0.ver (dA d0.desc))).bad = true
      ∧ Ready (upOps [u, d1]) 0 5 0x42 1 d1
      ∧ (((upOps [u, d1]).prt 0).before d1).any (fun a => decide (dOp a.desc = 0x40 ∧ dStep a.desc = dStep d1.desc)) = true
      ∧ Ready wait 0 5 0x42 1 d1 ∧ (wait.prt 0).before d1 = [] ∧ d1.coll.sentData = true ∧ wait.awaitsReplica 0 d1 = true
      ∧ Ready (upOps [d2]) 0 5 0x42 1 d2 ∧ (upOps [d2]).awaitsReplica 0 d2 = false := by unfold Ready; decide +kernel

/-! ### Witnesses: belays, teardowns, resets -/

/-- A belay run that has not copied yet. -/
def belayRun : BelayRun := ⟨0#8, 0, 7, 5, [], [], [], [], zeros 16, 0, 0, [], false, false, []⟩

/-- The first bytes of a belay of STEP 7 by rope position 0, valid. -/
def half : List Byte := leBytes 4 0x59414C42 ++ zeros 3 ++ [1#8] ++ zeros 8 ++ leBytes 8 7 ++ zeros 104

theorem test_BelaysAndRestores_witness :
    let op (sub : Nat) : OpRec := { opOf 5 (desc [(0, 0x50), (1, sub), (12, 4), (32, 1), (104, 7)]) [(4, entry 0 6 0 64 1 0)] with
      belay := if sub < 3 then some belayRun else none }
    let s (sub : Nat) := { upOps [op sub] with lnks := [(0, meshLnk)] }
    let sealing := { op 0 with belay := some { belayRun with copied := true } }
    let ended := (upOps [sealing]).updPrt 0 (fun v => { v with commits := [(6, 7, some stOK)] })
    (∀ sub ∈ [0, 1, 2], ((s sub).prt 0).op 5 = some (op sub) ∧ (op sub).belay = some belayRun ∧ dOp (op sub).desc = 0x50
      ∧ dSub (op sub).desc = sub ∧ belayRun.copied = false ∧ (op sub).done = false ∧ ((s sub).prt 0).tokensReady (op sub) = true
      ∧ (op sub).linesIn = true)
    ∧ (s 1).peerServes 0 (op 1).belayPeer = true ∧ (upOps [op 1]).peerServes 0 (op 1).belayPeer = false
    ∧ (ended.prt 0).op 5 = some sealing ∧ (ended.prt 0).sealStatus sealing { belayRun with copied := true } = some stOK
    ∧ Ready (s 3) 0 5 0x50 3 (op 3) ∧ Ready (s 4) 0 5 0x50 4 (op 4) ∧ (s 4).peerServes 0 (op 4).belayPeer = true
    ∧ Ready (upOps [op 4]) 0 5 0x50 4 (op 4) ∧ (upOps [op 4]).peerServes 0 (op 4).belayPeer = false
    ∧ (s 4).candidate (dStep (op 4).desc) half = true ∧ (s 4).candidate (dStep (op 4).desc) [] = false
    ∧ ((upWith (fun v => { v with riskDue := true })).prt 0).riskDue = true ∧ (up.prt 0).riskDue = false := by
  unfold Ready; decide +kernel

theorem test_TeardownZeroises_witness :
    let busy := upWith (fun v => { v with teardown := .busy })
    up.prtAccess vf1 0 = .serve ∧ Memory.wf up = true ∧ Blocks.wf up = true ∧ (up.prt 0).teardown ≠ .busy
      ∧ (up.prt 0).ctxReset ≠ .busy ∧ (up.prt 0).prtReset ≠ .busy ∧ (up.prt 0).hasCtx = true
      ∧ up.partCores 0 = List.range 32
      ∧ busy.prtAccess vf1 0 = .serve ∧ Memory.wf busy = true ∧ Blocks.wf busy = true ∧ (busy.prt 0).teardown = .busy := by
  decide +kernel

/-- A partition that may be reset and one of a DRAINED device; a hang with either SCOPE; resets that are under way. -/
theorem test_Resets_witness :
    let drained := { up with dev := { up.dev with state := .drained } }
    let hung (scope : Bool) := { upWith (fun v => { v with scope := scope }) with
      hdrs := [(pageEng 31 15, { hdrReset (pageEng 31 15) with hung := true })] }
    let ctx := upWith (fun v => { v with ctxReset := .busy })
    let prt := upWith (fun v => { v with prtReset := .busy })
    up.prtAccess vf1 0 = .serve ∧ up.mayReset 0 = true ∧ (up.prt 0).ctxReset ≠ .busy ∧ (up.prt 0).prtReset ≠ .busy
      ∧ drained.prtAccess vf1 0 = .serve ∧ drained.mayReset 0 = false
      ∧ (∀ b ∈ [true, false], (hung b).prtHung 0 = true ∧ ((hung b).prt 0).resets = false ∧ ((hung b).prt 0).scope = b)
      ∧ (ctx.prt 0).ctxReset = .busy ∧ (prt.prt 0).prtReset = .busy ∧ prt.pageOwner (pageEng 31 15) = some 0
      ∧ (List.range 24).any (fun i => prt.privatePort i 0 && decide ((prt.lnk i).state = .training)) = false := by decide +kernel

/-! ### Witnesses: keys, basin, tree -/

/-- Crypto engine m with slot k. -/
def upKey (m k : Nat) (x : KeySlot) (f : Mce → Mce) : State := { up with mces := [(m, f { Mce.reset with slots := [(k, x)] })] }

/-- A key in a slot. -/
def liveKey (st : KeyState) : KeySlot := { KeySlot.zero with state := st, loaded := true, key := zeros 16 }

/-- KEY_SEL by the holder of slot 63 of MCE0 and by PF0, which holds none; every state of a slot; a successor; an operation
that still names a draining slot. -/
theorem test_KeySlots_witness :
    let sel (m : Mce) : Mce := { m with selSlot := 63#6, selHandle := 1#16 }
    let free := { (upKey 0 63 KeySlot.zero sel).updPrt 0 (fun v => { v with party := some { Party.fresh [] 1 with keys := [(0, 1, some (zeros 16))] } }) with out := [] }
    let loaded := upKey 0 63 (liveKey .free) sel
    let active := upKey 0 63 (liveKey .active) sel
    let pair := { up with mces := [(0, { Mce.reset with
      selSlot := 63#6, selSucc := 62#6, selSuccEn := true, slots := [(62, liveKey .active), (63, liveKey .active)] })] }
    let draining := upKey 0 63 (liveKey .draining) sel
    let used := draining.updPrt 0 (fun v => { v with ops := [opOf 1 0#1024 [(2, entry 1 6 0 64 1 0 + 63 <<< 352)]] })
    (∀ s ∈ [free, loaded, active, pair, draining, used], s.keyAccess vf1 0 = .serve ∧ (s.mce 0).selSlot = 63#6
      ∧ s.mayKey vf1 0 63 = true)
    ∧ free.keyAccess (.pf0 false) 0 = .serve ∧ free.mayKey (.pf0 false) 0 63 = false
    ∧ (∀ via ∈ [Via.pf0 false], free.mayKey via 0 0 = false)
    ∧ free.slotHolder 0 63 = some 0 ∧ free.secKey 0 1 = some (zeros 16) ∧ ((free.mce 0).slot 63).state = .free
    ∧ free.sec.entropyOk = true ∧ ((loaded.mce 0).slot 63).state = .free ∧ ((loaded.mce 0).slot 63).loaded = true
    ∧ ((active.mce 0).slot 63).state = .active ∧ (active.mce 0).selSuccEn = false
    ∧ ((pair.mce 0).slot 63).state = .active ∧ (pair.mce 0).selSuccEn = true ∧ pair.succOk 0 63 62 = true
    ∧ ((draining.mce 0).slot 63).state = .draining ∧ draining.keyInflight 0 63 = 0 ∧ ((draining.mce 0).slot 63).succ = none
    ∧ used.keyInflight 0 63 ≠ 0 := by decide +kernel

/-- A sweep that goes on, one that has read its last line, and one of the host-port engine. -/
theorem test_KeySlots_sweep_witness :
    let x : KeySlot := { liveKey .draining with succ := some 1 }
    let s := upKey 7 0 x id
    let e := upKey 7 0 { x with sweepLine := dataLines, swept := true } id
    let h := upKey 8 0 x id
    (∀ y ∈ [(7, s), (7, e), (8, h)], ((y.2.mce y.1).slot 0).state = .draining ∧ ((y.2.mce y.1).slot 0).succ.isSome = true)
      ∧ ((s.mce 7).slot 0).swept = false ∧ ((e.mce 7).slot 0).swept = true := by decide +kernel

/-- The last data line of the last group, whose counter stands one below its end. -/
theorem test_BasinReadAfterWrite_witness :
    let s := upKey 7 63 (liveKey .active) (fun e => { e with ctr := [(dataLines - 1, 2 ^ 64 - 2)] })
    Memory.wf s = true ∧ Blocks.wf s = true ∧ (zeros 128).length = 128 ∧ (s.mce 7).usable 63 = true
      ∧ (s.mce 7).usable ((s.mce 7).writeSlot 63) = true ∧ (s.mce 7).beneathLoss (dataLines - 1) = false
      ∧ Sparse.get 0 (s.mce 7).ctr (dataLines - 1) + 1 < 2 ^ 64 := by decide +kernel

/-- Partial writes of 1 and 127 bytes at the ends of an EMPTY line; a group that scrubs; the last pool word and the last
scratchpad word; the page of a journal, which counts, and of a crypto engine, which does not. -/
theorem test_BasinLinesAndTests_witness :
    let s := { upKey 7 63 (liveKey .active) id with bass := [(7, { Bas.reset with state := 2#2 })] }
    (s.mce 7).usable 63 = true ∧ 0 < [0#8].length ∧ [0#8].length < 128 ∧ 127 + [0#8].length ≤ 128 ∧ (zeros 127).length < 128
      ∧ 1 + (zeros 127).length ≤ 128 ∧ s.lineAt 7 (dataLines - 1) = .empty ∧ (s.bas 7).state = 2#2 ∧ s.takes (pageBas 7) = true
      ∧ pageClass 0x1FFF ≠ none ∧ (s.hdr 0x1FFF).suspect = false
      ∧ Sparse.get false s.poolBad ((255 * 2 ^ 31 + 1499999999) / 64) = false ∧ Memory.wf s = true
      ∧ Sparse.get false s.spdBad ((255 * 2 ^ 22 + 4194303) / 8) = false
      ∧ storePage (0x27) = some true ∧ (s.hdr (0x27)).suspect = false
      ∧ storePage (pageMce 9) = some false ∧ (s.hdr (pageMce 9)).suspect = false ∧ s.takes (pagePool 31) = true := by decide +kernel

/-- A changed line of the top level in the cache, a lost subtree, and a lost group. -/
theorem test_TreeRecovery_witness :
    let s := { up with mces := [(7, { Mce.reset with cache := [⟨5, 0, true⟩] })] }
    let l := { up with mces := [(7, { Mce.reset with lost := [(0, 3)] })] }
    let g := { up with mces := [(7, { Mce.reset with groupLost := true })] }
    (s.mce 7).cache.find? (fun t => t.level = 5 ∧ t.line = 0) = some ⟨5, 0, true⟩ ∧ (s.mce 7).childCached 5 0 = false
      ∧ Sparse.get 0 (s.mce 7).treeCtr (treeKey 5 0) + 1 < 2 ^ 64
      ∧ (l.mce 7).lost = [(0, 3)] ∧ (l.mce 7).groupLost = false ∧ (l.mce 7).maxCtr + 1 < 2 ^ 64 ∧ Memory.wf l = true ∧ Blocks.wf l = true
      ∧ (g.mce 7).groupLost = true ∧ Memory.wf g = true ∧ Blocks.wf g = true := by decide +kernel

/-! ### Witnesses: host ports and management -/

theorem test_HostPorts_witness :
    let r : HostRead := ⟨9, 0, 1#8, 1#13, 3, 2, 0, 0⟩
    let s := up.updHst false (fun h => { h with reads := [r] })
    let lit := { up with dev := { up.dev with outputsOff := false } }
    (s.hst false).reads.find? (fun r => r.tag = 9) = some r ∧ (s.hst false).reads.find? (fun r => r.tag = 8) = none
      ∧ (lit.hst true).link ≠ .up ∧ lit.dev.outputsOff = false ∧ lit.dev.state ≠ .boot
      ∧ (∀ x ∈ [(1#4, 4#4), (6#4, 8#4)], 1 ≤ x.1.toNat ∧ x.1.toNat ≤ 6 ∧ (x.2 = 4#4 ∨ x.2 = 8#4))
      ∧ (up.hst false).link = .up := by decide +kernel

/-- VF8 in each state of its interface; a finished session; a VF whose stream has a key. -/
theorem test_TdispAndIde_witness :
    let s (t : Tdi) := up.updHst false (fun h => { h with
      tdisp := [(0, .run), (7, t)], sessions := [⟨5, true, 0⟩], ideActive := 128#8 })
    (∀ t ∈ [Tdi.unlocked, .locked, .run, .error], (s t).tdispReaches false 8 = true ∧ ((s t).hst false).tdi (8 - 1) = t)
      ∧ (s .unlocked).sec.entropyOk = true ∧ ((s .run).hst false).sessionUp 5 = true ∧ (zeros 32).length = 32
      ∧ bitAt ((s .run).hst false).ideActive 7 = true := by decide +kernel

/-- Over DOE and over SMBus: a connection before its negotiation and behind it. -/
theorem test_SpdmRequests_witness :
    let s := { (up.updHst false (fun h => { h with negotiated := true, sessions := [⟨1, false, 0⟩, ⟨2, true, 0⟩, ⟨3, true, 0⟩] })) with
      mctpNegotiated := true }
    (∀ path ∈ [SpdmPath.doe false, .mctp (.smbus 0x40), .mctp (.vdm false)], up.spdmReaches path = true ∧ s.spdmReaches path = true
      ∧ up.spdmNegotiated path = false ∧ s.spdmNegotiated path = true) ∧ Blocks.wf up = true
      ∧ (up.hst false).link = .up ∧ (up.hst false).negotiated = false ∧ (s.hst false).link = .up ∧ (s.hst false).negotiated = true
      ∧ s.sec.entropyOk = true ∧ (s.hst false).sessions.any (fun x => x.id = 4) = false ∧ (s.hst false).sessions.length < 4
      ∧ (s.hst false).sessions.any (fun x => x.id = 1 ∧ x.finished = false) = true
      ∧ (s.hst false).sessions.any (fun x => x.id = 2 ∧ x.finished = true) = true := by decide +kernel

theorem test_ManagementMessages_witness :
    up.answers = true ∧ (MctpVia.smbus 0x40 = .smbus (0x40 + up.dev.ropePos.toNat)) ∧ (up.hst false).link = .up
      ∧ (1#8 ≠ 0#8 ∧ 1#8 ≠ 0xFF#8) ∧ (254#8 ≠ 0#8 ∧ 254#8 ≠ 0xFF#8) ∧ ¬ 3 ∈ [1, 2, 4, 5] ∧ ¬ 5 ∈ [1, 2, 3, 4] := by decide +kernel

/-- The input voltage one above its upper threshold, and at its lower one, whatever those are. -/
theorem test_ManagementMessages_threshold_witness :
    (∃ volts, beyondThreshold 2 (up.sensor 2 volts) true = true) ∧ ∃ volts, beyondThreshold 2 (up.sensor 2 volts) false = false := by
  refine ⟨⟨(Config.sensorThreshold 2 true).toNat + 1, ?_⟩, ⟨(Config.sensorThreshold 2 false).toNat, ?_⟩⟩ <;>
    simp [beyondThreshold, State.sensor]

/-- The public key of the private key 1. -/
def tenantKey : List Byte := sm2Bytes (some (sm2Gx, sm2Gy))

/-- A policy of one tenant, whom no window serves, signed by it. -/
def policy1 : List Byte :=
  leBytes 4 0x4C4F5044 ++ leBytes 2 1 ++ [1#8, 0#8, 0#8, 0xFF#8] ++ zeros 38 ++ sm3 tenantKey ++ zeros 1008
    ++ beBytes 32 0x10323b033195783a191cd2ed956e23b080509601d405c329d6bcb015ab9840f
    ++ beBytes 32 0xff7e6e26e673543e2f37196893548ee1ee015abb1325d71205060e888c788132 ++ zeros 960 ++ tenantKey ++ zeros 960

/-- A record of KIND 3 of that tenant, signed by it. -/
def record3 : List Byte :=
  [3#8] ++ zeros 183 ++ beBytes 32 0xcbfa3bc5911233ac82c3d7d12ff414060068cee09ea002208b20075b00c6785
    ++ beBytes 32 0xf9a02e20d3776e629be9e14176805f5f420098f41cd1051a4f62f3ce61cf0e37

/-- A policy for an EMPTY partition passes every check. -/
theorem test_SecurityMessages_policy_witness :
    let s := upWith (fun v => { v with state := .empty })
    s.answers = true ∧ s.policyResult 0 policy1 = resOk := by decide +kernel

/-- A signed record passes its rules; an empty one does not; a part with debug, a partition without a party. -/
theorem test_SecurityMessages_record_witness :
    let q : Party := ⟨policy1, [], 1, [], none, [], [], [], none, []⟩
    let s := upWith (fun v => { v with party := some q })
    let d := { up with fuses := { up.fuses with debugDisabled := false } }
    (q.recordResult record3).1 = resOk ∧ (q.recordResult []).1 ≠ resOk ∧ s.answers = true ∧ (s.prt 0).party = some q
      ∧ (s.prt 0).state = .active ∧ s.fuses.debugDisabled = true ∧ d.fuses.debugDisabled = false ∧ d.answers = true
      ∧ (up.prt 0).party = none ∧ up.policyResult 0 [] ≠ resOk ∧ (zeros 32).length = 32 := by decide +kernel

/-- A session in progress; its last block; a factory bank verifies, an empty one does not. -/
theorem test_SecurityMessages_staging_witness :
    let s := { up with sec := { up.sec with staging := some ⟨1024, 0⟩, bankA := .bytes 1024 [] } }
    let f := { up with sec := { up.sec with staging := some ⟨1024, 1024⟩, running := true, bankA := .factory } }
    up.sec.staging = none ∧ bankSize ≤ bankSize ∧ bankSize < bankSize + 1 ∧ s.sec.staging = some ⟨1024, 0⟩
      ∧ (zeros 1024).length ≤ 1024 ∧ 0 + (zeros 1024).length ≤ 1024 ∧ s.dev.state ≠ .boot
      ∧ (checkBank s.fuses (s.sec.bank s.sec.other)).1 ≠ resOk
      ∧ f.sec.staging = some ⟨1024, 1024⟩ ∧ f.mgc.recovery = false ∧ f.sec.bank f.sec.other = .factory
      ∧ f.fuses.key0Revoked = false ∧ f.fuses.svn = [] := by decide +kernel

/-- The images that a part leaves the factory with verify while no fuse has risen. -/
theorem test_factory_bank_verifies : (checkBank Fuses.reset .factory).1 = resOk := by
  simp [checkBank, Fuses.reset, Sparse.get]

/-- An event that waits, a record that is held and one that is not; TAIL 64 and 65 behind HEAD. -/
theorem test_ErrorRecords_witness :
    let e := CperEvent.base 1#8 1#8 0x1FFF
    let s := up.updHlt (fun h => { h with due := [e], records := [(65535, zeros 4)], cperHead := 3#16 })
    s.hlt.due = [e] ∧ s.answers = true ∧ s.hlt.records.find? (fun r => r.1 = 65535) = some (65535, zeros 4)
      ∧ s.hlt.records.find? (fun r => r.1 = 0) = none ∧ (zeros 320).length = 320 ∧ (zeros 319).length ≠ 320
      ∧ s.pf0Access (.pf0 false) = .serve ∧ (s.hlt.cperHead - bitsAt 0xFFC3#32 0 16).toNat ≤ 64
      ∧ 64 < (s.hlt.cperHead - bitsAt 0xFFC2#32 0 16).toNat := by decide +kernel

/-! ### Witnesses: resets of the device, power, weirs, registers -/

theorem test_DeviceResets_witness :
    let trip := { State.reset with dev := { Dev.reset with trip := true } }
    let l : Layout := ⟨[⟨0, 0, true, false⟩, ⟨4, 2, false, true⟩], List.replicate 24 0#8, []⟩
    let f : StartFacts := ⟨0#4, 0#2, false, 0xFF#8, 0xFF#8, [], [], [], [], true⟩
    up.answers = true ∧ State.reset.dev.state = .boot ∧ State.reset.dev.trip = false ∧ trip.dev.trip = true
      ∧ up.layoutLegal l = true ∧ up.liveParts.all (fun p => !(up.prt p).holdsParty || !up.touches l p) = true
      ∧ up.dev.state ≠ .boot ∧ up.mgc.recovery = false ∧ f.refPresent = false ∧ up.sec.staging = none := by decide +kernel

/-- Mean power one watt above the cap and below 97 % of it, at each place of VCORE and the rate limit; a junction on either
side of 105 °C; the envelope; the laser pairs. -/
theorem test_PowerAndHeat_witness :
    let d (f : Dev → Dev) := up.updDev f
    let floor (r : BitVec 4) := d (fun d => { d with vcore := 550, rateLimit := r })
    let low := d (fun d => { d with vcore := 640 })
    let hot := d (fun d => { d with thermal := true, paceBroken := true })
    let lit := d (fun d => { d with laserEnabled := 0xFF#8, laserIn := 0xFF#8 })
    let capped (w : Nat) : Nat := min ((BitVec.ofNat 32 w).toNat % 65536) (fusedLimit up.fuses.powerCode)
    up.pf0Access (.pf0 false) = .serve ∧ capped 4599 - 600 < 4000 ∧ 4000 ≤ capped 4600 - 600 ∧ capped 65535 = 4600
      ∧ up.powered = true ∧ up.dev.cap < 4601 ∧ 550 < up.dev.vcore
      ∧ (∀ r ∈ [0#4, 14#4], (floor r).dev.vcore ≤ 550 ∧ (floor r).dev.rateLimit.toNat < 15 ∧ (floor r).powered = true)
      ∧ (floor 15#4).dev.rateLimit.toNat = 15 ∧ 100 * 4461 < 97 * (floor 1#4).dev.cap ∧ (floor 1#4).dev.rateLimit ≠ 0#4
      ∧ low.dev.rateLimit = 0#4 ∧ low.dev.vcore < low.dev.target ∧ low.dev.thermal = false ∧ 100 * 4461 < 97 * low.dev.cap
      ∧ 840 < (841#12).toInt ∧ 824 < (825#12).toInt ∧ up.dev.thermal = false ∧ hot.dev.thermal = true ∧ 550 < hot.dev.vcore
      ∧ low.outsideEnvelope = true ∧ low.dev.paceBroken = false ∧ hot.outsideEnvelope = false ∧ hot.dev.paceBroken = true
      ∧ low.powered = true ∧ hot.powered = true ∧ lit.dev.laserEnabled = 0xFF#8 ∧ bitAt lit.dev.laserBackup 3 = false
      ∧ bitAt lit.dev.laserIn (2 * 3 + 1) = true := by decide +kernel

theorem test_WeirPeriods_witness : Blocks.wf up = true ∧ (36 < 37 ∨ (40 ≤ 36 ∧ 36 < 48)) ∧ (47 < 37 ∨ (40 ≤ 47 ∧ 47 < 48)) := by
  decide +kernel

/-- The last engine's page for the MGC; a part with error injection; a partition's weir with period 1 and 1,024 beside the
scrub's floor, and an allocation at and beyond the limit; a page that no partition owns. -/
theorem test_HeaderAndWeirRegisters_witness :
    let open_ := { up with fuses := { up.fuses with debugDisabled := false }, dev := { up.dev with injectEnabled := true } }
    let w (n a x : Nat) := up.updWeir 40 (fun v => { v with
      sel := BitVec.ofNat 4 a, nextPeriod := n, allocs := [(5, { Alloc.zero with next := 35 * 1024 }), (a, { Alloc.zero with next := x })] })
    up.regAccess .mgc 0x1FFF 0x018 = .serve ∧ up.regAccess vf1 (pagePrt 0) 0x018 = .serve ∧ up.regAccess .mgc 4 0x030 = .serve
      ∧ up.fuses.debugDisabled = true ∧ open_.fuses.debugDisabled = false ∧ open_.dev.injectEnabled = true
      ∧ bitAt 0x100#32 8 = true ∧ open_.regAccess .mgc 4 0x030 = .serve
      ∧ (w 1000 6 0).weirAccess vf1 40 = .serve ∧ ((w 1000 6 0).partUnits (40 - 40)).length = 1
      ∧ (∀ n ∈ [2, 1024], weirFits n ((w 1000 6 0).weir 40).nextAlloc 1 = true)
      ∧ weirFits 1 ((w 1000 6 0).weir 40).nextAlloc 1 = false
      ∧ (bitsAt 1024#32 0 11).toNat = 1024 ∧ (bitsAt 1025#32 0 11).toNat = 1025
      ∧ ((w 1000 6 0).weir 40).sel.toNat = 6
      ∧ weirFits 1000 (fun b => if b = 6 then 23400 * 1000 - 35 * 1024 else ((w 1000 6 0).weir 40).nextAlloc b) 1 = true
      ∧ weirFits 1000 (fun b => if b = 6 then 23400 * 1000 - 35 * 1024 + 1 else ((w 1000 6 0).weir 40).nextAlloc b) 1 = false
      ∧ (up.pageOwner 0x1FFF).isSome = false ∧ (pageClass 0x1FFF).isSome = true ∧ (up.pageOwner 0x1000).isSome = true := by
  decide +kernel

theorem test_RegisterWrites_witness :
    (2 ≠ 4 ∨ 0 % 4 ≠ 0) ∧ (4 ≠ 4 ∨ 1 % 4 ≠ 0)
      ∧ (∃ t, Machine.exec (.doorbellWrite vf1 0 15 1#32) up = .next t) ∧ (∃ t, Machine.exec (.slotRelease vf1 0 4095 1#32) up = .next t)
      ∧ ∃ t, Machine.exec (.errStatusClear vf1 (pagePrt 0) 1#32) up = .next t :=
  ⟨by decide, by decide, ⟨_, rfl⟩, ⟨_, rfl⟩, ⟨_, rfl⟩⟩

/-- R302, R304: a cap below the layout's capacity scales WEI36 at once and until the period in which it rises again ends; a
lent token is spent for its owner too, and scrub keeps its floor. -/
theorem test_served_room :
    let base := { up with mgc := { up.mgc with weir36Base := 4000 } }.updWeir 36 (fun w =>
      { w with capacity := 4000, allocs := [(0, { Alloc.zero with tokens := 1000 })] })
    let cut := base.setCap 3750
    let w (used : Nat) := up.updWeir 40 (fun v => { v with lend := true, period := 1, allocs :=
      [(0, { Alloc.zero with tokens := 100 }), (1, { Alloc.zero with tokens := 50, used := used }), (5, { Alloc.zero with tokens := 40 })] })
    base.served 36 0 = 1000 ∧ cut.served 36 0 = 787 ∧ (cut.setCap 4600).served 36 0 = 787
      ∧ ((afterOf (cut.setCap 4600) (exec (.weirPeriod 36) (cut.setCap 4600))).weir 36).capacity = 4000
      ∧ (w 0).room 40 0 = 155 ∧ (w 50).room 40 0 = 105 ∧ (w 155).room 40 0 = 0 ∧ (w 0).room 40 5 = 190 := by decide +kernel

/-! ### Witnesses: links -/

/-- A channel with keys. -/
def keyed : Sa := { Sa.reset with state := .open_, gen := 3#8, recvKey := zeros 16, recvSalt := zeros 8, sendKey := zeros 16, sendSalt := zeros 8 }

/-- Port 0 carries traffic; partition 0 and the control channel have keys; CREDIT_REQ on channel 8 waits for its answer. -/
def upLink : State := { up with lnks := [(0, { meshLnk with
  sas := [(0, { keyed with peerPart := 7#3 }), (8, keyed)], vcs := [(8, { Vc.reset with waitReset := true })] })] }

/-- The header of a flit of partition 0, or of the control channel where `vc` is 8. -/
def hdrOf (type vc msg : Nat) : FlitHdr := ⟨type, vc, false, false, false, 1, 3, 0, 0, 0, 0, msg, 0, 0⟩

/-- The flit that the peer sends. -/
def flitOf (type vc msg : Nat) (pl : List Byte) : List Byte :=
  protect (zeros 16) (zeros 8) (if sequenced type then 0 else 2 ^ 63) (hdrOf type vc msg) (pl ++ zeros (224 - pl.length))

/-- Port 0 delivers the flit on channel a. -/
def delivers (s : State) (type vc msg a : Nat) (pl : List Byte) : Bool :=
  match s.receive 0 (flitOf type vc msg pl) with
  | .deliver h _ b _ => decide (h.type = type ∧ h.msg = msg ∧ b = a ∧ (FlitHdr.ofBytes (flitOf type vc msg pl)).type = type)
  | .drop _ => false

theorem test_FlitDelivery_witness :
    let h := hdrOf 0x10 0 5
    let x := (upLink.lnk 0).sa h.vc
    FlitHdr.inRange h ∧ (zeros 224).length = 224 ∧ (upLink.lnk 0).carries = true ∧ flitTypes.contains h.type = true
      ∧ sequenced h.type = true ∧ h.vc < 8 ∧ h.seq = (upLink.lnk 0).rxSeq ∧ x.serves = true ∧ h.saGen = x.gen.toNat
      ∧ h.dstCtx = (upLink.prt h.vc).ctxId h.vc := by unfold FlitHdr.inRange; decide +kernel

/-- A flit of every type on the channel that its statement names: KEEPALIVE, NAK, CREDIT_REQ and CREDIT_RESET on the
control channel, … -/
theorem test_ReceivedFlits_control_witness :
    (∀ t ∈ [0x01, 0x02], delivers upLink t 8 0 8 (leBytes 8 (2 ^ 63)) = true)
      ∧ delivers upLink 0x03 8 0 8 [8#8] = true ∧ delivers upLink 0x04 8 0 8 [8#8] = true
      ∧ ((upLink.lnk 0).vc 8).waitReset = true := by decide +kernel

/-- … the set-up and the closing of an association, whose sender is partition 7, … -/
theorem test_ReceivedFlits_association_witness :
    delivers upLink 0x08 8 0 8 [7#8] = true ∧ delivers upLink 0x08 8 1 8 [7#8] = true ∧ delivers upLink 0x09 8 0 8 [7#8] = true
      ∧ (List.range 8).find? (fun k => decide (((upLink.lnk 0).sa k).peerPart.toNat = 7)
          && (((upLink.lnk 0).sa k).serves || decide (((upLink.lnk 0).sa k).state = .exchanging))) = some 0 := by decide +kernel

/-- … and the flits of a partition's channel. -/
theorem test_ReceivedFlits_data_witness :
    (∀ t ∈ [0x10, 0x11, 0x12, 0x13, 0x14, 0x15, 0x16, 0x17, 0x18], delivers upLink t 0 5 0 [] = true)
      ∧ upLink.meshPeer 0 = some 1 := by decide +kernel

/-- A flit with a bad CRC, one of an unlisted type with a good one, and a port that is dark. -/
theorem test_ReceivedFlits_rejects_witness :
    (upLink.lnk 0).carries = true ∧ crcGood (zeros 255 ++ [1#8]) = false ∧ crcGood (flitOf 0x05 8 0 []) = true
      ∧ flitTypes.contains (FlitHdr.ofBytes (flitOf 0x05 8 0 [])).type = false ∧ (up.lnk 23).carries = false := by decide +kernel

/-- Port 23 in each state that an event needs, and port 22 DARK; management through PF0; an association opened, open and idle; a CREDIT_REQ
that has been sent 7 and 8 times. -/
theorem test_LinkEvents_witness :
    let s (l : Lnk) := { up with lnks := [(23, l)] }
    let lost (b : Bool) := s { Lnk.reset with state := .lost, loopback := b }
    let wait (n : Nat) := s { meshLnk with
      sas := [(7, { keyed with peerPart := 8#3 }), (6, { keyed with peerPart := 5#3 })], vcs := [(5, { Vc.reset with waitReset := true, requests := n })] }
    let strapped := { up with dev := { up.dev with bootSel := 2#2 } }
    let taken := s { Lnk.reset with takeoverEn := true, takeover := 22#5 }
    let dev8 := s { Lnk.reset with saSel := 8#4 }
    let own := { up with lnks := [(23, { meshLnk with mask := 1#8 })] }
    ((s meshLnk).lnk 23).carries = true ∧ (∀ b ∈ [true, false], ((lost b).lnk 23).state = .lost ∧ ((lost b).lnk 23).loopback = b)
      ∧ ((s { Lnk.reset with state := .training }).lnk 23).state = .training
      ∧ up.manages (.pf0 false) = true ∧ up.manages .mgc = true ∧ up.dev.state ≠ .boot ∧ (up.lnk 23).takeoverEn = false
      ∧ (taken.lnk 23).takeoverEn = true ∧ (taken.lnk 23).takeover.toNat = 22 ∧ (taken.lnk 23).takeover.toNat ≠ 21
      ∧ dev8.saAccess .mgc 23 = .serve ∧ (dev8.lnk 23).saSel.toNat = 8 ∧ bitAt 1#32 0 = true
      ∧ strapped.dev.bootSel = 2#2 ∧ strapped.dev.linksReleased = false
      ∧ (up.lnk 22).state = .dark ∧ (up.lnk 22).light = false ∧ up.dev.bootSel ≠ 2#2
      ∧ ((s { Lnk.reset with takeoverEn := true }).lnk 23).state = .dark
      ∧ own.saAccess vf1 23 = .serve ∧ (own.lnk 23).saSel.toNat < 8 ∧ up.saAccess .mgc 23 = .serve
      ∧ (((own.writeSaCtrl 23 1#32).lnk 23).sa (((own.writeSaCtrl 23 1#32).lnk 23).saSel.toNat)).state = .open_
      ∧ (((up.writeSaCtrl 23 1#32).lnk 23).sa (((up.writeSaCtrl 23 1#32).lnk 23).saSel.toNat)).state ≠ .open_
      ∧ (∀ n ∈ [7, 8], (((wait n).lnk 23).vc 5).waitReset = true ∧ (((wait n).lnk 23).vc 5).requests = n)
      ∧ ((wait 8).lnk 23).saOnVc 5 = some 6 := by decide +kernel

/-! ### Witnesses: health -/

/-- The last engine works for partition 0: not hung, and already hung. -/
theorem test_Watchdogs_witness :
    let n := pageEng 31 15
    let s := { up with engs := [(16 * 31 + 15, mmEng)] }
    let h := { s with hdrs := [(n, { hdrReset n with hung := true })] }
    ∀ x ∈ [(s, false), (h, true)], hasWatchdog n = true ∧ (x.1.hdr n).watchWindow ≠ 0#32 ∧ x.1.pendingWork n = true
      ∧ (x.1.hdr n).suspect = false ∧ x.1.dev.state ≠ .boot ∧ (x.1.hdr n).hung = x.2 := by decide +kernel

theorem test_RiskPeriods_witness : up.dev.state ≠ .boot := by decide +kernel

/-- Engines of one owner, owned and unowned; a due drain; a drain that waits for a belay; a part with debug. -/
theorem test_PatrolDrainDebug_witness :
    let due := up.updHlt (fun h => { h with drainDue := some 1 })
    let o := opOf 9 0#1024 []
    let run := (upOps [{ o with internal := true, belay := some { belayRun with kind := 2#8 } }]).updHlt (fun h => { h with drain := some ⟨1, [0]⟩ })
    let d := { up with fuses := { up.fuses with debugDisabled := false } }
    up.dev.state ≠ .boot ∧ up.dev.state ≠ .fault ∧ up.hlt.patrolEn = true
      ∧ (up.mayPatrol 0 0 = true ∧ up.mayPatrol 31 0 = true ∧ up.unitOwner (31 / 32) = up.unitOwner (0 / 32) ∧ up.unitOwner (0 / 32) = some 0)
      ∧ (up.mayPatrol 32 15 = true ∧ up.mayPatrol 255 15 = true ∧ up.unitOwner (255 / 32) = up.unitOwner (32 / 32)
        ∧ up.unitOwner (32 / 32) = none)
      ∧ due.hlt.drainDue = some 1 ∧ due.hlt.drain = none ∧ due.dev.state = .ready ∧ up.hlt.drainDue = none ∧ up.hlt.drain = none
      ∧ up.dev.state = .ready ∧ run.hlt.drain = some ⟨1, [0]⟩ ∧ (run.prt 0).drainBelay.isSome = true
      ∧ up.fuses.debugDisabled = true ∧ d.fuses.debugDisabled = false := by decide +kernel

/-! ### Witnesses: every command of an operation -/

theorem test_OperationsComplete_life_witness :
    let acc : OpRec := { mmOp with phase := .accepted }
    let r := opOf 6 (desc [(0, 0x41), (8, 2)]) [(2, entry 1 6 0 64 1 (2 ^ 13))]
    let s3 := upOps [{ mmOp with done := true }]
    ((upOps [acc]).prt 0).op 5 = some acc ∧ (upOps [acc]).startable 0 acc = true ∧ (upOps [acc]).blocksTake 0 = true
      ∧ ((upOps [mmOp]).prt 0).op 5 = some mmOp ∧ mmOp.phase = .started ∧ mmOp.done = false ∧ mmOp.asks 4 0 = true
      ∧ (4, 0) ∉ mmOp.granted ∧ ((upOps [mmOp]).prt 0).tokenFree mmOp 4 0 = true
      ∧ (s3.prt 0).op 5 = some { mmOp with done := true } ∧ Blocks.wf s3 = true ∧ dOp mmOp.desc ≠ 0x21
      ∧ ((upOps [r]).prt 0).op 6 = some r ∧ dOp r.desc = 0x41 ∧ r.phase = .started
      ∧ (((upOps [r]).prt 0).before r).any (fun a => a.names (dA r.desc) && !idleHandle a.desc (dA r.desc)
          && a.readsTag (dA r.desc) (dTag r.desc)) = false := by decide +kernel

/-- A ready operation of every kind that one command carries out. -/
theorem test_OperationsComplete_work_witness :
    let e := entry 0 3 0 1 1 (2 ^ 14 + 2 ^ 25)
    let op (code sub : Nat) := opOf 1 (desc [(0, code), (1, sub), (4, 1), (8, 2), (10, 2), (12, 4)]) [(2, e), (4, entry 0 6 4096 512 1 0)]
    ∀ x ∈ [(0x10, 0x00), (0x10, 0x01), (0x10, 0x02), (0x10, 0x03), (0x10, 0x04), (0x10, 0x05), (0x10, 0x06), (0x10, 0x07), (0x10, 0x08),
        (0x10, 0x09), (0x10, 0x0A), (0x10, 0x0B), (0x10, 0x0C), (0x10, 0x0D), (0x10, 0x10), (0x10, 0x11), (0x10, 0x12), (0x10, 0x13),
        (0x10, 0xF0), (0x11, 0), (0x12, 0), (0x13, 0), (0x14, 0), (0x14, 1), (0x14, 2), (0x15, 0), (0x15, 1), (0x15, 2), (0x30, 0),
        (0x31, 0), (0x32, 0), (0x42, 0), (0x50, 3), (0x50, 4)],
      Ready (upOps [op x.1 x.2]) 0 1 x.1 x.2 (op x.1 x.2) := by unfold Ready; decide +kernel

/-- A MATMUL and both scans, with no other array operation and no engine at work; an adapter pass, a core's scan, an agreement. -/
theorem test_OperationsComplete_array_witness :
    let scan (sub : Nat) := opOf 5 (desc [(0, 2), (1, sub), (4, 1), (8, 2), (10, 3), (12, 4)]) mmEnts
    let all : OpRec := { mmOp with scans := (List.range 32).map (fun c => (c, none)) }
    let g := ((upVar varOp).gemm 0 varOp).1
    (∀ o ∈ [mmOp, scan 0, scan 1], (upOps [o]).arrayFree 0 5 = true ∧ (upOps [o]).engaged 0 5 = false)
      ∧ Ready (upOps [mmOp]) 0 5 0x01 (dSub mmOp.desc) mmOp ∧ Ready (upOps [scan 0]) 0 5 0x02 0 (scan 0)
      ∧ Ready (upOps [scan 1]) 0 5 0x02 1 (scan 1)
      ∧ (∀ x ∈ [(upVar varOp, varOp), (upOps [mmOp], mmOp), (upOps [all], all)], (x.1.prt 0).op 5 = some x.2 ∧ isArray x.2.desc = true
          ∧ (x.1.prt 0).mayRun x.2 = true ∧ (x.1.prt 0).readsVoid x.2 = false ∧ dMode x.2.desc = 0 ∧ x.2.anchor = none)
      ∧ varOp.adapters.contains 0 = false ∧ dVar varOp.desc ≠ 0 ∧ (varOp.namedVariants g).contains 0 = true
      ∧ ((upVar varOp).gemm 0 varOp).2.arrayFree 0 5 = true
      ∧ mmOp.passesDone ((upOps [mmOp]).gemm 0 mmOp).1 = true ∧ (((upOps [mmOp]).gemm 0 mmOp).2.partCores 0).contains 31 = true
      ∧ mmOp.scans.any (fun x => x.1 = 31) = false ∧ all.passesDone ((upOps [all]).gemm 0 all).1 = true
      ∧ (((upOps [all]).gemm 0 all).2.partCores 0).all (fun c => all.scans.any (fun x => x.1 = c)) = true := by
  unfold Ready; decide +kernel

/-- A load for engine 15, and a swap; the other steps of the array meet the hypotheses of the witnesses above. -/
theorem test_OperationsComplete_steps_witness :
    let o : OpRec := { mmOp with anchor := some 0 }
    let s := upEng o { mmEng with state := 2#4, shadowFull := true }
    (match (upOps [mmOp]).workOf 0 5 with
      | some (w, t) => t.mayLoad 0 w 0 15 0 0 0 && decide (eDim w.g.we 2 * eDim w.g.we 3 = 1) | none => false) = true
    ∧ [15].Nodup ∧ [15] ≠ []
    ∧ (match s.jobWork 0 0 with
      | some (j, w, _) => s.arrayFree j.part j.seq && w.o.anchor.isSome && decide ((s.eng 0 0).shadowFull = true
          ∧ (s.eng 0 0).next = none ∧ (s.eng 0 0).state = 2#4)
      | none => false) = true := by decide +kernel

/-- A group of one whose phases are behind it; a full staging area; a STEP_COMMIT alone; replicas that nobody awaits. -/
theorem test_OperationsComplete_collectives_witness :
    let e := entry 0 3 0 1 1 0
    let op (code sub : Nat) (c : Coll) : OpRec := { opOf 1 (desc [(0, code), (1, sub), (4, 1), (8, 2), (12, 4), (104, 7)])
      [(2, e), (4, entry 0 3 128 1 1 0)] with coll := c }
    let run : Coll := { Coll.zero with sentCheck := true, sentAnchors := true, sentData := true, stagePages := 1, merged := [0] }
    (∀ sub ∈ [0, 1, 2, 3],
      let o := op 0x20 sub run
      let s := upOps [o]
      Ready s 0 1 0x20 sub o ∧ s.numbered o = true ∧ (s.prt 0).earlyColl = [] ∧ (s.peersOf o.desc).all o.coll.checked.contains = true
        ∧ o.coll.prov = [] ∧ s.allIn o = true)
    ∧ (let o := op 0x20 0 { run with stageReady := true }
       ((upOps [o]).prt 0).op 1 = some o ∧ dOp o.desc = 0x20 ∧ o.done = false)
    ∧ (let o := op 0x21 0 Coll.zero
       let s := upOps [o]
       Ready s 0 1 0x21 (dSub o.desc) o ∧ s.numbered o = true ∧ (s.prt 0).restoreState ≠ 1#3 ∧ (s.prt 0).collEnds = []
        ∧ (s.prt 0).ops.any (fun a => decide (a.seq < o.seq ∧ dOp a.desc = 0x20 ∧ dStep a.desc = dStep o.desc)) = false
        ∧ (s.peersOf o.desc).all o.coll.commits.contains = true)
    ∧ (let o := op 0x42 1 run
       Ready (upOps [o]) 0 1 0x42 1 o ∧ ((upOps [o]).prt 0).before o = [] ∧ o.coll.checked = []) := by unfold Ready; decide +kernel

/-- Both kinds of UPDATE, whose first chunk ends, and the repeat of one; belays to copy and to seal; a risk belay; fences. -/
theorem test_OperationsComplete_updates_witness :
    let op (sub : Nat) := opOf 4 (desc [(0, 0x40), (1, sub), (4, 1), (8, 2), (10, 3), (14, 4), (22, 1), (32, 1)])
      [(2, entry 1 3 0 1 1 0), (3, entry 0 3 0 1 1 0), (4, entry 1 3 4096 1 1 0)]
    ∀ sub ∈ [0, 1],
      let o := op sub
      let s := upOps [o]
      let seen := (((s.countCe (pageUpd 0) true).raiseErr (pageUpd 0) 0 0#32).report
        { CperEvent.base 6#8 1#8 (pageUpd 0) with jseq := 4, fatal := false }).holdChunk 0 4 0 5#4
      (s.prt 0).op 4 = some o ∧ dOp o.desc = 0x40 ∧ dSub o.desc = sub ∧ (s.prt 0).tokensReady o = true ∧ (s.prt 0).commitStatus o = none
        ∧ o.linesIn = true ∧ (s.prt 0).readsVoid o = false ∧ eFrozen (o.ent (dA o.desc)) = false
        ∧ s.chunkOpen 0 o 0 = true ∧ (s.ruleChunk 0 o 0).out.running = false
        ∧ s.unitOwner 0 = some 0 ∧ s.chunkOn 0 0 = some (4, 0) ∧ (s.hdr (pageUpd 0)).suspect = false
        ∧ seen.chunkOpen 0 o 0 = true ∧ (seen.ruleChunk 0 o 0).out.running = false := by decide +kernel

theorem test_OperationsComplete_belays_witness :
    let op (sub : Nat) (b : BelayRun) : OpRec := { opOf 5 (desc [(0, 0x50), (1, sub), (12, 4), (32, 1), (104, 7)])
      [(4, entry 0 6 0 64 1 0)] with belay := some b }
    let sealing := op 0 { belayRun with copied := true }
    let ended := (upOps [sealing]).updPrt 0 (fun v => { v with commits := [(6, 7, some stOK)] })
    let due := upWith (fun v => { v with riskDue := true })
    let f (sub : Nat) := opOf 6 (desc [(0, 0x60), (1, sub)]) []
    (∀ sub ∈ [0, 1, 2],
      let o := op sub belayRun
      ((upOps [o]).prt 0).op 5 = some o ∧ o.done = false ∧ dOp o.desc = 0x50 ∧ dSub o.desc = sub ∧ belayRun.copied = false
        ∧ ((upOps [o]).prt 0).tokensReady o = true ∧ o.linesIn = true)
    ∧ (ended.prt 0).op 5 = some sealing ∧ sealing.done = false ∧ (ended.prt 0).sealStatus sealing { belayRun with copied := true } ≠ none
    ∧ (due.prt 0).riskDue = true ∧ Blocks.wf due = true
    ∧ Ready (upOps [f 0]) 0 6 0x60 0 (f 0) ∧ Ready (upOps [f 1]) 0 6 0x60 1 (f 1)
    ∧ ((upOps [f 0]).prt 0).before (f 0) = [] ∧ ((upOps [f 1]).prt 0).before (f 1) = [] ∧ (f 0).done = false := by
  unfold Ready; decide +kernel

/-! ### Worked examples of the spec -/

/-- An element of LG8 with its block scale. -/
def lg8 (code : Nat) (scale : BitVec 8) : Elem := ⟨code, scale, decodeLg .lg8 code (some scale), false, false⟩

/-- Tables 4.6 and 4.7: the dot product, its residue, and its LG8 result with the block scale −7. -/
theorem test_table_4_7 :
    let x := [lg8 0x48 0x00#8, lg8 0xC4 0x00#8, lg8 0x41 0x00#8, lg8 0x00 0x00#8]
    let w := [lg8 0x50 0xFE#8, lg8 0x4C 0xFE#8, lg8 0x38 0xFE#8, lg8 0x7F 0xFE#8]
    let z := chainSlot 15 (List.range 4) (fun i => x.getD i .pad) (fun i => w.getD i .pad)
    z = ⟨0x0245CAE1, 0xCD26, 0#16⟩ ∧ (blockScale .lg8 [(outClass 15 z).exact]) = (-7, false)
      ∧ ((outClass 15 z).encode .lg8 (-7) true true).1 = some 0x79 := by decide +kernel

/-- Table 4.8: FIX with A = 4 replaces a product by the largest of the grid and sets OVF; a NaN enters as 0. -/
theorem test_table_4_8 :
    let x := [lg8 0x50 0#8, lg8 0x80 0#8, lg8 0xC8 0#8, lg8 0x44 0#8, lg8 0x08 0xF0#8]
    let w := [lg8 0x50 0#8, lg8 0x48 0#8, lg8 0x38 0#8, lg8 0x4C 0#8, lg8 0x08 0xF0#8]
    let z := chainSlot 4 (List.range 5) (fun i => x.getD i .pad) (fun i => w.getD i .pad)
    z = ⟨0x12FFFFFFFFF, 0x012F, fNAN ||| fOVF⟩ ∧ ((outClass 4 z).encode .fp32 0 true true).1 = some 0x7FC00000
      ∧ ((outClass 4 { z with flags := fOVF }).encode .fp32 0 true true).1 = some 0x7F7FFFFF := by decide +kernel

/-- Tables 4.9 and 4.10: two parts under their own anchors, and under the agreed anchor 17. -/
theorem test_table_4_9 :
    let tile (a v : Int) : WTile := ⟨some a, false, 0#16, 32, [(0, ⟨v, residueOf v, 0#16⟩)]⟩
    let own := WTile.merge [0] (tile (-7) 0x1000000) (tile 17 0x1000000)
    let fix := WTile.merge [0] (tile 17 0) (tile 17 0x1000000)
    own.slot 0 = ⟨0x1000001, 0x0101, 0#16⟩ ∧ own.anchor = some 17 ∧ own.len = 64
      ∧ recWord 17 own.empty own.flags own.len = 0x0000004000400011
      ∧ fix.slot 0 = ⟨0x1000000, 0x0100, 0#16⟩ ∧ recWord 17 fix.empty fix.flags fix.len = 0x0000004000000011 := by decide +kernel

/-- Table 11.9: member 3's 1.75 steps round to 2, and the sum of the four partials. -/
theorem test_table_11_9 :
    let tile (a v : Int) : WTile := ⟨some a, false, 0#16, 1024, [(0, ⟨v, residueOf v, 0#16⟩)]⟩
    let m := WTile.merge [0]
    let t := m (m (m (tile 17 0x1000000) (tile 17 0x800000)) (tile 17 (-0x800000))) (tile 15 7)
    t.slot 0 = ⟨0x1000002, 0x0102, 0#16⟩ ∧ recWord 17 t.empty t.flags t.len = 0x0000100000400011 := by decide +kernel

/-- Table 15.2: the chain row by row; fault A leaves the syndrome 0xFFFD, fault B none. -/
theorem test_table_15_2 :
    let act (c : Nat) : Act := ⟨0, c, 0#8, 0, 0#8, false, false⟩
    let wt (c : Nat) : Weight := ⟨c, 0xFE#8, 0, 0#8, false, false⟩
    let c0 := (cellChain .lg8 false 15 (act 0x48) (wt 0x50) ⟨0, 0, 0, 0#16⟩ 0).1
    let c1 := (cellChain .lg8 false 15 (act 0xC4) (wt 0x4C) c0 0).1
    let c2 := (cellChain .lg8 false 15 (act 0x41) (wt 0x38) c1 0).1
    let c3 := cellChain .lg8 false 15 (act 0x00) (wt 0x7F) c2 0
    c0 = ⟨0, 0x04000000, 0x0400, 0#16⟩ ∧ c1 = ⟨0, 0x02000000, 0x0200, 0#16⟩ ∧ c2 = ⟨0, 0x0245CAE1, 0xCD26, 0#16⟩
      ∧ c3 = (⟨0, 0x0245CAE1, 0xCD26, 0#16⟩, 1) ∧ syndrome 0x0247CAE1 0xCD26 = 0xFFFD ∧ syndrome 0x0246CAE0 0xCD26 = 0 := by
  decide +kernel

/-- Table 2.8: six values under the block scale −6. -/
theorem test_table_2_8 :
    let x : List F32 := [0x40400000#32, 0xBE99999A#32, 0x38D1B717#32, 0x358637BD#32, 0x7F800000#32, 0x80000000#32]
    blockScale .lg8 (x.map (fun v => decodeFp 23 v.toNat)) = (-6, false)
      ∧ x.map (fun v => (encodeElem .lg8 (-6) false true (decodeFp 23 v.toNat)).1) = [0x7D, 0xE2, 0x06, 0x00, 0x80, 0x00] := by decide +kernel

/-- Table 2.11: four elements of a tile with anchor 10 under HIST_BASE −16. -/
theorem test_table_2_11 :
    let h := [(0x60000000 : Int), -21474836, 1, 0].foldl (fun (h : Hist) v => h.foldSlot 10 ⟨v, residueOf v, 0#16⟩) { Hist.zero with base := -16 }
    h.bins = [(0, 1), (10, 1), (16, 1)] ∧ h.zeros = 1 := by decide +kernel

/-- Tables 5.13 and 5.14: the words of the descriptor, its fields, and the entries of X, W and Y. -/
theorem test_table_5_14 :
    let d : Desc := BitVec.ofNat 1024 (0x00260001 + 0x00114005 * 2 ^ 32 + 0x00210020 * 2 ^ 64 + 0x00000022 * 2 ^ 96
      + 0x00000023 * 2 ^ 128 + 0x00030411 * 2 ^ 160 + 0x000F0000 * 2 ^ 192)
    let v := { part with gen := 5#13 }
    let x : Entry := BitVec.ofNat 512 (8192 * 2 ^ 192 + 256 * 2 ^ 224 + 2 ^ 256 + 2 ^ 288 + 0x8888 * 2 ^ 320)
    let y : Entry := BitVec.ofNat 512 (1024 * 2 ^ 192 + 256 * 2 ^ 224 + 2 ^ 256 + 2 ^ 288 + 0x80AB * 2 ^ 320)
    dOp d = 1 ∧ dSub d = 0 ∧ dCtx d = v.ctxId 2 ∧ dSlot d = 0x11 ∧ dA d = 0x20 ∧ dB d = 0x21 ∧ dC d = 0x22 ∧ dD d = 0 ∧ dMask d = 0x23
      ∧ dVar d = 0 ∧ dAnchor d = 17 ∧ dMode d = 1 ∧ dTag d = 3 ∧ dFlagMask d = 0xF#16 ∧ dTransA d = false ∧ dTransB d = true
      ∧ dAccum d = true ∧ dWide d = false ∧ dIrq d = true ∧ checkCodes d = true
      ∧ eTier x = 0 ∧ eFmt x = .lg8 ∧ eScaled x = true ∧ eVersioned x = false ∧ eScaleBytes x = 65536
      ∧ eTier y = 3 ∧ eFmt y = .wp72 ∧ eTiles y = 64 ∧ eDataBytes y = 3 * 2 ^ 20 := by decide +kernel

/-- Table 8.10: one element through the program of Table 8.9. -/
theorem test_table_8_10 :
    let d := desc [(36, 0x3B800000), (40, 0x3D800000), (44, 0x3F000000), (48, 0x3F400000)]
    let prog : List (BitVec 32) := [0x00000000#32, 0x00010010#32, 0x00020020#32, 0x000A0030#32, 0x000068C9#32, 0x00000245#32,
      0x00080050#32, 0x00090060#32, 0x00000363#32, 0x00001A42#32, 0x000D0070#32, 0x00001ED3#32, 0x00001284#32, 0x000B0030#32,
      0x000068A9#32, 0x00000001#32, 0x00020101#32, 0x0000000F#32]
    let r := seqRun d false prog (fun k => match k with
      | 0 => ⟨0x3F800000#32, decodeFp 23 0x3F800000, 0#16, false⟩ | 1 => ⟨0x3E800000#32, decodeFp 23 0x3E800000, 0#16, false⟩
      | _ => ⟨0xBF000000#32, decodeFp 23 0xBF000000, 0#16, false⟩)
    r.w = 0x3F807800#32 ∧ r.m = 0xBEA00000#32 ∧ (encodeElem .lg16 (-63) true true (decodeFp 23 r.w.toNat)).1 = 0x7F01 := by decide +kernel

/-- The example behind R193: k = 3 and block 37 of a SPREAD weight lie in core 5 at slice offset 0x010001C0. -/
theorem test_spread_address : up.poolKey 0 0 0x4000010001000000 14656 = 5 * 2 ^ 31 + 0x010001C0 := by decide +kernel

/-- Table 10.4: the tree lines on the path of data line 123,456,789. -/
theorem test_table_10_4 :
    treePath 123456789 = [(0, 7716049), (1, 482253), (2, 30140), (3, 1883), (4, 117), (5, 7)] := by decide +kernel

/-- The example of R363: RISK 9, 89, 99 and 255 in four periods, the third of which requests risk belays. -/
theorem test_risk_example :
    let run (e : Sparse Nat) (n : Sparse Nat) : Nat × Nat × Nat :=
      let s := up.updHlt (fun h => { h with leaky := e, events := n })
      match Machine.exec (.riskPeriod 99) s with
      | .next t => (t.hlt.risk.toNat, Sparse.get 0 t.hlt.leaky 2, Sparse.get 0 t.hlt.leaky 5)
      | _ => (0, 0, 0)
    run [(0, 320), (5, 32)] [(0, 40)] = (9, 0, 32) ∧ run [(0, 320), (5, 32)] [(0, 40), (2, 80)] = (89, 80, 32)
      ∧ run [(0, 320), (2, 80), (5, 32)] [(0, 40), (2, 20)] = (99, 90, 32)
      ∧ run [(0, 320), (2, 90), (5, 32)] [(0, 40), (2, 200)] = (255, 279, 32) := by decide +kernel

/-- The example of R142: the window at lo = 12 holds 999,950 of 1,000,000, so the choice is LG8 with CENTRE −40 + 12 + 7. -/
theorem test_auto_choice :
    let bins (a b : Nat) := (List.range 64).map (fun k => if k = 11 then a else if k = 12 then 500 else if k = 20 then 998450
      else if k = 26 then 1000 else if k = 27 then b else 0)
    let snap (a b : Nat) := (bins a b).flatMap (leBytes 4) ++ leBytes 4 (2 ^ 32 - 40)
    autoChoice (-40) [snap 30 20] = some (.lg8, some (-21)) ∧ autoChoice (-40) [snap 80 40] = some (.lg16, none) := by decide +kernel

/-- "Locating one engine": page 0x1899 is ENG 0x899 and reads its ID; POOL17 lies on page 0x211; the view of P4. -/
theorem test_locating_one_engine :
    let s := { up with
      mgc := { up.mgc with units := [(4, 5), (5, 5)] }, prts := [(4, { part with log2Units := 1, epoch := 3#8 })]
      engs := [(16 * 137 + 9, { Eng.zero with residueFail := 6#32 })]
      hsts := [(0, { Hst.reset with link := .up, tdisp := [(4, .run)], ideActive := 16#8 })] }
    let rd (via : Via) (off : Nat) := (s.readReg via off 4).map (·.1)
    pageEng 137 9 = 0x1899 ∧ pagePool 17 = 0x211 ∧ rd (.pf0 false) 0x1899098 = some 6#32 ∧ rd (.pf0 false) 0x1899000 = some 0x00550899#32
      ∧ rd (.vf false 4 true) 0x0A09998 = some 6#32 := by decide +kernel

/-- The layout that the spec gives as legal, and one in which units 2 and 3 meet unit 4. -/
theorem test_layout_example :
    layoutPartsLegal ⟨[⟨0, 2, true, false⟩, ⟨4, 1, true, false⟩, ⟨6, 0, true, false⟩], List.replicate 24 0#8, []⟩ = true
      ∧ layoutPartsLegal ⟨[⟨2, 2, true, false⟩], List.replicate 24 0#8, []⟩ = false := by decide +kernel

/-! ### A few whole commands -/

/-- Bytes in a list at an address of the pool. -/
def poolOf (bs : List (Nat × Byte)) : Sparse Byte := bs.foldl (fun m x => Sparse.set 0#8 m x.1 x.2) []

/-- MATMUL of the operands of Table 4.6 into LG8: the code 0x79 under the scale 0xF9. -/
theorem test_matmul_table_4_6 :
    let sc (a : Nat) (e : Entry) : Entry := e + BitVec.ofNat 512 (a * 2 ^ 128)
    let o := opOf 5 mmDesc [(2, sc 256 (entry 0 1 0 4 1 (2 ^ 11))), (3, sc 512 (entry 0 1 64 1 4 (2 ^ 11))),
      (4, sc 640 (entry 0 1 128 1 1 (2 ^ 11)))]
    let s := { upOps [o] with pool := poolOf ([(0, 0x48#8), (1, 0xC4#8), (2, 0x41#8), (64, 0x50#8), (65, 0x4C#8), (66, 0x38#8),
      (67, 0x7F#8), (512, 0xFE#8), (513, 0xFE#8), (514, 0xFE#8), (515, 0xFE#8)]) }
    (match Machine.exec (.matmul 0 5) s with
      | .next t => decide (t.poolByte 128 = some 0x79#8 ∧ t.poolByte 640 = some 0xF9#8
          ∧ ((t.prt 0).op 5).map (fun o => (o.done, o.status)) = some (true, stOK))
      | _ => false) = true := by decide +kernel

/-- VEC ADD of 1.0 and 2.0, which share a tensor with nothing: 3.0. -/
theorem test_vec_add :
    let o := opOf 5 (desc [(0, 0x10), (1, 1), (4, 1), (8, 2), (10, 3), (12, 4)]) [(2, entry 0 3 0 1 1 0), (3, entry 0 3 64 1 1 0), (4, entry 0 3 128 1 1 0)]
    let s := { upOps [o] with pool := poolOf [(2, 0x80#8), (3, 0x3F#8), (67, 0x40#8)] }
    (match Machine.exec (.vecAdd 0 5) s with
      | .next t => decide ((List.range 4).map (fun i => t.poolByte (128 + i)) = [some 0#8, some 0#8, some 0x40#8, some 0x40#8])
      | _ => false) = true := by decide +kernel

/-- The full queue of `upQueue` and a doorbell one beyond it: TAIL 63 is stored, TAIL 64 sets DOORBELL. -/
theorem test_doorbell :
    let run (v : Reg) := match Machine.exec (.doorbellWrite vf1 0 0 v) upQueue with
      | .next t => (((t.prt 0).queue 0).tail, (t.hdr (pagePrt 0)).errStatus) | _ => (0, 0#32)
    run 63#32 = (63, 0#32) ∧ run 64#32 = (0, 1#32) := by decide +kernel

/-- A step takes the command at the front of the queue. -/
theorem test_step_order :
    (match Machine.step { upQueue with pending := [.doorbellWrite vf1 0 0 5#32, .doorbellWrite vf1 0 0 6#32] } with
      | .next t => decide (((t.prt 0).queue 0).tail = 5 ∧ t.pending = [.doorbellWrite vf1 0 0 6#32])
      | _ => false) = true := by decide +kernel

/-! ### Ill-formed commands: one for each check -/

theorem test_wellFormed_refuses :
    ∀ c ∈ ([.doorbellWrite (.vf false 8 true) 0 0 0#32, .doorbellWrite vf1 8 0 0#32, .doorbellWrite vf1 0 16 0#32,
        .adapterPass 0 1 65536, .anchorScanPhase 0 1 256, .stationaryLoad 0 1 0 [16] 0 0 0, .swap 0 16, .cellStep 0 0 64 0 0 0,
        .cellStep 0 0 0 64 0 0, .footAddition 0 0 256 0, .outputConversion 0 1 0 3, .vecExp 0 1 [7, 7, 7], .chunkRerun 8 true,
        .slotRelease vf1 0 4096 0#32, .baseLoWrite vf1 0 (.lend 16) 0#32, .keyLoad vf1 10, .sweepFlush 10 0, .sweepFlush 0 64,
        .basinWrite 8 0 0 (zeros 128), .basinWrite 0 5625000000 0 (zeros 128), .basinWrite 0 0 0 (zeros 127),
        .basinPartialWrite 0 0 0 127 (zeros 2) .clean, .treeEviction 0 6 0, .treeEviction 0 0 (2 ^ 32), .scrubStep 8 .clean,
        .lineTest 8192 .sound, .poolRead (.pool 256) 0 .clean, .poolRead (.pool 0) 1500000000 .clean, .poolRead (.scratchpad 0) 4194304 .clean,
        .poolRead .store 8192 .clean, .poolScrub 32,
        .hostReadCompletion false 768 none, .hostReadCompletion false 0 (some (zeros 135)), .hostLinkUp false 0#4 8#4 true,
        .hostLinkUp false 7#4 8#4 true, .hostLinkUp false 6#4 2#4 true, .flr false 9, .stopInterface false 0, .stopInterface false 9,
        .ideKm false 1 0 (zeros 31), .challenge (.doe false) (zeros 31), .getReport 256 (zeros 32), .policyLoad 8 [],
        .layoutChange ⟨[⟨8, 0, true, true⟩], List.replicate 24 0#8, []⟩, .layoutChange ⟨[⟨0, 4, true, true⟩], List.replicate 24 0#8, []⟩,
        .layoutChange ⟨[], List.replicate 23 0#8, []⟩, .layoutChange ⟨[], List.replicate 24 0#8, [⟨48, 1, []⟩]⟩,
        .layoutChange ⟨[], List.replicate 24 0#8, [⟨0, 1, List.replicate 10 0⟩]⟩, .takeover .mgc 24 true, .weirWrite vf1 48 true 0#32,
        .keepalive 24 (zeros 256), .keepalive 0 (zeros 255), .creditReqTimeout 0 9, .laserSwitch 4, .thermalSlowdown 4 0#12,
        .patrolTest 0 1 2 16 true true .first, .windowRead (.vf false 0 true) 0 0 4097,
        .windowWrite (.vf false 0 true) 0 0 (List.replicate 513 0#8)] : List Instr), wellFormed c = false := by decide +kernel

/-- R266: VF8 of a port answers configuration requests though its partition is not assigned, and a read of its BAR0 is an
Unsupported Request. -/
theorem test_configAnswer_unassigned :
    State.configAnswer up false 8 = some pcieFeatures ∧ State.configAnswer up false 9 = none ∧
      State.readReg up (.vf false 7 true) 0 4 = none := by decide +kernel

/-- The largest operands that the checks let pass. -/
theorem test_wellFormed_accepts :
    ∀ c ∈ ([.doorbellWrite (.vf false 7 true) 7 15 0#32, .adapterPass 7 1 65535, .stationaryLoad 7 1 255 [15] 0 0 0,
        .cellStep 255 15 63 63 0 0, .footAddition 255 15 255 0, .slotRelease vf1 7 4095 0#32, .baseLoWrite vf1 0 (.lend 15) 0#32,
        .sweepFlush 9 63, .basinWrite 7 5624999999 63 (zeros 128), .basinPartialWrite 0 0 0 127 (zeros 1) .clean, .treeEviction 7 5 7,
        .lineTest 8191 .sound, .poolRead (.pool 255) 1499999999 .clean, .poolRead (.scratchpad 255) 4194303 .clean, .poolRead .store 8191 .clean,
        .vecExp 0 1 [7, 7], .hostReadCompletion true 767 (some (zeros 136)), .flr true 8,
        .stopInterface true 8, .ideKm true 8 0 (zeros 32), .getReport 255 (zeros 32), .weirWrite vf1 47 true 0#32,
        .keepalive 23 (zeros 256), .creditReqTimeout 23 8, .laserSwitch 3] : List Instr), wellFormed c = true := by decide +kernel

/-! ### Party code -/

/-- An image whose code, hand-assembled, stands at its entry 32. -/
def codeImage (words : List Nat) : List Byte :=
  leBytes 4 4096 ++ leBytes 4 32 ++ leBytes 4 4064 ++ zeros 20 ++ words.flatMap (leBytes 4)

/-- A call of it on one chunk of two elements. -/
def callOn (words : List Nat) (hart : Nat) : RvResult :=
  rvCall 20 hart 0 (rvReturn 7) (codeImage words) [] (fun _ => 0xAA#8)
    ⟨2, 0, leBytes 8 0x400000003F800000, leBytes 8 0xBF8000003F000000, none, zeros 16, zeros 8⟩

/-- W_OUT[i] := W_IN[i] + G[i]: lw, three ld, vsetvli e32 m1, two vle32, vfadd.vv, vse32 and c.jr ra; 1.0 + 0.5 and 2.0 − 1.0. -/
theorem test_party_code_vector_add :
    let r := callOn [0x02852283, 0x00053303, 0x00853383, 0x01853E03, 0x0D02F2D7, 0x02036087, 0x0203E107, 0x021111D7, 0x020E61A7, 0x8082] 3
    r.trap = none ∧ r.running = false ∧ r.w 0 = 0x3FC00000#32 ∧ r.w 1 = 0x3F800000#32 ∧ r.hart.instret = 10 := by decide +kernel

/-- ECALL 8, EBREAK 3, the word of zeros 2, a load from the firmware's region 5, a store to the image 7, a read of `time` 2. -/
theorem test_party_code_traps :
    (([[0x00000073], [0x00100073], [0], [0x01E002B7, 0x0002A303], [0x00002023], [0xC0102573]] : List (List Nat)).map
      (fun ws => (callOn ws 0).trap)) = [some 8#8, some 3#8, some 2#8, some 5#8, some 7#8, some 2#8] := by decide +kernel

end Sys2Proof.Tests
end

section
/-! PROOF. The guarantees of `Keeps` for whole commands and steps: the device page, the fuses, the security controller and the
management controller stay still but for the platform (R2, R290, R312, R319, R326, R386), and the supply stays legal (R2, R17,
R386). -/

namespace Sys2Proof.Machine

/-- A command that runs keeps the guarantees, calmly where the command is none of the platform. -/
theorem keeps_of_runs {calm : Bool} {c : Instr} {s t : State} (h : Runs c s t) (hc : calm = true → platform c = false) :
    Keeps calm s t := by
  have k := keeps_exec (Keeps.refl s) c hc
  rwa [show exec c s = .next t from h] at k

/-- A step keeps the guarantees from the state without the command at the front of its queue. -/
theorem keeps_of_step {s t : State} (h : step s = .next t) : Keeps false { s with pending := s.pending.tail } t := by
  unfold step at h
  split at h
  · case h_1 hq =>
    cases h
    rw [hq, List.tail_nil, ← hq]
    exact .refl s
  · case h_2 c rest hq =>
    rw [hq, List.tail_cons]
    exact keeps_of_runs h Bool.noConfusion

/-- Settles O7: a command outside the platform is calm (`Keeps.still`). -/
theorem platformFrame : Obligations.PlatformFrame := by
  unfold Obligations.PlatformFrame
  intro c s t hc h
  exact (keeps_of_runs (calm := true) h fun _ => hc).still rfl

/-- Settles O6: the supply is one of the guarantees that every step keeps; it does not speak of the queue. -/
theorem supplyStaysLegal : Obligations.SupplyStaysLegal := by
  unfold Obligations.SupplyStaysLegal
  intro s t hs h
  exact (keeps_of_step h).power hs

end Sys2Proof.Machine
end

section
/-! PROOF. A power cap written by a management message acts on WEI36 at once (R2, R272, R302). -/

namespace Sys2Proof.Machine

/-- R302: a device whose firmware runs, its WEI36 at the capacity 4,000 of the last layout change. -/
def fullWeir36 : State := { State.reset with
  dev := { Dev.reset with state := .ready }
  mgc := { Mgc.reset with weir36Base := 4000 }
  weirs := [(36, { Weir.reset with capacity := 4000 })] }

/-- NUMERIC_EFFECTER_WRITE to effecter 8 writes the cap as PKG_POWER_CAP_WRITE does, the capacity of WEI36 included (R2, R302). -/
theorem runs_numericEffecterWrite_cap {s : State} {via : MctpVia} (h : s.mctpServes via = true) (value : Nat) :
    Runs (.numericEffecterWrite ⟨via, 8⟩ value) s ((s.setCap value).emit (.pldm [0x31#8, 0#8])) := by
  simp [Runs, exec, execNumericEffecterWrite, h, pdrHolds, pdrRepository]

/-- A command runs to one state. -/
theorem runs_unique {c : Instr} {s t u : State} (ht : Runs c s t) (hu : Runs c s u) : t = u := by
  have e := ht.symm.trans hu
  injection e

/-- Refutes O46: a cap of 3,000 W written through effecter 8 lowers WEI36's capacity to 2,400 at once (R302), as the cap
written through PKG_POWER_CAP does; the statement lets the write change the cap alone. -/
theorem not_managementMessages : ¬ Obligations.ManagementMessages := by
  unfold Obligations.ManagementMessages
  intro h
  obtain ⟨-, -, -, -, -, -, -, -, -, -, -, -, -, -, -, -, -, -, -, -, hcap, -⟩ :=
    h fullWeir36 (.smbus 0x40) 8 0 3000 false false 0#8 (by decide) (.inl rfl)
  have e := runs_unique (runs_numericEffecterWrite_cap (by decide) 3000) hcap
  have served : (((fullWeir36.setCap 3000).emit (.pldm [0x31#8, 0#8])).weir 36).capacity = 2400 := by decide
  rw [e] at served
  exact absurd served (by decide)

end Sys2Proof.Machine
end

section
/-! PROOF. Power cap, temperature, pace and lasers (R2, R17, R302, R306, R384, R386, R388). -/

namespace Sys2Proof.Machine

/-! ### What announcing and capping leave of the device page -/

@[simp] theorem State.dev_msixVf (s : State) (p vector : Nat) : (s.msixVf p vector).dev = s.dev :=
  ((State.keeps_msixVf (calm := true) (.refl s) p vector).still rfl).1

@[simp] theorem State.dev_msixPf0 (s : State) (vector : Nat) : (s.msixPf0 vector).dev = s.dev :=
  ((State.keeps_msixPf0 (calm := true) (.refl s) vector).still rfl).1

/-- An announcement changes the device page in DEV_EVENT alone (R307). -/
@[simp] theorem State.dev_announce (s : State) (kind : BitVec 8) :
    (s.announce kind).dev = { s.dev with eventKind := kind, eventSeq := s.dev.eventSeq + 1 } := by
  have told (l : List Nat) (u : State) : (l.foldl (fun t p => t.msixVf p 17) u).dev = u.dev := by
    induction l generalizing u with
    | nil => rfl
    | cons p l ih => rw [List.foldl_cons, ih, State.dev_msixVf]
  rw [State.announce, State.dev_msixPf0, told, State.updDev_dev]

/-- The cap acts, and the supply and its limits stay (R386). -/
theorem State.dev_capActs (s : State) :
    s.capActs.dev.capped = true ∧ s.capActs.dev.vcore = s.dev.vcore ∧ s.capActs.dev.rateLimit = s.dev.rateLimit := by
  unfold State.capActs
  split
  · case isTrue h => exact ⟨h, rfl, rfl⟩
  · simp

/-- A released cap leaves the supply, the rate limit and whether the cap is met (R386). -/
theorem State.dev_capReleases (s : State) :
    s.capReleases.dev.vcore = s.dev.vcore ∧ s.capReleases.dev.rateLimit = s.dev.rateLimit
      ∧ s.capReleases.dev.capUnmet = s.dev.capUnmet := by
  unfold State.capReleases
  split <;> simp

/-- Power above the cap takes VCORE first, at its floor the rate, and then the cap is unmet (R386). -/
theorem State.dev_lowerPower (s : State) :
    (550 < s.dev.vcore → s.lowerPower.dev.vcore = s.dev.vcore - 10 ∧ s.lowerPower.dev.capped = true)
      ∧ (s.dev.vcore ≤ 550 → s.dev.rateLimit.toNat < 15 →
          s.lowerPower.dev.rateLimit = s.dev.rateLimit + 1 ∧ s.lowerPower.dev.capped = true)
      ∧ (s.dev.vcore ≤ 550 → s.dev.rateLimit.toNat = 15 → s.lowerPower.dev.capUnmet = true) := by
  unfold State.lowerPower
  refine ⟨fun hv => ?_, fun hv hr => ?_, fun hv hr => ?_⟩
  · rw [if_pos hv]
    obtain ⟨hcap, hvcore, -⟩ := State.dev_capActs (s.updDev (fun d => { d with vcore := d.vcore - 10 }))
    exact ⟨hvcore, hcap⟩
  · rw [if_neg (by omega), if_pos hr]
    obtain ⟨hcap, -, hrate⟩ := State.dev_capActs (s.updDev (fun d => { d with rateLimit := d.rateLimit + 1 }))
    exact ⟨hrate, hcap⟩
  · rw [if_neg (by omega), if_neg (by omega)]
    rfl

/-! ### The commands of power and heat -/

section
variable {s : State} {via : Via} {watts field pair : Nat} {temp : BitVec 12}

/-- A cap written by PF0 or the MGC is held to the fused limit and to WEI36 (R2, R302). -/
theorem runs_pkgPowerCapWrite (value : Reg) (h : s.pf0Access via = .serve) :
    Runs (.pkgPowerCapWrite via value) s (s.setCap (value.toNat % 65536)) := by
  simp [Runs, exec, execPkgPowerCapWrite, h, State.access]

/-- Mean power above the cap lowers the power (R386). -/
theorem runs_powerCapInterval_over (hp : s.powered = true) (hw : s.dev.cap < watts) :
    Runs (.powerCapInterval watts) s (s.measure watts).lowerPower := by
  simp [Runs, exec, execPowerCapInterval, hp, hw]

/-- Mean power within the cap may release it (R386). -/
theorem runs_powerCapInterval_within (hp : s.powered = true) (hw : watts ≤ s.dev.cap) :
    Runs (.powerCapInterval watts) s (s.measure watts).capReleases := by
  simp [Runs, exec, execPowerCapInterval, hp, Nat.not_lt.2 hw]

/-- Below 97 % of the cap the rate limit is given back first (R386). -/
theorem runs_vcoreRaise_rate (hp : s.powered = true) (hw : 100 * watts < 97 * s.dev.cap) (hr : s.dev.rateLimit ≠ 0#4) :
    Runs (.vcoreRaise watts) s (s.updDev (fun d => { d with rateLimit := d.rateLimit - 1 })).capReleases := by
  simp [Runs, exec, execVcoreRaise, State.belowCap, hp, hw, hr]

/-- Below 97 % of the cap and with no rate limit left VCORE rises, unless a slowdown holds it (R386, R388). -/
theorem runs_vcoreRaise_vcore (hp : s.powered = true) (hw : 100 * watts < 97 * s.dev.cap) (hr : s.dev.rateLimit = 0#4)
    (hv : s.dev.vcore < s.dev.target) (ht : s.dev.thermal = false) :
    Runs (.vcoreRaise watts) s (s.updDev (fun d => { d with vcore := min d.target (d.vcore + 10) })).capReleases := by
  simp [Runs, exec, execVcoreRaise, State.belowCap, hp, hw, hr, hv, ht]

/-- A junction above 105 °C, 840 eighths, starts the slowdown: kind 1 and a risk event of input 7 (R388, Table 16.6). -/
theorem runs_thermalSlowdown_start (hp : s.powered = true) (hf : field < 4) (hot : 840 < temp.toInt) (ht : s.dev.thermal = false) :
    Runs (.thermalSlowdown field temp) s
      (((({ s with temps := Sparse.set 0#12 s.temps field temp }).updDev (fun d => { d with thermal := true })).announce
        1#8).riskEvent 7 1) := by
  simp [Runs, exec, execThermalSlowdown, hp, Nat.not_le.2 hf, Int.not_le.2 hot, ht]

/-- The slowdown lowers VCORE while a junction reads above 103 °C (R388). -/
theorem runs_thermalStep (hp : s.powered = true) (ht : s.dev.thermal = true) (hot : 824 < temp.toInt) (hv : 550 < s.dev.vcore) :
    Runs (.thermalStep temp) s (s.updDev (fun d => { d with vcore := d.vcore - 10 })) := by
  simp [Runs, exec, execThermalStep, hp, ht, hot, hv]

/-- The slowdown ends with kind 2 (R388). -/
theorem runs_thermalSlowdownEnd (hp : s.powered = true) (ht : s.dev.thermal = true) :
    Runs .thermalSlowdownEnd s ((s.updDev (fun d => { d with thermal := false })).announce 2#8) := by
  simp [Runs, exec, execThermalSlowdownEnd, hp, ht]

/-- Leaving the pace envelope is kind 5 (R306). -/
theorem runs_paceBreak (hp : s.powered = true) (he : s.outsideEnvelope = true) (hb : s.dev.paceBroken = false) :
    Runs .paceBreak s ((s.updDev (fun d => { d with paceBroken := true })).announce 5#8) := by
  simp [Runs, exec, execPaceBreak, hp, he, hb]

/-- Returning to the pace envelope is kind 6 (R306). -/
theorem runs_paceRestore (hp : s.powered = true) (he : s.outsideEnvelope = false) (hb : s.dev.paceBroken = true) :
    Runs .paceRestore s ((s.updDev (fun d => { d with paceBroken := false })).announce 6#8) := by
  simp [Runs, exec, execPaceRestore, hp, he, hb]

/-- A droop is counted for its field and as a risk event of input 6 (Table 16.6, Table 18.10). -/
theorem runs_vcoreDroop (hp : s.powered = true) (hf : field < 4) :
    Runs (.vcoreDroop field) s
      ({ s with droops := Sparse.modify 0#32 s.droops field (fun c => satAdd c 1) }.riskEvent 6 1) := by
  simp [Runs, exec, execVcoreDroop, hp, hf]

/-- The backup of a pair takes over, a risk event of input 4 (R384). -/
theorem runs_laserSwitch (hpair : pair < 4) (hl : s.dev.laserEnabled = 0xFF#8) (hb : bitAt s.dev.laserBackup pair = false)
    (hin : bitAt s.dev.laserIn (2 * pair + 1) = true) :
    Runs (.laserSwitch pair) s ((s.updDev (fun d => { d with
      laserIn := setBit d.laserIn (2 * pair) false, laserBackup := setBit d.laserBackup pair true,
      laserSwitches := satAdd d.laserSwitches 1 })).riskEvent 4 1) := by
  have hc : pair < 4 ∧ (!bitAt s.dev.laserBackup pair) = true ∧ bitAt s.dev.laserIn (2 * pair + 1) = true
      ∧ s.dev.laserEnabled = 0xFF#8 := ⟨hpair, by rw [hb]; rfl, hin, hl⟩
  simp only [Runs, exec, execLaserSwitch, if_pos hc]

/-- A pair without light takes its edge's ports with it (R384). -/
theorem runs_laserPairLost (hpair : pair < 4) (hl : s.dev.laserEnabled = 0xFF#8) :
    Runs (.laserPairLost pair) s (((s.updDev (fun d => { d with
      laserIn := setBit (setBit d.laserIn (2 * pair) false) (2 * pair + 1) false,
      laserLost := setBit d.laserLost pair true })).loseEdge pair).askAll) := by
  simp [Runs, exec, execLaserPairLost, hpair, hl]

/-! ### What they leave -/

/-- Above the cap: the outcome of `State.dev_lowerPower` from the measured state. -/
theorem powerCapInterval_over (hp : s.powered = true) (hw : s.dev.cap < watts) :
    ∃ t, Runs (.powerCapInterval watts) s t
      ∧ (550 < s.dev.vcore → t.dev.vcore = s.dev.vcore - 10 ∧ t.dev.capped = true)
      ∧ (s.dev.vcore ≤ 550 → s.dev.rateLimit.toNat < 15 → t.dev.rateLimit = s.dev.rateLimit + 1 ∧ t.dev.capped = true)
      ∧ (s.dev.vcore ≤ 550 → s.dev.rateLimit.toNat = 15 → t.dev.capUnmet = true) :=
  ⟨_, runs_powerCapInterval_over hp hw, (s.measure watts).dev_lowerPower⟩

/-- Within the cap the supply stays and the cap is met. -/
theorem powerCapInterval_within (hp : s.powered = true) (hw : watts ≤ s.dev.cap) :
    ∃ t, Runs (.powerCapInterval watts) s t ∧ t.dev.vcore = s.dev.vcore ∧ t.dev.rateLimit = s.dev.rateLimit
      ∧ t.dev.capUnmet = false := by
  obtain ⟨hvcore, hrate, hunmet⟩ := (s.measure watts).dev_capReleases
  refine ⟨_, runs_powerCapInterval_within hp hw, hvcore, hrate, hunmet.trans ?_⟩
  simp [State.measure, Nat.not_lt.2 hw]

/-- One sixteenth of the rate is given back and VCORE stays. -/
theorem vcoreRaise_rate (hp : s.powered = true) (hw : 100 * watts < 97 * s.dev.cap) (hr : s.dev.rateLimit ≠ 0#4) :
    ∃ t, Runs (.vcoreRaise watts) s t ∧ t.dev.rateLimit = s.dev.rateLimit - 1 ∧ t.dev.vcore = s.dev.vcore := by
  obtain ⟨hvcore, hrate, -⟩ := (s.updDev (fun d => { d with rateLimit := d.rateLimit - 1 })).dev_capReleases
  exact ⟨_, runs_vcoreRaise_rate hp hw hr, hrate, hvcore⟩

/-- VCORE rises by 10 mV, to its target at most. -/
theorem vcoreRaise_vcore (hp : s.powered = true) (hw : 100 * watts < 97 * s.dev.cap) (hr : s.dev.rateLimit = 0#4)
    (hv : s.dev.vcore < s.dev.target) (ht : s.dev.thermal = false) :
    ∃ t, Runs (.vcoreRaise watts) s t ∧ t.dev.vcore = min s.dev.target (s.dev.vcore + 10) := by
  obtain ⟨hvcore, -, -⟩ := (s.updDev (fun d => { d with vcore := min d.target (d.vcore + 10) })).dev_capReleases
  exact ⟨_, runs_vcoreRaise_vcore hp hw hr hv ht, hvcore⟩

/-- A written cap below the layout's capacity is served at once, another at the next period (R302). -/
theorem pkgPowerCapWrite_served (value : Reg) (h : s.pf0Access via = .serve) :
    let t := s.updDev (fun d => { d with cap := min (value.toNat % 65536) (fusedLimit s.fuses.powerCode) })
    (t.dev.cap - 600 < s.mgc.weir36Base → Runs (.pkgPowerCapWrite via value) s
      (t.updWeir 36 (fun w => { w with capacity := t.dev.cap - 600 })))
    ∧ (s.mgc.weir36Base ≤ t.dev.cap - 600 → Runs (.pkgPowerCapWrite via value) s t) := by
  intro t
  have run := runs_pkgPowerCapWrite value h
  rw [State.setCap, State.servePower] at run
  constructor
  · intro hlow
    rwa [if_pos (.inr hlow)] at run
  · intro hhigh
    rwa [if_neg (fun c => c.elim Bool.noConfusion (fun hlow => absurd hlow (Nat.not_lt.2 hhigh)))] at run

end

/-- Settles O50: one lemma for each command, and what each leaves of the device page. -/
theorem powerAndHeat : Obligations.PowerAndHeat := by
  unfold Obligations.PowerAndHeat
  refine ⟨fun s via value watts field temp => ⟨pkgPowerCapWrite_served value, fun hp => ⟨powerCapInterval_over hp,
    powerCapInterval_within hp, vcoreRaise_rate hp, vcoreRaise_vcore hp, runs_thermalSlowdown_start hp, runs_thermalStep hp,
    runs_thermalSlowdownEnd hp, runs_paceBreak hp, runs_paceRestore hp, runs_vcoreDroop hp⟩⟩, fun s pair hpair hl =>
    ⟨runs_laserSwitch hpair hl, runs_laserPairLost hpair hl⟩⟩

end Sys2Proof.Machine
end

section
/-! PROOF. Register writes through BAR0, by page and offset (R6, R394, R396, R397). -/

namespace Sys2Proof.Machine

/-! ### Places in BAR0 -/

/-- The page of partition p is its PRT page (Table 18.1). -/
theorem pageClass_pagePrt {p : Nat} (hp : p < 8) : pageClass (pagePrt p) = some (.prt, p) := by
  unfold pageClass pagePrt
  rw [if_neg (by omega), if_neg (by omega), if_neg (by omega), if_neg (by omega), if_neg (by omega), if_pos (by omega),
    Nat.add_sub_cancel_left]

/-- The page and the offset of an address in a page. -/
theorem page_split {n k : Nat} (hk : k < 4096) : (4096 * n + k) / 4096 = n ∧ (4096 * n + k) % 4096 = k := by omega

/-! ### PF0 and the pages of partitions (R397) -/

/-- PF0 writes nothing through a partition's page. -/
@[simp] theorem State.viaPrt_pf0 (s : State) (port : Bool) (p : Nat) (f : State → State) : s.viaPrt (.pf0 port) p f = s := rfl

/-- PF0 reaches no register of a PRT page. -/
theorem State.regAccess_pf0_pagePrt (s : State) (port : Bool) {p : Nat} (hp : p < 8) (off : Nat) :
    s.regAccess (.pf0 port) (pagePrt p) off = .ignore := by
  simp [State.regAccess, pf0Closed, pageClass_pagePrt hp]

/-- A write is no command of its own, or one that leaves the state. -/
def Quiet (s : State) (r : Option (Host.Outcome State Fault Refusal)) : Prop := ∀ o, r = some o → o = .next s

/-- A write that is no command of its own. -/
theorem quiet_none (s : State) : Quiet s none := fun _ h => nomatch h

/-- A place whose command leaves the state, before other places. -/
theorem quiet_ite {s : State} {c : Prop} [Decidable c] {o : Host.Outcome State Fault Refusal}
    {r : Option (Host.Outcome State Fault Refusal)} (ho : o = .next s) (hr : Quiet s r) : Quiet s (if c then some o else r) := by
  split
  · exact fun _ e => Option.some.inj e ▸ ho
  · exact hr

/-- A write through PF0 that is a command of a PRT page leaves the state. -/
theorem State.commandWrite_pf0_pagePrt (s : State) (port : Bool) {p : Nat} (hp : p < 8) (off : Nat) (value : Reg) :
    Quiet s (s.commandWrite (.pf0 port) (pagePrt p) off value) := by
  have clear : execErrStatusClear (.pf0 port) (pagePrt p) value s = .next s := by
    rw [execErrStatusClear, s.regAccess_pf0_pagePrt port hp]; rfl
  have inject : execErrInject (.pf0 port) (pagePrt p) value s = .next s := by
    rw [execErrInject, s.regAccess_pf0_pagePrt port hp]; rfl
  rw [State.commandWrite, pageClass_pagePrt hp]
  exact quiet_ite clear <| quiet_ite inject <| quiet_ite rfl <| quiet_ite rfl <| quiet_ite rfl <| quiet_ite rfl <|
    quiet_ite rfl <| quiet_ite rfl <| quiet_ite rfl <| quiet_ite (by split <;> rfl) <| quiet_ite rfl <| quiet_ite rfl <|
    quiet_ite (by split <;> rfl) <| quiet_ite rfl <| quiet_ite rfl <| quiet_ite rfl <| quiet_none s

/-- A write through PF0 to a PRT page leaves the state. -/
theorem State.writePage_pf0_pagePrt (s : State) (port : Bool) {p : Nat} (hp : p < 8) (off : Nat) (value : Reg) :
    s.writePage (.pf0 port) (pagePrt p) off value = s := by
  unfold State.writePage
  split
  · case h_1 o ho => rw [s.commandWrite_pf0_pagePrt port hp off value o ho]; rfl
  · rw [s.regAccess_pf0_pagePrt port hp]; rfl

/-! ### Register writes -/

/-- A write that is not an aligned 32-bit one is not performed (R6). -/
theorem runs_registerWrite_unaligned (s : State) (via : Via) {off size : Nat} (value : Reg) (h : size ≠ 4 ∨ off % 4 ≠ 0) :
    Runs (.registerWrite via off size value) s s := by
  simp only [Runs, exec, execRegisterWrite, if_pos h]

/-- An aligned 32-bit write of a VF is performed in its BAR0 (R396). -/
theorem runs_registerWrite_vf (s : State) (port : Bool) (p : Nat) (sec : Bool) {off : Nat} (value : Reg) (h : off % 4 = 0) :
    Runs (.registerWrite (.vf port p sec) off 4 value) s (s.writeVf port p sec off value) := by
  simp [Runs, exec, execRegisterWrite, h]

/-- A write of a VF in the lower part of its BAR0 is one to a page (R396, Table 18.1). -/
theorem State.writeVf_page (s : State) (port : Bool) (p : Nat) (sec : Bool) {n k : Nat} (value : Reg) (hn : n < 2048)
    (hk : k < 4096) : s.writeVf port p sec (4096 * n + k) value = s.writePage (.vf port p sec) n k value := by
  obtain ⟨hpage, hoff⟩ := page_split (n := n) hk
  rw [State.writeVf, if_pos (by omega), hpage, hoff]

/-- A write of a VF that is a command of a page runs to what the command leaves. -/
theorem runs_registerWrite_vf_command {s t : State} {port : Bool} {p : Nat} {sec : Bool} {n k : Nat} {value : Reg}
    {o : Host.Outcome State Fault Refusal} (hn : n < 2048) (hk : k < 4096) (hal : k % 4 = 0)
    (hc : s.commandWrite (.vf port p sec) n k value = some o) (ho : o = .next t) :
    Runs (.registerWrite (.vf port p sec) (4096 * n + k) 4 value) s t := by
  have h := runs_registerWrite_vf s port p sec (off := 4096 * n + k) value (by omega)
  rwa [State.writeVf_page s port p sec value hn hk, State.writePage, hc, ho] at h

/-- PF0 changes nothing in the page of a partition. -/
theorem runs_registerWrite_pf0_pagePrt (s : State) (port : Bool) {p k : Nat} (size : Nat) (value : Reg) (hp : p < 8) (hk : k < 4096) :
    Runs (.registerWrite (.pf0 port) (4096 * pagePrt p + k) size value) s s := by
  obtain ⟨hpage, hoff⟩ := page_split (n := pagePrt p) hk
  simp only [Runs, exec, execRegisterWrite, hpage, hoff, s.writePage_pf0_pagePrt port hp, ite_self]

/-- The doorbell of queue n is a command of the PRT page (Table 18.9). -/
theorem State.commandWrite_doorbell (s : State) (via : Via) {p n : Nat} (value : Reg) (hp : p < 8) (hn : n < 16) :
    s.commandWrite via (pagePrt p) (0x0A0 + 4 * n) value = some (execDoorbellWrite via p n value s) := by
  have hidx : (0x0A0 + 4 * n - 0x0A0) / 4 = n := by omega
  unfold State.commandWrite
  rw [if_neg (by omega), if_neg (by omega), pageClass_pagePrt hp]
  dsimp only
  rw [if_pos (by omega), hidx]

/-- A write of a VF to RELEASE of slot i is SLOT_RELEASE (R277, R279). -/
theorem State.writeVf_release (s : State) (port : Bool) (p : Nat) (sec : Bool) {i : Nat} (value : Reg) (hi : i < 4096) :
    s.writeVf port p sec (0x800000 + 32 * i + 28) value = afterOf s (execSlotRelease (.vf port p sec) p i value s) := by
  have hidx : (0x800000 + 32 * i + 28 - 0x800000) / 32 = i := by omega
  rw [State.writeVf, if_neg (by omega), if_pos (by omega), if_pos (by omega), hidx]

/-- Settles O53: each write is placed in BAR0, and what stands there is the command of that place. -/
theorem registerWrites : Obligations.RegisterWrites := by
  unfold Obligations.RegisterWrites
  intro s via port p off size k value
  refine ⟨runs_registerWrite_unaligned s via value, runs_registerWrite_pf0_pagePrt s port size value, ?doorbell, ?release, ?clear⟩
  case doorbell =>
    intro hp n hn t h
    rw [Nat.add_assoc]
    exact runs_registerWrite_vf_command (by unfold pagePrt; omega) (by omega) (by omega)
      (s.commandWrite_doorbell (.vf port p true) value hp hn) h
  case release =>
    intro _ i hi t h
    have hw := runs_registerWrite_vf s port p true (off := 0x800000 + 32 * i + 28) value (by omega)
    rwa [s.writeVf_release port p true value hi, show execSlotRelease (.vf port p true) p i value s = .next t from h] at hw
  case clear =>
    intro hp t h
    exact runs_registerWrite_vf_command (by unfold pagePrt; omega) (by omega) (by omega) rfl h

end Sys2Proof.Machine
end

section
/-! PROOF. MAX and MIN in both modes (R35, R36, R44, R45, Table 2.9). -/

namespace Sys2Proof.Machine

/-! ### The order of FP32 values -/

/-- A zero of either sign (R36). -/
def IsZero (x : F32) : Prop := ∃ e, fval x = .fin 0 e

/-- What decodes to an infinity has the largest exponent and no fraction (R34). -/
theorem decodeFp_eq_inf {fb code : Nat} {neg : Bool} (h : decodeFp fb code = .inf neg) :
    code / 2 ^ fb % 256 = 255 ∧ code % 2 ^ fb = 0 ∧ neg = decide (code / 2 ^ (fb + 8) % 2 = 1) := by
  unfold decodeFp at h
  dsimp only at h
  split at h
  case isTrue hex =>
    split at h
    case isTrue hfr =>
      cases h
      exact ⟨hex, hfr, rfl⟩
    case isFalse => cases h
  case isFalse =>
    split at h
    · split at h <;> cases h
    · cases h

theorem decodeFp_of_fval_inf {x : F32} {neg : Bool} (h : fval x = .inf neg) : decodeFp 23 x.toNat = .inf neg := by
  unfold fval at h
  cases hd : decodeFp 23 x.toNat <;> simp_all

/-- An infinity of each sign has one pattern. -/
theorem eq_fInf_of_fval {x : F32} {neg : Bool} (h : fval x = .inf neg) : x = fInf neg := by
  obtain ⟨hex, hfr, hneg⟩ := decodeFp_eq_inf (decodeFp_of_fval_inf h)
  have hx : x.toNat < 2 ^ 32 := x.isLt
  apply BitVec.eq_of_toNat_eq
  cases neg <;> simp [fInf] at hneg ⊢ <;> omega

/-- Finite values compare as their integers over the smaller exponent. -/
theorem fLt_fin {a b : F32} {m e n f : Int} (ha : fval a = .fin m e) (hb : fval b = .fin n f) :
    fLt a b = decide (m * 2 ^ (e - min e f).toNat < n * 2 ^ (f - min e f).toNat) := by
  simp only [fLt, ha, hb, dyAdd, Int.neg_mul]
  exact decide_eq_decide.mpr (by omega)

theorem fLt_asymm {a b : F32} (h : fLt a b = true) : fLt b a = false := by
  cases ha : fval a <;> cases hb : fval b
  case fin.fin m e n f =>
    rw [fLt_fin ha hb, decide_eq_true_eq] at h
    rw [fLt_fin hb ha, decide_eq_false_iff_not, min_comm]
    omega
  all_goals simp_all [fLt]

@[simp] theorem fLt_irrefl (a : F32) : fLt a a = false :=
  Bool.eq_false_iff.mpr fun h => absurd (fLt_asymm h) (by simp [h])

/-- Where a zero stands against a finite value is the other's sign, whatever the zero's exponent. -/
theorem fLt_zero_fin {z b : F32} {e n f : Int} (hz : fval z = .fin 0 e) (hb : fval b = .fin n f) :
    fLt z b = decide (0 < n) ∧ fLt b z = decide (n < 0) := by
  have hpow : ∀ k : Nat, (0 : Int) < 2 ^ k := fun k => by positivity
  rw [fLt_fin hz hb, fLt_fin hb hz, zero_mul, zero_mul]
  exact ⟨decide_eq_decide.mpr (mul_pos_iff_of_pos_right (hpow _)),
    decide_eq_decide.mpr (by simp [mul_neg_iff, hpow, (hpow _).not_gt])⟩

/-- Zeros of either sign are equal in the order (R44). -/
theorem IsZero.fLt_congr {x y : F32} (hx : IsZero x) (hy : IsZero y) (b : F32) : fLt x b = fLt y b ∧ fLt b x = fLt b y := by
  obtain ⟨e, hx⟩ := hx
  obtain ⟨f, hy⟩ := hy
  cases hb : fval b with
  | fin n g =>
    obtain ⟨hxb, hbx⟩ := fLt_zero_fin hx hb
    obtain ⟨hyb, hby⟩ := fLt_zero_fin hy hb
    exact ⟨hxb.trans hyb.symm, hbx.trans hby.symm⟩
  | _ => simp [fLt, hx, hy, hb]

/-- +∞ has nothing above it. -/
theorem fLt_of_posInf {a : F32} (h : fval a = .inf false) (b : F32) : fLt a b = false := by
  cases hb : fval b <;> simp [fLt, h, hb]

/-- −∞ has nothing below it. -/
theorem fLt_of_negInf {a : F32} (h : fval a = .inf true) (b : F32) : fLt b a = false := by
  cases hb : fval b <;> simp [fLt, h, hb]

/-- Of two values, the larger has neither above it. -/
theorem fLt_larger (a b : F32) : fLt (if fLt a b then b else a) a = false ∧ fLt (if fLt a b then b else a) b = false := by
  cases h : fLt a b
  · simp [h]
  · simp [fLt_asymm h]

/-- Of two values, the smaller has neither below it. -/
theorem fLt_smaller (a b : F32) : fLt a (if fLt b a then b else a) = false ∧ fLt b (if fLt b a then b else a) = false := by
  cases h : fLt b a
  · simp [h]
  · simp [fLt_asymm h]

/-! ### What a written result is (R36, Table 2.6) -/

theorem isZero_f0 : IsZero f0 := ⟨-149, by decide⟩

theorem IsZero.fCanon {x : F32} (h : IsZero x) : fCanon x = (f0, 0#16) := by
  obtain ⟨e, h⟩ := h
  simp [Machine.fCanon, h]

theorem fCanon_inf {x : F32} {neg : Bool} (h : fval x = .inf neg) : (fCanon x).1 = x := by
  simp [fCanon, h, infRes, ← eq_fInf_of_fval h]

/-- A value that is no NaN is written as it is, but that a zero is written +0. -/
theorem fCanon_eq_or_zero {x : F32} (h : fval x ≠ .nan) : (fCanon x).1 = x ∨ IsZero x ∧ (fCanon x).1 = f0 := by
  cases hx : fval x with
  | nan => exact absurd hx h
  | inf neg => exact .inl (fCanon_inf hx)
  | fin m e =>
    by_cases hm : m = 0
    · subst hm
      exact .inr ⟨⟨e, hx⟩, by simp [fCanon, hx]⟩
    · exact .inl (by simp [fCanon, hx, hm])

/-- A value that is no NaN is written without NAN. -/
theorem hasFlag_fCanon {x : F32} (h : fval x ≠ .nan) : hasFlag (fCanon x).2 fNAN = false := by
  cases hx : fval x with
  | nan => exact absurd hx h
  | inf neg => cases neg <;> simp [fCanon, hx, infRes, hasFlag, fNAN, fINFP, fINFN]
  | fin m e => simp [fCanon, hx, hasFlag]

/-- Writing a value leaves its place in the order. -/
theorem fLt_fCanon {x : F32} (h : fval x ≠ .nan) (b : F32) :
    fLt (fCanon x).1 b = fLt x b ∧ fLt b (fCanon x).1 = fLt b x := by
  obtain hc | ⟨hz, hc⟩ := fCanon_eq_or_zero h
  · simp [hc]
  · rw [hc]
    exact isZero_f0.fLt_congr hz b

/-! ### MAX and MIN, by which operands are NaN -/

theorem maxMin_of_nan_nan {a b : F32} (ha : fval a = .nan) (hb : fval b = .nan) (compat : Bool) :
    fMax compat a b = fBad ∧ fMin compat a b = fBad := by
  simp [fMax, fMin, ha, hb]

theorem maxMin_of_nan_left {a b : F32} (ha : fval a = .nan) (hb : fval b ≠ .nan) (compat : Bool) :
    fMax compat a b = (if compat then fCanon b else fBad) ∧ fMin compat a b = (if compat then fCanon b else fBad) := by
  cases h : fval b <;> simp_all [fMax, fMin]

theorem maxMin_of_nan_right {a b : F32} (ha : fval a ≠ .nan) (hb : fval b = .nan) (compat : Bool) :
    fMax compat a b = (if compat then fCanon a else fBad) ∧ fMin compat a b = (if compat then fCanon a else fBad) := by
  cases h : fval a <;> simp_all [fMax, fMin]

theorem maxMin_of_num {a b : F32} (ha : fval a ≠ .nan) (hb : fval b ≠ .nan) (compat : Bool) :
    fMax compat a b = fCanon (if fLt a b then b else a) ∧ fMin compat a b = fCanon (if fLt b a then b else a) := by
  cases h : fval a <;> cases h' : fval b <;> simp_all [fMax, fMin]

/-- R44, R45: without a NaN, a written choice of either operand has no NAN and is that operand, or +0 for a zero. -/
theorem fCanon_ite {a b : F32} (ha : fval a ≠ .nan) (hb : fval b ≠ .nan) (c : Bool) :
    fval (if c then b else a) ≠ .nan
    ∧ ((fCanon (if c then b else a)).1 = a ∨ (fCanon (if c then b else a)).1 = b
      ∨ (IsZero a ∨ IsZero b) ∧ (fCanon (if c then b else a)).1 = f0)
    ∧ (IsZero a → IsZero b → (fCanon (if c then b else a)).1 = f0) := by
  cases c with
  | false =>
    refine ⟨ha, ?_, fun hz _ => by simp [hz.fCanon]⟩
    obtain h | ⟨hz, h⟩ := fCanon_eq_or_zero ha
    · exact .inl h
    · exact .inr (.inr ⟨.inl hz, h⟩)
  | true =>
    refine ⟨hb, ?_, fun _ hz => by simp [hz.fCanon]⟩
    obtain h | ⟨hz, h⟩ := fCanon_eq_or_zero hb
    · exact .inr (.inl h)
    · exact .inr (.inr ⟨.inr hz, h⟩)

/-- Nothing but +∞ itself is not below +∞. -/
theorem larger_posInf {a b : F32} (ha : fval a = .inf false) (hb : fval b ≠ .nan) : (if fLt b a then a else b) = a := by
  cases h : fval b with
  | nan => exact absurd h hb
  | inf neg =>
    cases neg
    · rw [eq_fInf_of_fval ha, eq_fInf_of_fval h, ite_self]
    · simp [fLt, ha, h]
  | fin m e => simp [fLt, ha, h]

/-- Nothing but −∞ itself is not above −∞. -/
theorem smaller_negInf {a b : F32} (ha : fval a = .inf true) (hb : fval b ≠ .nan) : (if fLt a b then a else b) = a := by
  cases h : fval b with
  | nan => exact absurd h hb
  | inf neg =>
    cases neg
    · simp [fLt, ha, h]
    · rw [eq_fInf_of_fval ha, eq_fInf_of_fval h, ite_self]
  | fin m e => simp [fLt, ha, h]

/-- R44: +∞ is the maximum of itself and any number, on either side. -/
theorem fMax_posInf {a b : F32} (ha : fval a = .inf false) (hb : fval b ≠ .nan) (compat : Bool) :
    (fMax compat a b).1 = a ∧ (fMax compat b a).1 = a := by
  have hna : fval a ≠ .nan := by simp [ha]
  rw [(maxMin_of_num hna hb compat).1, (maxMin_of_num hb hna compat).1, fLt_of_posInf ha, larger_posInf ha hb]
  exact ⟨fCanon_inf ha, fCanon_inf ha⟩

/-- R44: −∞ is the minimum of itself and any number, on either side. -/
theorem fMin_negInf {a b : F32} (ha : fval a = .inf true) (hb : fval b ≠ .nan) (compat : Bool) :
    (fMin compat a b).1 = a ∧ (fMin compat b a).1 = a := by
  have hna : fval a ≠ .nan := by simp [ha]
  rw [(maxMin_of_num hna hb compat).2, (maxMin_of_num hb hna compat).2, fLt_of_negInf ha, smaller_negInf ha hb]
  exact ⟨fCanon_inf ha, fCanon_inf ha⟩

/-- Settles O29: MAX and MIN write a choice of their operands. -/
theorem maxMin : Obligations.MaxMin := by
  unfold Obligations.MaxMin
  intro compat a b
  refine ⟨fun ha hb => maxMin_of_nan_nan ha hb compat, ?left, ?right, ?numbers⟩
  case left =>
    intro ha hb
    obtain ⟨hmax, hmin⟩ := maxMin_of_nan_left ha hb compat
    rw [hmax, hmin]
    exact ⟨fun hc => by simp [hc, fBad], fun hc => by rw [if_pos hc]; exact ⟨fCanon_eq_or_zero hb, fCanon_eq_or_zero hb⟩⟩
  case right =>
    intro ha hb
    obtain ⟨hmax, hmin⟩ := maxMin_of_nan_right ha hb compat
    rw [hmax, hmin]
    exact ⟨fun hc => by simp [hc, fBad], fun hc => by rw [if_pos hc]; exact ⟨fCanon_eq_or_zero ha, fCanon_eq_or_zero ha⟩⟩
  case numbers =>
    intro ha hb
    obtain ⟨hmax, hmin⟩ := maxMin_of_num ha hb compat
    obtain ⟨hnumMax, hopMax, hzMax⟩ := fCanon_ite ha hb (fLt a b)
    obtain ⟨hnumMin, hopMin, hzMin⟩ := fCanon_ite ha hb (fLt b a)
    have hpos (h : fval a = .inf false) := fMax_posInf h hb compat
    have hneg (h : fval a = .inf true) := fMin_negInf h hb compat
    rw [hmax] at hpos
    rw [hmin] at hneg
    rw [hmax, hmin]
    exact ⟨hasFlag_fCanon hnumMax, hasFlag_fCanon hnumMin, (fLt_fCanon hnumMax a).1.trans (fLt_larger a b).1,
      (fLt_fCanon hnumMax b).1.trans (fLt_larger a b).2, (fLt_fCanon hnumMin a).2.trans (fLt_smaller a b).1,
      (fLt_fCanon hnumMin b).2.trans (fLt_smaller a b).2, hopMax, hopMin, fun za zb => ⟨hzMax za zb, hzMin za zb⟩, hpos, hneg⟩

end Sys2Proof.Machine
end

section
/-! PROOF. Histogram reads and random fills, and their bytes in the pool (R47, R48, R111, R112, R158, R191, R194). -/

namespace Sys2Proof.Machine

/-! ### A ready operation runs -/

/-- A ready operation does its work. -/
theorem State.runOp_of_ready {s : State} {p seq op sub : Nat} {o : OpRec} (h : Ready s p seq op sub o) {test : Nat → Bool}
    (hsub : test sub = true) (f : OpRec → State) : s.runOp p seq op test f = f o := by
  obtain ⟨hop, hcode, hs, htok, hlines, hvoid⟩ := h
  simp [State.runOp, hop, hcode, hs, hsub, htok, hlines, hvoid]

/-- Settles O30: exec runs each command through `State.runOp`, and a ready operation does its work. -/
theorem histogramsAndRandom : Obligations.HistogramsAndRandom := by
  unfold Obligations.HistogramsAndRandom
  intro s p seq o
  refine ⟨fun h => ?_, fun h => ?_, fun h => ?_, fun h => ?_, fun h => ?_, fun h => ?_⟩
  all_goals exact congrArg Host.Outcome.next (State.runOp_of_ready h (by decide) _)

/-! ### Bytes written by key -/

/-- A key that no write names keeps its byte. -/
theorem get_storeBytes_of_notMem (m : Sparse Byte) (ws : List (Nat × Option Byte)) {k : Nat} (h : ∀ w ∈ ws, w.1 ≠ k) :
    Sparse.get 0#8 (storeBytes m ws) k = Sparse.get 0#8 m k := by
  unfold storeBytes
  induction ws generalizing m with
  | nil => rfl
  | cons w ws ih =>
    obtain ⟨hw, hws⟩ := List.forall_mem_cons.mp h
    rw [List.foldl_cons, ih _ hws]
    split
    · exact Sparse.get_set_ne _ _ _ _ _ hw.symm
    · rfl

/-- A key to which every write that names it gives the same byte holds that byte. -/
theorem get_storeBytes_of_mem {m : Sparse Byte} (hm : Sparse.wf 0#8 m = true) {ws : List (Nat × Option Byte)} {k : Nat} {b : Byte}
    (hk : ∃ w ∈ ws, w.1 = k) (hb : ∀ w ∈ ws, w.1 = k → w.2 = some b) : Sparse.get 0#8 (storeBytes m ws) k = b := by
  induction ws generalizing m with
  | nil => simp at hk
  | cons w ws ih =>
    obtain ⟨hw, hws⟩ := List.forall_mem_cons.mp hb
    by_cases hlater : ∃ x ∈ ws, x.1 = k
    · exact ih (storeBytes_wf m [w] hm) hlater hws
    · have hwk : w.1 = k := by
        obtain ⟨x, hx, hxk⟩ := hk
        obtain rfl | hx := List.mem_cons.mp hx
        · exact hxk
        · exact absurd ⟨x, hx, hxk⟩ hlater
      have hrest := get_storeBytes_of_notMem (storeBytes m [w]) ws (k := k) fun x hx hxk => hlater ⟨x, hx, hxk⟩
      refine hrest.trans ?_
      simp [storeBytes, hw hwk, hwk, Sparse.get_set_same _ _ _ _ hm]

/-- A word of which no byte is written keeps its poison (R194). -/
theorem get_storePoison_of_notMem (width : Nat) (m : Sparse Bool) (ws : List (Nat × Option Byte)) {i : Nat}
    (h : ∀ w ∈ ws, w.1 / width ≠ i) : Sparse.get false (storePoison width m ws) i = Sparse.get false m i := by
  unfold storePoison
  have hl : ∀ k ∈ (ws.map (fun w => w.1 / width)).eraseDups, i ≠ k := by
    intro k hk
    obtain ⟨w, hw, rfl⟩ := List.mem_map.mp (List.mem_eraseDups.mp hk)
    exact (h w hw).symm
  generalize (ws.map (fun w => w.1 / width)).eraseDups = l at hl
  induction l generalizing m with
  | nil => rfl
  | cons k l ih =>
    obtain ⟨hik, hl⟩ := List.forall_mem_cons.mp hl
    rw [List.foldl_cons, ih _ hl]
    dsimp only
    split
    · exact Sparse.get_set_ne _ _ _ _ _ hik
    · split
      · exact Sparse.get_set_ne _ _ _ _ _ hik
      · rfl

/-- The writes of a run of good bytes: each byte at each of its keys. -/
theorem mem_keyedBytes_wPut {keys : Nat → List Nat} {bs : List Byte} {w : Nat × Option Byte} :
    w ∈ keyedBytes keys 0 (bs.map wPut) ↔ ∃ i < bs.length, ∃ k ∈ keys i, w = (k, some (bs.getD i 0#8)) := by
  simp only [keyedBytes, List.mem_flatMap, List.mem_range, List.length_map, Nat.zero_add]
  refine exists_congr fun i => and_congr_right fun hi => ?_
  simp [List.getD, hi, wPut, eq_comm]

/-! ### A run of good bytes in the pool -/

/-- The pool of a state with canonical memories is canonical. -/
theorem pool_wf {s : State} (h : Memory.wf s = true) : Sparse.wf 0#8 s.pool = true := by
  simp only [Memory.wf, Bool.and_eq_true] at h
  obtain ⟨⟨⟨⟨⟨⟨hpool, -⟩, -⟩, -⟩, -⟩, -⟩, -⟩ := h
  exact hpool

@[simp] theorem State.prt_storePool (s : State) (p a off : Nat) (ws : List WByte) (q : Nat) :
    (s.storePool p a off ws).prt q = s.prt q := rfl

/-- From `s` to `t` the bytes `bs` came to stand at pool address `a` of partition `p`: a key of one byte alone reads as that
byte, other keys and the poison of words without one stay, and so do the other partitions and the rest of the state. -/
structure PoolWritten (s t : State) (p a : Nat) (bs : List Byte) : Prop where
  rest : t = { s with prts := t.prts, pool := t.pool, poolBad := t.poolBad }
  bytes : ∀ i < bs.length, ∀ k ∈ s.poolKeys p a i, (∀ j < bs.length, j ≠ i → k ∉ s.poolKeys p a j) →
    Sparse.get 0#8 t.pool k = bs.getD i 0#8
  others : ∀ k, (∀ i < bs.length, k ∉ s.poolKeys p a i) → Sparse.get 0#8 t.pool k = Sparse.get 0#8 s.pool k
  poison : ∀ w, (∀ i < bs.length, ∀ k ∈ s.poolKeys p a i, k / 64 ≠ w) →
    Sparse.get false t.poolBad w = Sparse.get false s.poolBad w
  parts : ∀ q, q ≠ p → t.prt q = s.prt q

/-- A write of good bytes into the pool (R191, R193, R194). -/
theorem State.poolWritten_storePool {s : State} (h : Memory.wf s = true) (p a : Nat) (bs : List Byte) :
    PoolWritten s (s.storePool p a 0 (bs.map wPut)) p a bs where
  rest := rfl
  bytes i hi k hk hone := by
    refine get_storeBytes_of_mem (pool_wf h) ⟨_, mem_keyedBytes_wPut.mpr ⟨i, hi, k, hk, rfl⟩, rfl⟩ ?_
    rintro _ hw rfl
    obtain ⟨j, hj, k, hkj, rfl⟩ := mem_keyedBytes_wPut.mp hw
    obtain rfl : j = i := by
      by_contra hji
      exact hone j hj hji hkj
    rfl
  others k hk := by
    refine get_storeBytes_of_notMem _ _ ?_
    rintro _ hw rfl
    obtain ⟨i, hi, k, hki, rfl⟩ := mem_keyedBytes_wPut.mp hw
    exact hk i hi hki
  poison v hv := by
    refine get_storePoison_of_notMem _ _ _ ?_
    intro _ hw
    obtain ⟨i, hi, k, hki, rfl⟩ := mem_keyedBytes_wPut.mp hw
    exact hv i hi k hki
  parts q _ := s.prt_storePool p a 0 _ q

/-- An update of the partition itself leaves the write as it is. -/
theorem PoolWritten.updPrt {s t : State} {p a : Nat} {bs : List Byte} (h : PoolWritten s t p a bs) (f : Prt → Prt) :
    PoolWritten s (t.updPrt p f) p a bs where
  rest := congrArg (fun u : State => { u with prts := (t.updPrt p f).prts }) h.rest
  bytes := h.bytes
  others := h.others
  poison := h.poison
  parts q hq := (State.prt_updPrt_ne t p q f hq).trans (h.parts q hq)

theorem PoolWritten.updHist {s t : State} {p a : Nat} {bs : List Byte} (h : PoolWritten s t p a bs) (id : Nat) (f : Hist → Hist) :
    PoolWritten s (t.updHist p id f) p a bs := h.updPrt _

theorem PoolWritten.finishOp {s t : State} {p a : Nat} {bs : List Byte} (h : PoolWritten s t p a bs) (seq : Nat)
    (status : BitVec 8) (flags : FlagWord) : PoolWritten s (t.finishOp p seq status flags) p a bs := by
  unfold State.finishOp State.updOp
  exact h.updPrt _

/-- RAW bytes of a tensor in the pool go to its address, and none of them fails (R191). -/
theorem State.storeRaw_pool (s : State) (p : Nat) {o : OpRec} {h : Nat} (htier : eTier (o.ent h) = 0) (off : Nat) (bs : List Byte) :
    s.storeRaw p o h off bs = (s.storePool p (o.dataAt h (o.ver h)).addr off (bs.map wPut), false) := by
  simp [State.storeRaw, State.storeRun, OpRec.dataAt, placeOf, dataPlace, htier]

/-! ### The end of the work -/

/-- An operation stands under its own sequence number. -/
theorem Prt.seq_of_op {v : Prt} {seq : Nat} {o : OpRec} (h : v.op seq = some o) : o.seq = seq := by
  simpa using List.find?_some h

/-- An operation that has done its work reads so, with its descriptor (R23). -/
theorem State.op_finishOp {s : State} (hs : Blocks.wf s = true) {p seq : Nat} {o : OpRec} (ho : (s.prt p).op seq = some o)
    (status : BitVec 8) (flags : FlagWord) : ((s.finishOp p seq status flags).prt p).op seq
      = some { o with done := true, status := status, flags := flags } := by
  have hseq := Prt.seq_of_op ho
  rw [State.finishOp, State.updOp, State.prt_updPrt s hs, Prt.op, List.find?_map]
  have hsame : (fun x : OpRec => decide (x.seq = seq)) ∘
      (fun x => if x.seq = seq then { x with done := true, status := status, flags := flags } else x)
      = fun x => decide (x.seq = seq) := by
    funext x
    by_cases hx : x.seq = seq <;> simp [hx]
  rw [hsame, show List.find? _ (s.prt p).ops = some o from ho, Option.map_some, if_pos hseq]

/-- Clearing a HIST table leaves the operations of the partition. -/
theorem State.op_updHist {s : State} (hs : Blocks.wf s = true) (p id : Nat) (f : Hist → Hist) (seq : Nat) :
    ((s.updHist p id f).prt p).op seq = (s.prt p).op seq := by
  rw [State.updHist, State.prt_updPrt s hs]
  rfl

/-- A command that finishes its operation over a pool write leaves the write and the operation done. -/
theorem exists_poolWritten_of_finishOp {s u : State} {c : Instr} {p seq a : Nat} {o : OpRec} {bs : List Byte} {status : BitVec 8}
    {flags : FlagWord} (hw : PoolWritten s u p a bs) (hu : Blocks.wf u = true) (ho : (u.prt p).op seq = some o)
    (hc : Runs c s (u.finishOp p o.seq status flags)) :
    ∃ t, Runs c s t ∧ PoolWritten s t p a bs ∧ ∃ r, (t.prt p).op seq = some r ∧ r.done = true ∧ r.desc = o.desc := by
  rw [Prt.seq_of_op ho] at hc
  exact ⟨_, hc, hw.finishOp _ _ _, _, State.op_finishOp hu ho status flags, rfl, rfl⟩

/-- Settles O31: each of the five commands writes its bytes into the pool, updates its own partition and finishes (O30). -/
theorem rawResults : Obligations.RawResults := by
  unfold Obligations.RawResults
  intro s p seq o
  dsimp only
  intro htier hmem hblk x hx hready
  obtain ⟨hread, hclear, -, hbits, huniform, hbernoulli⟩ := histogramsAndRandom s p seq o
  simp only [State.storeRaw_pool s p htier] at hread hclear hbits huniform hbernoulli
  have hstored (a : Nat) (bs : List Byte) : Blocks.wf (s.storePool p a 0 (bs.map wPut)) = true := hblk
  have hkept (a : Nat) (bs : List Byte) : ((s.storePool p a 0 (bs.map wPut)).prt p).op seq = some o := by
    rw [State.prt_storePool, hready.1]
  suffices h : ∃ t, Runs x.2.2.1 s t ∧ PoolWritten s t p (o.dataAt (dC o.desc) (o.ver (dC o.desc))).addr x.2.2.2
      ∧ ∃ r, (t.prt p).op seq = some r ∧ r.done = true ∧ r.desc = o.desc by
    obtain ⟨t, hrun, ⟨hrest, hbytes, hothers, hpoison, hparts⟩, hdone⟩ := h
    exact ⟨t, hrun, hrest, hbytes, hothers, hpoison, hparts, hdone⟩
  have hwritten := State.poolWritten_storePool hmem p (o.dataAt (dC o.desc) (o.ver (dC o.desc))).addr
  simp only [List.mem_cons, List.not_mem_nil, or_false] at hx
  obtain rfl | rfl | rfl | rfl | rfl := hx -- HIST_READ, READ_CLEAR, RNG_FILL_BITS, RNG_FILL_UNIFORM, RNG_FILL_BERNOULLI
  all_goals dsimp only at hready ⊢
  · exact exists_poolWritten_of_finishOp (hwritten _) (hstored _ _) (hkept _ _) (hread hready)
  · refine exists_poolWritten_of_finishOp ?_ ?_ ?_ (hclear hready)
    · exact (hwritten _).updHist _ _
    · exact (State.keeps_updHist (calm := true) (.refl _) _ _ _).blocks (hstored _ _)
    · exact (State.op_updHist (hstored _ _) _ _ _ _).trans (hkept _ _)
  · exact exists_poolWritten_of_finishOp (hwritten _) (hstored _ _) (hkept _ _) (hbits hready)
  · exact exists_poolWritten_of_finishOp (hwritten _) (hstored _ _) (hkept _ _) (huniform hready)
  · exact exists_poolWritten_of_finishOp (hwritten _) (hstored _ _) (hkept _ _) (hbernoulli hready)

end Sys2Proof.Machine
end

section
/-! PROOF. Array operations whole, and their steps before the first product (R61, R66, R67, R97, R106, R107, R108). -/

namespace Sys2Proof.Machine

/-! ### A step of an array operation -/

/-- An array operation that may run takes a step over its operands. -/
theorem State.arrayStep_of_mayRun {s : State} {p seq : Nat} {o : OpRec} (hop : (s.prt p).op seq = some o)
    (harray : isArray o.desc = true) (hrun : (s.prt p).mayRun o = true) (hvoid : (s.prt p).readsVoid o = false)
    (f : OpRec → Gemm → State → State) : s.arrayStep p seq f = f o (s.gemm p o).1 (s.gemm p o).2 := by
  simp [State.arrayStep, hop, harray, hrun, hvoid]

section
variable {s : State} {p seq core variant : Nat} {o : OpRec} {A : Int} {vs : Variants}
variable (hop : (s.prt p).op seq = some o) (harray : isArray o.desc = true) (hrun : (s.prt p).mayRun o = true)
  (hvoid : (s.prt p).readsVoid o = false)
include hop harray hrun hvoid

/-- A pass of a variant that serves leaves its u_v in the operation (R61). -/
theorem runs_adapterPass {rank h1 h2 : Nat} {fmt : Fmt} (hnew : o.adapters.contains variant = false) (hvar : dVar o.desc ≠ 0)
    (hlt : variant < 4096) (hnamed : (o.namedVariants (s.gemm p o).1).contains variant = true)
    (hfree : (s.gemm p o).2.arrayFree p seq = true)
    (hserves : ((s.gemm p o).2.passOf p o (s.gemm p o).1 variant).1.1 = .serves rank fmt h1 h2) :
    Runs (.adapterPass p seq variant) s
      (let g := (s.gemm p o).1
       let t := (s.gemm p o).2
       let r := t.passOf p o g variant
       ((r.2.takeShape p (o.plan g)).countPass p o g variant).updOp p seq (fun x =>
         { x with adapters := x.adapters ++ [variant],
                  uv := x.uv ++ (o.uRows g r.1.2 (t.coreCount p) variant fmt).map (fun y => (variant, y.1, y.2)) })) := by
  have hpass : ¬(o.adapters.contains variant ∨ dVar o.desc = 0 ∨ !(o.namedVariants (s.gemm p o).1).contains variant
      ∨ !(s.gemm p o).2.arrayFree p seq) := by
    simp only [hnew, hvar, hnamed, hfree]
    decide
  simp only [Runs, exec, execAdapterPass, State.arrayStep_of_mayRun hop harray hrun hvoid, if_neg hpass,
    if_neg (Nat.not_le.2 hlt), hserves]

/-- A core delivers the largest value of its share (R67). -/
theorem runs_anchorScanPhase (hscan : dOp o.desc = 2 ∨ dMode o.desc = 0) (hpasses : o.passesDone (s.gemm p o).1 = true)
    (hanchor : o.anchor = none) (hcore : ((s.gemm p o).2.partCores p).contains core = true)
    (hnew : o.scans.any (fun x => x.1 = core) = false) (hvs : ((s.gemm p o).2.variants p o (s.gemm p o).1).1 = some vs) :
    Runs (.anchorScanPhase p seq core) s
      (let g := (s.gemm p o).1
       let t := (s.gemm p o).2
       (t.variants p o g).2.updOp p seq (fun x =>
         { x with scans := x.scans ++ [(core, o.shareScan g (o.plan g) vs (t.coreCount p) (core - t.coreAt p 0))] })) := by
  have hown : ¬(dOp o.desc = 1 ∧ dMode o.desc ≠ 0) := by omega
  have hphase : ¬((dOp o.desc = 1 ∧ dMode o.desc ≠ 0) ∨ !o.passesDone (s.gemm p o).1 ∨ o.anchor.isSome
      ∨ !((s.gemm p o).2.partCores p).contains core ∨ o.scans.any (fun x => x.1 = core)) := by
    simp only [hown, hpasses, hanchor, hcore, hnew]
    decide
  simp only [Runs, exec, execAnchorScanPhase, State.arrayStep_of_mayRun hop harray hrun hvoid, if_neg hphase, hvs]

/-- When every core has delivered, the maximum of their values is the anchor (R66, R67). -/
theorem runs_anchorAgree_scanned (hscan : dOp o.desc = 2 ∨ dMode o.desc = 0) (hpasses : o.passesDone (s.gemm p o).1 = true)
    (hanchor : o.anchor = none)
    (hall : ((s.gemm p o).2.partCores p).all (fun c => o.scans.any (fun x => x.1 = c)) = true) :
    Runs (.anchorAgree p seq) s ((s.gemm p o).2.updOp p seq (fun x =>
      { x with anchor := some ((maxInt? (o.scans.filterMap (·.2))).getD (s.gemm p o).1.tops) })) := by
  simp only [Runs, exec, execAnchorAgree, State.arrayStep_of_mayRun hop harray hrun hvoid, hanchor, hpasses, hall, if_pos hscan,
    Option.isSome_none, Bool.not_true, Bool.false_eq_true, or_self, if_false, if_true]

/-- A supplied anchor is the anchor (R97). -/
theorem runs_anchorAgree_supplied (hcode : dOp o.desc = 1) (hmode : dMode o.desc ≠ 0)
    (hpasses : o.passesDone (s.gemm p o).1 = true) (hanchor : o.anchor = none)
    (hA : ((s.gemm p o).2.anchorOf p o (s.gemm p o).1 ⟨[], []⟩).1 = some A) :
    Runs (.anchorAgree p seq) s (((s.gemm p o).2.anchorOf p o (s.gemm p o).1 ⟨[], []⟩).2.updOp p seq (fun o =>
      { o with anchor := some A })) := by
  have hscan : ¬(dOp o.desc = 2 ∨ dMode o.desc = 0) := by omega
  simp only [Runs, exec, execAnchorAgree, State.arrayStep_of_mayRun hop harray hrun hvoid, hanchor, hpasses, if_neg hscan, hA,
    Option.isSome_none, Bool.not_true, Bool.false_eq_true, or_self, if_false]

end

/-- Settles O22: a ready operation does its work (`State.runOp_of_ready`), and each step has a lemma above. -/
theorem arrayOperations : Obligations.ArrayOperations := by
  unfold Obligations.ArrayOperations
  refine ⟨fun s p seq sub o => ⟨fun h => ?_, fun h => ?_, fun h => ?_, fun h => ?_⟩,
    fun s p seq core variant o A vs hop harray hrun hvoid => ⟨?pass, ?phase, ?scanned, ?supplied⟩⟩
  case pass => exact fun _ _ _ _ => runs_adapterPass hop harray hrun hvoid
  case phase => exact runs_anchorScanPhase hop harray hrun hvoid
  case scanned => exact runs_anchorAgree_scanned hop harray hrun hvoid
  case supplied => exact runs_anchorAgree_supplied hop harray hrun hvoid
  all_goals exact congrArg Host.Outcome.next (State.runOp_of_ready h rfl _)

end Sys2Proof.Machine
end

section
/-! PROOF. Cells pass activations and chains; feet add (R49, R50, R51, R72). -/

namespace Sys2Proof.Machine

/-! ### A row at a cell -/

/-- Row `row` meets cell (k, n) of a streaming engine: its activation comes from the feeder (column 0) or the left neighbour,
and the right neighbour is free (R49). -/
structure Work2.Meets (w : Work2) (core : Nat) (v : Eng) (j : Job) (k n row : Nat) (act : Act) : Prop where
  streams : v.state = 3#4
  inRows : k < 64
  inColumns : n < 64
  ofRow : act.row = row
  fed : n = 0 → ∃ place, (w.o.loadRows w.x w.g w.vs j.group j.k0)[Sparse.get 0 v.fed k]? = some (place, row)
    ∧ act = w.feed core j.k0 k place row
  left : n ≠ 0 → Sparse.get none v.acts (64 * k + n) = some act
  right : n ≠ 63 → Sparse.get none v.acts (64 * k + n + 1) = none

/-- A chain value meets cell (k, n): zero at the top of a chain and the value from above elsewhere, with room for the sum in
the foot (the last cell of the chain) or the cell below (R49, R72). -/
structure Work2.ChainMeets (w : Work2) (v : Eng) (k n row col : Nat) (c : Chain) : Prop where
  starts : decide (k % chainLen w.x.wide = 0) = true → c = ⟨row, 0, 0, 0#16⟩
  above : decide (k % chainLen w.x.wide = 0) = false → Sparse.get none v.chains (64 * k + n) = some c ∧ c.row = row
  foot : decide (k % chainLen w.x.wide + 1 = chainLen w.x.wide) = true → Sparse.get none v.feet col = none
  below : decide (k % chainLen w.x.wide + 1 = chainLen w.x.wide) = false → Sparse.get none v.chains (64 * (k + 1) + n) = none

/-- Cell (k, n) passes an activation on; column 0 takes it from the feeder (R49). -/
def Eng.passAct (v : Eng) (k n : Nat) (act : Act) : Eng :=
  let acts := if n = 0 then v.acts else Sparse.set none v.acts (64 * k + n) none
  { v with
    acts := if n = 63 then acts else Sparse.set none acts (64 * k + n + 1) (some act)
    fed := if n = 0 then Sparse.modify 0 v.fed k (· + 1) else v.fed }

/-- A chain value leaves cell (k, n) for the foot or the cell below, and the gated products are counted (R49, R50, R72). -/
def Eng.passChain (v : Eng) (k n col : Nat) (top bottom : Bool) (r : Chain × Nat) : Eng :=
  let chains := if top then v.chains else Sparse.set none v.chains (64 * k + n) none
  { v with
    chains := if bottom then chains else Sparse.set none chains (64 * (k + 1) + n) (some r.1)
    feet := if bottom then Sparse.set none v.feet col (some r.1) else v.feet
    zeroGated := satAdd v.zeroGated r.2 }

section
variable {w : Work2} {core k n row col : Nat} {v : Eng} {j : Job} {act : Act} {c : Chain}

/-- Nothing holds a row that meets its cell. -/
theorem Work2.Meets.not_held (h : w.Meets core v j k n row act) :
    ¬(v.state ≠ 3#4 ∨ 64 ≤ k ∨ 64 ≤ n ∨ !(decide (n = 63) || (Sparse.get none v.acts (64 * k + n + 1)).isNone)) := by
  have hright : (decide (n = 63) || (Sparse.get none v.acts (64 * k + n + 1)).isNone) = true := by
    by_cases hn : n = 63
    · simp [hn]
    · simp [h.right hn]
  simp [h.streams, h.inRows, h.inColumns, hright]

/-- The chain value that the cell adds to. -/
theorem Work2.ChainMeets.chain (h : w.ChainMeets v k n row col c) :
    (if decide (k % chainLen w.x.wide = 0) then some ⟨row, 0, 0, 0#16⟩
      else (Sparse.get none v.chains (64 * k + n)).filter (fun c => c.row = row)) = some c := by
  split
  case isTrue htop => rw [h.starts htop]
  case isFalse htop =>
    obtain ⟨hget, hrow⟩ := h.above (Bool.eq_false_of_not_eq_true htop)
    simp [hget, hrow]

/-- The place that takes the sum is free. -/
theorem Work2.ChainMeets.free (h : w.ChainMeets v k n row col c) :
    (if decide (k % chainLen w.x.wide + 1 = chainLen w.x.wide) then (Sparse.get none v.feet col).isNone
      else (Sparse.get none v.chains (64 * (k + 1) + n)).isNone) = true := by
  split
  case isTrue hbottom => rw [h.foot hbottom]; rfl
  case isFalse hbottom => rw [h.below (Bool.eq_false_of_not_eq_true hbottom)]; rfl

end

/-! ### Cells and feet -/

section
variable {s t : State} {core e k n row col : Nat} {w : Work2} {j : Job} {A : Int} {act : Act} {c : Chain} (u : Upset)
variable (hj : s.jobWork core e = some (j, w, t))
include hj

/-- A cell that carries no chain only passes the activation on (R49). -/
theorem runs_cellStep_noChain (hA : (s.eng core e).anchor = some A) (h : w.Meets core (s.eng core e) j k n row act)
    (hcol : footColumn w.x.mode w.x.wide k n = none) :
    Runs (.cellStep core e k n row u) s ((t.spendEnergy j.part 0 1).updEng core e (fun v => v.passAct k n act)) := by
  by_cases hn : n = 0
  · obtain ⟨place, hrow, hact⟩ := h.fed hn
    simp only [Runs, exec, execCellStep, State.stepCell, Eng.passAct, hj, hA, if_pos hn, hrow, if_true, ← hact,
      if_neg h.not_held, hcol]
  · simp only [Runs, exec, execCellStep, State.stepCell, Eng.passAct, hj, hA, if_neg hn, h.left hn, Option.filter_some, h.ofRow,
      decide_true, if_true, if_neg h.not_held, hcol]

/-- A cell of a chain passes the activation on and its sum down (R49, R51, R72). -/
theorem runs_cellStep_chain (hA : (s.eng core e).anchor = some A) (h : w.Meets core (s.eng core e) j k n row act)
    (hcol : footColumn w.x.mode w.x.wide k n = some col) (hc : w.ChainMeets (s.eng core e) k n row col c) :
    Runs (.cellStep core e k n row u) s ((t.spendEnergy j.part 0 1).updEng core e (fun v =>
      (v.passAct k n act).passChain k n col (decide (k % chainLen w.x.wide = 0))
        (decide (k % chainLen w.x.wide + 1 = chainLen w.x.wide))
        (cellChain (loadMode w.x w.g w.vs j.k0) (decide (w.x.mode = .lg4)) A act
          (Sparse.get Weight.zero (s.eng core e).active (64 * k + n)) c u))) := by
  by_cases hn : n = 0
  · obtain ⟨place, hrow, hact⟩ := h.fed hn
    simp only [Runs, exec, execCellStep, State.stepCell, Eng.passAct, Eng.passChain, hj, hA, if_pos hn, hrow, if_true, ← hact,
      if_neg h.not_held, hcol, hc.chain, hc.free, Bool.not_true, Bool.false_eq_true, if_false]
  · simp only [Runs, exec, execCellStep, State.stepCell, Eng.passAct, Eng.passChain, hj, hA, if_neg hn, h.left hn,
      Option.filter_some, h.ofRow, decide_true, if_true, if_neg h.not_held, hcol, hc.chain, hc.free, Bool.not_true,
      Bool.false_eq_true, if_false]

/-- A chain value whose residue agrees goes into its slot (R72). -/
theorem runs_footAddition_sound (hfoot : Sparse.get none (s.eng core e).feet col = some c)
    (hsound : syndrome c.value c.residue = 0) :
    Runs (.footAddition core e col u) s (t.updEng core e (fun v =>
      let a := (Sparse.get Slot.zero v.foot (c.row * w.x.cols + col)).add ⟨c.value, c.residue, c.flags⟩
      { v with feet := Sparse.set none v.feet col none,
               foot := Sparse.set Slot.zero v.foot (c.row * w.x.cols + col) { a with value := upsetInt 72 a.value u },
               job := some { j with added := j.added + 1 } })) := by
  simp only [Runs, exec, execFootAddition, State.addFoot, hj, hfoot, hsound, ne_eq, not_true, if_false]

/-- A chain value whose residue disagrees is a FAIL of its pitch (R334, R335). -/
theorem runs_footAddition_fails (hfoot : Sparse.get none (s.eng core e).feet col = some c)
    (hbad : syndrome c.value c.residue ≠ 0) :
    Runs (.footAddition core e col u) s (t.failPitch core e c.row col (loadOrdinal (w.pitchLoads j) j.k0)
      (syndrome c.value c.residue) j.seq (w.capture core (s.eng core e) j col c)) := by
  simp only [Runs, exec, execFootAddition, State.addFoot, hj, hfoot, if_pos hbad]

end

/-- Settles O24: a row that meets its cell runs on, with the chain value that meets it, and a foot takes a sound one. -/
theorem cellsAndFeet : Obligations.CellsAndFeet := by
  unfold Obligations.CellsAndFeet
  intro s t core e k n row col w j A act c u hj
  refine ⟨fun hA hstate hk hn hrow hfed hleft hright => ?_, runs_footAddition_sound u hj, runs_footAddition_fails u hj⟩
  have hmeets : w.Meets core (s.eng core e) j k n row act := ⟨hstate, hk, hn, hrow, hfed, hleft, hright⟩
  exact ⟨runs_cellStep_noChain u hj hA hmeets, fun hcol htop habove hfoot hbelow =>
    runs_cellStep_chain u hj hA hmeets hcol ⟨htop, habove, hfoot, hbelow⟩⟩

end Sys2Proof.Machine
end

section
/-! PROOF. A sound cell keeps a chain value and its residue together (R49, R71, R75, R334). -/

namespace Sys2Proof.Machine

/-! ### Residues and upsets -/

theorem natCast_residueOf (v : Int) : (residueOf v : Int) = v % 65535 :=
  Int.toNat_of_nonneg (Int.emod_nonneg v (by decide))

/-- A residue check passes when value and residue agree modulo 65535 (R334). -/
theorem syndrome_eq_zero_iff (v : Int) (r : Nat) : syndrome v r = 0 ↔ (r : Int) ≡ v [ZMOD 65535] := by
  have h := natCast_residueOf v
  unfold syndrome Int.ModEq
  omega

/-- The residue of a value agrees with it (R75). -/
theorem residueOf_modEq (v : Int) : (residueOf v : Int) ≡ v [ZMOD 65535] :=
  natCast_residueOf v ▸ Int.mod_modEq v 65535

/-- Without an upset, a value in the range of w bits stays what it is. -/
theorem upsetInt_zero {w : Nat} (hw : 0 < w) {v : Int} (hlo : -2 ^ (w - 1) ≤ v) (hhi : v < 2 ^ (w - 1)) :
    upsetInt w v 0 = v := by
  simp [upsetInt, BitVec.toInt_ofInt_eq_self hw hlo hhi]

/-- The residue check sees no upset where none strikes. -/
@[simp] theorem upsetSeen_zero : upsetSeen 0 = false := by decide

/-! ### The chain value that leaves a cell -/

section
variable {f : Fmt} {two : Bool} {A : Int} {act : Act} {w : Weight} {c : Chain} {u : Upset}

/-- What a cell adds to the chain: its product, and in LG4 mode its second product (R50, R72). -/
def cellSum (f : Fmt) (two : Bool) (A : Int) (act : Act) (w : Weight) : Int :=
  (cellProduct f A act.code act.scale act.poison w.code w.scale w.poison).1
    + (if two then (cellProduct f A act.code2 act.scale2 act.poison2 w.code2 w.scale2 w.poison2).1 else 0)

theorem cellChain_row : (cellChain f two A act w c u).1.row = c.row := rfl

theorem cellChain_value : (cellChain f two A act w c u).1.value = upsetInt 48 (c.value + cellSum f two A act w) u := by
  rw [cellSum, ← Int.add_assoc]
  rfl

/-- The residue takes up what the value takes up (R75). -/
theorem cellChain_residue_modEq :
    ((cellChain f two A act w c u).1.residue : Int) ≡ c.residue + cellSum f two A act w [ZMOD 65535] := by
  unfold cellChain cellSum
  push_cast
  refine (Int.mod_modEq _ _).trans ?_
  rw [← Int.add_assoc]
  cases two with
  | false => simpa using (residueOf_modEq _).add_left _
  | true => simpa using ((residueOf_modEq _).add_left _).add (residueOf_modEq _)

/-- A sound chain is sound behind a cell that no upset strikes, as long as its value keeps within 48 bits (R72). -/
theorem cellChain_sound (hc : syndrome c.value c.residue = 0) (hlo : -2 ^ 47 ≤ c.value + cellSum f two A act w)
    (hhi : c.value + cellSum f two A act w < 2 ^ 47) :
    let r := (cellChain f two A act w c 0).1
    r.value = c.value + cellSum f two A act w ∧ syndrome r.value r.residue = 0 := by
  have hvalue := (cellChain_value (u := 0)).trans (upsetInt_zero (w := 48) (by decide) hlo hhi)
  refine ⟨hvalue, (syndrome_eq_zero_iff _ _).2 ?_⟩
  rw [hvalue]
  exact cellChain_residue_modEq.trans (((syndrome_eq_zero_iff _ _).1 hc).add_right _)

end

/-- Settles O25: value and residue take up the same sum, and no upset tears them apart. -/
theorem residueFollowsChain : Obligations.ResidueFollowsChain := by
  unfold Obligations.ResidueFollowsChain
  intro f two A act w c hc
  dsimp only
  rw [Int.add_assoc]
  intro hlo hhi
  obtain ⟨hvalue, hsound⟩ := cellChain_sound hc hlo hhi
  exact ⟨hvalue, hsound, cellChain_row⟩

end Sys2Proof.Machine
end

section
/-! PROOF. Write-back, a retry that passes, merges at home cores and output conversion (R73, R81, R136, R139, R334, R335). -/

namespace Sys2Proof.Machine

/-! ### A complete pitch -/

/-- A pitch of an engine goes into its core's partial of each of its tiles (R73). -/
def Work2.addPitchTo (w : Work2) (j : Job) (core e : Nat) (v : Eng) (t : State) : State :=
  (w.x.tilesOf w.g (w.o.ent (dC w.o.desc)) j.group j.block).foldl (fun t tile =>
    t.setPartial (((t.partialAt j.part j.seq core tile).getD (Partial.new j.part j.seq core tile (v.anchor.getD 0))).addPitch e
      (w.footSlots (w.o.ent (dC w.o.desc)) v j.group j.block tile) v.retried)) t

section
variable {s t : State} {core e : Nat} {w : Work2} {j : Job}
variable (hj : s.jobWork core e = some (j, w, t))
include hj

/-- A complete pitch whose slots all agree with their residues is written back, and the engine is let go (R73, R334). -/
theorem runs_writeBack_sound (hdone : w.pitchDone (s.eng core e) j = true)
    (hsound : (s.eng core e).foot.find? (fun (x : Nat × Slot) => syndrome x.2.value x.2.residue ≠ 0) = none) :
    Runs (.writeBack core e 0 0) s ((((w.addPitchTo j core e (s.eng core e) t).updOp j.part j.seq
      (fun o => { o with pitches := o.pitches ++ [w.x.pitchId j.group j.block (w.x.spanOf j.k0)] })).updEng core e
        (fun v => { v.closePitch with pitchCount := v.pitchCount + 1 })).progress (pageEng core e) 1) := by
  simp only [Runs, exec, execWriteBack, State.writeBack, Work2.addPitchTo, hj, hdone, hsound, upsetSeen_zero, Bool.not_true,
    Bool.false_and, Bool.false_eq_true, if_false]

/-- A retry that passes on the same engine reports its FAILs as transient and stands ready to write back (R335). -/
theorem runs_pitchRetry_same (hretry : (s.eng core e).state = 5#4) (other : Bool) :
    Runs (.pitchRetry core e true other) s
      ((t.reportFails (s.eng core e).fails 1#8 false).updEng core e (fun v => w.rerun core v j)) := by
  simp only [Runs, exec, execPitchRetry, State.retryPitch, hj, hretry, ne_eq, not_true, if_false, if_true]

end

/-! ### Home cores -/

/-- A core's partial is added into the tile's partial at its home core, slot by slot (R81, R136). -/
def Partial.merge (old x : Partial) (ix : List Nat) : Partial :=
  { old with
    tr := { old.tr with len := old.tr.len + x.tr.len, flags := old.tr.flags ||| x.tr.flags }
    slots := ix.foldl (fun m i =>
      Sparse.set Slot.zero m i ((Sparse.get Slot.zero old.slots i).add (Sparse.get Slot.zero x.slots i))) [] }

/-- A core's partial of a tile leaves the core. -/
def State.dropPartial (s : State) (p seq core tile : Nat) : State :=
  { s with partials := s.partials.filter (fun y => !(y.part = p && y.seq = seq && y.core = core && y.tile = tile)) }

/-- The tiles `ts` are converted, written and done, and with its last tiles the operation ends (R136, R139). -/
def State.convertTiles (t : State) (p seq : Nat) (w : Work2) (A : Int) (ts : List Nat) : State :=
  let r := t.storePartials p w.o (dC w.o.desc) (dAccum w.o.desc) (ts.map (fun u => (u, t.finalPartial p w A u)))
  let fl := w.o.flags ||| r.work.flags
  let st := worse w.o.status (if r.work.poisoned then stPoisoned else stOK)
  let t2 := r.st.updOp p seq (fun o => { o with tilesDone := w.o.tilesDone ++ ts, flags := fl, status := st })
  let t3 := { t2 with partials := t2.partials.filter (fun z => !(z.part = p && z.seq = seq && ts.contains z.tile)) }
  if (List.range (eTiles (w.o.ent (dC w.o.desc)))).all (w.o.tilesDone ++ ts).contains then
    t3.finishOp p seq (worse st (workStatus w.o.desc fl false)) fl
  else t3

section
variable {s t : State} {p seq core tile : Nat} {w : Work2} {x : Partial} {A : Int}
variable (hw : s.workOf p seq = some (w, t))
include hw

/-- A core's complete partial whose slots agree with their residues is merged (R136, R334). -/
theorem runs_confluenceMerge_sound (hx : t.partialAt p seq core tile = some x) (hcore : core ≠ mergedMark)
    (hlen : x.tr.len = ((t.tilePitches p w tile).filter (fun c => c.core = core)).length)
    (hsound : x.slots.any (fun (y : Nat × Slot) => syndrome y.2.value y.2.residue ≠ 0) = false) :
    Runs (.confluenceMerge p seq core tile 0 0) s ((t.dropPartial p seq core tile).setPartial
      (((t.partialAt p seq mergedMark tile).getD (Partial.new p seq mergedMark tile x.tr.anchor)).merge x
        (tileIx (w.o.ent (dC w.o.desc)) tile))) := by
  have hcomplete : ¬(core = mergedMark ∨ x.tr.len ≠ ((t.tilePitches p w tile).filter (fun c => c.core = core)).length) :=
    fun h => h.elim hcore (fun hne => hne hlen)
  simp only [Runs, exec, execConfluenceMerge, State.mergePartial, Partial.merge, State.dropPartial, hw, hx, if_neg hcomplete,
    hsound, upsetSeen_zero, Bool.or_false, Bool.and_false, Bool.false_eq_true, if_false]

/-- A tile whose contributions have all been merged is converted, with the tiles that share its blocks (R139). -/
theorem runs_outputConversion_complete (hA : w.o.anchor = some A) (htile : tile < eTiles (w.o.ent (dC w.o.desc)))
    (hnew : w.o.tilesDone.contains tile = false)
    (hmerged : ((blockTiles (w.o.ent (dC w.o.desc)) tile).filter (fun u => !w.o.tilesDone.contains u)).all (t.tileComplete p w)
      = true) :
    Runs (.outputConversion p seq tile 0) s (t.convertTiles p seq w A
      ((blockTiles (w.o.ent (dC w.o.desc)) tile).filter (fun u => !w.o.tilesDone.contains u))) := by
  have hready : ¬(eTiles (w.o.ent (dC w.o.desc)) ≤ tile ∨ w.o.tilesDone.contains tile
      ∨ !((blockTiles (w.o.ent (dC w.o.desc)) tile).filter (fun u => !w.o.tilesDone.contains u)).all (t.tileComplete p w)) := by
    simp only [Nat.not_le.2 htile, hnew, hmerged, Bool.not_true, Bool.false_eq_true, or_self, not_false_iff]
  simp -zeta only [Runs, exec, execOutputConversion, State.convertTile, hw, hA]
  exact congrArg Host.Outcome.next (if_neg hready)

end

/-- Settles O26: each command meets its conditions and runs on to the state that the lemma above names for it. -/
theorem pitchesAndTiles : Obligations.PitchesAndTiles := by
  unfold Obligations.PitchesAndTiles
  exact ⟨fun s t core e w j other hj => ⟨runs_writeBack_sound hj, fun hretry => runs_pitchRetry_same hj hretry other⟩,
    fun s t p seq core tile w x A hw => ⟨runs_confluenceMerge_sound hw, runs_outputConversion_complete hw⟩⟩

end Sys2Proof.Machine
end

section
/-! PROOF. One turn of acceptance, the slot of a taken descriptor, and the checks of Table 5.8 up to the handles (R101, R102,
R105, R273, R274, R275, R276, R278, R284). -/

namespace Sys2Proof.Machine

/-! ### The turn -/

/-- With no risk belay due, none is inserted (R364). -/
theorem State.insertRisk_of_not_due {s : State} {p : Nat} (h : (s.prt p).riskDue = false) : s.insertRisk p = s := by
  simp [State.insertRisk, h]

/-- The turn of queue n: the round-robin moves on, and the queues see room in the journal (R274, R284). -/
def State.turnTo (s : State) (p n : Nat) : State :=
  s.updPrt p (fun v => { v with rr := (n + 1) % 16, queues := v.roomQueues })

section
variable {s : State} {p n : Nat} (hrisk : (s.prt p).riskDue = false) (ring : Option Desc)
include hrisk

theorem State.acceptTurn_of_no_queue (hn : s.nextQueue p = none) : s.acceptTurn p ring = s := by
  simp [State.acceptTurn, State.insertRisk_of_not_due hrisk, hn]

/-- A full journal holds every waiting queue back (R284). -/
theorem State.acceptTurn_of_full (hn : s.nextQueue p = some n) (hroom : (s.prt p).jnlRoom = false) :
    s.acceptTurn p ring =
      ((List.range 16).filter (s.offers p)).foldl (fun t k => t.updQueue p k (fun q => { q with acceptWait := true })) s := by
  simp [State.acceptTurn, State.insertRisk_of_not_due hrisk, hn, hroom]

/-- With room in the journal the next queue takes its turn (R274). -/
theorem State.acceptTurn_of_room (hn : s.nextQueue p = some n) (hroom : (s.prt p).jnlRoom = true) :
    s.acceptTurn p ring = (s.turnTo p n).acceptFrom p n ring := by
  simp [State.acceptTurn, State.turnTo, State.insertRisk_of_not_due hrisk, hn, hroom]

end

/-- ACCEPT_DESCRIPTOR takes one turn (R101). -/
theorem runs_acceptDescriptor {s t : State} {p : Nat} {ring : Option Desc} (h : s.acceptTurn p ring = t) :
    Runs (.acceptDescriptor p ring) s t :=
  congrArg Host.Outcome.next h

/-! ### Where the descriptor comes from -/

section
variable {u : State} {p n : Nat} {d : Desc} (ring : Option Desc)

theorem State.acceptFrom_of_held (hheld : ((u.prt p).queue n).held = some d) : u.acceptFrom p n ring = u.takeDesc p n d := by
  simp [State.acceptFrom, hheld]

variable (hheld : ((u.prt p).queue n).held = none)
include hheld

/-- A ring in the pool that cannot be read stops its queue (R276). -/
theorem State.acceptFrom_of_bad_ring (hloc : ((u.prt p).queue n).loc = true) (hread : (u.readRing p n).1 = none) :
    u.acceptFrom p n ring = (u.readRing p n).2.failRing p n := by
  simp only [State.acceptFrom, hheld, hloc, if_true]
  rw [← Prod.mk.eta (p := u.readRing p n), hread]

theorem State.acceptFrom_of_pool_ring (hloc : ((u.prt p).queue n).loc = true) (hread : (u.readRing p n).1 = some d) :
    u.acceptFrom p n ring = (u.readRing p n).2.takeDesc p n d := by
  simp only [State.acceptFrom, hheld, hloc, if_true]
  rw [← Prod.mk.eta (p := u.readRing p n), hread]

variable (hloc : ((u.prt p).queue n).loc = false)
include hloc

/-- The read of a host ring waits for a free tag (R273). -/
theorem State.acceptFrom_of_no_tag (htag : u.freeTag ((u.prt p).queue n).port = none) : u.acceptFrom p n ring = u := by
  simp [State.acceptFrom, State.askRing, hheld, hloc, htag]

/-- The read of a host ring leaves under a free tag, and what it returns decides: an error or poison stops the queue (R273,
R276). -/
theorem State.acceptFrom_of_host_ring {tag : Nat} (htag : u.freeTag ((u.prt p).queue n).port = some tag) :
    let q := (u.prt p).queue n
    let t := (u.takeTokensDir (24 + portIdx q.port) p 1 false).emit
      (.hostRead q.port (q.baseHi.toNat * 2 ^ 32 + q.baseLo.toNat + 128 * q.head) tag)
    u.acceptFrom p n none = t.failRing p n ∧ u.acceptFrom p n (some d) = t.takeDesc p n d := by
  simp [State.acceptFrom, State.askRing, hheld, hloc, htag]

end

/-! ### The slot of a taken descriptor -/

section
variable {u : State} {p n : Nat} {d : Desc}

/-- A CSLOT out of range names no slot: the descriptor fails without one (R275, R278). -/
theorem State.takeDesc_of_no_slot (hslot : 4096 ≤ dSlot d) : u.takeDesc p n d = u.failDesc p n d stInvalid false := by
  simp [State.takeDesc, hslot]

variable (hslot : dSlot d < 4096)
include hslot

/-- A held descriptor whose slot is BUSY for it goes on with its checks. -/
theorem State.takeDesc_of_checking (hheld : ((u.prt p).queue n).held ≠ none) (hwait : ((u.prt p).queue n).slotWait = false) :
    u.takeDesc p n d = u.runChecks p n d := by
  simp [State.takeDesc, Nat.not_le.2 hslot, Option.isSome_iff_ne_none.2 hheld, hwait]

variable (hmeets : ((u.prt p).queue n).held = none ∨ ((u.prt p).queue n).slotWait = true)
include hmeets

/-- A descriptor that is not in its checks meets its completion slot (R278). -/
theorem State.takeDesc_of_meets : u.takeDesc p n d =
    if ((u.prt p).slot (dSlot d)).state ≠ .free then
      let t := u.updQueue p n (fun q => { q with held := some d, slotWait := true, acceptWait := false })
      if ((u.prt p).queue n).slotWait then t else t.msixVf p 16
    else (u.updPrt p (fun v =>
      { v with slots := Sparse.modify CSlot.zero v.slots (dSlot d) (fun c => { c with state := .busy }),
               queues := Sparse.modify Queue.zero v.queues n (fun q =>
                 { q with held := some d, slotWait := false, acceptWait := false }) })).runChecks p n d := by
  have hnew : (((u.prt p).queue n).held.isSome && !((u.prt p).queue n).slotWait) = false := by
    obtain h | h := hmeets <;> simp [h]
  simp only [State.takeDesc, if_neg (Nat.not_le.2 hslot), hnew, Bool.false_eq_true, if_false]

end

/-! ### The first check that fails (Table 5.8) -/

section
variable {s : State} {p n : Nat} {d : Desc}

theorem State.runChecks_of_not_ready (hdev : s.dev.state ≠ .ready) : s.runChecks p n d = s.failDesc p n d stDrained true := by
  simp [State.runChecks, hdev]

variable (hdev : s.dev.state = .ready)
include hdev

theorem State.runChecks_of_bad_codes (hcodes : checkCodes d = false) : s.runChecks p n d = s.failDesc p n d stInvalid true := by
  simp [State.runChecks, hdev, hcodes]

variable (hcodes : checkCodes d = true)
include hcodes

theorem State.runChecks_of_bad_context (hctx : (s.prt p).hasCtx = false ∨ dCtx d ≠ (s.prt p).ctxId p) :
    s.runChecks p n d = s.failDesc p n d stInvalid true := by
  have hfails : !(s.prt p).hasCtx ∨ dCtx d ≠ (s.prt p).ctxId p := by simpa using hctx
  simp only [State.runChecks, hdev, hcodes, ne_eq, not_true, Bool.not_true, Bool.false_eq_true, if_false]
  exact if_pos hfails

theorem State.runChecks_of_bad_handle (hctx : (s.prt p).hasCtx = true) (hown : dCtx d = (s.prt p).ctxId p)
    (hhandles : (s.checkHandles p (dHandles d).eraseDups).1 = none) :
    s.runChecks p n d = (s.checkHandles p (dHandles d).eraseDups).2.failDesc p n d stBadHandle true := by
  simp [State.runChecks, hdev, hcodes, hctx, hown, hhandles]

end

/-- Settles O19: the turn, the source of the descriptor, its slot and its first failing check each have a lemma above. -/
theorem acceptanceTurn : Obligations.AcceptanceTurn := by
  unfold Obligations.AcceptanceTurn
  refine ⟨fun s p n d ring hrisk _ => ⟨?idle, ?full, fun hn hroom => ?turn⟩, fun u p n d => ?slot, fun s p n d => ?checks⟩
  case idle => exact fun hn => runs_acceptDescriptor (State.acceptTurn_of_no_queue hrisk ring hn)
  case full => exact fun hn hroom => runs_acceptDescriptor (State.acceptTurn_of_full hrisk ring hn hroom)
  case turn =>
    have runs (ring : Option Desc) {t : State} (h : (s.turnTo p n).acceptFrom p n ring = t) :
        Runs (.acceptDescriptor p ring) s t :=
      runs_acceptDescriptor ((State.acceptTurn_of_room hrisk ring hn hroom).trans h)
    refine ⟨fun hheld => ?_, fun hheld hloc hread => ?_, fun hheld hloc hread => ?_, fun hheld hloc htag => ?_,
      fun hheld hloc tag htag => ?_⟩
    · exact runs ring (State.acceptFrom_of_held ring hheld)
    · exact runs ring (State.acceptFrom_of_bad_ring ring hheld hloc hread)
    · exact runs ring (State.acceptFrom_of_pool_ring ring hheld hloc hread)
    · exact runs ring (State.acceptFrom_of_no_tag ring hheld hloc htag)
    · have hring := State.acceptFrom_of_host_ring (d := d) hheld hloc htag
      exact ⟨runs none hring.1, runs (some d) hring.2⟩
  case slot =>
    refine ⟨State.takeDesc_of_no_slot, fun hslot hheld hstate hwait => ?_, fun hslot hwait hstate => ?_,
      State.takeDesc_of_checking, fun hslot hmeets hstate => ?_⟩
    · simp only [State.takeDesc_of_meets hslot (.inl hheld), if_pos hstate, hwait, Bool.false_eq_true, if_false]
    · simp only [State.takeDesc_of_meets hslot (.inr hwait), if_pos hstate, hwait, if_true]
    · exact (State.takeDesc_of_meets hslot hmeets).trans (if_neg (not_not.2 hstate))
  case checks =>
    exact ⟨State.runChecks_of_not_ready, State.runChecks_of_bad_codes, State.runChecks_of_bad_context,
      State.runChecks_of_bad_handle⟩

end Sys2Proof.Machine
end

section
/-! PROOF. UPDATEs on the update dies, and DIGESTs (R118, R120, R148, R150, R152, R161, R163, R166, R181, R185, R261, R342). -/

namespace Sys2Proof.Machine

/-! ### An UPDATE before it works -/

section
variable {s : State} {p seq : Nat} {o : OpRec} {sub : Nat → Bool} (f : OpRec → State)
variable (hop : (s.prt p).op seq = some o) (hcode : dOp o.desc = 0x40) (htok : (s.prt p).tokensReady o = true)
  (hsub : sub (dSub o.desc) = true)
include hop hcode htok hsub

/-- An UPDATE behind a failed STEP_COMMIT ends with its version void (R161). -/
theorem State.runUpdate_of_commit_failed {st : BitVec 8} (hcommit : (s.prt p).commitStatus o = some st) :
    s.runUpdate p seq sub f = s.voidUpdate p o st := by
  simp [State.runUpdate, hop, hcode, htok, hsub, hcommit]

variable (hcommit : (s.prt p).commitStatus o = none) (hlines : o.linesIn = true)
include hcommit hlines

/-- An UPDATE that reads a void version ends with its own void (R150). -/
theorem State.runUpdate_of_void (hvoid : (s.prt p).readsVoid o = true) :
    s.runUpdate p seq sub f = s.voidUpdate p o stPeerLost := by
  simp [State.runUpdate, hop, hcode, htok, hsub, hcommit, hlines, hvoid]

variable (hvoid : (s.prt p).readsVoid o = false)
include hvoid

/-- An UPDATE of a FROZEN tensor is skipped (R152). -/
theorem State.runUpdate_of_frozen (hfrozen : eFrozen (o.ent (dA o.desc)) = true) :
    s.runUpdate p seq sub f = s.skipUpdate p o := by
  simp [State.runUpdate, hop, hcode, htok, hsub, hcommit, hlines, hvoid, hfrozen]

/-- An UPDATE whose turn it is does its work (R163). -/
theorem State.runUpdate_of_turn (hthaw : eFrozen (o.ent (dA o.desc)) = false) : s.runUpdate p seq sub f = f o := by
  simp [State.runUpdate, hop, hcode, htok, hsub, hcommit, hlines, hvoid, hthaw]

end

/-! ### Chunks -/

/-- A chunk that its die may process is written, and the last one closes the UPDATE (R163, R166). -/
theorem State.runChunk_of_chunkOpen {s : State} {p seq j : Nat} {o : OpRec} (hop : (s.prt p).op seq = some o)
    (hopen : s.chunkOpen p o j = true) : s.runChunk p seq j = (s.writeChunk p o j).closeUpdate p seq := by
  simp [State.runChunk, hop, hopen]

/-- A die that serves repeats the chunk it processes, as part of that chunk's UPDATE (R185). -/
theorem State.rerunDie_of_chunkOn {s : State} {p die : Nat} {c : Nat × Nat} (hown : s.unitOwner die = some p)
    (hchunk : s.chunkOn p die = some c) (hserves : (s.hdr (pageUpd die)).suspect = false) (failsAgain : Bool) :
    s.rerunDie die failsAgain = s.runUpdate p c.1 (fun _ => true) (fun _ => s.rerunChunk p die failsAgain c) := by
  simp [State.rerunDie, hown, hchunk, hserves]

/-! ### Digests -/

/-- A tensor with a poisoned byte has no digest (R124, R181). -/
theorem State.digestTensor_of_bad {s : State} {p : Nat} {o : OpRec}
    (hbad : (s.tensorBytes p o (dA o.desc) (o.ver (dA o.desc))).bad = true) :
    s.digestTensor p o = (s.tensorBytes p o (dA o.desc) (o.ver (dA o.desc))).st.finishOp p o.seq stPoisoned 0#16 := by
  simp [State.digestTensor, hbad]

/-- The keyed digest of a sound tensor is stored (R181). -/
theorem State.digestTensor_of_good {s : State} {p : Nat} {o : OpRec}
    (hgood : (s.tensorBytes p o (dA o.desc) (o.ver (dA o.desc))).bad = false) :
    s.digestTensor p o =
      (let r := s.tensorBytes p o (dA o.desc) (o.ver (dA o.desc))
       let w := r.st.storeRaw p o (dC o.desc) 0
         (leBytes 8 (keyedDigest (s.prt p).digestKey (plainBytes r.data) (plainBytes r.side)))
       w.1.finishOp p o.seq (if w.2 then stPoisoned else stOK) 0#16) := by
  simp [State.digestTensor, hgood]

/-- A comparison waits while an earlier UPDATE of its STEP is open (R183, R261). -/
theorem State.digestReplica_of_open_update {s : State} {p : Nat} {o : OpRec}
    (hupd : ((s.prt p).before o).any (fun a => decide (dOp a.desc = 0x40 ∧ dStep a.desc = dStep o.desc)) = true) :
    s.digestReplica p o = s :=
  if_pos hupd

/-- Once its digest is sent, a comparison awaits the replicas and then ends (R261, R342). -/
theorem State.digestReplica_of_sent {s : State} {p : Nat} {o : OpRec} (hop : (s.prt p).op o.seq = some o)
    (hupd : ((s.prt p).before o).any (fun a => decide (dOp a.desc = 0x40 ∧ dStep a.desc = dStep o.desc)) = false)
    (hsent : o.coll.sentData = true) :
    s.digestReplica p o = if s.awaitsReplica p o then s else s.endReplica p o := by
  simp only [State.digestReplica, hupd, hsent, hop, Bool.false_eq_true, if_false, if_true]

/-- Settles O34: an UPDATE takes the first branch of `State.runUpdate` that applies; a ready DIGEST does its work. -/
theorem updates : Obligations.Updates := by
  unfold Obligations.Updates
  refine ⟨fun s p seq chunk die o c => ⟨fun hop hcode htok => ⟨?failed, ?void, ?frozen, ?turn⟩, ?rerun⟩,
    fun s p seq o => ⟨?good, ?bad, ?waits, ?sent⟩⟩
  case failed => exact fun st hst => congrArg Host.Outcome.next (State.runUpdate_of_commit_failed _ hop hcode htok rfl hst)
  case void =>
    exact fun hcommit hlines hvoid => congrArg Host.Outcome.next
      (State.runUpdate_of_void _ hop hcode htok rfl hcommit hlines hvoid)
  case frozen =>
    exact fun hcommit hlines hvoid hfrozen => congrArg Host.Outcome.next
      (State.runUpdate_of_frozen _ hop hcode htok rfl hcommit hlines hvoid hfrozen)
  case turn =>
    intro hcommit hlines hvoid hthaw
    have works {sub : Nat → Bool} (hsub : sub (dSub o.desc) = true) (f : OpRec → State) : s.runUpdate p seq sub f = f o :=
      State.runUpdate_of_turn f hop hcode htok hsub hcommit hlines hvoid hthaw
    refine ⟨fun helement => ?_, fun hprecond => ?_, fun hdone hnew hlt hserves htakes hroom => ?_⟩
    · exact congrArg Host.Outcome.next (works (decide_eq_true helement) _)
    · exact congrArg Host.Outcome.next (works (decide_eq_true hprecond) _)
    · have hopen : s.chunkOpen p o chunk = true := by
        simp only [State.chunkOpen, hdone, hnew, hserves, htakes, hroom, decide_eq_true hlt]
        rfl
      exact congrArg Host.Outcome.next ((works rfl _).trans (State.runChunk_of_chunkOpen hop hopen))
  case rerun =>
    intro hown hchunk hserves hop hcode htok hcommit hlines hvoid hthaw
    exact congrArg Host.Outcome.next ((State.rerunDie_of_chunkOn hown hchunk hserves false).trans
      (State.runUpdate_of_turn _ hop hcode htok rfl hcommit hlines hvoid hthaw))
  case good =>
    exact fun hready hgood => congrArg Host.Outcome.next
      ((State.runOp_of_ready hready rfl _).trans (State.digestTensor_of_good hgood))
  case bad =>
    exact fun hready hbad => congrArg Host.Outcome.next
      ((State.runOp_of_ready hready rfl _).trans (State.digestTensor_of_bad hbad))
  case waits =>
    exact fun hready hupd => congrArg Host.Outcome.next
      ((State.runOp_of_ready hready rfl _).trans (State.digestReplica_of_open_update hupd))
  case sent =>
    intro hready hupd hsent
    have hop : (s.prt p).op o.seq = some o := (Prt.seq_of_op hready.1).symm ▸ hready.1
    have hruns := (State.runOp_of_ready hready (test := (· = 1)) rfl (s.digestReplica p)).trans
      (State.digestReplica_of_sent hop hupd hsent)
    exact ⟨fun hwait => congrArg Host.Outcome.next (hruns.trans (if_pos hwait)),
      fun hall => congrArg Host.Outcome.next (hruns.trans (if_neg (Bool.eq_false_iff.1 hall)))⟩

end Sys2Proof.Machine
end

section
/-! PROOF. Belays, their seals, restores and risk belays (R121, R260, R364, R367, R368, R371). -/

namespace Sys2Proof.Machine

/-! ### Copy and seal -/

section
variable {s : State} {p seq sub : Nat} {o : OpRec} {b : BelayRun}
variable (hop : (s.prt p).op seq = some o) (hbelay : o.belay = some b) (hdone : o.done = false)
include hop hbelay hdone

/-- A belay that has copied is sealed when the STEP_COMMIT of its STEP has ended; one that failed leaves no loss (R367). -/
theorem State.runSeal_of_commit_ended {st : BitVec 8} (hcopied : b.copied = true) (hst : (s.prt p).sealStatus o b = some st) :
    s.runSeal p seq = s.sealBelay p o { b with loss := if st = stOK then b.loss else [] } := by
  simp [State.runSeal, hop, hbelay, hdone, hcopied, hst]

variable (hcode : dOp o.desc = 0x50) (hcopied : b.copied = false)
include hcode hcopied

/-- A peer belay whose peer cannot be reached ends (R260). -/
theorem State.runBelay_of_peer_lost (hsub : dSub o.desc = 1) (hlost : s.peerServes p o.belayPeer = false) :
    s.runBelay p seq 1 = s.finishOp p seq stPeerLost 0#16 := by
  simp [State.runBelay, hop, hbelay, hdone, hcode, hcopied, hsub, hlost]

/-- A belay copies its image once its tokens and host lines are in (R121, R368). -/
theorem State.runBelay_of_ready (htok : (s.prt p).tokensReady o = true) (hlines : o.linesIn = true) (hsub : dSub o.desc = sub)
    (hpeer : sub = 1 → s.peerServes p o.belayPeer = true) : s.runBelay p seq sub = s.copyBelay p o b := by
  have hreached : ¬(sub = 1 ∧ s.peerServes p o.belayPeer = false) := by
    rintro ⟨h, hlost⟩
    simp [hpeer h] at hlost
  simp only [State.runBelay, hop, hbelay, hdone, hcode, hcopied, hsub, htok, hlines, Bool.not_eq_true', hreached,
    and_self, Bool.true_eq_false, if_true, if_false]

end

/-! ### The halves of a peer's tensor -/

section
variable {s : State} {p : Nat} {o : OpRec} {h0 h1 : List Byte} {newest : Bool}

/-- A restore whose peer cannot be reached ends (R260). -/
theorem State.runRestorePeer_of_peer_lost (halves : List (List Byte)) (hlost : s.peerServes p o.belayPeer = false) :
    s.runRestorePeer p halves newest o = s.finishOp p o.seq stPeerLost 0#16 := by
  simp [State.runRestorePeer, hlost]

variable (hpeer : s.peerServes p o.belayPeer = true)
include hpeer

/-- Half 0 is restored where half 1 is no candidate or is not the newest (R371). -/
theorem State.runRestorePeer_half0 (hgood : s.candidate (dStep o.desc) h0 = true)
    (hother : s.candidate (dStep o.desc) h1 = false ∨ newest = false) :
    s.runRestorePeer p [h0, h1] newest o = s.restoreImage p o (h0.map some) := by
  simp [State.runRestorePeer, hpeer, hgood, hother]

/-- Half 1 is restored where half 0 is no candidate or half 1 is the newest (R371). -/
theorem State.runRestorePeer_half1 (hgood : s.candidate (dStep o.desc) h1 = true)
    (hother : s.candidate (dStep o.desc) h0 = false ∨ newest = true) :
    s.runRestorePeer p [h0, h1] newest o = s.restoreImage p o (h1.map some) := by
  obtain hbad | hnewest := hother
  · simp [State.runRestorePeer, hpeer, hgood, hbad]
  · simp [State.runRestorePeer, hpeer, hgood, hnewest]

/-- Without a candidate there is nothing to restore (R371). -/
theorem State.runRestorePeer_of_no_candidate (hbad0 : s.candidate (dStep o.desc) h0 = false)
    (hbad1 : s.candidate (dStep o.desc) h1 = false) :
    s.runRestorePeer p [h0, h1] newest o = s.finishOp p o.seq stInvalid 0#16 := by
  simp [State.runRestorePeer, hpeer, hbad0, hbad1]

end

/-! ### Risk belays -/

/-- A due risk belay enters the acceptance order as an internal belay to the party's risk target (R364). -/
theorem State.insertRisk_of_due {s : State} {p : Nat} (hdue : (s.prt p).riskDue = true) :
    s.insertRisk p = (s.updPrt p (fun v => { v with riskDue := false, riskPending := false })).insertBelay p 1#8
      (s.prt p).belayCfg.riskTarget.toNat (s.prt p).belayCfg.riskH
      (if (s.prt p).anyCommit then ((s.prt p).lastCommitStep + 1) % 2 ^ 64 else 0) :=
  if_pos hdue

/-- Settles O36: the targets of a belay share `State.runBelay`, and a ready RESTORE reads its image. -/
theorem belaysAndRestores : Obligations.BelaysAndRestores := by
  unfold Obligations.BelaysAndRestores
  refine ⟨fun s p seq o b st h0 h1 newest => ⟨?copy, ?sealed, ?restore, ?lost, ?peer⟩, fun s p => ⟨?due, ?notDue⟩⟩
  case copy =>
    intro hop hbelay hcode hcopied hdone htok hlines
    have copies {sub : Nat} (hsub : dSub o.desc = sub) (hpeer : sub = 1 → s.peerServes p o.belayPeer = true) :
        s.runBelay p seq sub = s.copyBelay p o b :=
      State.runBelay_of_ready hop hbelay hdone hcode hcopied htok hlines hsub hpeer
    refine ⟨fun hlocal => ?_, fun htoPeer hserves => ?_, fun htoPeer hlost => ?_, fun hhost => ?_⟩
    · exact congrArg Host.Outcome.next (copies hlocal nofun)
    · exact congrArg Host.Outcome.next (copies htoPeer fun _ => hserves)
    · exact congrArg Host.Outcome.next (State.runBelay_of_peer_lost hop hbelay hdone hcode hcopied htoPeer hlost)
    · exact congrArg Host.Outcome.next (copies hhost nofun)
  case sealed =>
    exact fun hop hbelay hcopied hdone hst => congrArg Host.Outcome.next
      (State.runSeal_of_commit_ended hop hbelay hdone hcopied hst)
  case restore => exact fun hready => congrArg Host.Outcome.next (State.runOp_of_ready hready rfl _)
  case lost =>
    exact fun hready hlost => congrArg Host.Outcome.next
      ((State.runOp_of_ready hready rfl _).trans (State.runRestorePeer_of_peer_lost _ hlost))
  case peer =>
    intro hready hpeer
    have runs {t : State} (h : s.runRestorePeer p [h0, h1] newest o = t) : Runs (.restorePeer p seq [h0, h1] newest) s t :=
      congrArg Host.Outcome.next ((State.runOp_of_ready hready rfl _).trans h)
    exact ⟨fun hgood hother => runs (State.runRestorePeer_half0 hpeer hgood hother),
      fun hgood hother => runs (State.runRestorePeer_half1 hpeer hgood hother),
      fun hbad0 hbad1 => runs (State.runRestorePeer_of_no_candidate hpeer hbad0 hbad1)⟩
  case due => exact fun hdue => congrArg Host.Outcome.next (State.insertRisk_of_due hdue)
  case notDue => exact fun hnone => congrArg Host.Outcome.next (State.insertRisk_of_not_due hnone)

end Sys2Proof.Machine
end

section
/-! PROOF. The words of a random stream, and how fills cut it (R158). -/

namespace Sys2Proof.Machine

/-! ### Reading past the end -/

theorem leVal_zeros (n : Nat) : leVal (zeros n) = 0 := by
  induction n with
  | zero => rfl
  | succ n ih => simpa [zeros, List.replicate_succ, leVal] using ih

theorem leVal_append_zeros (bs : List Byte) (n : Nat) : leVal (bs ++ zeros n) = leVal bs := by
  induction bs with
  | nil => exact leVal_zeros n
  | cons b bs ih => simp only [List.cons_append, leVal, ih]

/-- Missing bytes read as 0, so they add nothing to a field. -/
theorem fieldLe_eq_leVal (bs : List Byte) (off n : Nat) : fieldLe bs off n = leVal ((bs.drop off).take n) :=
  leVal_append_zeros _ _

/-! ### Whole blocks -/

/-- The four words of block c of stream n. -/
def streamBlockWords (seed : List Byte) (n c : Nat) : List Nat :=
  (List.range 4).map (fun i => fieldLe (streamBlock (streamKey seed n) n c) (4 * i) 4)

/-- The words of j whole blocks of stream n from counter c on. -/
def streamBlocks (seed : List Byte) (n c j : Nat) : List Nat :=
  (List.range j).flatMap (fun i => streamBlockWords seed n (c + i))

theorem streamWords_eq_take (seed : List Byte) (n c k : Nat) :
    streamWords seed n c k = (streamBlocks seed n c (ceilDiv k 4)).take k := rfl

@[simp] theorem length_streamBlocks (seed : List Byte) (n c j : Nat) : (streamBlocks seed n c j).length = 4 * j := by
  simp [streamBlocks, streamBlockWords, List.length_flatMap, Nat.mul_comm]

theorem streamBlocks_one (seed : List Byte) (n c : Nat) : streamBlocks seed n c 1 = streamBlockWords seed n c := by
  simp [streamBlocks]

/-- The blocks after the first j are those from counter c + j on. -/
theorem streamBlocks_add (seed : List Byte) (n c j m : Nat) :
    streamBlocks seed n c (j + m) = streamBlocks seed n c j ++ streamBlocks seed n (c + j) m := by
  simp [streamBlocks, List.range_add, List.flatMap_append, List.flatMap_map, Nat.add_assoc]

/-! ### Fills -/

theorem ceilDiv_four_mul_add (j k : Nat) : ceilDiv (4 * j + k) 4 = j + ceilDiv k 4 := by
  unfold ceilDiv
  omega

/-- A fill behind whole blocks begins at the counter they leave. -/
theorem streamWords_four_mul_add (seed : List Byte) (n c j k : Nat) :
    streamWords seed n c (4 * j + k) = streamBlocks seed n c j ++ streamWords seed n (c + j) k := by
  rw [streamWords_eq_take, streamWords_eq_take, ceilDiv_four_mul_add, streamBlocks_add,
    ← length_streamBlocks seed n c j, List.take_length_add_append]

/-- A fill of whole blocks takes every word of them. -/
theorem streamWords_four_mul (seed : List Byte) (n c j : Nat) :
    streamWords seed n c (4 * j) = streamBlocks seed n c j :=
  (streamWords_four_mul_add seed n c j 0).trans (List.append_nil _)

/-- Settles O32: a fill takes whole blocks, and the blocks of a stream follow one another by their counter. -/
theorem randomStream : Obligations.RandomStream := by
  unfold Obligations.RandomStream
  refine fun seed n c j k => ⟨?block, ?cut⟩
  case block =>
    calc streamWords seed n c 4
      _ = streamBlockWords seed n c := (streamWords_four_mul seed n c 1).trans (streamBlocks_one seed n c)
      _ = _ := List.map_congr_left fun i _ => fieldLe_eq_leVal _ _ _
  case cut => rw [streamWords_four_mul, streamWords_four_mul_add]

end Sys2Proof.Machine
end

section
/-! PROOF. Comparisons, retries, chunk reruns and patrol tests that fail, and the suspects they leave (R185, R333, R335, R337,
R339). -/

namespace Sys2Proof.Machine

/-! ### Suspects -/

/-- Read after write in any map: a value other than the default is listed. -/
theorem Sparse.get_set_same_of_ne {α : Type} [DecidableEq α] {d v : α} (hv : v ≠ d) (m : Sparse α) (k : Nat) :
    Sparse.get d (Sparse.set d m k v) k = v := by
  induction m with
  | nil => simp [Sparse.set, Sparse.get, hv]
  | cons e m ih =>
    obtain ⟨j, a⟩ := e
    by_cases hlt : k < j
    · simp [Sparse.set, Sparse.get, hlt, hv]
    · by_cases hkj : k = j
      · simp [Sparse.set, Sparse.get, hkj, hv]
      · simp [Sparse.set, Sparse.get, hlt, hkj, Ne.symm hkj, ih]

/-- A write leaves every other key alone, whatever an unlisted one reads as. -/
theorem Sparse.get_set_ne_default {α : Type} [DecidableEq α] (d d' v : α) (m : Sparse α) {k i : Nat} (h : i ≠ k) :
    Sparse.get d' (Sparse.set d m k v) i = Sparse.get d' m i := by
  have hk : k ≠ i := Ne.symm h
  induction m with
  | nil => simp only [Sparse.set]; split <;> simp [Sparse.get, hk]
  | cons e m ih =>
    obtain ⟨j, a⟩ := e
    simp only [Sparse.set]
    split_ifs with hlt hv hkj hv
    · rfl
    · simp [Sparse.get, hk]
    · simp [Sparse.get, ← hkj, hk]
    · simp [Sparse.get, ← hkj, hk]
    · simp only [Sparse.get, ih]

section
variable (s : State)

/-- An interrupt leaves the page headers and the health monitor. -/
theorem State.hdrs_hlt_msix (h : Bool) (fn vector : Nat) :
    (s.msix h fn vector).hdrs = s.hdrs ∧ (s.msix h fn vector).hlt = s.hlt := by
  unfold State.msix
  split
  · exact ⟨rfl, rfl⟩
  · split <;> exact ⟨rfl, rfl⟩

@[simp] theorem State.hdrs_msixPf0 (vector : Nat) : (s.msixPf0 vector).hdrs = s.hdrs :=
  (State.hdrs_hlt_msix _ true 0 vector).1.trans (State.hdrs_hlt_msix s false 0 vector).1

@[simp] theorem State.hlt_msixPf0 (vector : Nat) : (s.msixPf0 vector).hlt = s.hlt :=
  (State.hdrs_hlt_msix _ true 0 vector).2.trans (State.hdrs_hlt_msix s false 0 vector).2

/-- A new suspect changes its own page header, and it is no patrol test (R333, R339). -/
theorem State.hdrs_testCount_makeSuspect (n : Nat) :
    (s.makeSuspect n).hdrs = (s.updHdr n (fun h => { h with suspect := true })).hdrs
      ∧ (s.makeSuspect n).hlt.testCount = s.hlt.testCount := by
  have hmsix := State.hdrs_msixPf0 (s.updHdr n (fun h => { h with suspect := true })) 7
  have htests := congrArg Hlt.testCount (State.hlt_msixPf0 (s.updHdr n (fun h => { h with suspect := true })) 7)
  unfold State.makeSuspect
  generalize (s.updHdr n (fun h => { h with suspect := true })).msixPf0 7 = t at hmsix htests
  split
  · case h_1 => split_ifs <;> exact ⟨hmsix, htests⟩
  · case h_2 => exact ⟨hmsix, htests⟩

/-- The header of a page after a unit became suspect. -/
theorem State.hdr_makeSuspect (n m : Nat) :
    (s.makeSuspect n).hdr m =
      Sparse.get (hdrReset m) (Sparse.modify (hdrReset n) s.hdrs n (fun h => { h with suspect := true })) m :=
  congrArg (Sparse.get (hdrReset m) · m) (State.hdrs_testCount_makeSuspect s n).1

@[simp] theorem State.suspect_makeSuspect (n : Nat) : ((s.makeSuspect n).hdr n).suspect = true := by
  have hmark : { s.hdr n with suspect := true } ≠ hdrReset n := fun h => nomatch congrArg Hdr.suspect h
  rw [State.hdr_makeSuspect]
  exact congrArg Hdr.suspect (Sparse.get_set_same_of_ne hmark s.hdrs n)

/-- What is suspect stays so when a unit becomes suspect. -/
theorem State.suspect_makeSuspect_of_suspect {s : State} {m : Nat} (h : (s.hdr m).suspect = true) (n : Nat) :
    ((s.makeSuspect n).hdr m).suspect = true := by
  by_cases hmn : m = n
  · rw [hmn, State.suspect_makeSuspect]
  · rw [State.hdr_makeSuspect, Sparse.modify, Sparse.get_set_ne_default _ _ _ _ hmn]
    exact h

/-- Every unit of a list that becomes suspect is so at its end. -/
theorem State.suspect_foldl_makeSuspect (page : Nat → Nat) {c : Nat} {cs : List Nat} (hc : c ∈ cs) :
    ((cs.foldl (fun t c => t.makeSuspect (page c)) s).hdr (page c)).suspect = true := by
  induction cs generalizing s with
  | nil => exact nomatch hc
  | cons a cs ih =>
    obtain rfl | hc := List.mem_cons.1 hc
    · exact List.foldlRecOn cs _ (motive := fun t : State => (t.hdr (page c)).suspect = true)
        (State.suspect_makeSuspect s (page c)) (fun _ h a _ => State.suspect_makeSuspect_of_suspect h (page a))
    · exact ih _ hc

end

/-! ### Comparisons of duplicated work -/

/-- Two failed comparisons make the vector engine suspect (R337). -/
theorem State.suspect_compareFail (s : State) (core : Nat) {n : Nat} (hn : 2 ≤ n) :
    ((s.compareFail core n).hdr (pageVec core)).suspect = true := by
  unfold State.compareFail
  rw [if_neg (by omega), if_neg (by omega)]
  exact State.suspect_makeSuspect _ _

section
variable {s : State} {p seq sub : Nat} {o : OpRec} (hready : Ready s p seq 0x10 sub o) (q : Nat)
include hready

/-- An element whose comparison fails once is computed again, and the operation does its work (R337). -/
theorem State.runVec_compare_once : s.runVec p seq sub [q] =
    (s.compareFail (s.coreAt p (elemCore (s.coreCount p) (o.ent (dC o.desc)) q)) 1).vecElems p o := by
  have heach : [q].eraseDups = [q] := rfl
  simp [State.runVec, State.runOp_of_ready hready, heach]

/-- An element whose comparison fails twice stops the operation where it is (R337). -/
theorem State.runVec_compare_twice : s.runVec p seq sub [q, q] =
    s.compareFail (s.coreAt p (elemCore (s.coreCount p) (o.ent (dC o.desc)) q)) 2 := by
  have heach : [q, q].eraseDups = [q] := by simp [List.eraseDups_cons]
  simp [State.runVec, State.runOp_of_ready hready, heach]

end

/-- A tile whose comparison fails twice is not converted (R337). -/
theorem runs_outputConversion_compare_twice {s t : State} {p seq tile n : Nat} {w : Work2} {A : Int}
    (hw : s.workOf p seq = some (w, t)) (hA : w.o.anchor = some A) (htile : tile < eTiles (w.o.ent (dC w.o.desc)))
    (hnew : w.o.tilesDone.contains tile = false)
    (hmerged : ((blockTiles (w.o.ent (dC w.o.desc)) tile).filter (fun u => !w.o.tilesDone.contains u)).all (t.tileComplete p w)
      = true) (hn : 2 ≤ n) :
    Runs (.outputConversion p seq tile n) s (t.compareFail (t.homeCore p (w.o.ent (dC w.o.desc)) tile) n) := by
  have hready : ¬(eTiles (w.o.ent (dC w.o.desc)) ≤ tile ∨ w.o.tilesDone.contains tile
      ∨ !((blockTiles (w.o.ent (dC w.o.desc)) tile).filter (fun u => !w.o.tilesDone.contains u)).all (t.tileComplete p w)) := by
    simp only [Nat.not_le.2 htile, hnew, hmerged, Bool.not_true, Bool.false_eq_true, or_self, not_false_iff]
  simp -zeta only [Runs, exec, execOutputConversion, State.convertTile, hw, hA]
  exact congrArg Host.Outcome.next ((if_neg hready).trans (if_pos hn))

/-! ### Pitches -/

/-- An update of one engine leaves the core's other engines. -/
theorem State.eng_updEng_ne (t : State) (core : Nat) {e k : Nat} (hk : k ≠ e) (f : Eng → Eng) :
    (t.updEng core e f).eng core k = t.eng core k :=
  Sparse.get_modify_ne _ _ _ _ _ (by omega)

/-- The engine that takes over a pitch of engine e does not depend on what engine e holds (R335). -/
theorem State.find?_takesOver_updEng (t : State) (core e : Nat) (f : Eng → Eng) :
    (List.range 16).find? (fun k => k ≠ e ∧ ((t.updEng core e f).eng core k).state ≠ 7#4)
      = (List.range 16).find? (fun k => k ≠ e ∧ (t.eng core k).state ≠ 7#4) := by
  refine congrArg (List.find? · _) (funext fun k => ?_)
  by_cases hk : k = e
  · simp [hk]
  · rw [State.eng_updEng_ne t core hk]

section
variable {s t : State} {core e : Nat} {w : Work2} {j : Job} (hj : s.jobWork core e = some (j, w, t))
include hj

/-- A slot that disagrees with its residue ends the pitch with a FAIL at its row and column (R334, R335). -/
theorem runs_writeBack_fails {row col : Nat} {x : Slot} (hdone : w.pitchDone (s.eng core e) j = true) (hcol : col < w.x.cols)
    (hbad : (s.eng core e).foot.find? (fun (y : Nat × Slot) => syndrome y.2.value y.2.residue ≠ 0)
      = some (row * w.x.cols + col, x)) (u u2 : Upset) :
    Runs (.writeBack core e u u2) s (t.failPitch core e row col 0 (syndrome x.value x.residue) j.seq []) := by
  have hrow : (row * w.x.cols + col) / w.x.cols = row := by
    rw [Nat.mul_comm, Nat.mul_add_div (Nat.zero_lt_of_lt hcol), Nat.div_eq_of_lt hcol, Nat.add_zero]
  have hcolumn : (row * w.x.cols + col) % w.x.cols = col := by
    rw [Nat.mul_comm, Nat.mul_add_mod, Nat.mod_eq_of_lt hcol]
  simp only [Runs, exec, execWriteBack, State.writeBack, hj, hdone, hbad, hrow, hcolumn, Bool.not_true, Bool.false_eq_true,
    if_false]

variable {k : Nat} (hretry : (s.eng core e).state = 5#4)
  (hk : (List.range 16).find? (fun k => k ≠ e ∧ (t.eng core k).state ≠ 7#4) = some k) (hfree : (t.eng core k).job = none)
include hretry hk hfree

/-- A retry that fails on its engine goes to the engine that takes over: where it passes there, the first engine is suspect;
where it fails again, the core is suspect and the pitch is dropped (R335). -/
theorem State.retryPitch_other (other : Bool) :
    s.retryPitch core e false other =
      (let t1 := t.updEng core e (w.ranAgain core j)
       let second := (s.eng core e).fails ++ [t1.failEvent core e (s.eng core e) 0 0 0 0 j.seq []]
       let t2 := t1.countFail core e
       if other then
         (((t2.reportFails second 2#8 true).updEng core k (fun u =>
           w.rerun core { u with anchor := (s.eng core e).anchor } j)).updEng core e Eng.closePitch).makeSuspect (pageEng core e)
       else
         w.dropPitch ((((((t2.updEng core k (w.ranAgain core j)).countFail core k).reportFails
           (second ++ [t1.failEvent core k (s.eng core e) 0 0 0 0 j.seq []]) 3#8 true).makeSuspect
             (pageCore core)).updEng core e Eng.closePitch)) j) := by
  have hke : k ≠ e := (of_decide_eq_true (List.find?_some hk :)).1
  simp only [State.retryPitch, hj, hretry, State.find?_takesOver_updEng, hk, State.eng_updEng_ne t core hke, hfree, ne_eq,
    not_true, Bool.false_eq_true, if_false, Option.isSome_none, false_and]

end

/-! ### Patrol tests -/

@[simp] theorem State.hlt_takeTokens (s : State) (w a n : Nat) : (s.takeTokens w a n).hlt = s.hlt := by
  unfold State.takeTokens
  split <;> rfl

/-- What a patrol test leaves of the device before its result counts: the tokens it takes, the wiped engines, its place in the
order of patterns (R338, R341). -/
def State.patrolled (s : State) (cs : List Nat) (core0 e : Nat) : State :=
  let s1 := match s.unitOwner (core0 / 32) with | some p => s.takeTokens (40 + p) 4 2 | none => s
  (cs.foldl (fun t c => t.wipeEngine c e) s1).updHlt (fun h => { h with
    testCount := h.testCount + 1
    nextPattern := if s.hlt.patternTurn then (h.patternAfter + 1) % 16 else h.nextPattern })

/-- A patrol test counts itself once (R341). -/
@[simp] theorem State.testCount_patrolled (s : State) (cs : List Nat) (core0 e : Nat) :
    (s.patrolled cs core0 e).hlt.testCount = s.hlt.testCount + 1 := by
  have wiped (u : State) : (cs.foldl (fun t c => t.wipeEngine c e) u).hlt = u.hlt :=
    List.foldlRecOn cs _ (motive := fun t : State => t.hlt = u.hlt) rfl (fun _ h _ _ => h)
  unfold State.patrolled
  split <;> simp [wiped]

/-- What a failed test finds does not count as another test (R339, R341). -/
@[simp] theorem State.testCount_failPatrol (s : State) (e core0 : Nat) (pattern : Bool) (bad : List Nat) :
    (s.failPatrol e core0 pattern bad).hlt.testCount = s.hlt.testCount := by
  unfold State.failPatrol
  exact List.foldlRecOn bad _ (motive := fun t : State => t.hlt.testCount = s.hlt.testCount) rfl
    (fun t h c _ => (State.hdrs_testCount_makeSuspect t (pageEng c e)).2.trans h)

/-- The engines that a failed test finds faulty are suspect (R339). -/
theorem State.suspect_failPatrol (s : State) (e core0 : Nat) (pattern : Bool) {c : Nat} {bad : List Nat} (hc : c ∈ bad) :
    ((s.failPatrol e core0 pattern bad).hdr (pageEng c e)).suspect = true :=
  State.suspect_foldl_makeSuspect _ (pageEng · e) hc

/-- A test that fails and fails again goes to a third engine, which says who is faulty (R339). -/
theorem runs_patrolTest_fails {s : State} {c0 c1 c2 e : Nat} (hstate : s.dev.state = .ready) (hen : s.hlt.patrolEn = true)
    (hdiff : [c0, c1, c2].Nodup)
    (hmay : ∀ c ∈ [c0, c1, c2], s.mayPatrol c e = true ∧ s.unitOwner (c / 32) = s.unitOwner (c0 / 32)) (third : PatrolRun) :
    Runs (.patrolTest c0 c1 c2 e false false third) s
      ((s.patrolled [c0, c1, c2] c0 e).failPatrol e c0 s.hlt.patternTurn (patrolSuspects c0 c1 c2 third)) := by
  have hall : [c0, c1, c2].all (fun c => s.mayPatrol c e && decide (s.unitOwner (c / 32) = s.unitOwner (c0 / 32))) = true :=
    List.all_eq_true.2 fun c hc => by simp [hmay c hc]
  have hruns : s.dev.state ≠ .boot ∧ s.dev.state ≠ .fault ∧ s.hlt.patrolEn ∧ [c0, c1, c2].Nodup
      ∧ [c0, c1, c2].all (fun c => s.mayPatrol c e && decide (s.unitOwner (c / 32) = s.unitOwner (c0 / 32))) :=
    ⟨hstate ▸ nofun, hstate ▸ nofun, hen, hdiff, hall⟩
  exact congrArg Host.Outcome.next (if_pos hruns)

/-- Settles O27: each failing check has its lemma above; a suspect stays one while the others of its test follow. -/
theorem failedComparisons : Obligations.FailedComparisons := by
  unfold Obligations.FailedComparisons
  intro s t p seq n q tile core e k die c0 c1 c2 row col o w j x A c third
  refine ⟨?vec, State.suspect_compareFail s core, ?conversion, fun hj => ⟨?slot, ?retry⟩, ?rerun, ?patrol⟩
  case vec =>
    intro x hx hready
    simp only [List.mem_cons, List.not_mem_nil, or_false] at hx
    obtain rfl | rfl | rfl | rfl := hx
    all_goals exact ⟨congrArg Host.Outcome.next (State.runVec_compare_once hready q),
      congrArg Host.Outcome.next (State.runVec_compare_twice hready q)⟩
  case conversion => exact runs_outputConversion_compare_twice
  case slot => exact fun hdone _ hcol hbad => runs_writeBack_fails hj hdone hcol hbad 0 0
  case retry =>
    intro hretry hk hfree
    have runs := State.retryPitch_other hj hretry hk hfree
    exact ⟨congrArg Host.Outcome.next ((runs true).trans (if_pos rfl)),
      congrArg Host.Outcome.next ((runs false).trans (if_neg Bool.false_ne_true))⟩
  case rerun =>
    intro hown hchunk hserves hop hcode htok hcommit hlines hvoid hthaw
    exact congrArg Host.Outcome.next ((State.rerunDie_of_chunkOn hown hchunk hserves true).trans
      (State.runUpdate_of_turn _ hop hcode htok rfl hcommit hlines hvoid hthaw))
  case patrol =>
    intro hstate hen hdiff hmay
    exact ⟨_, runs_patrolTest_fails hstate hen hdiff hmay third, by simp, fun _ => State.suspect_failPatrol _ e c0 _⟩

end Sys2Proof.Machine
end

section
/-! PROOF. Memories and tables are canonical at reset and stay so in every step (R2, R194, R303, R322, R386). -/

namespace Sys2Proof.Machine

/-- Settles O3: the canonical forms are among the guarantees that every step keeps; they do not speak of the queue. -/
theorem tablesStayCanonical : Obligations.TablesStayCanonical := by
  unfold Obligations.TablesStayCanonical
  constructor
  · intro s t hs h
    exact (keeps_of_step h).memory hs
  · intro s t hs h
    exact (keeps_of_step h).blocks hs

/-- Debug starts off, whatever the fuses say (R322). -/
theorem debugLocked_reset : DebugLocked State.reset := fun _ => ⟨rfl, rfl, rfl⟩

/-- The supply starts at 650 mV under the limit of the power grade (R2, R17). -/
theorem powerSane_reset : PowerSane State.reset := by
  have h650 : legalMillivolts 650 := ⟨by decide, by decide, by decide⟩
  exact ⟨h650, h650, le_rfl⟩

/-- Settles O8: an empty map is canonical; debug is off and the supply legal. -/
theorem resetMeetsInvariants : Obligations.ResetMeetsInvariants :=
  ⟨rfl, rfl, debugLocked_reset, powerSane_reset, rfl⟩

end Sys2Proof.Machine
end

section
/-! PROOF. Host reads, host links and function level resets (R204, R264, R267). -/

namespace Sys2Proof.Machine

section
variable {s : State} {port : Bool} {tag : Nat} {r : HostRead}

/-- A completion or a timeout ends the outstanding read that holds its tag (R204). -/
theorem runs_host_of_outstanding (h : (s.hst port).reads.find? (fun r => r.tag = tag) = some r) (data : HostLine) :
    Runs (.hostReadCompletion port tag data) s (((s.endRead port r data).askAll).progress (pageHst port) 1)
    ∧ Runs (.hostCompletionTimeout port tag) s (((s.endRead port r none).raiseErr (pageHst port) 4 0#32).askAll) := by
  simp only [Runs, exec, execHostReadCompletion, execHostCompletionTimeout, h, and_self]

/-- A completion and a timeout of a tag that no read holds change nothing (R204). -/
theorem runs_host_of_no_read (h : (s.hst port).reads.find? (fun r => r.tag = tag) = none) (data : HostLine) :
    Runs (.hostReadCompletion port tag data) s s ∧ Runs (.hostCompletionTimeout port tag) s s := by
  simp only [Runs, exec, execHostReadCompletion, execHostCompletionTimeout, h, and_self]

end

/-- An FLR of PF0 resets the masks and pending bits of its vectors (R267). -/
theorem runs_flr_pf0 {s : State} {port : Bool} (hup : (s.hst port).link = .up) :
    Runs (.flr port 0) s (s.updHst port Hst.resetPf0) := by
  simp [Runs, exec, execFlr, hup]

/-- Settles O43: each command takes one branch of its arm, by what the port holds. -/
theorem hostPorts : Obligations.HostPorts := by
  unfold Obligations.HostPorts
  intro s port tag fn data r speed width flit
  refine ⟨fun h => runs_host_of_outstanding h data, fun h => runs_host_of_no_read h data, ?_, ?_, ?_, ?_, ?_⟩
  · intro hlink hlight hboot hlow hhigh hwidth
    simp only [Runs, exec, execHostLinkUp, State.raiseHostLink, hlight, Bool.not_false]
    rw [if_pos ⟨hlink, trivial, hboot, hlow, hhigh, hwidth⟩]
  · intro hup
    simp [Runs, exec, execHostLinkDown, State.dropHostLink, hup]
  · intro hup hone height
    simp [Runs, exec, execFlr, hup, Nat.not_lt.mpr height, Nat.one_le_iff_ne_zero.mp hone]
  · rintro hup rfl
    exact runs_flr_pf0 hup
  · intro hdown
    simp [Runs, exec, execFlr, hdown]

end Sys2Proof.Machine
end

section
/-! PROOF. Line accesses, scrubs, words that fail, line tests and refresh (R194, R198, R199, R213, R214, R336, R409). -/

namespace Sys2Proof.Machine

/-! ### Lines -/

@[simp] theorem length_zeros (n : Nat) : (zeros n).length = n := List.length_replicate

@[simp] theorem getD_zeros (n i : Nat) : (zeros n).getD i 0#8 = 0#8 := List.getElem?_getD_replicate_default_eq ..

/-- A partial write into a line of zeros: the bytes before it, the bytes written, the bytes behind it (R214). -/
theorem mergeBytes_zeros {offset : Nat} {data : List Byte} (h : offset + data.length ≤ 128) :
    mergeBytes (zeros 128) (List.replicate offset none ++ data.map wPut)
      = zeros offset ++ data ++ zeros (128 - offset - data.length) := by
  refine List.ext_getElem (by simp [mergeBytes]; omega) fun i _ _ => ?_
  simp only [mergeBytes, List.getElem_map, List.getElem_range, getD_zeros]
  obtain hlow | ⟨hmid, hlen⟩ | hhigh : i < offset ∨ (¬ i < offset ∧ i - offset < data.length)
      ∨ offset + data.length ≤ i := by omega
  · simp [zeros, List.getD, List.getElem?_append, hlow]
  · simp [zeros, List.getD, List.getElem_append, List.getElem?_append, hmid, hlen, wPut]
  · have hnot : ¬ i < offset := by omega
    have hlen : data.length ≤ i - offset := by omega
    simp [zeros, List.getD, List.getElem_append, List.getElem?_append, hnot, hlen]

section
variable {s : State} {m line slot : Nat} (hm : m < 8) (hline : line < dataLines) (hslot : (s.mce m).usable slot = true)
include hm hline hslot

theorem runs_basinRead (ecc tree : EccRead) (level : Nat) : Runs (.basinRead m line slot ecc tree level) s
    ((((s.readTree m line level tree).readBasin m line slot ecc).2).progress (pageMce m) 1) := by
  simp [Runs, exec, execBasinRead, hm, hline, hslot]

theorem runs_basinPartialWrite {offset : Nat} {data : List Byte} (hpos : 0 < data.length) (hlen : data.length < 128)
    (hend : offset + data.length ≤ 128) (ecc : EccRead) : Runs (.basinPartialWrite m line slot offset data ecc) s
      ((s.mergeLine m line slot offset data ecc).progress (pageMce m) 1) := by
  simp [Runs, exec, execBasinPartialWrite, hm, hline, hslot, hpos, hlen, hend]

end

/-- A partial write into an EMPTY line merges into zeros (R214). -/
theorem State.mergeLine_of_empty {s : State} {u n : Nat} (h : s.lineAt u n = .empty) (k : Nat) {offset : Nat} {data : List Byte}
    (hend : offset + data.length ≤ 128) (ecc : EccRead) : s.mergeLine u n k offset data ecc
      = (s.putLine u n k (zeros offset ++ data ++ zeros (128 - offset - data.length))).1 := by
  simp only [State.mergeLine, h, mergeBytes_zeros hend]

/-! ### Scrub -/

/-- The scrub of group k goes on to the next line (R199). -/
def State.scrubNext (s : State) (k : Nat) : State :=
  ((s.chargeScrub k).progress (pageBas k) 1).updBas k (fun b =>
    if groupLines ≤ b.scrubLine + 1 then { b with scrubLine := 0, scrubPasses := b.scrubPasses + 1 }
    else { b with scrubLine := b.scrubLine + 1 })

/-- What the scrub finds at the line it stands on (R199). -/
def State.scrubFound (s : State) (k : Nat) : EccRead → State
  | .clean => s
  | .corrected => (s.countCe (pageBas k) false).raiseErr (pageBas k) 0 (BitVec.ofNat 32 ((s.bas k).scrubLine / 32))
  | .transient => (s.countCe (pageBas k) true).raiseErr (pageBas k) 0 (BitVec.ofNat 32 ((s.bas k).scrubLine / 32))
  | .lasting => s.scrubLoss k (s.bas k).scrubLine

theorem runs_scrubStep {s : State} {k : Nat} (hk : k < 8) (hon : (s.bas k).state = 2#2) (htakes : s.takes (pageBas k) = true)
    (ecc : EccRead) : Runs (.scrubStep k ecc) s ((s.scrubFound k ecc).scrubNext k) := by
  cases ecc <;> simp only [Runs, exec, execScrubStep, State.scrubFound, State.scrubNext, hk, hon, htakes, and_self, if_true]

/-! ### Words -/

/-- A pool word that is not poisoned is read (R194, R409). -/
theorem runs_poolRead_pool {s : State} {core offset : Nat} (hcore : core < 256) (hoff : offset < 1500000000)
    (hgood : Sparse.get false s.poolBad ((core * 2 ^ 31 + offset) / 64) = false) (ecc : EccRead) :
    Runs (.poolRead (.pool core) offset ecc) s (s.sramRead (pagePool (core / 8)) (some 0) (some 1) ecc (fun t =>
      { t with poolBad := Sparse.set false t.poolBad ((core * 2 ^ 31 + offset) / 64) true })) := by
  simp only [Runs, exec, execPoolRead, hcore, hoff, hgood, Bool.not_false, and_self, if_true]

/-- A scratchpad word that is not poisoned is read (R194, R409). -/
theorem runs_poolRead_scratchpad {s : State} {core offset : Nat} (hcore : core < 256) (hoff : offset < spdSize)
    (hgood : Sparse.get false s.spdBad ((core * 2 ^ 22 + offset) / 8) = false) (ecc : EccRead) :
    Runs (.poolRead (.scratchpad core) offset ecc) s (s.sramRead (pageSpd core) (some 0) (some 1) ecc (fun t =>
      { t with spdBad := Sparse.set false t.spdBad ((core * 2 ^ 22 + offset) / 8) true })) := by
  simp only [Runs, exec, execPoolRead, hcore, hoff, hgood, Bool.not_false, and_self, if_true]

/-- A word of another array of a block that is not suspect is read (R409, Table 15.3). -/
theorem runs_poolRead_store {s : State} {page : Nat} {bits : Bool} (hstore : storePage page = some bits)
    (hgood : (s.hdr page).suspect = false) (ecc : EccRead) :
    Runs (.poolRead .store page ecc) s (s.sramRead page (if bits then some 0 else none) (if bits then some 1 else none) ecc
      (fun t => t.makeSuspect page)) := by
  simp only [Runs, exec, execPoolRead, hstore, hgood, Bool.false_eq_true, if_false]

/-- A marked word reads poisoned (R194). -/
theorem State.poolByte_of_bad {s : State} {k : Nat} (h : Sparse.get false s.poolBad (k / 64) = true) : s.poolByte k = none :=
  if_pos h

theorem State.spdByte_of_bad {s : State} {k : Nat} (h : Sparse.get false s.spdBad (k / 8) = true) : s.spdByte k = none :=
  if_pos h

/-- Settles O41: a usable slot, a group that scrubs and a word that is not yet poisoned each take the branch of their arm. -/
theorem basinLinesAndTests : Obligations.BasinLinesAndTests := by
  unfold Obligations.BasinLinesAndTests
  constructor
  · intro s m line slot offset level data ecc tree hm hline hslot
    refine ⟨runs_basinRead hm hline hslot ecc tree level, fun hpos hlen hend => ?_⟩
    have hmerge := runs_basinPartialWrite hm hline hslot hpos hlen hend ecc
    refine ⟨hmerge, fun hempty => ?_⟩
    rwa [State.mergeLine_of_empty hempty slot hend] at hmerge
  · intro s k page core offset
    refine ⟨?_, ?_, ?_, ?_, ?_, ?_, ?_, rfl⟩
    · intro hk hon htakes
      have hscrub := runs_scrubStep hk hon htakes
      exact ⟨hscrub .clean, hscrub .corrected, hscrub .transient, hscrub .lasting⟩
    · intro hclass hgood
      obtain ⟨c, hc⟩ := Option.ne_none_iff_exists'.mp hclass
      simp [Runs, exec, execLineTest, hc, hgood]
    · intro hcore hoff hgood hmem
      have hread := runs_poolRead_pool hcore hoff hgood
      refine ⟨hread .clean, hread .corrected, hread .transient, _, hread .lasting, State.poolByte_of_bad ?_, rfl⟩
      exact Sparse.get_set_same_of_ne (by decide) _ _
    · intro hcore hoff hgood hmem
      have hread := runs_poolRead_scratchpad hcore hoff hgood
      refine ⟨hread .clean, hread .corrected, hread .transient, _, hread .lasting, State.spdByte_of_bad ?_, rfl⟩
      exact Sparse.get_set_same_of_ne (by decide) _ _
    · intro hstore hgood
      have hread := runs_poolRead_store hstore hgood
      exact ⟨hread .clean, hread .corrected, hread .transient, hread .lasting⟩
    · intro hstore hgood
      have hread := runs_poolRead_store hstore hgood
      exact ⟨hread .corrected, hread .lasting⟩
    · intro hk htakes
      simp [Runs, exec, execPoolScrub, hk, htakes]

end Sys2Proof.Machine
end

section
/-! PROOF. Reads and writes of pool bytes through a window (R191, R281, R282, R404). -/

namespace Sys2Proof.Machine

/-! ### Tokens of a port -/

/-- Tokens lie in the weirs; nothing else changes (R299). -/
theorem State.exists_takeTokens_eq (s : State) (w a n : Nat) : ∃ ws, s.takeTokens w a n = { s with weirs := ws } := by
  unfold State.takeTokens
  split
  · exact ⟨s.weirs, rfl⟩
  · exact ⟨_, rfl⟩

theorem State.exists_takeTokensDir_eq (s : State) (w a n : Nat) (out : Bool) :
    ∃ ws, s.takeTokensDir w a n out = { s with weirs := ws } := by
  unfold State.takeTokensDir
  split
  · split
    · exact ⟨s.weirs, rfl⟩
    · exact ⟨_, rfl⟩
  · exact s.exists_takeTokens_eq w a n

theorem State.exists_chargePort_eq (s : State) (h : Bool) (p len : Nat) (out : Bool) :
    ∃ ws, s.chargePort h p len out = { s with weirs := ws } := s.exists_takeTokensDir_eq _ _ _ _

/-! ### One live window -/

/-- Without a version slot 1 the data of a tensor lies at its address (R144). -/
@[simp] theorem dataPlace_addr_zero (h : Nat) (e : Entry) (act : Nat) : (dataPlace h e 0 act).addr = eAddr e := by
  simp [dataPlace]

section
variable {s : State} {port : Bool} {p off : Nat}

theorem winLive_singleton {v : Prt} {x : WinPart} (hn : x.n < 16) (hen : (v.win x.n).en = true) : v.winLive [x] = true := by
  simp [Prt.winLive, hn, hen]

/-- A read over one live window that meets no busy byte delivers what the window shows (R281). -/
theorem State.readWindow_of_one {len : Nat} {x : WinPart} (hreq : (s.prt p).winRequest off len = [x])
    (hlive : (s.prt p).winLive [x] = true) (hbusy : s.partBusy p x = false) : s.readWindow port p off len
      = ((s.readPart p x).2.chargePort port p len true).emit (.completion port (p + 1) (s.readPart p x).1) := by
  simp only [State.readWindow, hreq, hlive, hbusy, List.any_cons, List.any_nil, List.foldl_cons, List.foldl_nil, Bool.not_true,
    Bool.or_false, Bool.false_eq_true, if_false]
  cases (s.readPart p x).1 <;> rfl

/-- A part of a pool tensor reads as the bytes of its data with zeros behind them; poisoned when one of them is (R191, R281). -/
theorem State.readPart_pool {n pos : Nat} (htier : eTier ((s.prt p).win n).entry = 0) (len : Nat) : s.readPart p ⟨n, pos, len⟩ =
    (let e := ((s.prt p).win n).entry
     let stored := (List.range (min len (eDataBytes e - pos))).map (fun i => s.poolByte (s.poolKey p 0 (eAddr e) (pos + i)))
     if stored.any (fun b => b.isNone) then none
     else some (stored.map (fun b => b.getD 0#8) ++ zeros (len - (eDataBytes e - pos))), s) := by
  have hrest : len - min len (eDataBytes ((s.prt p).win n).entry - pos) = len - (eDataBytes ((s.prt p).win n).entry - pos) := by
    omega
  have hplace : (dataPlace 0 ((s.prt p).win n).entry 0 2).tier = 0 := htier
  simp only [State.readPart, State.loadRun, hplace, dataPlace_addr_zero, hrest, anyBad, plainBytes]

/-- A write over one live window that meets no used byte stores its bytes as far as the data reaches (R282, R404). -/
theorem State.writeWindow_of_one {n pos : Nat} {bs : List Byte}
    (hreq : (s.prt p).winRequest off bs.length = [⟨n, pos, bs.length⟩])
    (hlive : (s.prt p).winLive [⟨n, pos, bs.length⟩] = true) (hused : s.partUsed p ⟨n, pos, bs.length⟩ = false)
    (htier : eTier ((s.prt p).win n).entry = 0) : s.writeWindow port p off bs
      = (s.storePool p (eAddr ((s.prt p).win n).entry) pos
          ((bs.take (eDataBytes ((s.prt p).win n).entry - pos)).map wPut)).chargePort port p bs.length false := by
  have hplace : (dataPlace 0 ((s.prt p).win n).entry 0 2).tier = 0 := htier
  simp only [State.writeWindow, hreq, hlive, hused, List.any_cons, List.any_nil, List.foldl_cons, List.foldl_nil, Bool.not_true,
    Bool.or_false, Bool.false_eq_true, if_false, List.take_length, State.storeRun, hplace, dataPlace_addr_zero]

end

/-! ### Bytes stored by key -/

/-- The bytes that a window write stores: those whose place lies in the data, at each of their keys (R282). -/
theorem mem_keyedBytes_take {keys : Nat → List Nat} {pos d : Nat} {bs : List Byte} {w : Nat × Option Byte} :
    w ∈ keyedBytes keys pos ((bs.take (d - pos)).map wPut)
      ↔ ∃ i < bs.length, ∃ k ∈ (if pos + i < d then keys (pos + i) else []), w = (k, some (bs.getD i 0#8)) := by
  simp only [keyedBytes, List.mem_flatMap, List.mem_range, List.length_map, List.length_take]
  constructor
  · rintro ⟨i, hi, hw⟩
    have hlen : i < bs.length := by omega
    have hpos : i < d - pos := by omega
    refine ⟨i, hlen, ?_⟩
    rw [if_pos (by omega)]
    simpa [List.getD, hlen, hpos, wPut, eq_comm] using hw
  · rintro ⟨i, hlen, hw⟩
    split at hw
    · have hpos : i < d - pos := by omega
      refine ⟨i, by omega, ?_⟩
      simpa [List.getD, hlen, hpos, wPut, eq_comm] using hw
    · simp at hw

section
variable {ws : List (Nat × Option Byte)} {n : Nat} {keys : Nat → List Nat} {b : Nat → Byte}
  (hws : ∀ w, w ∈ ws ↔ ∃ i < n, ∃ k ∈ keys i, w = (k, some (b i)))
include hws

/-- A key of one byte alone reads as that byte. -/
theorem get_storeBytes_of_keys {m : Sparse Byte} (hm : Sparse.wf 0#8 m = true) {i k : Nat} (hi : i < n) (hk : k ∈ keys i)
    (hone : ∀ j < n, j ≠ i → k ∉ keys j) : Sparse.get 0#8 (storeBytes m ws) k = b i := by
  refine get_storeBytes_of_mem hm ⟨_, (hws _).mpr ⟨i, hi, k, hk, rfl⟩, rfl⟩ ?_
  rintro w hw rfl
  obtain ⟨j, hj, k, hkj, rfl⟩ := (hws w).mp hw
  obtain rfl : j = i := by
    by_contra hji
    exact hone j hj hji hkj
  rfl

/-- A key of no byte keeps its byte. -/
theorem get_storeBytes_of_no_key (m : Sparse Byte) {k : Nat} (hk : ∀ i < n, k ∉ keys i) :
    Sparse.get 0#8 (storeBytes m ws) k = Sparse.get 0#8 m k := by
  refine get_storeBytes_of_notMem _ _ ?_
  rintro w hw rfl
  obtain ⟨i, hi, k, hki, rfl⟩ := (hws w).mp hw
  exact hk i hi hki

/-- A word without a key of a byte keeps its poison. -/
theorem get_storePoison_of_no_key (width : Nat) (m : Sparse Bool) {v : Nat} (hv : ∀ i < n, ∀ k ∈ keys i, k / width ≠ v) :
    Sparse.get false (storePoison width m ws) v = Sparse.get false m v := by
  refine get_storePoison_of_notMem _ _ _ ?_
  intro w hw
  obtain ⟨i, hi, k, hki, rfl⟩ := (hws w).mp hw
  exact hv i hi k hki

end

/-- A served request of a partition's VF acts on its windows (R395, R396). -/
theorem State.viaPrt_of_serve {s : State} {via : Via} {p : Nat} (h : s.prtAccess via p = .serve) (f : State → State) :
    s.viaPrt via p f = f s := by
  simp only [State.viaPrt, h, State.access]

/-- A served read of a partition's VF acts on its windows (R281, R395, R396). -/
theorem runs_windowRead {s : State} {port : Bool} {p : Nat} (h : s.prtAccess (.vf port p true) p = .serve) (off len : Nat) :
    Runs (.windowRead (.vf port p true) p off len) s (s.readWindow port p off len) :=
  congrArg Host.Outcome.next (State.viaPrt_of_serve h _)

/-- A served write of a partition's VF acts on its windows (R282, R395, R396). -/
theorem runs_windowWrite {s : State} {port : Bool} {p : Nat} (h : s.prtAccess (.vf port p true) p = .serve) (off : Nat)
    (bs : List Byte) : Runs (.windowWrite (.vf port p true) p off bs) s (s.writeWindow port p off bs) :=
  congrArg Host.Outcome.next (State.viaPrt_of_serve h _)

/-- Settles O18: a request over one window is one part, read from the pool or stored there, and the port is charged. -/
theorem windowAccess : Obligations.WindowAccess := by
  unfold Obligations.WindowAccess
  intro s port p off len n pos bs
  dsimp only
  intro hserve htier hen hn
  refine ⟨fun hreq hbusy => ?_, fun hreq hused hmem => ?_⟩
  · have hrun := runs_windowRead hserve off len
    obtain ⟨weirs, hcharge⟩ := s.exists_chargePort_eq port p len true
    rw [State.readWindow_of_one hreq (winLive_singleton hn hen) hbusy, State.readPart_pool htier] at hrun
    dsimp only at hrun
    rw [hcharge] at hrun
    exact ⟨_, hrun, rfl, rfl⟩
  · have hrun := runs_windowWrite hserve off bs
    obtain ⟨weirs, hcharge⟩ := State.exists_chargePort_eq _ port p bs.length false
    rw [State.writeWindow_of_one hreq (winLive_singleton hn hen) hused htier, hcharge] at hrun
    have hws (w : Nat × Option Byte) := mem_keyedBytes_take (keys := s.poolKeys p (eAddr ((s.prt p).win n).entry)) (pos := pos)
      (d := eDataBytes ((s.prt p).win n).entry) (bs := bs) (w := w)
    exact ⟨_, hrun, rfl, fun i hi k hk => get_storeBytes_of_keys hws (pool_wf hmem) hi hk,
      fun k => get_storeBytes_of_no_key hws _, fun v => get_storePoison_of_no_key hws _ _⟩

end Sys2Proof.Machine
end

section
/-! PROOF. What leaves the table of partitions as it is: tokens, interrupts, memory accesses, flits and the clearing of blocks. -/

namespace Sys2Proof.Machine

/-- A fold keeps the partitions when each of its steps does. -/
theorem State.prts_foldl {α : Type} {f : State → α → State} {l : List α} {s : State} (hf : ∀ t x, (f t x).prts = t.prts) :
    (l.foldl f s).prts = s.prts :=
  List.foldlRecOn (motive := fun t => t.prts = s.prts) l f rfl fun t ht x _ => (hf t x).trans ht

variable (s : State)

/-! ### Tokens, counts and interrupts -/

@[simp] theorem State.prts_takeTokens (w a n : Nat) : (s.takeTokens w a n).prts = s.prts := by
  obtain ⟨_, h⟩ := s.exists_takeTokens_eq w a n
  rw [h]

@[simp] theorem State.prts_takeTokensDir (w a n : Nat) (out : Bool) : (s.takeTokensDir w a n out).prts = s.prts := by
  obtain ⟨_, h⟩ := s.exists_takeTokensDir_eq w a n out
  rw [h]

@[simp] theorem State.prts_spendEnergy (p event n : Nat) : (s.spendEnergy p event n).prts = s.prts := rfl

@[simp] theorem State.prts_progress (n k : Nat) : (s.progress n k).prts = s.prts := by
  unfold State.progress
  split <;> rfl

@[simp] theorem State.prts_msix (h : Bool) (fn vector : Nat) : (s.msix h fn vector).prts = s.prts := by
  unfold State.msix
  split
  · rfl
  · split <;> rfl

@[simp] theorem State.prts_msixVf (p vector : Nat) : (s.msixVf p vector).prts = s.prts := by
  unfold State.msixVf
  split <;> split <;> simp

/-! ### Basin lines and runs -/

@[simp] theorem State.prts_chargeLine (p u act : Nat) : (s.chargeLine p u act).prts = s.prts := by
  simp [State.chargeLine]

@[simp] theorem State.prts_getLine (u n k : Nat) : (s.getLine u n k).2.prts = s.prts := by
  unfold State.getLine
  dsimp only
  split
  · split <;> rfl
  · rfl

@[simp] theorem State.prts_loadLine (p u n k act : Nat) : (s.loadLine p u n k act).2.prts = s.prts := by
  simp [State.loadLine]

@[simp] theorem State.prts_putLine (u n k : Nat) (pt : List Byte) : (s.putLine u n k pt).1.prts = s.prts := by
  unfold State.putLine
  dsimp only
  split
  · rfl
  · split <;> rfl

@[simp] theorem State.prts_storeLine (p u n k act : Nat) (pt : List Byte) : (s.storeLine p u n k act pt).1.prts = s.prts := by
  simp [State.storeLine]

@[simp] theorem State.prts_poisonLine (u n : Nat) : (s.poisonLine u n).prts = s.prts := by
  unfold State.poisonLine
  split <;> rfl

@[simp] theorem State.prts_writeLineBytes (p u n k act : Nat) (ws : List WByte) :
    (s.writeLineBytes p u n k act ws).1.prts = s.prts := by
  unfold State.writeLineBytes
  split_ifs
  · rfl
  · exact s.prts_poisonLine u n
  · exact s.prts_storeLine ..
  · rfl
  · split
    · exact s.prts_storeLine ..
    · dsimp only
      split <;> simp

theorem State.prts_storeBasin (p : Nat) (r : Place) (o : Nat) (ws : List WByte) : (s.storeBasin p r o ws).1.prts = s.prts :=
  List.foldlRecOn (motive := fun t : State × Bool => t.1.prts = s.prts) _ _ rfl
    fun _ ht _ _ => (State.prts_writeLineBytes ..).trans ht

theorem State.prts_loadLines (p k act n L : Nat) : (s.loadLines p k act n L).2.prts = s.prts := by
  induction n generalizing s L with
  | zero => rfl
  | succ n ih => exact (ih _ _).trans (s.prts_loadLine ..)

theorem State.prts_loadBasin (p : Nat) (r : Place) (o n : Nat) : (s.loadBasin p r o n).2.prts = s.prts := by
  unfold State.loadBasin
  split
  · rfl
  · exact s.prts_loadLines ..

@[simp] theorem State.prts_loadRun (p core : Nat) (ib : Sparse (List Byte)) (r : Place) (o n : Nat) :
    (s.loadRun p core ib r o n).2.prts = s.prts := by
  unfold State.loadRun
  split
  · rfl
  · exact s.prts_loadBasin p r o n
  · rfl
  · rfl

@[simp] theorem State.prts_readEntry (p h : Nat) : (s.readEntry p h).2.prts = s.prts := by
  unfold State.readEntry
  dsimp only
  split
  · rfl
  · exact s.prts_loadRun ..

@[simp] theorem State.prts_fmtEntry (p i : Nat) : (s.fmtEntry p i).2.prts = s.prts := s.prts_loadRun ..

@[simp] theorem State.prts_chargeHost (p : Nat) (h : Bool) (act : Nat) (out : Bool) : (s.chargeHost p h act out).prts = s.prts := by
  simp [State.chargeHost]

@[simp] theorem State.prts_postHostLine (p : Nat) (r : Place) (q : Nat) (x : List Byte × List Byte) :
    (s.postHostLine p r q x).prts = s.prts := by
  simp [State.postHostLine]

/-! ### Flits -/

@[simp] theorem State.prts_transmit (i : Nat) (raw : List Byte) : (s.transmit i raw).prts = s.prts := by
  unfold State.transmit
  dsimp only
  split
  · rfl
  · simp

@[simp] theorem State.prts_drainVc (i v n : Nat) : (s.drainVc i v n).prts = s.prts := by
  induction n generalizing s with
  | zero => rfl
  | succ n ih =>
    unfold State.drainVc
    split
    · rfl
    · split_ifs
      · rw [ih, State.prts_transmit]
        rfl
      · rfl
      · rfl

@[simp] theorem State.prts_sendFlit (i a : Nat) (h : FlitHdr) (payload : List Byte) : (s.sendFlit i a h payload).prts = s.prts := by
  unfold State.sendFlit
  split
  · rfl
  · simp

@[simp] theorem State.prts_sendMgmt (i type : Nat) (payload : List Byte) : (s.sendMgmt i type payload).prts = s.prts :=
  s.prts_sendFlit ..

@[simp] theorem State.prts_sendCreditReq (i v : Nat) (epoch : BitVec 8) : (s.sendCreditReq i v epoch).prts = s.prts := by
  unfold State.sendCreditReq
  dsimp only
  split_ifs <;> simp

@[simp] theorem State.prts_renewCredits (i p : Nat) : (s.renewCredits i p).prts = s.prts := by
  unfold State.renewCredits
  dsimp only
  split
  · exact s.prts_sendCreditReq ..
  · rfl

@[simp] theorem State.prts_dropWaiting (i a : Nat) : (s.dropWaiting i a).prts = s.prts :=
  State.prts_foldl fun _ _ => rfl

/-! ### What a teardown clears beside its partition -/

@[simp] theorem State.prts_clearBlocks (p : Nat) : (s.clearBlocks p).prts = s.prts :=
  State.prts_foldl fun _ _ => rfl

@[simp] theorem State.prts_dropReads (p : Nat) : (s.dropReads p).prts = s.prts :=
  State.prts_foldl fun _ _ => rfl

@[simp] theorem State.prts_freeKeys (p : Nat) : (s.freeKeys p).prts = s.prts := by
  unfold State.freeKeys
  refine (State.prts_foldl ?_).trans (State.prts_foldl ?_) <;> exact fun _ _ => rfl

@[simp] theorem State.prts_zeroPool (p : Nat) : (s.zeroPool p).prts = s.prts := rfl

end Sys2Proof.Machine
end

section
/-! PROOF. What ends the work of a partition keeps its generation and its party (R292, R298). -/

namespace Sys2Proof.Machine

/-- The partitions are canonical, and partition `p` holds generation `g` and party `q`. -/
structure HoldsParty (p : Nat) (g : BitVec 13) (q : Option Party) (s : State) : Prop where
  wf : Sparse.wf Prt.reset s.prts = true
  gen : (s.prt p).gen = g
  party : (s.prt p).party = q

/-- A fold over states with a second component, each of whose steps leaves the partition its generation and its party. -/
theorem HoldsParty.foldl_fst {p : Nat} {e : BitVec 13} {q : Option Party} {α β : Type} {f : State × β → α → State}
    {g : State × β → α → β} {l : List α} {t : State × β} (h : HoldsParty p e q t.1)
    (hf : ∀ t x, HoldsParty p e q t.1 → HoldsParty p e q (f t x)) :
    HoldsParty p e q (l.foldl (fun t x => (f t x, g t x)) t).1 :=
  List.foldlRecOn (motive := fun t : State × β => HoldsParty p e q t.1) l _ h fun t ht x _ => hf t x ht

section
variable {p : Nat} {g : BitVec 13} {q : Option Party} {s : State} (h : HoldsParty p g q s)
include h

theorem HoldsParty.of_prts {t : State} (e : t.prts = s.prts) : HoldsParty p g q t := by
  have hprt : t.prt p = s.prt p := by rw [State.prt, State.prt, e]
  exact ⟨e ▸ h.wf, hprt ▸ h.gen, hprt ▸ h.party⟩

/-- An update of any partition that leaves its generation and its party. -/
theorem HoldsParty.updPrt {r : Nat} {f : Prt → Prt} (hf : ∀ v, (f v).gen = v.gen ∧ (f v).party = v.party) :
    HoldsParty p g q (s.updPrt r f) := by
  have hprt : ((s.updPrt r f).prt p).gen = (s.prt p).gen ∧ ((s.updPrt r f).prt p).party = (s.prt p).party := by
    by_cases hr : p = r
    · subst hr
      rw [show (s.updPrt p f).prt p = f (s.prt p) from Sparse.get_set_same _ _ _ _ h.wf]
      exact hf _
    · rw [State.prt_updPrt_ne s r p f hr]
      exact ⟨rfl, rfl⟩
  exact ⟨Sparse.wf_set _ _ _ _ h.wf, hprt.1.trans h.gen, hprt.2.trans h.party⟩

theorem HoldsParty.foldl {α : Type} {f : State → α → State} {l : List α}
    (hf : ∀ t x, HoldsParty p g q t → HoldsParty p g q (f t x)) : HoldsParty p g q (l.foldl f s) :=
  List.foldlRecOn (motive := HoldsParty p g q) l f h fun t ht x _ => hf t x ht

theorem HoldsParty.updQueue (r n : Nat) (f : Queue → Queue) : HoldsParty p g q (s.updQueue r n f) := by
  unfold State.updQueue
  exact h.updPrt fun _ => ⟨rfl, rfl⟩

theorem HoldsParty.updOp (r seq : Nat) (f : OpRec → OpRec) : HoldsParty p g q (s.updOp r seq f) := by
  unfold State.updOp
  exact h.updPrt fun _ => ⟨rfl, rfl⟩

theorem HoldsParty.clearHist (r i : Nat) : HoldsParty p g q (s.clearHist r i) := by
  unfold State.clearHist State.updHist
  exact h.updPrt fun _ => ⟨rfl, rfl⟩

theorem HoldsParty.writeSlot (r i : Nat) (status : BitVec 8) (flags : BitVec 16) (jseq : Nat) (user : BitVec 64) :
    HoldsParty p g q (s.writeSlot r i status flags jseq user) := by
  unfold State.writeSlot
  exact h.updPrt fun _ => ⟨rfl, rfl⟩

theorem HoldsParty.updJnl (r n : Nat) (f : List Byte → List Byte) : HoldsParty p g q (s.updJnl r n f) := by
  unfold State.updJnl
  refine h.updPrt fun v => ?_
  split <;> exact ⟨rfl, rfl⟩

theorem HoldsParty.stamp (r : Nat) : HoldsParty p g q (s.stamp r).2 := by
  have htick (t : Nat) : HoldsParty p g q (s.updPrt r (fun v => { v with jnlTick := t })) := h.updPrt fun _ => ⟨rfl, rfl⟩
  exact (htick _).of_prts rfl

theorem HoldsParty.dropReplica (i r : Nat) : HoldsParty p g q (s.dropReplica i r) := by
  unfold State.dropReplica
  exact h.updPrt fun _ => ⟨rfl, rfl⟩

theorem HoldsParty.losePeer (r k : Nat) : HoldsParty p g q (s.losePeer r k) := by
  unfold State.losePeer State.loseOps
  exact h.updPrt fun _ => ⟨rfl, rfl⟩

/-! ### Queues and links -/

theorem HoldsParty.stopQueue (r n : Nat) : HoldsParty p g q (s.stopQueue r n) := by
  have hfree (d : Desc) : HoldsParty p g q (s.updPrt r (fun v =>
      { v with slots := Sparse.modify CSlot.zero v.slots (dSlot d) (fun c => { c with state := .free }) })) :=
    h.updPrt fun _ => ⟨rfl, rfl⟩
  unfold State.stopQueue
  dsimp only
  refine HoldsParty.updQueue ?_ ..
  split
  · split
    · exact h.of_prts rfl
    · exact (hfree _).of_prts rfl
  · exact h.of_prts rfl

theorem HoldsParty.stopAccess (r : Nat) : HoldsParty p g q (s.stopAccess r) := by
  unfold State.stopAccess
  refine HoldsParty.updPrt (h.foldl fun t n ht => ?_) fun _ => ⟨rfl, rfl⟩
  split
  · exact ht.stopQueue r n
  · exact ht

theorem HoldsParty.closeSa (i a : Nat) (state : SaState) (lose : Bool) : HoldsParty p g q (s.closeSa i a state lose) := by
  have hdrop : HoldsParty p g q (((s.updSa i a (fun x => x.close state)).dropWaiting i a).dropReplica i a) :=
    HoldsParty.dropReplica (h.of_prts (State.prts_dropWaiting (s.updSa i a _) i a)) i a
  unfold State.closeSa
  dsimp only
  generalize hs0 : (State.dropReplica _ i a) = s0 at hdrop ⊢
  split
  · exact h
  · generalize hs2 : (if ((s.lnk i).sa a).serves then s0.sendCreditReq _ _ _ else s0) = s2
    have h2 : HoldsParty p g q s2 := by
      rw [← hs2]
      split
      · exact hdrop.of_prts (State.prts_sendCreditReq ..)
      · exact hdrop
    split
    · exact h2
    · split
      · refine HoldsParty.losePeer ?_ ..
        exact h2.updPrt fun _ => ⟨rfl, rfl⟩
      · exact h2.updPrt fun _ => ⟨rfl, rfl⟩

theorem HoldsParty.sendClose (i r reason : Nat) (lose : Bool) : HoldsParty p g q (s.sendClose i r reason lose) := by
  unfold State.sendClose
  dsimp only
  split
  · exact h
  · exact HoldsParty.closeSa (h.of_prts (s.prts_sendMgmt ..)) ..

theorem HoldsParty.closeAll (r reason : Nat) : HoldsParty p g q (s.closeAll r reason) :=
  h.foldl fun _ i ht => (ht.sendClose i r reason false).of_prts (State.prts_renewCredits ..)

/-! ### Destinations of aborted operations -/

theorem HoldsParty.storeHost (r : Nat) (ib : Sparse (List Byte)) (x : Place) (o : Nat) (ws : List WByte) :
    HoldsParty p g q (s.storeHost r ib x o ws).1 := by
  unfold State.storeHost
  dsimp only
  split
  · exact h
  · refine List.foldlRecOn (motive := fun t : State × Bool => HoldsParty p g q t.1) _ _ h fun t ht y _ => ?_
    split_ifs
    · exact ht
    · exact ht.of_prts (State.prts_postHostLine ..)
    · exact HoldsParty.updOp (ht.of_prts (State.prts_postHostLine ..)) ..

theorem HoldsParty.storeRun (r : Nat) (ib : Sparse (List Byte)) (x : Place) (o : Nat) (ws : List WByte) :
    HoldsParty p g q (s.storeRun r ib x o ws).1 := by
  unfold State.storeRun
  split
  · exact h.of_prts rfl
  · exact h.of_prts (s.prts_storeBasin ..)
  · exact h.storeHost ..
  · exact h.of_prts rfl

theorem HoldsParty.undefine (r : Nat) (o : OpRec) (x : Place) : HoldsParty p g q (s.undefine r o x) := by
  unfold State.undefine
  split
  · exact h
  · exact (h.storeRun ..).of_prts rfl

theorem HoldsParty.undefineDest (r : Nat) (o : OpRec) : HoldsParty p g q (s.undefineDest r o) :=
  h.foldl fun _ _ ht => (ht.undefine ..).undefine ..

/-! ### Format choices of a STEP_COMMIT -/

theorem HoldsParty.setFmt (r i off : Nat) (bs : List Byte) : HoldsParty p g q (s.setFmt r i off bs) := h.storeRun ..

theorem HoldsParty.choose (r i : Nat) (bs : List Byte) (ge : Entry) (f : Fmt) (centre : Nat) :
    HoldsParty p g q (s.choose r i bs ge f centre).1 := by
  unfold State.choose
  dsimp only
  split
  · exact h.setFmt ..
  · exact (h.setFmt ..).storeRun ..

theorem HoldsParty.evalAuto (r i : Nat) (bs : List Byte) (ge : Entry) : HoldsParty p g q (s.evalAuto r i bs ge).1 := by
  have hentry : HoldsParty p g q (s.readEntry r (fieldLe bs 6 2)).2 := h.of_prts (s.prts_readEntry ..)
  unfold State.evalAuto
  dsimp only
  split
  · exact hentry.clearHist ..
  · generalize hold : List.foldl _ _ _ = old
    have hring : HoldsParty p g q old.2 := by
      rw [← hold]
      exact List.foldlRecOn (motive := fun t : List (List (Option Byte)) × State => HoldsParty p g q t.2) _ _ hentry
        fun _ ht _ _ => ht.of_prts (State.prts_loadRun ..)
    split
    · exact hring.clearHist ..
    · generalize hs2 : State.setFmt _ r i 14 _ = s2
      have h2 : HoldsParty p g q s2 := hs2 ▸ (((hring.storeRun ..).clearHist ..).setFmt ..).setFmt ..
      split
      · exact h2
      · split
        · exact (h2.setFmt ..).choose ..
        · exact h2.choose ..

theorem HoldsParty.evalFmt (r i : Nat) (ok : Bool) : HoldsParty p g q (s.evalFmt r i ok).1 := by
  have hfmt : HoldsParty p g q (s.fmtEntry r i).2 := h.of_prts (s.prts_fmtEntry r i)
  unfold State.evalFmt
  dsimp only
  generalize s.fmtEntry r i = x at hfmt ⊢
  have hgrad : HoldsParty p g q (x.2.readEntry r (fieldLe (plainBytes x.1) 2 2)).2 := hfmt.of_prts (State.prts_readEntry ..)
  generalize x.2.readEntry r (fieldLe (plainBytes x.1) 2 2) = y at hgrad ⊢
  have hact : HoldsParty p g q (y.2.readEntry r (fieldLe (plainBytes x.1) 4 2)).2 := hgrad.of_prts (State.prts_readEntry ..)
  split
  · exact h
  split
  · exact hfmt
  split
  · split
    · exact hfmt.clearHist ..
    · exact hfmt
  split
  · exact hfmt
  split
  · split
    · exact hgrad.clearHist ..
    · exact hgrad
  split
  · exact hgrad.evalAuto ..
  split
  · exact hact
  split
  · exact hact
  · exact hact.choose ..

theorem HoldsParty.evalAll (r : Nat) (ok : Bool) : HoldsParty p g q (s.evalAll r ok).1 :=
  HoldsParty.foldl_fst (f := fun t i => (t.1.evalFmt r i ok).1) (g := fun t i => t.2 ++ (t.1.evalFmt r i ok).2) (t := (s, [])) h
    fun _ i ht => ht.evalFmt r i ok

/-! ### The end of operations -/

theorem HoldsParty.endOp (r : Nat) (o : OpRec) (status : BitVec 8) : HoldsParty p g q (s.endOp r o status) := by
  unfold State.endOp
  dsimp only
  split
  · exact h.updPrt fun _ => ⟨rfl, rfl⟩
  · generalize hs3 : State.updPrt _ r _ = s3
    have h3 : HoldsParty p g q s3 := by
      rw [← hs3]
      exact HoldsParty.updPrt (((h.writeSlot ..).stamp r).updJnl ..) fun _ => ⟨rfl, rfl⟩
    split <;> exact h3.of_prts (by simp)

theorem HoldsParty.abortOp (r : Nat) (o : OpRec) (status : BitVec 8) : HoldsParty p g q (s.abortOp r o status) := by
  unfold State.abortOp
  dsimp only
  refine HoldsParty.endOp ?_ ..
  split
  · exact (h.undefineDest r o).evalAll ..
  · exact h.undefineDest r o

theorem HoldsParty.abortAll (r : Nat) (status : BitVec 8) : HoldsParty p g q (s.abortAll r status) :=
  h.foldl fun _ _ ht => ht.abortOp ..

end

end Sys2Proof.Machine
end

section
/-! PROOF. Teardowns zeroise the pool slices of their partition and move its generation (R195, R292, R297, R298). -/

namespace Sys2Proof.Machine

/-! ### Zeroised slices -/

/-- The cores of a partition follow from the layout, which only the platform changes (R189, R290). -/
theorem Keeps.partCores_eq {s t : State} (h : Keeps true s t) (p : Nat) : t.partCores p = s.partCores p := by
  obtain ⟨-, -, -, hmgc⟩ := h.still rfl
  have howner (k : Nat) : t.unitOwner k = s.unitOwner k := by rw [State.unitOwner, State.unitOwner, hmgc]
  simp only [State.partCores, State.partUnits, howner]

/-- A key that a map drops reads as the default. -/
theorem Sparse.get_dropKeys {α : Type} (d : α) (m : Sparse α) {f : Nat → Bool} {k : Nat} (hk : f k = true) :
    Sparse.get d (Sparse.dropKeys m f) k = d := by
  induction m with
  | nil => rfl
  | cons e m ih =>
    obtain ⟨j, a⟩ := e
    by_cases hj : f j = true
    · simpa [Sparse.dropKeys, hj] using ih
    · have hne : j ≠ k := fun e => hj (e ▸ hk)
      simpa [Sparse.dropKeys, hj, Sparse.get, hne] using ih

/-- Every byte of a zeroised slice reads 0 and is not poisoned (R195). -/
theorem State.poolByte_zeroPool {s : State} {p c off : Nat} (hc : c ∈ s.partCores p) (hoff : off < 2 ^ 31) :
    (s.zeroPool p).poolByte (c * 2 ^ 31 + off) = some 0#8 := by
  have hbyte : (c * 2 ^ 31 + off) / 2 ^ 31 = c := by omega
  have hword : (c * 2 ^ 31 + off) / 64 / 2 ^ 25 = c := by omega
  have hmine : (s.partCores p).contains c = true := List.contains_iff_mem.mpr hc
  have hgood : Sparse.get false (s.zeroPool p).poolBad ((c * 2 ^ 31 + off) / 64) = false :=
    Sparse.get_dropKeys (f := fun k => (s.partCores p).contains (k / 2 ^ 25)) _ _ (by rw [hword]; exact hmine)
  have hzero : Sparse.get 0#8 (s.zeroPool p).pool (c * 2 ^ 31 + off) = 0#8 :=
    Sparse.get_dropKeys (f := fun k => (s.partCores p).contains (k / 2 ^ 31)) _ _ (by rw [hbyte]; exact hmine)
  rw [State.poolByte, hgood, hzero]
  rfl

@[simp] theorem State.partCores_zeroPool (s : State) (p r : Nat) : (s.zeroPool p).partCores r = s.partCores r := rfl

theorem State.pools_msix (s : State) (h : Bool) (fn vector : Nat) :
    (s.msix h fn vector).pool = s.pool ∧ (s.msix h fn vector).poolBad = s.poolBad := by
  unfold State.msix
  split
  · exact ⟨rfl, rfl⟩
  · split <;> exact ⟨rfl, rfl⟩

@[simp] theorem State.poolByte_updPrt (s : State) (p : Nat) (f : Prt → Prt) (k : Nat) :
    (s.updPrt p f).poolByte k = s.poolByte k := rfl

/-- An interrupt leaves the pool. -/
@[simp] theorem State.poolByte_msixVf (s : State) (p vector k : Nat) : (s.msixVf p vector).poolByte k = s.poolByte k := by
  have hpools : (s.msixVf p vector).pool = s.pool ∧ (s.msixVf p vector).poolBad = s.poolBad := by
    unfold State.msixVf
    split <;> split <;> simp [State.pools_msix]
  rw [State.poolByte, State.poolByte, hpools.1, hpools.2]

/-! ### The state that a teardown leaves -/

theorem State.prt_of_prts {s t : State} (h : t.prts = s.prts) (p : Nat) : t.prt p = s.prt p := by
  rw [State.prt, State.prt, h]

/-- Step 1 of Table 13.3 at the partition itself (R292, R297). -/
def Prt.tearing (v : Prt) (party : Bool) : Prt :=
  { v with teardown := .busy, teardownParty := party, state := .tearing, gen := nextGen v.gen, epoch := v.epoch + 1 }

@[simp] theorem Prt.gen_tearing (v : Prt) (party : Bool) : (v.tearing party).gen = nextGen v.gen := rfl
@[simp] theorem Prt.party_tearing (v : Prt) (party : Bool) : (v.tearing party).party = v.party := rfl
@[simp] theorem Prt.gen_dropContext (v : Prt) : v.dropContext.gen = v.gen := rfl
@[simp] theorem Prt.party_dropContext (v : Prt) : v.dropContext.party = v.party := rfl
@[simp] theorem Prt.ops_dropContext (v : Prt) : v.dropContext.ops = [] := rfl
@[simp] theorem Prt.versions_dropContext (v : Prt) : v.dropContext.versions = [] := rfl

/-- The steps of Table 13.3 that end access, associations and operations. -/
def State.endWork (s : State) (p : Nat) (party : Bool) : State :=
  (((s.stopAccess p).updPrt p (fun v => v.tearing party)).closeAll p closeTeardown).abortAll p stTeardown

theorem State.tearDown_eq (s : State) (p : Nat) (party : Bool) : s.tearDown p party =
    (((((s.endWork p party).updPrt p Prt.dropContext).clearBlocks p).dropReads p).freeKeys p).zeroPool p := rfl

theorem State.keeps_endWork {calm : Bool} {s t : State} (h : Keeps calm s t) (p : Nat) (party : Bool) :
    Keeps calm s (t.endWork p party) :=
  State.keeps_abortAll (State.keeps_closeAll (State.keeps_updPrt (State.keeps_stopAccess h p) p _) p _) p _

theorem State.wf_prts_updPrt {s : State} (h : Sparse.wf Prt.reset s.prts = true) (p : Nat) (f : Prt → Prt) :
    Sparse.wf Prt.reset (s.updPrt p f).prts = true := Sparse.wf_set _ _ _ _ h

section
variable {s : State} (hblk : Blocks.wf s = true) (p : Nat) (party : Bool)
include hblk

/-- Ending the work of a partition moves its generation and leaves its party (R292). -/
theorem State.holdsParty_endWork : HoldsParty p (nextGen (s.prt p).gen) (s.prt p).party (s.endWork p party) := by
  have hstart : HoldsParty p (s.prt p).gen (s.prt p).party s := by
    simp only [Blocks.wf, Bool.and_eq_true] at hblk
    obtain ⟨⟨⟨⟨⟨⟨hprts, -⟩, -⟩, -⟩, -⟩, -⟩, -⟩ := hblk
    exact ⟨hprts, rfl, rfl⟩
  have hstop := hstart.stopAccess p
  have hread := State.prt_updPrt _ ((State.keeps_stopAccess (calm := true) (.refl s) p).blocks hblk) p (fun v => v.tearing party)
  have htearing : HoldsParty p (nextGen (s.prt p).gen) (s.prt p).party
      ((s.stopAccess p).updPrt p (fun v => v.tearing party)) := by
    refine ⟨State.wf_prts_updPrt hstop.wf p _, ?_, ?_⟩
    · rw [hread, Prt.gen_tearing, hstop.gen]
    · rw [hread, Prt.party_tearing, hstop.party]
  exact (htearing.closeAll p closeTeardown).abortAll p stTeardown

/-- What a teardown leaves of its partition: the ended work without what the context held (R297). -/
theorem State.prt_tearDown : (s.tearDown p party).prt p = ((s.endWork p party).prt p).dropContext := by
  have hread := State.prt_updPrt _ ((State.keeps_endWork (calm := true) (.refl s) p party).blocks hblk) p Prt.dropContext
  rw [State.tearDown_eq, ← hread]
  exact State.prt_of_prts (by simp) p

end

theorem State.poolByte_tearDown (s : State) (p : Nat) (party : Bool) {c off : Nat} (hc : c ∈ s.partCores p)
    (hoff : off < 2 ^ 31) : (s.tearDown p party).poolByte (c * 2 ^ 31 + off) = some 0#8 := by
  rw [← (State.keeps_tearDown (.refl s) p party).partCores_eq p] at hc
  rw [State.tearDown_eq] at hc ⊢
  rw [State.partCores_zeroPool] at hc
  exact State.poolByte_zeroPool hc hoff

/-- What erasing the party leaves of its partition (R298, R330). -/
theorem State.prt_eraseParty {s : State} (hblk : Blocks.wf s = true) (p : Nat) :
    (s.eraseParty p).prt p = { s.prt p with party := none, paceRequired := false, lastOutcome := none } := by
  rw [← State.prt_updPrt s hblk p (fun v => { v with party := none, paceRequired := false, lastOutcome := none })]
  unfold State.eraseParty
  refine State.prt_of_prts (State.prts_foldl ?_) p
  exact fun _ _ => rfl

/-! ### The commands -/

section
variable {s : State} {p : Nat} (hidle : (s.prt p).teardown ≠ .busy) (hctx : (s.prt p).ctxReset ≠ .busy)
  (hprt : (s.prt p).prtReset ≠ .busy) (hhas : (s.prt p).hasCtx = true)
include hidle hctx hprt hhas

/-- A teardown of a context runs to its end (R297). -/
theorem State.startTeardown_context : s.startTeardown p false
    = ((s.tearDown p false).updPrt p (fun v => { v with teardown := .done, state := .active })).msixVf p 18 := by
  simp [State.startTeardown, hidle, hctx, hprt, hhas]

/-- A teardown of a party runs until the party has read its journal (R298). -/
theorem State.startTeardown_party : s.startTeardown p true
    = (((s.tearDown p true).eraseParty p).zeroPool p).updPrt p (fun v => { v with clearing := true }) := by
  simp [State.startTeardown, hidle, hctx, hprt, hhas]

end

/-- A GO of a teardown that is under way is refused (R297). -/
theorem State.startTeardown_busy {s : State} {p : Nat} (h : (s.prt p).teardown = .busy) (party : Bool) :
    s.startTeardown p party = s.raiseErr (pagePrt p) 2 (BitVec.ofNat 32 (s.prt p).jnlHead) := by
  simp [State.startTeardown, h]

theorem runs_contextTeardown {s : State} {via : Via} {p : Nat} (h : s.prtAccess via p = .serve) :
    Runs (.contextTeardown via p) s (s.startTeardown p false) := congrArg Host.Outcome.next (State.viaPrt_of_serve h _)

theorem runs_partyTeardown {s : State} {via : Via} {p : Nat} (h : s.prtAccess via p = .serve) :
    Runs (.partyTeardown via p) s (s.startTeardown p true) := congrArg Host.Outcome.next (State.viaPrt_of_serve h _)

/-- Settles O37: the ended work keeps generation and party, the context's fields go, and the slices are zeroised last. -/
theorem teardownZeroises : Obligations.TeardownZeroises := by
  unfold Obligations.TeardownZeroises
  intro s via p hserve hmem hblk
  have hcontext := runs_contextTeardown hserve
  have hparty := runs_partyTeardown hserve
  refine ⟨fun hidle hctx hprt hhas => ⟨?_, ?_⟩, fun hbusy => ?_⟩
  · rw [State.startTeardown_context hidle hctx hprt hhas] at hcontext
    have hend := State.holdsParty_endWork hblk p false
    have hread := State.prt_updPrt _ ((State.keeps_tearDown (calm := true) (.refl s) p false).blocks hblk) p
      (fun v => { v with teardown := .done, state := .active })
    rw [← State.prt_of_prts (State.prts_msixVf _ p 18) p, State.prt_tearDown hblk] at hread
    refine ⟨_, hcontext, ?_⟩
    simp only [hread, Prt.gen_dropContext, Prt.party_dropContext, Prt.ops_dropContext, Prt.versions_dropContext, hend.gen,
      hend.party, true_and, State.poolByte_msixVf, State.poolByte_updPrt]
    exact fun c hc off hoff => State.poolByte_tearDown s p false hc hoff
  · rw [State.startTeardown_party hidle hctx hprt hhas] at hparty
    have hend := State.holdsParty_endWork hblk p true
    have htorn := State.keeps_tearDown (calm := true) (.refl s) p true
    have herased := State.keeps_eraseParty htorn p
    have hread := State.prt_updPrt _ ((State.keeps_zeroPool herased p).blocks hblk) p (fun v => { v with clearing := true })
    rw [State.prt_of_prts (State.prts_zeroPool _ p) p, State.prt_eraseParty (htorn.blocks hblk), State.prt_tearDown hblk] at hread
    refine ⟨_, hparty, ?_⟩
    simp only [hread, Prt.gen_dropContext, Prt.ops_dropContext, hend.gen, true_and, State.poolByte_updPrt]
    intro c hc off hoff
    rw [← herased.partCores_eq p] at hc
    exact State.poolByte_zeroPool hc hoff
  · rw [State.startTeardown_busy hbusy] at hcontext hparty
    exact ⟨hcontext, hparty⟩

end Sys2Proof.Machine
end

section
/-! PROOF. Sealed basin and host lines open again: the keystream undoes itself, and the MAC or tag is made over the same bytes
(R210, R213, R231, R233). -/

namespace Sys2Proof.Machine

/-! ### Lengths of keystreams and MACs -/

@[simp] theorem length_beBytes (n v : Nat) : (beBytes n v).length = n := by
  rw [beBytes, List.length_reverse, leBytes_length]

@[simp] theorem length_sm4 (key blk : List Byte) : (sm4 key blk).length = 16 := by
  simp [sm4]

@[simp] theorem length_sm4Stream (key : List Byte) (n : Nat) (ctr : Nat → List Byte) :
    (sm4Stream key n ctr).length = 16 * n := by
  simp [sm4Stream, List.length_flatMap, Nat.mul_comm]

@[simp] theorem length_cmac (key m : List Byte) : (cmac key m).length = 16 := length_sm4 _ _

/-! ### Keystreams -/

@[simp] theorem length_xorBytes (a b : List Byte) : (xorBytes a b).length = min a.length b.length := List.length_zipWith

/-- A keystream at least as long as the text undoes itself. -/
theorem xorBytes_xorBytes_cancel {a b : List Byte} (h : a.length ≤ b.length) : xorBytes (xorBytes a b) b = a := by
  refine List.ext_getElem (by simp [h]) fun i _ _ => ?_
  simp [xorBytes]

/-- Eight blocks of keystream cover one line and undo themselves. -/
theorem xorBytes_lineStream_cancel {pt : List Byte} (h : pt.length = 128) (key : List Byte) (ctr : Nat → List Byte) :
    xorBytes (xorBytes pt (sm4Stream key 8 ctr)) (sm4Stream key 8 ctr) = pt :=
  xorBytes_xorBytes_cancel (by simp [h])

/-! ### Lines -/

/-- R210, R213: a sealed basin line is a data line of 128 bytes that opens under what it was sealed with. -/
theorem exists_sealBasin_eq (key nonce : List Byte) (u n v : Nat) {pt : List Byte} (h : pt.length = 128) :
    ∃ ct mac ecc, sealBasin key nonce u n v pt = .data ct mac ecc ∧ ct.length = 128
      ∧ openBasin key nonce u n v ct mac = some pt := by
  refine ⟨_, _, _, rfl, by simp [h], ?_⟩
  rw [openBasin, if_pos rfl, xorBytes_lineStream_cancel h]

/-- A host line's tag is seven bytes of the MAC and one byte that names the form (R230). -/
theorem tag_parts (key m : List Byte) (form : Byte) :
    ((cmac key m).take 7 ++ [form]).take 7 = (cmac key m).take 7 ∧ ((cmac key m).take 7 ++ [form]).drop 7 = [form] := by
  have hlen : ((cmac key m).take 7).length = 7 := by simp
  exact ⟨List.take_left' hlen, List.drop_left' hlen⟩

/-- R231: the tag of the exchange form is made over the plaintext that its own keystream gives back. -/
theorem openExchange_sealExchange (key : List Byte) (q part : Nat) {pt : List Byte} (h : pt.length = 128) :
    openExchange key q part (sealExchange key q part pt).1 (sealExchange key q part pt).2 = some pt := by
  obtain ⟨htake, hdrop⟩ := tag_parts (kdf key [] 6) (exchHeader q part ++ pt) 0#8
  simp only [sealExchange, openExchange, htake, hdrop, xorBytes_lineStream_cancel h, and_self, if_true]

/-- R233: the tag of the offload form is made over the ciphertext. -/
theorem openOffload_sealOffload (key nonce : List Byte) (seq buf q part : Nat) {pt : List Byte} (h : pt.length = 128) :
    openOffload key nonce seq buf q part (sealOffload key nonce seq buf q part pt).1 (sealOffload key nonce seq buf q part pt).2
      = some pt := by
  obtain ⟨htake, hdrop⟩ := tag_parts (kdf key nonce 4) (offHeader seq buf q part
    ++ xorBytes pt (sm4Stream (kdf key nonce 3) 8 (offBlock seq buf q part))) 1#8
  simp only [sealOffload, openOffload, htake, hdrop, xorBytes_lineStream_cancel h, and_self, if_true]

/-- Settles O12: each form of a line opens under what it was sealed with. -/
theorem sealedLinesOpen : Obligations.SealedLinesOpen := by
  unfold Obligations.SealedLinesOpen
  exact ⟨fun key nonce u n v _ h => exists_sealBasin_eq key nonce u n v h, fun key nonce sn buf q part _ h =>
    ⟨openExchange_sealExchange key q part h, openOffload_sealOffload key nonce sn buf q part h⟩⟩

end Sys2Proof.Machine
end

section
/-! PROOF. A full write of a basin line reads back under the slot it names, and touches no other line (R210, R211, R213, R214,
R220). -/

namespace Sys2Proof.Machine

/-! ### What the counter tree leaves alone -/

/-- Two states of an engine agree on what a read of a data line uses: slots, counters of data lines, losses (R213, R222, R226). -/
structure Mce.SameLines (e f : Mce) : Prop where
  slots : f.slots = e.slots
  ctr : f.ctr = e.ctr
  lost : f.lost = e.lost
  groupLost : f.groupLost = e.groupLost

theorem Mce.SameLines.trans {e f g : Mce} (hef : e.SameLines f) (hfg : f.SameLines g) : e.SameLines g :=
  ⟨hfg.slots.trans hef.slots, hfg.ctr.trans hef.ctr, hfg.lost.trans hef.lost, hfg.groupLost.trans hef.groupLost⟩

theorem Mce.SameLines.slot_eq {e f : Mce} (h : e.SameLines f) (k : Nat) : f.slot k = e.slot k := by
  rw [Mce.slot, Mce.slot, h.slots]

theorem Mce.SameLines.readSlots_eq {e f : Mce} (h : e.SameLines f) (k : Nat) : f.readSlots k = e.readSlots k := by
  simp only [Mce.readSlots, h.slot_eq]

theorem Mce.SameLines.beneathLoss_eq {e f : Mce} (h : e.SameLines f) (n : Nat) : f.beneathLoss n = e.beneathLoss n := by
  rw [Mce.beneathLoss, Mce.beneathLoss, h.lost, h.groupLost]

section
variable (e : Mce)

theorem Mce.sameLines_writeTree (u k l : Nat) : e.SameLines (e.writeTree u k l) := ⟨rfl, rfl, rfl, rfl⟩

theorem Mce.sameLines_evict (u : Nat) (t : TreeLine) : e.SameLines (e.evict u t) := by
  unfold Mce.evict
  split
  · exact (e.sameLines_writeTree u t.level t.line).trans ⟨rfl, rfl, rfl, rfl⟩
  · exact ⟨rfl, rfl, rfl, rfl⟩

theorem Mce.sameLines_makeRoom (u n : Nat) : e.SameLines (e.makeRoom u n) := by
  unfold Mce.makeRoom
  split
  · exact ⟨rfl, rfl, rfl, rfl⟩
  · split
    · exact e.sameLines_evict u _
    · exact ⟨rfl, rfl, rfl, rfl⟩

/-- A data access moves tree lines alone (R220). -/
theorem Mce.sameLines_touch (u n : Nat) (write : Bool) : e.SameLines (e.touch u n write) := by
  refine List.foldrRecOn (motive := e.SameLines) _ _ ⟨rfl, rfl, rfl, rfl⟩ fun f hf x _ => hf.trans ?_
  dsimp only
  split
  · exact ⟨rfl, rfl, rfl, rfl⟩
  · exact (f.sameLines_makeRoom u n).trans ⟨rfl, rfl, rfl, rfl⟩

/-- The next counter of a data line is the last plus one (R211). -/
@[simp] theorem Mce.ctr_bump (n : Nat) : Sparse.get 0 (e.bump n).ctr n = Sparse.get 0 e.ctr n + 1 :=
  Sparse.get_set_same_of_ne (Nat.succ_ne_zero _) _ _

/-! ### Slots -/

/-- The key that a write uses is the first that a read tries: of a draining slot with a successor that successor's, else the
slot's own (R226). -/
theorem Mce.exists_readSlots_eq {k : Nat} (h : e.usable (e.writeSlot k) = true) : ∃ l, e.readSlots k = e.writeSlot k :: l := by
  simp only [Mce.usable, Bool.or_eq_true, decide_eq_true_eq] at h
  unfold Mce.readSlots
  unfold Mce.writeSlot at h ⊢
  dsimp only
  split at h
  · case h_1 successor _ _ => exact ⟨_, List.filter_cons_of_pos (decide_eq_true h)⟩
  · case h_2 => exact ⟨_, List.filter_cons_of_pos (decide_eq_true h)⟩

end

/-! ### Reads and writes -/

theorem State.mce_setLine (s : State) (u n m : Nat) (x : Line) : (s.setLine u n x).mce m = s.mce m := rfl

theorem State.lineAt_setLine_ne (s : State) {u n v l : Nat} (h : v * 2 ^ 33 + l ≠ u * 2 ^ 33 + n) (x : Line) :
    (s.setLine u n x).lineAt v l = s.lineAt v l := Sparse.get_set_ne _ _ _ _ _ h

/-- A line reads as the plaintext that the first slot opens (R213, R226). -/
theorem State.basinPlain_of_open {s : State} {u n k j : Nat} {l : List Nat} {ct pt : List Byte} {mac : BitVec 56} {ecc : BitVec 72}
    (hloss : (s.mce u).beneathLoss n = false) (hline : s.lineAt u n = .data ct mac ecc) (hslots : (s.mce u).readSlots k = j :: l)
    (hopen : openBasin ((s.mce u).slot j).key s.sec.devNonce u n (Sparse.get 0 (s.mce u).ctr n) ct mac = some pt) :
    s.basinPlain u n k = some pt := by
  simp only [State.basinPlain, hloss, hline, hslots, List.findSome?_cons, hopen, Bool.false_eq_true, if_false]

section
variable {s : State} {u n k : Nat}

/-- R211, R214: the state that a full write of a line leaves. -/
def State.lineWritten (s : State) (u n k : Nat) (pt : List Byte) : State :=
  (s.updMce u (fun e => (e.bump n).touch u n true)).setLine u n
    (sealBasin ((s.mce u).slot ((s.mce u).writeSlot k)).key s.sec.devNonce u n (Sparse.get 0 (s.mce u).ctr n + 1) pt)

theorem State.putLine_eq (hslot : (s.mce u).usable ((s.mce u).writeSlot k) = true) (hloss : (s.mce u).beneathLoss n = false)
    (hctr : Sparse.get 0 (s.mce u).ctr n + 1 < 2 ^ 64) (pt : List Byte) :
    s.putLine u n k pt = (s.lineWritten u n k pt, false) := by
  have hlimit : s.lineAtLimit u n = false := decide_eq_false (Nat.not_le.mpr hctr)
  simp only [State.putLine, hslot, hloss, hlimit, Bool.not_true, Bool.or_self, Bool.false_eq_true, if_false, State.lineWritten]

variable (hblk : Blocks.wf s = true)
include hblk

theorem State.mce_lineWritten (pt : List Byte) :
    (s.lineWritten u n k pt).mce u = ((s.mce u).bump n).touch u n true := by
  rw [State.lineWritten, State.mce_setLine, State.mce_updMce s hblk]

/-- R211: the write raises the line's counter by one. -/
theorem State.ctr_lineWritten (pt : List Byte) :
    Sparse.get 0 ((s.lineWritten u n k pt).mce u).ctr n = Sparse.get 0 (s.mce u).ctr n + 1 := by
  rw [State.mce_lineWritten hblk, (Mce.sameLines_touch _ u n true).ctr, Mce.ctr_bump]

/-- R210, R213, R214: a line that was written under a usable slot reads as what was written. -/
theorem State.basinPlain_lineWritten (hslot : (s.mce u).usable ((s.mce u).writeSlot k) = true)
    (hloss : (s.mce u).beneathLoss n = false) {pt : List Byte} (hlen : pt.length = 128) :
    (s.lineWritten u n k pt).basinPlain u n k = some pt := by
  have htouch := ((s.mce u).bump n).sameLines_touch u n true
  rw [← State.mce_lineWritten hblk (k := k) pt] at htouch
  obtain ⟨l, hslots⟩ := (s.mce u).exists_readSlots_eq hslot
  obtain ⟨ct, mac, ecc, hseal, -, hopen⟩ := exists_sealBasin_eq ((s.mce u).slot ((s.mce u).writeSlot k)).key s.sec.devNonce u n
    (Sparse.get 0 (s.mce u).ctr n + 1) hlen
  refine State.basinPlain_of_open ((htouch.beneathLoss_eq n).trans hloss) (ct := ct) (mac := mac) (ecc := ecc) ?_
    ((htouch.readSlots_eq k).trans hslots) ?_
  · rw [← hseal]
    exact Sparse.get_set_same_of_ne (by rw [hseal]; exact Line.noConfusion) _ _
  · rwa [State.ctr_lineWritten hblk, htouch.slot_eq]

end

/-! ### The command -/

theorem State.mce_progress (s : State) (page c m : Nat) : (s.progress page c).mce m = s.mce m := by
  unfold State.progress
  split <;> rfl

theorem State.lineAt_progress (s : State) (page c u n : Nat) : (s.progress page c).lineAt u n = s.lineAt u n := by
  unfold State.progress
  split <;> rfl

theorem State.basinPlain_progress (s : State) (page c u n k : Nat) :
    (s.progress page c).basinPlain u n k = s.basinPlain u n k := by
  unfold State.progress
  split <;> rfl

theorem runs_basinWrite {s : State} {m line slot : Nat} {data : List Byte} (hm : m < 8) (hline : line < dataLines)
    (hlen : data.length = 128) (hslot : (s.mce m).usable slot = true) :
    Runs (.basinWrite m line slot data) s (((s.putLine m line slot data).1).progress (pageMce m) 1) := by
  simp [Runs, exec, execBasinWrite, hm, hline, hlen, hslot]

/-- Settles O40: the line is sealed under the first slot that its read tries, and the counter tree keeps what reads use. -/
theorem basinReadAfterWrite : Obligations.BasinReadAfterWrite := by
  unfold Obligations.BasinReadAfterWrite
  intro s m line slot data _ hblk hm hline hlen hslot hwrite hloss hctr
  have hrun := runs_basinWrite hm hline hlen hslot
  rw [State.putLine_eq hwrite hloss hctr] at hrun
  refine ⟨_, hrun, ?_, ?_, fun u n hne => ?_⟩
  · rw [State.basinPlain_progress, State.basinPlain_lineWritten hblk hwrite hloss hlen]
  · rw [State.mce_progress, State.ctr_lineWritten hblk]
  · rw [State.lineAt_progress]
    exact State.lineAt_setLine_ne _ hne _

end Sys2Proof.Machine
end

section
/-! PROOF. Evictions from the tree cache, lost subtrees and lost groups (R211, R212, R219, R220, R222, R223). -/

namespace Sys2Proof.Machine

/-! ### Dropped lines -/

/-- A key that a map keeps reads as before. -/
theorem Sparse.get_dropKeys_of_not {α : Type} (d : α) (m : Sparse α) {f : Nat → Bool} {k : Nat} (hk : f k = false) :
    Sparse.get d (Sparse.dropKeys m f) k = Sparse.get d m k := by
  induction m with
  | nil => rfl
  | cons e m ih =>
    obtain ⟨j, a⟩ := e
    by_cases hj : f j = true
    · have hne : j ≠ k := by rintro rfl; simp [hj] at hk
      simpa [Sparse.dropKeys, hj, Sparse.get, hne] using ih
    · simp only [Sparse.dropKeys, List.filter_cons, hj, Bool.not_false, if_true, Sparse.get]
      exact congrArg _ ih

/-- The basin without the stored lines whose keys pass a test: they are EMPTY (R212). -/
def State.dropLines (s : State) (f : Nat → Bool) : State := { s with basin := Sparse.dropKeys s.basin f }

section
variable {s : State} {f : Nat → Bool} {u n : Nat}

theorem State.lineAt_dropLines (h : f (u * 2 ^ 33 + n) = true) : (s.dropLines f).lineAt u n = .empty :=
  Sparse.get_dropKeys _ _ h

theorem State.lineAt_dropLines_of_not (h : f (u * 2 ^ 33 + n) = false) : (s.dropLines f).lineAt u n = s.lineAt u n :=
  Sparse.get_dropKeys_of_not _ _ h

end

/-- The stored data lines of group m beneath tree line (k, ℓ) (R222). -/
def keyBeneath (m k l x : Nat) : Bool :=
  let d := beneath dataLines (l * 16 ^ (k + 1)) (16 ^ (k + 1))
  decide (m * 2 ^ 33 + d.1 ≤ x ∧ x < m * 2 ^ 33 + d.1 + d.2)

/-- They are the data lines of the group whose path passes the tree line (R218). -/
theorem keyBeneath_iff {m k l u n : Nat} (hn : n < 2 ^ 33) :
    keyBeneath m k l (u * 2 ^ 33 + n) = true ↔ u = m ∧ n < dataLines ∧ n / 16 ^ (k + 1) = l := by
  have hpos : 0 < 16 ^ (k + 1) := Nat.pow_pos (by decide)
  rw [keyBeneath, decide_eq_true_eq]
  simp only [beneath, Nat.div_eq_iff hpos, dataLines]
  generalize l * 16 ^ (k + 1) = first
  generalize 16 ^ (k + 1) = width at hpos
  omega

/-- The stored lines of group m (R212, R223). -/
def keyOfGroup (m x : Nat) : Bool := decide (x / 2 ^ 33 = m)

theorem keyOfGroup_iff {m u n : Nat} (hn : n < 2 ^ 33) : keyOfGroup m (u * 2 ^ 33 + n) = true ↔ u = m := by
  rw [keyOfGroup, decide_eq_true_eq]
  omega

/-! ### Commands -/

theorem runs_subtreeReinit {s : State} {m k l : Nat} {rest : List (Nat × Nat)} (hlost : (s.mce m).lost = (k, l) :: rest)
    (hgroup : (s.mce m).groupLost = false) (hctr : (s.mce m).maxCtr + 1 < 2 ^ 64) :
    Runs (.subtreeReinit m) s ((s.dropLines (keyBeneath m k l)).updMce m (fun e => { e.reinit m k l with lost := rest })) := by
  simp only [Runs, exec, execSubtreeReinit, hlost, hgroup, Nat.not_le.mpr hctr, Bool.false_eq_true, if_false]
  rfl

/-- A group's counters as at start-up (R212, R223). -/
def Mce.rebuilt (e : Mce) : Mce :=
  { e with ctr := [], treeCtr := [], treeMac := [], cache := [], lost := [], groupLost := false, maxCtr := 0, treePoison := [] }

theorem runs_groupRebuild {s : State} {m : Nat} (h : (s.mce m).groupLost = true) :
    Runs (.groupRebuild m) s ((s.dropLines (keyOfGroup m)).updMce m Mce.rebuilt) := by
  simp only [Runs, exec, execGroupRebuild, h, if_true]
  rfl

theorem TreeLine.place_of_find {c : List TreeLine} {level line : Nat} {x : TreeLine}
    (h : c.find? (fun t => t.level = level ∧ t.line = line) = some x) : x.level = level ∧ x.line = line :=
  of_decide_eq_true (List.find?_some h :)

/-- A cached tree line without cached children whose counter may rise leaves the cache (R211, R220). -/
theorem runs_treeEviction {s : State} {m level line : Nat} {x : TreeLine} (hm : m < 8)
    (hfind : (s.mce m).cache.find? (fun t => t.level = level ∧ t.line = line) = some x)
    (hchild : (s.mce m).childCached level line = false)
    (hctr : Sparse.get 0 (s.mce m).treeCtr (treeKey level line) + 1 < 2 ^ 64) :
    Runs (.treeEviction m level line) s (s.updMce m (fun e => e.evict m x)) := by
  obtain ⟨rfl, rfl⟩ := TreeLine.place_of_find hfind
  have hlimit : (s.mce m).treeAtLimit x = false := by
    rw [Mce.treeAtLimit, decide_eq_false (Nat.not_le.mpr hctr), Bool.and_false]
  have hgo : ¬ (8 ≤ m ∨ (s.mce m).childCached x.level x.line = true) := by simp [hm, hchild]
  simp only [Runs, exec, execTreeEviction, hfind, hlimit, Bool.false_eq_true, if_false, if_neg hgo]

/-- Settles O42: the lines that go are those beneath the lost tree line, or those of the lost group. -/
theorem treeRecovery : Obligations.TreeRecovery := by
  unfold Obligations.TreeRecovery
  intro s m level line k l x rest
  refine ⟨fun hfind hm hchild hctr => ?_, fun hlost hgroup hctr _ hblk => ?_, fun hgroup _ hblk => ?_⟩
  · have hrun := runs_treeEviction hm hfind hchild hctr
    obtain ⟨rfl, rfl⟩ := TreeLine.place_of_find hfind
    exact hrun
  · refine ⟨_, runs_subtreeReinit hlost hgroup hctr, ?_, fun n hl hn => ?_, fun u n hn hout => ?_⟩
    · exact congrArg Mce.lost (State.mce_updMce (s := s.dropLines _) hblk m _)
    · exact State.lineAt_dropLines ((keyBeneath_iff (hn.trans (by decide))).mpr ⟨rfl, hn, hl⟩)
    · refine State.lineAt_dropLines_of_not (Bool.eq_false_iff.mpr fun h => ?_)
      obtain ⟨hu, -, hl⟩ := (keyBeneath_iff hn).mp h
      exact hout.elim (· hu) (· hl)
  · have hmce := State.mce_updMce (s := s.dropLines (keyOfGroup m)) hblk m Mce.rebuilt
    refine ⟨_, runs_groupRebuild hgroup, congrArg Mce.groupLost hmce, congrArg Mce.lost hmce, congrArg Mce.ctr hmce,
      fun n hn => ?_, fun u n hu hn => ?_⟩
    · exact State.lineAt_dropLines ((keyOfGroup_iff hn).mpr rfl)
    · exact State.lineAt_dropLines_of_not (Bool.eq_false_iff.mpr fun h => hu ((keyOfGroup_iff hn).mp h))

end Sys2Proof.Machine
end

section
/-! PROOF. The selection, the commands and the sweep of key slots (R224, R225, R227, R229, R235). -/

namespace Sys2Proof.Machine

/-! ### Commands of a holder -/

section
variable {s : State} {via : Via} {m : Nat} (hserve : s.keyAccess via m = .serve)
include hserve

/-- R225: a served KEY_SEL write of a holder of the slots that it names takes the selection. -/
theorem runs_keySelWrite {value : Reg} (hslot : s.mayKey via m (bitsAt value 0 6).toNat = true)
    (hsucc : bitAt value 14 = true → s.mayKey via m (bitsAt value 8 6).toNat = true) :
    Runs (.keySelWrite via m value) s (s.updMce m (fun e => { e with
      selSlot := bitsAt value 0 6, selSucc := bitsAt value 8 6, selSuccEn := bitAt value 14,
      selHandle := bitsAt value 16 16 })) := by
  have hmay : (!s.mayKey via m (bitsAt value 0 6).toNat
      || (bitAt value 14 && !s.mayKey via m (bitsAt value 8 6).toNat)) = false := by
    simp only [hslot, Bool.not_true, Bool.false_or, Bool.and_eq_false_imp, Bool.not_eq_false']
    exact hsucc
  simp only [Runs, exec, execKeySelWrite, hserve, State.access, State.writeKeySel, hmay, Bool.false_eq_true, if_false]

theorem runs_keySelWrite_refused {value : Reg} (hslot : s.mayKey via m (bitsAt value 0 6).toNat = false) :
    Runs (.keySelWrite via m value) s (s.refuseKey m) := by
  simp only [Runs, exec, execKeySelWrite, hserve, State.access, State.writeKeySel, hslot, Bool.not_false, Bool.true_or, if_true]

/-- A command of a holder of the selected slot moves that slot (R225). -/
theorem runs_keyCommand {c : Instr} {f : Nat → State → State} {t : State} (hmay : s.mayKey via m (s.mce m).selSlot.toNat = true)
    (hc : exec c s = .next (s.keyCommand via m f)) (ht : f (s.mce m).selSlot.toNat s = t) : Runs c s t := by
  simp only [Runs, hc, State.keyCommand, hserve, State.access, hmay, if_true, ht]

theorem runs_keyCommand_refused {c : Instr} {f : Nat → State → State} (hmay : s.mayKey via m (s.mce m).selSlot.toNat = false)
    (hc : exec c s = .next (s.keyCommand via m f)) : Runs c s (s.refuseKey m) := by
  simp only [Runs, hc, State.keyCommand, hserve, State.access, hmay, Bool.false_eq_true, if_false]

end

/-! ### Moves of the selected slot (Table 10.5) -/

section
variable {s : State} {m k : Nat}

theorem State.loadKey_free {p : Nat} {b : List Byte} (hholder : s.slotHolder m k = some p)
    (hkey : s.secKey p (s.mce m).selHandle.toNat = some b) (hfree : ((s.mce m).slot k).state = .free)
    (hentropy : s.sec.entropyOk = true) : s.loadKey m k = s.drawRandom.2.updKey m k (fun x => { x with
      loaded := true, key := b, handle := (s.mce m).selHandle.toNat, nonce := s.drawRandom.1.take 16, offSeq := 0 }) := by
  simp only [State.loadKey, hholder, hkey, hfree, hentropy, and_self, if_true]

theorem State.loadKey_of_ne_free (h : ((s.mce m).slot k).state ≠ .free) : s.loadKey m k = s.refuseKey m := by
  simp only [State.loadKey, h, false_and, if_false]
  split <;> rfl

theorem State.activateKey_loaded (hfree : ((s.mce m).slot k).state = .free) (hloaded : ((s.mce m).slot k).loaded = true) :
    s.activateKey m k = s.updKey m k (fun x => { x with state := .active }) := if_pos ⟨hfree, hloaded⟩

theorem State.activateKey_of_not (h : ¬ (((s.mce m).slot k).state = .free ∧ ((s.mce m).slot k).loaded = true)) :
    s.activateKey m k = s.refuseKey m := if_neg h

theorem State.drainKey_of_ne_active (h : ((s.mce m).slot k).state ≠ .active) : s.drainKey m k = s.refuseKey m := if_pos h

theorem State.drainKey_alone (h : ((s.mce m).slot k).state = .active) (halone : (s.mce m).selSuccEn = false) :
    s.drainKey m k = s.updKey m k (fun x => { x with state := .draining, succ := none }) := by
  simp [State.drainKey, h, halone]

theorem State.drainKey_successor (h : ((s.mce m).slot k).state = .active) (hen : (s.mce m).selSuccEn = true)
    (hok : s.succOk m k (s.mce m).selSucc.toNat = true) : s.drainKey m k = s.updKey m k (fun x => { x with
      state := .draining, succ := some (s.mce m).selSucc.toNat, sweepDone := false, sweepLine := 0, swept := false }) := by
  simp [State.drainKey, h, hen, hok]

theorem State.retireKey_idle (h : ((s.mce m).slot k).state = .draining) (hidle : s.keyInflight m k = 0)
    (hswept : ((s.mce m).slot k).sweepDone = true ∨ ((s.mce m).slot k).succ = none) : s.retireKey m k = s.updKey m k (fun x =>
      { KeySlot.zero with state := .retired, handle := x.handle, sweepDone := x.sweepDone }) := if_pos ⟨h, hidle, hswept⟩

theorem State.retireKey_of_not (h : ((s.mce m).slot k).state ≠ .draining ∨ s.keyInflight m k ≠ 0) :
    s.retireKey m k = s.refuseKey m :=
  if_neg fun ⟨hdraining, hidle, _⟩ => h.elim (· hdraining) (· hidle)

end

/-! ### The sweep (R227) -/

section
variable {s : State} {m slot : Nat} (hdraining : ((s.mce m).slot slot).state = .draining)
  (hsucc : ((s.mce m).slot slot).succ.isSome = true)
include hdraining hsucc

theorem runs_sweepStep (hm : m < 8) (hgo : ((s.mce m).slot slot).swept = false) (ecc : EccRead) :
    Runs (.sweepStep m slot ecc) s ((((s.chargeScrub m).sweepAt m slot ((s.mce m).slot slot).sweepLine ecc).progress
      (pageMce m) 1).updKey m slot (fun x =>
        { x with sweepLine := x.sweepLine + 1, swept := decide (dataLines ≤ x.sweepLine + 1) })) := by
  simp only [Runs, exec, execSweepStep, hm, hdraining, hsucc, hgo, Bool.not_false, and_self, if_true]

theorem runs_sweepFlush (hend : 8 ≤ m ∨ ((s.mce m).slot slot).swept = true) :
    Runs (.sweepFlush m slot) s (s.updKey m slot (fun x => { x with sweepDone := true })) := by
  simp only [Runs, exec, execSweepFlush, hdraining, hsucc, hend, and_self, if_true]

end

theorem runs_sweepFlush_early {s : State} {m slot : Nat} (hm : m < 8) (hgo : ((s.mce m).slot slot).swept = false) :
    Runs (.sweepFlush m slot) s s := by
  simp [Runs, exec, execSweepFlush, hm, hgo]

/-- Settles O39: a holder's command moves the selected slot by its state; the sweep goes line by line until the flush. -/
theorem keySlots : Obligations.KeySlots := by
  unfold Obligations.KeySlots
  constructor
  · intro s via m value hserve
    dsimp only
    refine ⟨runs_keySelWrite hserve, runs_keySelWrite_refused hserve, fun hmay c hc => ?_, fun hmay => ?_⟩
    · simp only [List.mem_cons, List.not_mem_nil, or_false] at hc
      rcases hc with rfl | rfl | rfl | rfl <;> exact runs_keyCommand_refused hserve hmay rfl
    · have hrun {c : Instr} {f : Nat → State → State} {t : State} := runs_keyCommand hserve (c := c) (f := f) (t := t) hmay
      exact ⟨fun _ _ hholder hkey hfree hentropy => hrun rfl (State.loadKey_free hholder hkey hfree hentropy),
        fun h => hrun rfl (State.loadKey_of_ne_free h),
        fun hfree hloaded => hrun rfl (State.activateKey_loaded hfree hloaded),
        fun h => hrun rfl (State.activateKey_of_not h),
        fun h halone => hrun rfl (State.drainKey_alone h halone),
        fun h hen hok => hrun rfl (State.drainKey_successor h hen hok),
        fun h => hrun rfl (State.drainKey_of_ne_active h),
        fun h hidle hswept => hrun rfl (State.retireKey_idle h hidle hswept),
        fun h => hrun rfl (State.retireKey_of_not h)⟩
  · intro s m slot ecc hdraining hsucc
    exact ⟨fun hm hgo => runs_sweepStep hdraining hsucc hm hgo ecc, runs_sweepFlush hdraining hsucc, runs_sweepFlush_early⟩

end Sys2Proof.Machine
end

section
/-! PROOF. Flits (R242, R248, Table 11.4): the bytes of a header give its fields back, and a protected flit opens under the key, the
salt and the counter that it was protected with. -/

namespace Sys2Proof.Machine

/-! ### The header -/

/-- A field that stands first reads back. -/
theorem fieldLe_leBytes_append {n v : Nat} (hv : v < 256 ^ n) (c : List Byte) : fieldLe (leBytes n v ++ c) 0 n = v :=
  fieldLe_mid [] c 0 n v rfl hv

/-- A field that starts behind the first k bytes is a field of the rest. -/
theorem fieldLe_leBytes_append_of_le {k off : Nat} (h : k ≤ off) (v n : Nat) (c : List Byte) :
    fieldLe (leBytes k v ++ c) off n = fieldLe c (off - k) n := by
  have hskip : (leBytes k v).drop off = [] := List.drop_eq_nil_of_le (by simpa using h)
  rw [fieldLe_eq_leVal, fieldLe_eq_leVal, List.drop_append, hskip, leBytes_length, List.nil_append]

theorem bit_lt_two (b : Bool) : bit b < 2 := by cases b <;> decide

@[simp] theorem decide_bit_eq_one (b : Bool) : decide (bit b = 1) = b := by cases b <;> rfl

/-- Bytes 0 and 1 of a header: TYPE, VC and three bits (Table 11.4). -/
def FlitHdr.word (h : FlitHdr) : Nat :=
  h.type % 256 + h.vc % 16 * 256 + bit h.prov * 2 ^ 12 + bit h.last * 2 ^ 13 + bit h.enc * 2 ^ 14

theorem FlitHdr.word_lt (h : FlitHdr) : h.word < 256 ^ 2 := by
  have hp := bit_lt_two h.prov
  have hl := bit_lt_two h.last
  have he := bit_lt_two h.enc
  simp only [FlitHdr.word]
  omega

theorem FlitHdr.word_parts {h : FlitHdr} (htype : h.type < 256) (hvc : h.vc < 16) :
    h.word % 256 = h.type ∧ h.word / 256 % 16 = h.vc ∧ h.word / 2 ^ 12 % 2 = bit h.prov ∧ h.word / 2 ^ 13 % 2 = bit h.last
      ∧ h.word / 2 ^ 14 % 2 = bit h.enc := by
  have hp := bit_lt_two h.prov
  have hl := bit_lt_two h.last
  have he := bit_lt_two h.enc
  simp only [FlitHdr.word]
  omega

@[simp] theorem FlitHdr.length_bytes (h : FlitHdr) : h.bytes.length = 16 := by
  simp [FlitHdr.bytes]

/-- Table 11.4: what stands in the eight groups of bytes of a header. -/
theorem FlitHdr.fieldLe_bytes {h : FlitHdr} (hr : FlitHdr.inRange h) (more : List Byte) :
    fieldLe (h.bytes ++ more) 0 2 = h.word ∧ fieldLe (h.bytes ++ more) 2 2 = h.dstCtx ∧ fieldLe (h.bytes ++ more) 4 1 = h.saGen
      ∧ fieldLe (h.bytes ++ more) 5 3 = h.seq + h.ack * 4096 ∧ fieldLe (h.bytes ++ more) 8 2 = h.crVc + h.crCount * 256
      ∧ fieldLe (h.bytes ++ more) 10 2 = h.msg ∧ fieldLe (h.bytes ++ more) 12 1 = h.coll
      ∧ fieldLe (h.bytes ++ more) 13 3 = h.offset := by
  obtain ⟨-, -, hctx, hgen, hseq, hack, hcrVc, hcrCount, hmsg, hcoll, hoffset⟩ := hr
  have hbytes : h.bytes ++ more = leBytes 2 h.word ++ (leBytes 2 h.dstCtx ++ (leBytes 1 h.saGen
      ++ (leBytes 3 (h.seq + h.ack * 4096) ++ (leBytes 2 (h.crVc + h.crCount * 256) ++ (leBytes 2 h.msg ++ (leBytes 1 h.coll
      ++ (leBytes 3 h.offset ++ more))))))) := by
    simp only [FlitHdr.bytes, FlitHdr.word, List.append_assoc, Nat.mod_eq_of_lt hseq, Nat.mod_eq_of_lt hack, Nat.mod_eq_of_lt hcrVc,
      Nat.mod_eq_of_lt hcrCount]
  rw [hbytes]
  refine ⟨fieldLe_leBytes_append h.word_lt _, ?_, ?_, ?_, ?_, ?_, ?_, ?_⟩ <;>
  · simp only [fieldLe_leBytes_append_of_le, Nat.reduceLeDiff, Nat.reduceSub]
    exact fieldLe_leBytes_append (by omega) _

/-- R242: the bytes of a header give it back, whatever follows them. -/
theorem FlitHdr.ofBytes_bytes_append {h : FlitHdr} (hr : FlitHdr.inRange h) (more : List Byte) :
    FlitHdr.ofBytes (h.bytes ++ more) = h := by
  obtain ⟨hword, hctx, hgen, hseqAck, hcredits, hmsg, hcoll, hoffset⟩ := FlitHdr.fieldLe_bytes hr more
  obtain ⟨htype, hvc, -, -, hseq, -, hcrVc, -, -, -, -⟩ := hr
  obtain ⟨wtype, wvc, wprov, wlast, wenc⟩ := FlitHdr.word_parts htype hvc
  have hq : (h.seq + h.ack * 4096) % 4096 = h.seq ∧ (h.seq + h.ack * 4096) / 4096 = h.ack := by omega
  have hc : (h.crVc + h.crCount * 256) % 16 = h.crVc ∧ (h.crVc + h.crCount * 256) / 256 = h.crCount := by omega
  simp only [FlitHdr.ofBytes, hword, hctx, hgen, hseqAck, hcredits, hmsg, hcoll, hoffset, wtype, wvc, wprov, wlast, wenc,
    decide_bit_eq_one, hq, hc]

/-! ### Protection -/

/-- Counter mode keeps the length: its keystream covers the text. -/
theorem length_le_gcmStream (key iv pt : List Byte) :
    pt.length ≤ (sm4Stream key (ceilDiv pt.length 16) (fun j => iv ++ beBytes 4 (j + 2))).length := by
  rw [length_sm4Stream, ceilDiv]
  omega

@[simp] theorem length_gcmCrypt (key iv pt : List Byte) : (gcmCrypt key iv pt).length = pt.length := by
  rw [gcmCrypt, length_xorBytes, Nat.min_eq_left (length_le_gcmStream ..)]

/-- Counter mode undoes itself. -/
theorem gcmCrypt_gcmCrypt (key iv pt : List Byte) : gcmCrypt key iv (gcmCrypt key iv pt) = pt := by
  rw [gcmCrypt, length_gcmCrypt, gcmCrypt, xorBytes_xorBytes_cancel (length_le_gcmStream ..)]

@[simp] theorem length_gcmTag (key iv aad ct : List Byte) : (gcmTag key iv aad ct).length = 16 := by
  simp [gcmTag]

/-- The payload as it travels: encrypted where ENC is 1 (R248). -/
def flitText (key iv : List Byte) (enc : Bool) (text : List Byte) : List Byte := if enc then gcmCrypt key iv text else text

/-- The 12 bytes of a flit's tag over its header and its payload as it travels (R248). -/
def flitTag (key iv : List Byte) (enc : Bool) (hb ct : List Byte) : List Byte :=
  (if enc then gcmTag key iv hb ct else gcmTag key iv (hb ++ ct) []).take 12

@[simp] theorem length_flitText (key iv : List Byte) (enc : Bool) (text : List Byte) :
    (flitText key iv enc text).length = text.length := by
  cases enc
  · rfl
  · exact length_gcmCrypt ..

theorem flitText_flitText (key iv : List Byte) (enc : Bool) (text : List Byte) :
    flitText key iv enc (flitText key iv enc text) = text := by
  cases enc
  · rfl
  · exact gcmCrypt_gcmCrypt ..

@[simp] theorem length_flitTag (key iv : List Byte) (enc : Bool) (hb ct : List Byte) : (flitTag key iv enc hb ct).length = 12 := by
  cases enc <;> simp [flitTag]

/-- A flit of four parts: header, payload as it travels, tag, and the CRC over them. -/
def flitOfParts (hb ct tag : List Byte) : List Byte := hb ++ ct ++ tag ++ leBytes 4 (crc32c (hb ++ ct ++ tag)).toNat

section
variable {hb ct tag : List Byte} (hhb : hb.length = 16) (hct : ct.length = 224) (htag : tag.length = 12)
include hhb hct htag

theorem length_flitOfParts : (flitOfParts hb ct tag).length = 256 := by
  simp [flitOfParts, hhb, hct, htag]

theorem crcGood_flitOfParts : crcGood (flitOfParts hb ct tag) = true := by
  have hbody : (hb ++ ct ++ tag).length = 252 := by simp [hhb, hct, htag]
  have hcrc : fieldLe (flitOfParts hb ct tag) 252 4 = (crc32c (hb ++ ct ++ tag)).toNat := by
    simpa [flitOfParts] using fieldLe_mid (hb ++ ct ++ tag) [] 252 4 _ hbody (crc32c (hb ++ ct ++ tag)).isLt
  have hslice : sliceBytes (flitOfParts hb ct tag) 0 252 = hb ++ ct ++ tag :=
    sliceBytes_mid [] (hb ++ ct ++ tag) _ 0 252 rfl hbody
  exact decide_eq_true ⟨length_flitOfParts hhb hct htag, by rw [hcrc, hslice]⟩

theorem sliceBytes_flitOfParts : sliceBytes (flitOfParts hb ct tag) 0 16 = hb ∧ sliceBytes (flitOfParts hb ct tag) 16 224 = ct
    ∧ sliceBytes (flitOfParts hb ct tag) 240 12 = tag := by
  have hpre : (hb ++ ct).length = 240 := by simp [hhb, hct]
  refine ⟨?_, ?_, sliceBytes_mid (hb ++ ct) tag _ 240 12 hpre htag⟩
  · simpa [flitOfParts] using sliceBytes_mid [] hb (ct ++ (tag ++ leBytes 4 (crc32c (hb ++ ct ++ tag)).toNat)) 0 16 rfl hhb
  · simpa [flitOfParts] using sliceBytes_mid hb ct (tag ++ leBytes 4 (crc32c (hb ++ ct ++ tag)).toNat) 16 224 hhb hct

end

/-- A payload of 224 bytes needs no padding. -/
theorem padPayload_of_length {payload : List Byte} (h : payload.length = 224) : padPayload payload = payload := by
  simpa [padPayload] using sliceBytes_mid [] payload [] 0 224 rfl h

/-- R248: a protected flit in its parts. -/
theorem protect_eq (key salt : List Byte) (n : Nat) (h : FlitHdr) {payload : List Byte} (hp : payload.length = 224) :
    protect key salt n h payload = flitOfParts h.bytes (flitText key (salt ++ leBytes 8 n) h.enc payload)
      (flitTag key (salt ++ leBytes 8 n) h.enc h.bytes (flitText key (salt ++ leBytes 8 n) h.enc payload)) := by
  simp only [protect, padPayload_of_length hp]
  rfl

/-- R248: a flit opens where its tag is the one over its header and its payload as it travels. -/
theorem unprotect_eq (key salt : List Byte) (n : Nat) (flit : List Byte) : unprotect key salt n flit =
    if flitTag key (salt ++ leBytes 8 n) (FlitHdr.ofBytes flit).enc (sliceBytes flit 0 16) (sliceBytes flit 16 224)
      = sliceBytes flit 240 12
    then some (flitText key (salt ++ leBytes 8 n) (FlitHdr.ofBytes flit).enc (sliceBytes flit 16 224)) else none := rfl

section
variable (key salt : List Byte) (n : Nat) {h : FlitHdr} {payload : List Byte} (hp : payload.length = 224)
include hp

theorem length_protect : (protect key salt n h payload).length = 256 := by
  rw [protect_eq _ _ _ _ hp]
  exact length_flitOfParts (by simp) (by simpa using hp) (by simp)

theorem crcGood_protect : crcGood (protect key salt n h payload) = true := by
  rw [protect_eq _ _ _ _ hp]
  exact crcGood_flitOfParts (by simp) (by simpa using hp) (by simp)

theorem FlitHdr.ofBytes_protect (hr : FlitHdr.inRange h) : FlitHdr.ofBytes (protect key salt n h payload) = h := by
  rw [protect_eq _ _ _ _ hp, flitOfParts, List.append_assoc, List.append_assoc]
  exact FlitHdr.ofBytes_bytes_append hr _

/-- R248: the tag is made over the same bytes, and the payload decrypts. -/
theorem unprotect_protect (hr : FlitHdr.inRange h) : unprotect key salt n (protect key salt n h payload) = some payload := by
  rw [unprotect_eq, FlitHdr.ofBytes_protect key salt n hp hr, protect_eq _ _ _ _ hp]
  obtain ⟨hhb, hct, htag⟩ := sliceBytes_flitOfParts (hb := h.bytes) (ct := flitText key (salt ++ leBytes 8 n) h.enc payload)
    (tag := flitTag key (salt ++ leBytes 8 n) h.enc h.bytes (flitText key (salt ++ leBytes 8 n) h.enc payload))
    h.length_bytes ((length_flitText ..).trans hp) (length_flitTag ..)
  rw [hhb, hct, htag, if_pos rfl, flitText_flitText]

end

/-- Settles O11: the groups of a header's bytes hold its fields, and a protected flit is its header, text, tag and CRC. -/
theorem flitRoundTrip : Obligations.FlitRoundTrip := by
  unfold Obligations.FlitRoundTrip
  exact ⟨fun h hr => ⟨h.length_bytes, FlitHdr.ofBytes_bytes_append hr⟩, fun key salt n h payload hr hp =>
    ⟨length_protect key salt n hp, crcGood_protect key salt n hp, FlitHdr.ofBytes_protect key salt n hp hr,
     unprotect_protect key salt n hp hr⟩⟩

end Sys2Proof.Machine
end

section
/-! PROOF. What a port makes of a received flit: it drops it, or delivers it and the command of its type runs (R242, R243, R247 to
R261, R369, Table 11.5). -/

namespace Sys2Proof.Machine

/-! ### Receipt -/

section
variable {s : State} {i : Nat} {flit : List Byte}

/-- R243: a port that is not UP or DEGRADED receives nothing. -/
theorem State.receive_of_not_carries (h : (s.lnk i).carries = false) : s.receive i flit = .drop s := by
  rw [State.receive, h]
  rfl

theorem State.receive_of_not_crcGood (h : (s.lnk i).carries = true) (hcrc : crcGood flit = false) :
    s.receive i flit = .drop (s.sendNak i) := by
  rw [State.receive, h, hcrc]
  rfl

theorem State.receive_of_unlisted (h : (s.lnk i).carries = true) (hcrc : crcGood flit = true)
    (htype : flitTypes.contains (FlitHdr.ofBytes flit).type = false) :
    s.receive i flit = .drop (s.raiseErr (pageLnk i) 6 (BitVec.ofNat 32 (FlitHdr.ofBytes flit).seq)) := by
  simp only [State.receive, h, hcrc, htype, Bool.not_true, Bool.not_false, Bool.false_eq_true, if_false, if_true]

/-- R250: a serving association receives its own generation under its current key. -/
theorem Sa.recvPair_gen {x : Sa} (h : x.serves = true) : x.recvPair x.gen.toNat = some (x.recvKey, x.recvSalt) := by
  simp only [Sa.recvPair, h, Bool.not_true, Bool.false_eq_true, if_false, if_true]

/-- Updates that agree on what the association holds are one update. -/
theorem State.updSa_congr {a : Nat} {f g : Sa → Sa} (h : f ((s.lnk i).sa a) = g ((s.lnk i).sa a)) : s.updSa i a f = s.updSa i a g := by
  simp only [State.lnk, Lnk.sa] at h
  simp only [State.updSa, State.updLnk, Sparse.modify, h]

/-- R242, R243, R248, R251: a sequenced flit of a partition's channel, with the sequence number and the generation that stand, is
delivered when it opens under the association's current key. -/
theorem State.receive_of_current {h : FlitHdr} {payload : List Byte} (hcarries : (s.lnk i).carries = true)
    (hcrc : crcGood flit = true) (hhdr : FlitHdr.ofBytes flit = h) (htype : flitTypes.contains h.type = true)
    (hsequenced : sequenced h.type = true) (hvc : h.vc < 8) (hseq : h.seq = (s.lnk i).rxSeq)
    (hserves : ((s.lnk i).sa h.vc).serves = true) (hgen : h.saGen = ((s.lnk i).sa h.vc).gen.toNat)
    (hctx : h.dstCtx = (s.prt h.vc).ctxId h.vc)
    (hopen : unprotect ((s.lnk i).sa h.vc).recvKey ((s.lnk i).sa h.vc).recvSalt ((s.lnk i).sa h.vc).recvCount flit = some payload) :
    s.receive i flit = .deliver h payload h.vc ((s.updSa i h.vc (fun x =>
      { x with recvCount := x.recvCount + 1, gcmFails := 0, switched := true })).acceptSeq i h) := by
  have hpair := Sa.recvPair_gen hserves
  rw [← hgen] at hpair
  simp only [State.receive, hhdr, hcarries, hcrc, htype, hsequenced, hvc, hseq, ne_eq, not_true, Bool.not_true, Bool.false_eq_true,
    if_false, if_true, Nat.not_lt.2 (Nat.le_of_lt hvc), hpair, hctx, and_false, hopen]
  congr 2
  exact State.updSa_congr (by simp only [hgen, decide_true, Bool.or_true])

end

/-- Settles O54: the flit has a good CRC, gives back its header and opens (`unprotect_protect`), so it is delivered. -/
theorem flitDelivery : Obligations.FlitDelivery := by
  unfold Obligations.FlitDelivery
  intro s i h payload x hr hp hcarries htype hsequenced hvc hseq hserves hgen hctx
  exact State.receive_of_current hcarries (crcGood_protect _ _ _ hp) (FlitHdr.ofBytes_protect _ _ _ hp hr) htype hsequenced hvc
    hseq hserves hgen hctx (unprotect_protect _ _ _ hp hr)

/-! ### The commands of delivered flits (Table 11.5) -/

section
variable {s t : State} {i a : Nat} {flit pl : List Byte} {h : FlitHdr} (hrx : s.receive i flit = .deliver h pl a t)
include hrx

theorem State.onFlit_of_deliver {type : Nat} (htype : (FlitHdr.ofBytes flit).type = type) (f : FlitHdr → List Byte → Nat → State → State) :
    s.onFlit i flit type f = f h pl a t := by
  simp only [State.onFlit, htype, ne_eq, not_true, if_false, hrx]

/-- The command of a delivered flit of its type acts on the state that receipt leaves. -/
theorem runs_of_onFlit {c : Instr} {u : State} {type : Nat} {f : FlitHdr → List Byte → Nat → State → State}
    (htype : (FlitHdr.ofBytes flit).type = type) (hc : exec c s = .next (s.onFlit i flit type f)) (hu : f h pl a t = u) :
    Runs c s u := by
  rw [Runs, hc, State.onFlit_of_deliver hrx htype, hu]

/-- A flit of a collective or a belay acts for the partition of its channel and the peer that the port faces. -/
theorem runs_of_onColl {c : Instr} {u : State} {q : Nat} {type : Nat} {f : Nat → Nat → FlitHdr → List Byte → State → State}
    (htype : (FlitHdr.ofBytes flit).type = type) (hpeer : t.meshPeer i = some q) (ha : a < 8)
    (hc : exec c s = .next (s.onColl i flit type f)) (hu : f a q h pl t = u) : Runs c s u :=
  runs_of_onFlit hrx htype hc (by simp only [hpeer, ha, if_true, hu])

theorem runs_creditReq (htype : (FlitHdr.ofBytes flit).type = 0x03) (ha : a = 8) (hv : fieldLe pl 0 1 ≤ 8) :
    Runs (.creditReq i flit) s ((t.updVc i (fieldLe pl 0 1) (fun c => { c with owed := 0 })).sendMgmt i 4
      (leBytes 1 (fieldLe pl 0 1) ++ leBytes 2 (fullCredits (fieldLe pl 0 1)))) :=
  runs_of_onFlit hrx htype rfl (if_neg (by omega))

theorem runs_creditReset (htype : (FlitHdr.ofBytes flit).type = 0x04) (ha : a = 8) (hv : fieldLe pl 0 1 ≤ 8)
    (hwait : ((t.lnk i).vc (fieldLe pl 0 1)).waitReset = true) : Runs (.creditReset i flit) s
      ((t.updVc i (fieldLe pl 0 1) (fun c => { c with
        credits := min (fieldLe pl 1 2) (fullCredits (fieldLe pl 0 1)), waitReset := false, requests := 0 })).drainPort i) :=
  runs_of_onFlit hrx htype rfl (if_neg (by simp [ha, hv, hwait]))

theorem runs_saSetup_exchange (b : Bool) (htype : (FlitHdr.ofBytes flit).type = 0x08) (ha : a = 8) (hk : fieldLe pl 0 1 < 8)
    (hmsg : h.msg = 0) :
    Runs (.saSetup i flit b) s (t.receiveExchange i (fieldLe pl 0 1) (fieldLe pl 1 1) ((pl.drop 2).take 96)) :=
  runs_of_onFlit hrx htype rfl ((if_neg (by omega)).trans (if_pos hmsg))

theorem runs_saSetup_report (b : Bool) (htype : (FlitHdr.ofBytes flit).type = 0x08) (ha : a = 8) (hk : fieldLe pl 0 1 < 8)
    (hmsg : h.msg ≠ 0) :
    Runs (.saSetup i flit b) s (t.receiveReport i (fieldLe pl 0 1) (fieldLe pl 1 1) h b (pl.drop 2)) :=
  runs_of_onFlit hrx htype rfl ((if_neg (by omega)).trans (if_neg hmsg))

/-- R250, R251: what the flit's sender has set up goes, and the first association that serves or sets up with it closes. -/
theorem runs_saClose (htype : (FlitHdr.ofBytes flit).type = 0x09) (ha : a = 8) {u : State} {k : Nat}
    (hu : (List.range 8).foldl (fun u k => u.updSa i k (fun x =>
      if x.peerFrom = fieldLe pl 0 1 then { x with peerR := [], peerNonce := [], peerReport := [] } else x)) t = u)
    (hk : (List.range 8).find? (fun k => decide (((u.lnk i).sa k).peerPart.toNat = fieldLe pl 0 1)
      && (((u.lnk i).sa k).serves || decide (((u.lnk i).sa k).state = .exchanging))) = some k) :
    Runs (.saClose i flit) s (u.closeSa i k .exchanging true) :=
  runs_of_onFlit hrx htype rfl (by simp only [ha, ne_eq, not_true, if_false, hu, hk])

theorem runs_digestFlit (htype : (FlitHdr.ofBytes flit).type = 0x17) (ha : a < 8) :
    Runs (.digestFlit i flit) s (t.receiveDigest i a pl) :=
  runs_of_onFlit hrx htype rfl (if_pos ha)

end

/-! ### Dropped flits -/

section
variable {s t : State} {i : Nat} {flit : List Byte} (hrx : s.receive i flit = .drop t)
include hrx

theorem runs_flitCrcOrGcmFail : Runs (.flitCrcOrGcmFail i flit) s t := by
  simp only [Runs, exec, execFlitCrcOrGcmFail, hrx]

theorem runs_unlistedFlitType (htype : flitTypes.contains (FlitHdr.ofBytes flit).type = false) : Runs (.unlistedFlitType i flit) s t := by
  simp only [Runs, exec, execUnlistedFlitType, htype, Bool.false_eq_true, if_false, hrx]

end

theorem runs_unlistedFlitType_of_not_carries {s : State} {i : Nat} (h : (s.lnk i).carries = false) (flit : List Byte) :
    Runs (.unlistedFlitType i flit) s s := by
  simp only [Runs, exec, execUnlistedFlitType, State.receive_of_not_carries h, ite_self]

/-- Settles O55: a delivered flit's type names its command; a dropped one leaves what its receipt leaves. -/
theorem receivedFlits : Obligations.ReceivedFlits := by
  unfold Obligations.ReceivedFlits
  constructor
  · intro s t i a q flit pl h b hrx hh
    have coll {c : Instr} {u : State} {n : Nat} {f : Nat → Nat → FlitHdr → List Byte → State → State}
        (hpeer : t.meshPeer i = some q) (ha : a < 8) (hn : h.type = n) (hc : exec c s = .next (s.onColl i flit n f))
        (hu : f a q h pl t = u) : Runs c s u := runs_of_onColl hrx (hh.trans hn) hpeer ha hc hu
    exact ⟨fun hn => runs_of_onFlit hrx (hh.trans hn) rfl rfl,
      fun hn => runs_of_onFlit hrx (hh.trans hn) rfl rfl,
      fun hn => runs_creditReq hrx (hh.trans hn),
      fun hn => runs_creditReset hrx (hh.trans hn),
      fun hn ha hk => ⟨runs_saSetup_exchange hrx b (hh.trans hn) ha hk, runs_saSetup_report hrx b (hh.trans hn) ha hk⟩,
      fun hn ha _ hk => runs_saClose hrx (hh.trans hn) ha rfl hk,
      fun hn => runs_digestFlit hrx (hh.trans hn),
      fun hpeer ha => ⟨fun hn => coll hpeer ha hn rfl rfl, fun hn => coll hpeer ha hn rfl rfl, fun hn => coll hpeer ha hn rfl rfl,
        fun hn => coll hpeer ha hn rfl rfl, fun hn => coll hpeer ha hn rfl rfl, fun hn => coll hpeer ha hn rfl rfl,
        fun hn => coll hpeer ha hn rfl rfl, fun hn => coll hpeer ha hn rfl rfl⟩⟩
  · intro s i flit
    exact ⟨fun hcarries hcrc => runs_flitCrcOrGcmFail (State.receive_of_not_crcGood hcarries hcrc),
      fun hcarries hcrc htype => runs_unlistedFlitType (State.receive_of_unlisted hcarries hcrc htype) htype,
      fun hdark => ⟨runs_flitCrcOrGcmFail (State.receive_of_not_carries hdark), runs_unlistedFlitType_of_not_carries hdark flit⟩⟩

end Sys2Proof.Machine
end

section
/-! PROOF. L23 takes over the role of a port (R241): where its own page reads free after TAKEOVER is written, which the canonical
form of the table of ports grants and the statement on link events does not ask for. -/

namespace Sys2Proof.Machine

section
variable {s : State} {i : Nat}

theorem State.setTakeover_taken (h : (s.lnk 23).takeoverEn = true) : s.setTakeover i true = s := by
  simp only [State.setTakeover, h, if_true]

theorem State.setTakeover_free (h : (s.lnk 23).takeoverEn = false) :
    let s1 := ((s.updLnk i (fun l => { l with state := .dark })).dropPort i).msixPf0 5
    let s2 := (s1.updLnk 23 (fun l => { l with takeover := BitVec.ofNat 5 i, takeoverEn := true })).riskEvent 4 1
    s.setTakeover i true = if s2.mayTrain 23 then s2.startTraining 23 else s2 := by
  simp only [State.setTakeover, h, Bool.false_eq_true, if_true, if_false]

/-- R241: where L23 stands in for no port, management's TAKEOVER names the port, and L23 takes its role. -/
theorem runs_takeover_unused {via : Via} (hvia : s.manages via = true) (hi : i < 23) (hboot : s.dev.state ≠ .boot)
    (h : (s.lnk 23).takeoverEn = false) : Runs (.takeover via i true) s
      ((s.updLnk 23 (fun l => { l with takeover := BitVec.ofNat 5 i })).setTakeover i true) := by
  simp [Runs, exec, execTakeover, State.writeRole, hvia, hi, hboot, h]

/-- R241: in a canonical table of ports L23 is still free once TAKEOVER is written, and takes the role of port i. -/
theorem runs_takeover_free (hblk : Blocks.wf s = true) {via : Via} (hvia : s.manages via = true) (hi : i < 23)
    (hboot : s.dev.state ≠ .boot) (h : (s.lnk 23).takeoverEn = false) :
    let named := s.updLnk 23 (fun l => { l with takeover := BitVec.ofNat 5 i })
    let s1 := ((named.updLnk i (fun l => { l with state := .dark })).dropPort i).msixPf0 5
    let s2 := (s1.updLnk 23 (fun l => { l with takeover := BitVec.ofNat 5 i, takeoverEn := true })).riskEvent 4 1
    Runs (.takeover via i true) s (if s2.mayTrain 23 then s2.startTraining 23 else s2) := by
  intro named s1 s2
  have hnamed : (named.lnk 23).takeoverEn = false := by rw [State.lnk_updLnk _ hblk]; exact h
  have hrun := runs_takeover_unused hvia hi hboot h
  rwa [State.setTakeover_free hnamed] at hrun

end

/-- A running device whose table of ports lists port 23 twice: as at reset, and with a role taken. Its first entry is what
port 23 reads as. -/
def portListedTwice : State := { State.reset with
  dev := { Dev.reset with state := .ready }
  lnks := [(23, Lnk.reset), (23, { Lnk.reset with takeoverEn := true })] }

/-- Writing TAKEOVER 0 leaves the first entry as at reset, so it goes, and the second shows: L23 has a role. -/
theorem runs_takeover_portListedTwice : Runs (.takeover .mgc 0 true) portListedTwice
    (portListedTwice.updLnk 23 (fun l => { l with takeover := 0#5 })) := by
  have hrun := runs_takeover_unused (s := portListedTwice) (via := .mgc) (i := 0) rfl (by decide) (by decide) (by decide)
  rwa [State.setTakeover_taken (by decide)] at hrun

/-- Refutes O56: on a table of ports that lists port 23 twice, a takeover of port 0 finds L23 in a role and takes none, so risk
input 4 counts no event; the statement, which does not ask for a canonical table, lets L23 take the role. On canonical tables that
clause holds (`runs_takeover_free`). -/
theorem not_linkEvents : ¬ Obligations.LinkEvents := by
  unfold Obligations.LinkEvents
  rintro ⟨hports, -⟩
  obtain ⟨-, -, -, -, -, hmanaged, -⟩ := hports portListedTwice .mgc 0 ⟨0#8, 0#4, []⟩ (by decide)
  obtain ⟨-, -, hfree, -, -⟩ := hmanaged rfl (by decide) (by decide)
  have e := runs_unique runs_takeover_portListedTwice (hfree (by decide))
  have events : (portListedTwice.updLnk 23 (fun l => { l with takeover := 0#5 })).hlt.events = [] := rfl
  rw [e] at events
  exact absurd events (by decide)

end Sys2Proof.Machine
end

section
/-! PROOF. What every command and every step do: each command answers a next state, the queue and the log of outputs stay, a
locked debug port stays locked, and no fuse is unburnt (R312, R322). -/

namespace Sys2Proof.Machine

/-- Every arm of `exec` answers a next state; none faults and none is refused. -/
theorem completes (c : Instr) (s : State) : Completes c s := by
  cases c <;> exact ⟨_, rfl⟩

/-- R322: on a part whose DEBUG_DISABLED is burnt, what keeps the guarantees keeps the debug port off. -/
theorem Keeps.debugLocked {calm : Bool} {s t : State} (h : Keeps calm s t) (hs : DebugLocked s) : DebugLocked t := by
  obtain ⟨-, hburnt, -⟩ := h.fuses
  intro ht
  rw [hburnt] at ht
  have hfuse : s.fuses.debugDisabled ≠ false := by simp [ht]
  obtain ⟨hjtag, hinject, hused⟩ := hs ht
  refine ⟨Bool.eq_false_iff.mpr fun e => ?_, Bool.eq_false_iff.mpr fun e => ?_, Bool.eq_false_iff.mpr fun e => ?_⟩
  · exact (h.jtag e).elim (by simp [hjtag]) hfuse
  · exact (h.inject e).elim (by simp [hinject]) hfuse
  · exact (h.debugUsed e).elim (by simp [hused]) hfuse

/-- Settles O4: the debug lock is one of the guarantees that every step keeps; it does not speak of the queue. -/
theorem debugStaysLocked : Obligations.DebugStaysLocked := by
  unfold Obligations.DebugStaysLocked
  intro s t hs h
  exact (keeps_of_step h).debugLocked hs

/-- Settles O5: that no fuse is unburnt is one of the guarantees that every step keeps. -/
theorem fusesNeverUnburn : Obligations.FusesNeverUnburn := by
  unfold Obligations.FusesNeverUnburn
  intro s t h
  exact (keeps_of_step h).fuses

/-- Settles O2: every command completes (`completes`), and what it leaves keeps the guarantees. -/
theorem everyCommandAnswers : Obligations.EveryCommandAnswers := by
  unfold Obligations.EveryCommandAnswers
  intro c s
  obtain ⟨t, ht⟩ := completes c s
  have k : Keeps false s t := keeps_of_runs ht Bool.noConfusion
  obtain ⟨l, hl⟩ := k.out
  exact ⟨t, ht, k.pending, l, hl.symm⟩

/-- Settles O1: a step takes the first command of the queue off it and runs it; on an empty queue it idles. -/
theorem stepRunsFront : Obligations.StepRunsFront := by
  unfold Obligations.StepRunsFront
  refine ⟨fun c s => rfl, fun s h => ?_⟩
  rw [step, h]

end Sys2Proof.Machine
end

section
/-! PROOF. What reset leaves (R292, R303, R363, R394, Tables 15.7, 16.1, 16.6, 16.10, 17.11, 18.4). -/

namespace Sys2Proof.Machine

/-- Settles O9: no table lists anything at reset, so every block reads as its reset value. -/
theorem resetValues : Obligations.ResetValues := by
  unfold Obligations.ResetValues
  refine ⟨rfl, rfl, rfl, fun p => ⟨rfl, rfl, rfl⟩, fun p i => ⟨rfl, rfl⟩, fun i => rfl, fun h => rfl, rfl, rfl, rfl, rfl, ?_,
    fun n => ⟨rfl, rfl, rfl⟩, fun w => rfl, fun k => rfl, fun u n => rfl⟩
  decide

end Sys2Proof.Machine
end

section
/-! PROOF. The version records of a belay (R366, Table 16.9). -/

namespace Sys2Proof.Machine

/-- Table 16.9: what stands in the eight fields of a version record. -/
theorem VerRec.fieldLe_bytes {r : VerRec} (hr : VerRec.inRange r) :
    fieldLe r.bytes 0 2 = r.handle ∧ fieldLe r.bytes 2 2 = r.cur ∧ fieldLe r.bytes 4 1 = bit r.prevValid
      ∧ fieldLe r.bytes 5 1 = bit r.void0 ∧ fieldLe r.bytes 6 1 = bit r.void1 ∧ fieldLe r.bytes 10 4 = r.ref0
      ∧ fieldLe r.bytes 14 4 = r.ref1 ∧ fieldLe r.bytes 18 4 = r.ref2 := by
  obtain ⟨hhandle, hcur, href0, href1, href2⟩ := hr
  have hprev := bit_lt_two r.prevValid
  have hvoid0 := bit_lt_two r.void0
  have hvoid1 := bit_lt_two r.void1
  have hzeros : zeros 3 = leBytes 3 0 := rfl
  have hbytes : r.bytes = leBytes 2 r.handle ++ (leBytes 2 r.cur ++ (leBytes 1 (bit r.prevValid) ++ (leBytes 1 (bit r.void0)
      ++ (leBytes 1 (bit r.void1) ++ (leBytes 3 0 ++ (leBytes 4 r.ref0 ++ (leBytes 4 r.ref1 ++ (leBytes 4 r.ref2
      ++ zeros 10)))))))) := by
    simp only [VerRec.bytes, hzeros, List.append_assoc]
  rw [hbytes]
  refine ⟨fieldLe_leBytes_append hhandle _, ?_, ?_, ?_, ?_, ?_, ?_, ?_⟩ <;>
  · simp only [fieldLe_leBytes_append_of_le, Nat.reduceLeDiff, Nat.reduceSub]
    exact fieldLe_leBytes_append (by omega) _

/-- Settles O13: each field reads back from its place (`VerRec.fieldLe_bytes`). -/
theorem versionRecordRoundTrip : Obligations.VersionRecordRoundTrip := by
  unfold Obligations.VersionRecordRoundTrip
  intro r hr
  obtain ⟨hhandle, hcur, hprev, hvoid0, hvoid1, href0, href1, href2⟩ := VerRec.fieldLe_bytes hr
  simp only [VerRec.ofBytes, hhandle, hcur, hprev, hvoid0, hvoid1, href0, href1, href2, decide_bit_eq_one]

end Sys2Proof.Machine
end

section
/-! PROOF. The outcome of a comparison of replicas (R342). -/

namespace Sys2Proof.Machine

/-- A value that holds a strict majority of the digests (R342). -/
theorem majority_iff (l : List Nat) (x : Nat) : majority l x = true ↔ l.length < 2 * l.count x := by
  have hcount : l.count x = (l.filter (fun y => decide (y = x))).length := by
    rw [List.count, List.countP_eq_length_filter]
    rfl
  simp [majority, hcount]

/-- What holds a strict majority stands in the list. -/
theorem mem_of_majority {l : List Nat} {x : Nat} (h : majority l x = true) : x ∈ l := by
  rw [majority_iff] at h
  exact List.count_pos_iff.1 (by omega)

/-- No two values hold a strict majority. -/
theorem majority_unique {l : List Nat} {x y : Nat} (hx : majority l x = true) (hy : majority l y = true) : x = y := by
  by_contra hne
  rw [majority_iff] at hx hy
  have hsum : l.count x + l.count y ≤ l.length := by
    have := List.length_eq_countP_add_countP (· == x) (l := l)
    have hle : l.count y ≤ l.countP (fun a => decide ¬(a == x) = true) :=
      List.countP_mono_left fun a _ ha => by simp at ha ⊢; omega
    have hc : l.count x = l.countP (· == x) := rfl
    omega
  omega

/-- Digests that all equal the local one give it a strict majority. -/
theorem majority_own_of_all {own : Nat} {peers : List Nat} (h : ∀ d ∈ peers, d = own) : majority (own :: peers) own = true := by
  have hcount : (own :: peers).count own = (own :: peers).length := List.count_eq_length.2 (by simpa using fun d hd => (h d hd).symm)
  rw [majority_iff, hcount]
  simp

/-- A peer's digest decides the comparison against the local one where the local one holds no majority. -/
theorem exists_ne_majority_iff (own : Nat) (peers : List Nat) : (∃ x, x ≠ own ∧ majority (own :: peers) x = true) ↔
    majority (own :: peers) own = false ∧ peers.any (majority (own :: peers)) = true := by
  rw [List.any_eq_true]
  constructor
  · rintro ⟨x, hne, hx⟩
    refine ⟨Bool.eq_false_iff.mpr fun hown => hne (majority_unique hx hown), x, ?_, hx⟩
    exact (List.mem_cons.1 (mem_of_majority hx)).resolve_left hne
  · rintro ⟨hown, x, -, hx⟩
    exact ⟨x, by rintro rfl; simp [hx] at hown, hx⟩

/-- No digest decides the comparison. -/
theorem no_majority_iff (own : Nat) (peers : List Nat) : (∀ x, ¬ majority (own :: peers) x = true) ↔
    majority (own :: peers) own = false ∧ peers.any (majority (own :: peers)) = false := by
  rw [List.any_eq_false]
  refine ⟨fun h => ⟨Bool.eq_false_iff.mpr (h own), fun x _ => h x⟩, fun ⟨hown, h⟩ x hx => ?_⟩
  obtain rfl | hmem := List.mem_cons.1 (mem_of_majority hx)
  · simp [hx] at hown
  · exact h x hmem hx

/-- Settles O35: the branches of `replicaOutcome`, told apart by who holds the one majority there can be. -/
theorem replicaOutcomes : Obligations.ReplicaOutcomes := by
  unfold Obligations.ReplicaOutcomes
  intro own peers strict
  have hstrict (x : Nat) : strict x ↔ majority (own :: peers) x = true := by
    rw [majority_iff, List.length_cons, Nat.add_comm]
  have hsplit (d : Nat) (hd : d ≠ own) : replicaOutcome own [d] = 4 := by
    simp [replicaOutcome, majority_iff, hd, hd.symm]
  have hpeers : peers.all (· = own) = true ↔ ∀ d ∈ peers, d = own := by simp
  have hodd : (∃ d ∈ peers, d ≠ own) ↔ ¬ ∀ d ∈ peers, d = own := by simp
  simp only [hstrict, exists_ne_majority_iff, no_majority_iff, hodd, ← hpeers]
  by_cases hnone : peers = []
  · subst hnone
    simpa [replicaOutcome, majority_iff] using hsplit
  · refine ⟨?_, ?_, ?_, ?_, ?_, hsplit⟩ <;> simp only [replicaOutcome, if_neg hnone]
    all_goals
      split_ifs with hall hown hany
      · have hown := majority_own_of_all (hpeers.1 hall)
        simp [hnone, hall, hown]
      · simp [hnone, hall, hown]
      · simp [hnone, hall, hown, hany]
      · simp [hnone, hall, hown, hany]

end Sys2Proof.Machine
end

section
/-! PROOF. Writes of a VF that its port does not serve (R265, R266, R269). -/

namespace Sys2Proof.Machine

/-- A VF that is not served is answered with Unsupported Request (R266, R269). -/
theorem State.viaPrt_of_unserved {s : State} {port : Bool} {part : Nat} {sec : Bool} (hup : (s.hst port).link = .up)
    (h : s.vfServed port part sec = false) (p : Nat) (f : State → State) :
    s.viaPrt (.vf port part sec) p f = s.emit (.unsupported port (part + 1)) := by
  simp [State.viaPrt, State.prtAccess, State.vfAccess, State.access, hup, h]

/-- Over a link that is not UP no request of a VF arrives (R265). -/
theorem State.viaPrt_of_link_down {s : State} {port : Bool} (hdown : (s.hst port).link ≠ .up) (part p : Nat) (sec : Bool)
    (f : State → State) : s.viaPrt (.vf port part sec) p f = s := by
  simp [State.viaPrt, State.prtAccess, State.vfAccess, State.access, hdown]

/-- Settles O10: each of the commands is an access to a page of the partition. -/
theorem unservedWrites : Obligations.UnservedWrites := by
  unfold Obligations.UnservedWrites
  intro s port part p sec cs c hc
  have hvia : ∃ f, exec c s = .next (s.viaPrt (.vf port part sec) p f) := by
    simp only [cs, List.mem_cons, List.not_mem_nil, or_false] at hc
    rcases hc with rfl | rfl | rfl | rfl | rfl | rfl | rfl | rfl | rfl | rfl | rfl | rfl | rfl <;> exact ⟨_, rfl⟩
  obtain ⟨f, hf⟩ := hvia
  exact ⟨fun hup h => by rw [Runs, hf, State.viaPrt_of_unserved hup h], fun hdown => by rw [Runs, hf, State.viaPrt_of_link_down hdown]⟩

end Sys2Proof.Machine
end

section
/-! PROOF. Doorbells, queue enables and base register pairs (R273, R274, R403). -/

namespace Sys2Proof.Machine

section
variable {s : State} {via : Via} {p : Nat} (hserve : s.prtAccess via p = .serve)
include hserve

/-- A served write to a page of a partition runs to what it does there. -/
theorem runs_of_serve {c : Instr} {f : State → State} {t : State} (hc : exec c s = .next (s.viaPrt via p f)) (ht : f s = t) :
    Runs c s t := by
  rw [Runs, hc, State.viaPrt_of_serve hserve, ht]

section
variable {n : Nat} {value : Reg}

/-- A TAIL in range is stored (R274). -/
theorem runs_doorbellWrite_inside (h : value.toNat % 65536 < ((s.prt p).queue n).size) :
    Runs (.doorbellWrite via p n value) s (s.updQueue p n (fun q => { q with tail := value.toNat % 65536 })) :=
  runs_of_serve hserve rfl (if_neg (Nat.not_le.2 h))

/-- A TAIL at or above the ring size only sets DOORBELL (R274). -/
theorem runs_doorbellWrite_beyond (h : ((s.prt p).queue n).size ≤ value.toNat % 65536) :
    Runs (.doorbellWrite via p n value) s (s.raiseErr (pagePrt p) 0 (BitVec.ofNat 32 (s.prt p).jnlHead)) :=
  runs_of_serve hserve rfl (if_pos h)

/-- A low half is held (R403). -/
theorem runs_baseLoWrite (reg : BaseReg) (lo : Reg) :
    Runs (.baseLoWrite via p reg lo) s (s.updPrt p (fun v => v.updBase reg (fun _ b => b.hold lo))) :=
  runs_of_serve hserve rfl rfl

/-- A high half puts both halves in effect (R403). -/
theorem runs_baseHiWrite (reg : BaseReg) (hi : Reg) :
    Runs (.baseHiWrite via p reg hi) s (s.updPrt p (fun v => v.updBase reg (fun m b => b.apply hi m))) :=
  runs_of_serve hserve rfl rfl

end

end

/-! ### QSIZE (R273) -/

section
variable {s : State} {p n : Nat} {v : Reg}

theorem bitAt_or_enable (value : Reg) : bitAt (value ||| 0x10000#32) 16 = true := by simp

theorem bitAt_and_disable (value : Reg) : bitAt (value &&& 0xFFFEFFFF#32) 16 = false := by simp

/-- A well-formed queue starts empty (R273). -/
theorem State.writeQsize_starts (hbit : bitAt v 16 = true) (hoff : ((s.prt p).queue n).enable = false)
    (hformed : (s.prt p).queueFormed (((s.prt p).queue n).sized v) = true) :
    s.writeQsize p n v = s.updQueue p n (fun q => { q.sized v with
      enable := true, head := 0, tail := 0, err := false, slotWait := false, acceptWait := false }) := by
  simp only [State.writeQsize, hoff, hbit, hformed, Bool.and_self, Bool.false_eq_true, if_false, if_true]
  rfl

/-- A queue that is not started takes the fields (R273). -/
theorem State.writeQsize_stays_off (hoff : ((s.prt p).queue n).enable = false)
    (hno : bitAt v 16 = false ∨ (s.prt p).queueFormed (((s.prt p).queue n).sized v) = false) :
    s.writeQsize p n v = s.updQueue p n (fun q => q.sized v) := by
  have hstart : (bitAt v 16 && (s.prt p).queueFormed (((s.prt p).queue n).sized v)) = false := by
    rcases hno with h | h <;> simp only [h, Bool.false_and, Bool.and_false]
  simp only [State.writeQsize, hoff, hstart, Bool.false_eq_true, if_false]
  rfl

/-- An enabled queue takes no ENABLE (R273). -/
theorem State.writeQsize_stays_on (hbit : bitAt v 16 = true) (hon : ((s.prt p).queue n).enable = true) :
    s.writeQsize p n v = s := by
  simp only [State.writeQsize, hon, hbit, if_true]

/-- ENABLE 0 stops an enabled queue and writes its fields (R273). -/
theorem State.writeQsize_stops (hbit : bitAt v 16 = false) (hon : ((s.prt p).queue n).enable = true) :
    s.writeQsize p n v = (s.stopQueue p n).updQueue p n (fun q => q.sized v) := by
  simp only [State.writeQsize, hon, hbit, Bool.false_eq_true, if_true, if_false]

end

/-- Without bits that the register lacks the held half counts in full. -/
theorem Base.apply_one (b : Base) (hi : Reg) : b.apply hi 1 = { b with addr := BitVec.ofNat 64 (hi.toNat * 2 ^ 32 + b.heldLo.toNat) } := by
  rw [Base.apply, Nat.div_one, Nat.mul_one]

/-- Settles O14: a served write runs to what it does (`runs_of_serve`), and a write of QSIZE by what the queue is. -/
theorem queueRegisters : Obligations.QueueRegisters := by
  unfold Obligations.QueueRegisters
  constructor
  · intro s via p n value hserve
    have on := bitAt_or_enable value
    have off := bitAt_and_disable value
    exact ⟨runs_doorbellWrite_inside hserve, runs_doorbellWrite_beyond hserve,
      fun hoff hformed => runs_of_serve hserve rfl (State.writeQsize_starts on hoff hformed),
      fun hoff hformed => runs_of_serve hserve rfl (State.writeQsize_stays_off hoff (.inr hformed)),
      fun hon => runs_of_serve hserve rfl (State.writeQsize_stays_on on hon),
      fun hon => runs_of_serve hserve rfl (State.writeQsize_stops off hon),
      fun hoff => runs_of_serve hserve rfl (State.writeQsize_stays_off hoff (.inl off))⟩
  · intro s via p lo hi hserve
    have holds (reg : BaseReg) := runs_baseLoWrite hserve reg lo
    have applies (reg : BaseReg) := runs_baseHiWrite hserve reg hi
    simp only [Prt.updBase, Base.apply_one] at applies
    exact ⟨holds .tensorTable, applies .tensorTable, holds .formatTable, applies .formatTable, holds .stage, applies .stage,
      fun n => ⟨holds (.lend n), applies (.lend n)⟩⟩

end Sys2Proof.Machine
end

section
/-! PROOF. Completion slots that are released, the journal window, and the end of a party teardown (R279, R285, R286, R298). -/

namespace Sys2Proof.Machine

/-- Settles O15: RELEASE leaves the partition with its slot FREE, or as it is. -/
theorem slotRelease : Obligations.SlotRelease := by
  unfold Obligations.SlotRelease
  intro s via p i value hserve hblk
  constructor
  · intro hi hdone hgen
    exact runs_of_serve hserve rfl (congrArg (s.setPrt p) (if_pos ⟨hi, hdone, hgen⟩))
  · intro hnot
    have hrun : Runs (.slotRelease via p i value) s (s.updPrt p id) :=
      runs_of_serve hserve rfl (congrArg (s.setPrt p) (if_neg hnot))
    exact ⟨_, hrun, State.prt_updPrt s hblk p id, rfl⟩

/-- The entry whose number ends in the low half that is written, while the journal's head is within reach of it (R285). -/
theorem Prt.jnlByLow_of_jnlEntry {v : Prt} {q : Nat} {e : List Byte} (h : v.jnlEntry q = some e) (hq : q ≤ v.jnlHead)
    (hlow : v.jnlHead < q + 2 ^ 32) (hpos : 0 < q) : v.jnlByLow (q % 2 ^ 32) = e := by
  have hback : (v.jnlHead + 2 ^ 32 - q % 2 ^ 32) % 2 ^ 32 = v.jnlHead - q := by omega
  rw [Prt.jnlByLow, hback, if_pos (by omega), Nat.sub_sub_self hq, h, Option.getD_some]

/-- A partition whose party has read its journal: no journal, slot, base or context is left (R286, R298). -/
def Prt.emptied (v : Prt) : Prt := { v with
  jnl := [], jnlHead := 0, slots := [], readDone := false, clearing := false, hasCtx := false, state := .empty,
  teardown := .done, tt := .zero, ttKey := 0#6, ttEntries := 0, fmt := .zero, fmtKey := 0#6, fmtEntries := 0,
  stage := .zero, stagePages := 0, lend := [] }

section
variable {s : State} {p : Nat}

theorem State.prt_becomeEmpty (hblk : Blocks.wf s = true) (p : Nat) : (s.becomeEmpty p).prt p = (s.prt p).emptied := by
  rw [← State.prt_updPrt s hblk p Prt.emptied]
  refine State.prt_of_prts ?_ p
  rw [State.becomeEmpty, State.prts_msixVf]
  exact State.prts_foldl fun _ _ => rfl

/-- READ_DONE of the MGC ends nothing: the party says through its VF that it has read its journal (R286). -/
theorem runs_readDone_mgc (p : Nat) (value : Reg) : Runs (.readDone .mgc p value) s s := by
  by_cases hp : p < 8 <;> simp [Runs, exec, execReadDone, State.viaPrt, State.prtAccess, State.access, hp]

end

/-- Settles O16: an entry is found by the distance of its number from the head, and a party teardown ends in `Prt.emptied`. -/
theorem journalWindow : Obligations.JournalWindow := by
  unfold Obligations.JournalWindow
  refine ⟨fun s via p value hserve => ⟨runs_of_serve hserve rfl rfl, fun q e h hq hlow hpos => Prt.jnlByLow_of_jnlEntry h hq hlow hpos⟩,
    fun s via p value hserve hblk => ⟨fun hclear => ?_, fun hidle => ?_⟩⟩
  · have hempty := State.prt_becomeEmpty hblk p
    refine ⟨fun hvia hbit => runs_of_serve hserve rfl (if_pos ⟨hvia, hbit, hclear⟩), runs_readDone_mgc p value,
      congrArg Host.Outcome.next (if_pos hclear), ?_⟩
    rw [hempty]
    exact ⟨rfl, rfl, rfl, fun i => rfl, rfl, rfl⟩
  · have hstay : ¬ (via ≠ .mgc ∧ bitAt value 0 ∧ (s.prt p).clearing) := by simp [hidle]
    exact ⟨runs_of_serve hserve rfl (if_neg hstay), congrArg Host.Outcome.next (if_neg (by simp [hidle]))⟩

end Sys2Proof.Machine
end

section
/-! PROOF. Tensor windows: going live, refusals and early accesses (R281, R282, R295, R404). -/

namespace Sys2Proof.Machine

section
variable {s : State} {via : Via} {port : Bool} {p n off len : Nat} {value : Reg} {e : Entry} {bs : List Byte}

/-! ### WIN_HANDLE -/

/-- Without ENABLE a window takes the handle and is not live (R404). -/
theorem State.writeWinHandle_off (h : bitAt value 16 = false) : s.writeWinHandle p n value = s.updPrt p (fun v =>
    { v with wins := Sparse.modify Win.zero v.wins n (fun w =>
      { w with handle := BitVec.ofNat 16 (value.toNat % 65536), en := false }) }) := by
  simp only [State.writeWinHandle, h, Bool.not_false, if_true]

/-- A window goes live over a tensor that it may show (R295, R404). -/
theorem State.writeWinHandle_live (h : bitAt value 16 = true) (hread : (s.readEntry p (value.toNat % 65536)).1 = some e)
    (hmay : (s.readEntry p (value.toNat % 65536)).2.windowMay p (value.toNat % 65536) e = true) :
    s.writeWinHandle p n value = (s.readEntry p (value.toNat % 65536)).2.updPrt p (fun v =>
      { v with wins := Sparse.modify Win.zero v.wins n (fun w =>
        ⟨BitVec.ofNat 16 (value.toNat % 65536), true, w.page, e, w.page⟩) }) := by
  simp only [State.writeWinHandle, h, hread, hmay, Bool.not_true, Bool.false_eq_true, if_false, if_true, Option.getD_some]

/-- A handle without an entry, or one that may not be shown, is refused (R295, R404). -/
theorem State.writeWinHandle_refused (h : bitAt value 16 = true)
    (hbad : (s.readEntry p (value.toNat % 65536)).1 = none ∨ (s.readEntry p (value.toNat % 65536)).1 = some e
      ∧ (s.readEntry p (value.toNat % 65536)).2.windowMay p (value.toNat % 65536) e = false) :
    s.writeWinHandle p n value = ((s.readEntry p (value.toNat % 65536)).2.updPrt p (fun v =>
      { v with wins := Sparse.modify Win.zero v.wins n (fun w =>
        { w with handle := BitVec.ofNat 16 (value.toNat % 65536), en := false }) })).raiseErr (pagePrt p) 1
          (BitVec.ofNat 32 (s.prt p).jnlHead) := by
  rcases hbad with hread | ⟨hread, hmay⟩
  · simp only [State.writeWinHandle, h, hread, Bool.not_true, Bool.false_eq_true, if_false]
  · simp only [State.writeWinHandle, h, hread, hmay, Bool.not_true, Bool.false_eq_true, if_false]

/-! ### Reads and writes -/

theorem State.readWindow_dead (h : (s.prt p).winLive ((s.prt p).winRequest off len) = false) :
    s.readWindow port p off len = s.refuseWindow p port := by
  simp only [State.readWindow, h, Bool.not_false, if_true]

theorem State.readWindow_busy (hlive : (s.prt p).winLive ((s.prt p).winRequest off len) = true)
    (hbusy : ((s.prt p).winRequest off len).any (s.partBusy p) = true) : s.readWindow port p off len
      = ((s.updHst port (fun h => { h with
          rdEarly := Sparse.modify 0 h.rdEarly p (fun c => min 0xFFFFFFFF (c + 1)) })).chargePort port p len true).emit
            (.completion port (p + 1) none) := by
  simp only [State.readWindow, hlive, hbusy, Bool.not_true, Bool.false_eq_true, if_true, if_false]

/-- A read that meets no busy byte completes (R281). -/
theorem State.exists_readWindow_completion (hlive : (s.prt p).winLive ((s.prt p).winRequest off len) = true)
    (hbusy : ((s.prt p).winRequest off len).any (s.partBusy p) = false) :
    ∃ u data, s.readWindow port p off len = State.emit u (.completion port (p + 1) data) := by
  simp only [State.readWindow, hlive, hbusy, Bool.not_true, Bool.false_eq_true, if_false]
  exact ⟨_, _, rfl⟩

theorem State.writeWindow_dead (h : (s.prt p).winLive ((s.prt p).winRequest off bs.length) = false) :
    s.writeWindow port p off bs = s.refuseWindow p port := by
  simp only [State.writeWindow, h, Bool.not_false, if_true]

theorem State.writeWindow_used (hlive : (s.prt p).winLive ((s.prt p).winRequest off bs.length) = true)
    (hused : ((s.prt p).winRequest off bs.length).any (s.partUsed p) = true) : s.writeWindow port p off bs
      = s.updHst port (fun h => { h with
          wrEarly := Sparse.modify 0 h.wrEarly p (fun c => min 0xFFFFFFFF (c + 1)) }) := by
  simp only [State.writeWindow, hlive, hused, Bool.not_true, Bool.false_eq_true, if_true, if_false]

end

/-- Settles O17: what a served command does to the windows, by its branches above. -/
theorem tensorWindows : Obligations.TensorWindows := by
  unfold Obligations.TensorWindows
  intro s port p off len n bs value e via hserve
  refine ⟨fun h => ?_, fun h hread hmay => ?_, fun h hbad => ?_, fun hdead => ?_, fun hlive hbusy => ?_, fun hlive hbusy => ?_,
    fun hlive hused => ?_, fun hdead => ?_⟩
  · exact runs_of_serve hserve rfl (State.writeWinHandle_off h)
  · exact runs_of_serve hserve rfl (State.writeWinHandle_live h hread hmay)
  · exact runs_of_serve hserve rfl (State.writeWinHandle_refused h hbad)
  · exact runs_of_serve hserve rfl (State.readWindow_dead hdead)
  · exact runs_of_serve hserve rfl (State.readWindow_busy hlive hbusy)
  · obtain ⟨u, data, h⟩ := State.exists_readWindow_completion (port := port) hlive hbusy
    exact ⟨_, data, runs_of_serve hserve rfl h, by simp [State.emit]⟩
  · exact runs_of_serve hserve rfl (State.writeWindow_used hlive hused)
  · exact runs_of_serve hserve rfl (State.writeWindow_dead hdead)

end Sys2Proof.Machine
end

section
/-! PROOF. TDISP requests of a VF, the key of its stream, and the loss of its integrity (R267, R268, R269). -/

namespace Sys2Proof.Machine

section
variable {s : State} {port : Bool} {vf : Nat} (h : s.tdispReaches port vf = true)
include h

/-! ### Requests by the state of the interface (R269) -/

theorem State.lockInterface_unlocked (hstate : (s.hst port).tdi (vf - 1) = .unlocked) (hrandom : s.sec.entropyOk = true) :
    s.lockInterface port vf = (s.drawRandom.2.setTdi port (vf - 1) .locked).emit (.tdisp port vf 0x03 s.drawRandom.1) := by
  simp [State.lockInterface, h, hstate, hrandom]

theorem State.lockInterface_refused (hstate : (s.hst port).tdi (vf - 1) ≠ .unlocked) :
    s.lockInterface port vf = s.tdispError port vf := by
  simp [State.lockInterface, h, hstate]

theorem State.startInterface_locked (hstate : (s.hst port).tdi (vf - 1) = .locked) :
    s.startInterface port vf = (s.setTdi port (vf - 1) .run).emit (.tdisp port vf 0x06 []) := by
  simp [State.startInterface, h, hstate]

theorem State.startInterface_refused (hstate : (s.hst port).tdi (vf - 1) ≠ .locked) :
    s.startInterface port vf = s.tdispError port vf := by
  simp [State.startInterface, h, hstate]

theorem State.interfaceReport_held (hstate : (s.hst port).tdi (vf - 1) = .locked ∨ (s.hst port).tdi (vf - 1) = .run) :
    s.interfaceReport port vf = s.emit (.tdisp port vf 0x04 (s.tdispReport port (vf - 1))) := by
  simp [State.interfaceReport, h, hstate]

theorem State.interfaceReport_refused (hstate : (s.hst port).tdi (vf - 1) = .unlocked ∨ (s.hst port).tdi (vf - 1) = .error) :
    s.interfaceReport port vf = s.tdispError port vf := by
  rcases hstate with hstate | hstate <;> simp [State.interfaceReport, h, hstate]

theorem State.stopInterface_reaches :
    s.stopInterface port vf = (s.detach port (vf - 1)).emit (.tdisp port vf 0x07 []) := if_pos h

end

/-- Settles O44: each request by the state of the interface; a key over a session that is up; the end of an active stream. -/
theorem tdispAndIde : Obligations.TdispAndIde := by
  unfold Obligations.TdispAndIde
  intro s port vf session key h i tdi
  refine ⟨congrArg Host.Outcome.next (if_pos h), congrArg Host.Outcome.next (if_pos h), congrArg Host.Outcome.next (if_pos h),
    fun hstate hrandom => ?_, fun hstate => ?_, fun hstate => ?_, fun hstate => ?_, fun hstate => ?_, fun hstate => ?_, ?_,
    fun hup hkey => ?_, fun hactive => ?_⟩
  · exact congrArg Host.Outcome.next (State.lockInterface_unlocked h hstate hrandom)
  · exact congrArg Host.Outcome.next (State.lockInterface_refused h hstate)
  · exact congrArg Host.Outcome.next (State.startInterface_locked h hstate)
  · exact congrArg Host.Outcome.next (State.startInterface_refused h hstate)
  · exact congrArg Host.Outcome.next (State.interfaceReport_held h hstate)
  · exact congrArg Host.Outcome.next (State.interfaceReport_refused h hstate)
  · exact congrArg Host.Outcome.next (State.stopInterface_reaches h)
  · exact congrArg Host.Outcome.next (if_pos ⟨h, hup, hkey⟩)
  · exact congrArg Host.Outcome.next (if_pos ⟨h, hactive⟩)

end Sys2Proof.Machine
end

section
/-! PROOF. SPDM over DOE and MCTP: the connection, its sessions, and the requests inside them (R268, R269, R270, R271, R325). -/

namespace Sys2Proof.Machine

/-! ### Requests and the negotiation -/

section
variable {s : State} {path : SpdmPath} {c : Instr} {f : State → State} {needs : Bool}

/-- A request that reaches SEC and finds what it needs has its effect (DSP0274). -/
theorem runs_of_spdmRequest {t : State} (hc : exec c s = .next (s.spdmRequest path needs f)) (hreach : s.spdmReaches path = true)
    (hneeds : needs = true → s.spdmNegotiated path = true) (ht : f s = t) : Runs c s t := by
  have hready : (needs && !s.spdmNegotiated path) = false := by
    cases needs
    · rfl
    · rw [hneeds rfl]; rfl
  rw [Runs, hc, State.spdmRequest, hreach, hready, ← ht]
  rfl

/-- A request behind the negotiation answers an error before it (DSP0274). -/
theorem runs_of_spdmRequest_early (hc : exec c s = .next (s.spdmRequest path true f)) (hreach : s.spdmReaches path = true)
    (hnone : s.spdmNegotiated path = false) : Runs c s (s.spdmError path 4#8) := by
  rw [Runs, hc, State.spdmRequest, hreach, hnone]
  rfl

/-- A request inside a session that stands has its effect (R270). -/
theorem runs_of_inSession {port : Bool} {id : Nat} {finished : Bool} {t : State} (hc : exec c s = .next (s.inSession port id finished f))
    (hup : (s.hst port).link = .up) (hneg : (s.hst port).negotiated = true)
    (hsession : (s.hst port).sessions.any (fun x => x.id = id ∧ x.finished = finished) = true) (ht : f s = t) : Runs c s t :=
  runs_of_spdmRequest hc (decide_eq_true hup) (fun _ => hneg) ((if_pos hsession).trans ht)

end

/-! ### The connection -/

section
variable {s : State} {path : SpdmPath}

/-- GET_VERSION leaves nothing negotiated (R270). -/
theorem State.spdmNegotiated_spdmRestart (hblk : Blocks.wf s = true) :
    (s.spdmRestart path).spdmNegotiated path = false := by
  cases path with
  | doe port => exact congrArg Hst.negotiated (State.hst_updHst s hblk port _)
  | mctp via => rfl

theorem State.out_spdmRestart (path : SpdmPath) : (s.spdmRestart path).out = s.out := by
  cases path <;> rfl

/-- The port reads as it was negotiated, in any table: what it holds is no port at reset. -/
theorem State.hst_updHst_negotiated (port : Bool) (sm4 : Bool) :
    (s.updHst port (fun h => { h with negotiated := true, sm4Sessions := sm4 })).hst port
      = { s.hst port with negotiated := true, sm4Sessions := sm4 } := by
  have hne : { s.hst port with negotiated := true, sm4Sessions := sm4 } ≠ Hst.reset := fun h => nomatch congrArg Hst.negotiated h
  exact Sparse.get_set_same_of_ne hne s.hsts (portIdx port)

/-- The negotiation selects AES-256-GCM where both ciphers are offered (log 15). -/
theorem State.spdmSelect_negotiated (path : SpdmPath) (aes sm4 : Bool) :
    (s.spdmSelect path aes sm4).spdmNegotiated path = true
      ∧ ∀ port, path = .doe port → ((s.spdmSelect path aes sm4).hst port).sm4Sessions = (!aes && sm4) := by
  cases path with
  | doe port =>
    have h := State.hst_updHst_negotiated (s := s) port (!aes && sm4)
    refine ⟨congrArg Hst.negotiated h, ?_⟩
    rintro port' e
    cases e
    exact congrArg Hst.sm4Sessions h
  | mctp via => exact ⟨rfl, fun _ e => nomatch e⟩

theorem runs_negotiateAlgorithms (h : s.spdmReaches path = true) {aes sm4 : Bool} (hoffer : aes = true ∨ sm4 = true) :
    Runs (.negotiateAlgorithms path ⟨true, aes, sm4⟩) s (s.spdmSelect path aes sm4) :=
  runs_of_spdmRequest rfl h nofun (if_pos ⟨rfl, or_assoc.1 (.inl hoffer)⟩)

/-- A signed response while SEC's entropy source passes (R325, R326). -/
theorem State.spdmSigned_of_entropy (h : s.sec.entropyOk = true) (code : Nat) (bs nonce : List Byte) :
    s.spdmSigned path code bs nonce = (s.signed (nonce ++ bs)).2.spdmAnswer path code (bs ++ (s.signed (nonce ++ bs)).1) :=
  if_pos h

end

section
variable {s : State} {path : SpdmPath} (h : s.spdmReaches path = true)
include h

/-- Requests behind the negotiation, before it (DSP0274). -/
theorem runs_spdm_early (hnone : s.spdmNegotiated path = false) (slot off len index : Nat) (nonce : List Byte) :
    ∀ c ∈ ([.getDigests path, .getCertificate path slot off len, .challenge path nonce, .getMeasurements path index nonce] : List Instr),
      Runs c s (s.spdmError path 4#8) := by
  intro c hc
  simp only [List.mem_cons, List.not_mem_nil, or_false] at hc
  rcases hc with rfl | rfl | rfl | rfl <;> exact runs_of_spdmRequest_early rfl h hnone

/-- One measurement block, signed with the requester's nonce (R325). -/
theorem runs_getMeasurements_block (hneg : s.spdmNegotiated path = true) (hrandom : s.sec.entropyOk = true) {index : Nat}
    (hfirst : 1 ≤ index) (hlast : index ≤ 9) (nonce : List Byte) : Runs (.getMeasurements path index nonce) s
      ((s.signed (nonce ++ s.measurementBlock index)).2.spdmAnswer path 0x60
        (s.measurementBlock index ++ (s.signed (nonce ++ s.measurementBlock index)).1)) := by
  refine runs_of_spdmRequest rfl h (fun _ => hneg) ?_
  rw [if_neg (by omega), if_neg (by omega), if_pos hlast]
  exact State.spdmSigned_of_entropy hrandom _ _ _

end

/-! ### Sessions -/

/-- A session that has begun: its key comes of a random draw of SEC (R270, R326). -/
def State.beginSession (s : State) (port : Bool) (id : Nat) : State :=
  s.drawRandom.2.updHst port (fun h => { h with sessions := h.sessions ++ [⟨id, false, 0⟩] })

theorem State.sessions_beginSession {s : State} (hblk : Blocks.wf s = true) (port : Bool) (id : Nat) :
    ((s.beginSession port id).hst port).sessions = (s.hst port).sessions ++ [⟨id, false, 0⟩] :=
  congrArg Hst.sessions (State.hst_updHst s.drawRandom.2 hblk port _)

/-- A response changes no port. -/
theorem State.hst_spdmSigned (s : State) (path : SpdmPath) (code : Nat) (bs nonce : List Byte) (port : Bool) :
    (s.spdmSigned path code bs nonce).hst port = s.hst port := by
  unfold State.spdmSigned
  split <;> rfl

section
variable {s : State} {port : Bool} {id : Nat} (hup : (s.hst port).link = .up)
include hup

/-- Requests of sessions, before the negotiation (DSP0274). -/
theorem runs_session_early (hnone : (s.hst port).negotiated = false) (payload : List Byte) :
    ∀ c ∈ ([.keyExchange port id false, .finish port id true, .keyUpdate port id, .heartbeat port id, .endSession port id,
      .vendorDefinedRequest port id true payload] : List Instr), Runs c s (s.spdmError (.doe port) 4#8) := by
  intro c hc
  simp only [List.mem_cons, List.not_mem_nil, or_false] at hc
  rcases hc with rfl | rfl | rfl | rfl | rfl | rfl <;> exact runs_of_spdmRequest_early rfl (decide_eq_true hup) hnone

/-- KEY_EXCHANGE begins a session with a new identifier while fewer than 4 stand (R270). -/
theorem runs_keyExchange (hneg : (s.hst port).negotiated = true) (hrandom : s.sec.entropyOk = true)
    (hnew : (s.hst port).sessions.any (fun x => x.id = id) = false) (hroom : (s.hst port).sessions.length < 4) :
    Runs (.keyExchange port id false) s ((s.beginSession port id).spdmSigned (.doe port) 0x64
      (sm2Bytes (sm2MulG (1 + leVal s.drawRandom.1 % (sm2N - 1)))) []) := by
  refine runs_of_spdmRequest rfl (decide_eq_true hup) (fun _ => hneg) ?_
  dsimp only
  rw [if_neg (by simp [hnew]), if_neg (by omega), if_neg (by simp [hrandom])]
  rfl

/-- A STOP_INTERFACE that a session carries has its effect (R268, R269). -/
theorem State.tdispMessage_stop {vf : Nat} (hfirst : 1 ≤ vf) (hlast : vf ≤ 8) :
    s.tdispMessage port [0x87#8, BitVec.ofNat 8 vf] = (s.detach port (vf - 1)).emit (.tdisp port vf 0x07 []) := by
  have hvf : (BitVec.ofNat 8 vf).toNat = vf := by simp; omega
  have hstop : s.tdispMessage port [0x87#8, BitVec.ofNat 8 vf] = s.stopInterface port (BitVec.ofNat 8 vf).toNat := rfl
  rw [hstop, hvf]
  exact State.stopInterface_reaches (decide_eq_true ⟨hfirst, hlast, hup⟩)

end

/-- Settles O45: every command is a request that reaches SEC (`runs_of_spdmRequest`) or one inside a session
(`runs_of_inSession`). -/
theorem spdmRequests : Obligations.SpdmRequests := by
  unfold Obligations.SpdmRequests
  intro s path port id slot off len index nonce payload
  constructor
  · intro h
    refine ⟨⟨_, runs_of_spdmRequest rfl h nofun rfl, ?_, State.spdmNegotiated_spdmRestart⟩, ?_, fun aes sm4 hoffer => ?_, fun aes sm4 => ?_,
      fun hnone => runs_spdm_early h hnone slot off len index nonce, fun hneg => ⟨?_, ?_, fun hrandom => ⟨?_, ?_⟩⟩⟩
    · exact congrArg (· ++ [Output.spdm path 0x04 [1#8, 0x00#8, 0x12#8]]) (State.out_spdmRestart path)
    · exact runs_of_spdmRequest rfl h nofun (by cases path <;> rfl)
    · obtain ⟨hneg, hcipher⟩ := State.spdmSelect_negotiated (s := s) path aes sm4
      exact ⟨_, runs_negotiateAlgorithms h hoffer, hneg, hcipher port⟩
    · exact runs_of_spdmRequest rfl h nofun (if_neg fun hoffer => nomatch hoffer.1)
    · exact runs_of_spdmRequest rfl h (fun _ => hneg) rfl
    · exact runs_of_spdmRequest rfl h (fun _ => hneg) rfl
    · exact runs_of_spdmRequest rfl h (fun _ => hneg) (State.spdmSigned_of_entropy hrandom _ _ _)
    · exact fun hfirst hlast => runs_getMeasurements_block h hneg hrandom hfirst hlast nonce
  · intro hup doe
    refine ⟨fun hnone => runs_session_early hup hnone payload, fun hneg => ⟨fun hrandom hnew hroom => ?_, fun hbegun => ⟨?_, ?_⟩,
      fun hdone => ⟨?_, ?_, ?_, ?_, ?_, fun vf => State.tdispMessage_stop hup⟩⟩⟩
    · refine ⟨_, runs_keyExchange hup hneg hrandom hnew hroom, fun hblk => ?_⟩
      rw [State.hst_spdmSigned, State.sessions_beginSession hblk]
    · exact runs_of_inSession rfl hup hneg hbegun rfl
    · exact runs_of_inSession rfl hup hneg hbegun rfl
    · exact runs_of_inSession rfl hup hneg hdone rfl
    · exact runs_of_inSession rfl hup hneg hdone rfl
    · exact runs_of_inSession rfl hup hneg hdone rfl
    · exact runs_of_inSession rfl hup hneg hdone rfl
    · exact runs_of_inSession rfl hup hneg hdone rfl

end Sys2Proof.Machine
end

section
/-! PROOF. The end of a weir's period, and what the flits that it lets go leave of the weir (R246, R299, R302). -/

namespace Sys2Proof.Machine

/-! ### A run of writes -/

section
variable {α : Type} [DecidableEq α] {d : α} {m : Sparse α} (hm : Sparse.wf d m = true) (l : List Nat) (g : Nat → α)
include hm

/-- A run of writes keeps the canonical form. -/
theorem Sparse.wf_foldl_set : Sparse.wf d (l.foldl (fun t k => Sparse.set d t k (g k)) m) = true :=
  List.foldlRecOn (motive := fun t => Sparse.wf d t = true) l _ hm fun t ht k _ => Sparse.wf_set d t k (g k) ht

/-- What was written reads as written, and every other key as before. -/
theorem Sparse.get_foldl_set (i : Nat) :
    Sparse.get d (l.foldl (fun t k => Sparse.set d t k (g k)) m) i = if i ∈ l then g i else Sparse.get d m i := by
  induction l generalizing m with
  | nil => rfl
  | cons k l ih =>
    rw [List.foldl_cons, ih (Sparse.wf_set d m k (g k) hm)]
    by_cases hik : i = k
    · subst hik
      simp [Sparse.get_set_same d m i (g i) hm]
    · simp [Sparse.get_set_ne d m k i (g k) hik, hik]

end

/-! ### The nine allocations -/

theorem wf_allocTable (m : Sparse Alloc) (f : Nat → Alloc → Alloc) : Sparse.wf Alloc.zero (allocTable m f) = true :=
  Sparse.wf_foldl_set rfl _ _

theorem get_allocTable (m : Sparse Alloc) (f : Nat → Alloc → Alloc) {a : Nat} (ha : a < 9) :
    Sparse.get Alloc.zero (allocTable m f) a = f a (Sparse.get Alloc.zero m a) := by
  rw [allocTable, Sparse.get_foldl_set rfl, if_pos (List.mem_range.2 ha)]

/-- The allocations and the period as last written (R299). -/
def Weir.asWritten (v : Weir) : Weir :=
  { v with period := v.nextPeriod, allocs := allocTable v.allocs (fun _ x => { x with tokens := x.next }) }

/-- Each allocation's use counted, and its waiting requests served from the tokens of the next period (R299). -/
def Weir.counted (served : Nat → Nat) (v : Weir) : Weir :=
  { v with allocs := allocTable v.allocs (fun a x => x.endPeriod (served a)) }

/-- The period of weir w ends and the next begins, before waiting flits leave (R299). -/
def State.turnPeriod (s : State) (w : Nat) : State :=
  (s.updWeir w Weir.asWritten).updWeir w (Weir.counted ((s.updWeir w Weir.asWritten).served w))

theorem runs_weirPeriod (s : State) {w : Nat} (hw : w < 37 ∨ (40 ≤ w ∧ w < 48)) : Runs (.weirPeriod w) s
    (if w < 24 then ((if w = 36 then s.servePower true else s).turnPeriod w).drainPort w
      else (if w = 36 then s.servePower true else s).turnPeriod w) := by
  simp only [Runs, exec, execWeirPeriod, if_pos hw]
  rfl

/-- The new period of a weir: its allocations as last written, its last use and its denied count kept (R299). -/
structure PeriodTurned (v v' : Weir) : Prop where
  canonical : Sparse.wf Alloc.zero v'.allocs = true
  period : v'.period = v.nextPeriod
  allocs : ∀ a < 9, let x := Sparse.get Alloc.zero v.allocs a
    (Sparse.get Alloc.zero v'.allocs a).tokens = x.next
      ∧ (Sparse.get Alloc.zero v'.allocs a).usedLast = BitVec.ofNat 32 (max x.used x.usedOut)
      ∧ (Sparse.get Alloc.zero v'.allocs a).denied =
          if x.demand = 0 ∧ x.demandOut = 0 ∧ x.waited = false then x.denied else satAdd x.denied 1

theorem Weir.periodTurned (v : Weir) (served : Nat → Nat) : PeriodTurned v (v.asWritten.counted served) := by
  refine ⟨by rw [Weir.counted, wf_allocTable], rfl, fun a ha => ?_⟩
  simp [Weir.counted, Weir.asWritten, get_allocTable _ _ ha, Alloc.endPeriod]

theorem State.weir_turnPeriod {s : State} (hblk : Blocks.wf s = true) (w : Nat) :
    PeriodTurned (s.weir w) ((s.turnPeriod w).weir w) ∧ ((s.turnPeriod w).weir w).capacity = (s.weir w).capacity := by
  have hblk' := (State.keeps_updWeir (calm := true) (.refl s) w Weir.asWritten).blocks hblk
  rw [State.turnPeriod, State.weir_updWeir _ hblk', State.weir_updWeir s hblk]
  exact ⟨Weir.periodTurned _ _, rfl⟩

theorem State.weir_turnPeriod_ne (s : State) {w v : Nat} (h : v ≠ w) : (s.turnPeriod w).weir v = s.weir v := by
  rw [State.turnPeriod, State.weir_updWeir_ne _ _ _ _ h, State.weir_updWeir_ne _ _ _ _ h]

theorem State.wf_turnPeriod {s : State} (hblk : Blocks.wf s = true) (w : Nat) : Blocks.wf (s.turnPeriod w) = true :=
  (State.keeps_updWeir (calm := true) (State.keeps_updWeir (.refl s) w _) w _).blocks hblk

/-- From s to t weir w stays in its period: its tokens, last use and denied counts stay, and with them pool, partitions and
page headers. -/
structure SamePeriod (w : Nat) (s t : State) : Prop where
  blocks : Blocks.wf t = true
  pool : t.pool = s.pool
  prts : t.prts = s.prts
  hdrs : t.hdrs = s.hdrs
  turned : ∀ v, PeriodTurned v (s.weir w) → PeriodTurned v (t.weir w)

section
variable {w : Nat} {s t : State} (h : SamePeriod w s t)
include h

theorem SamePeriod.updLnk (i : Nat) (f : Lnk → Lnk) : SamePeriod w s (t.updLnk i f) :=
  ⟨(State.keeps_updLnk (calm := true) (.refl t) i f).blocks h.blocks, h.pool, h.prts, h.hdrs, h.turned⟩

theorem SamePeriod.emit (o : Output) : SamePeriod w s (t.emit o) := ⟨h.blocks, h.pool, h.prts, h.hdrs, h.turned⟩

/-- Counting in an allocation of any weir. -/
theorem SamePeriod.updAlloc (v b : Nat) {g : Alloc → Alloc}
    (hg : ∀ x, (g x).tokens = x.tokens ∧ (g x).usedLast = x.usedLast ∧ (g x).denied = x.denied) :
    SamePeriod w s (t.updWeir v (fun x => { x with allocs := Sparse.modify Alloc.zero x.allocs b g })) := by
  refine ⟨(State.keeps_updWeir (calm := true) (.refl t) v _).blocks h.blocks, h.pool, h.prts, h.hdrs, fun x hx => ?_⟩
  obtain ⟨hcanon, hperiod, hallocs⟩ := h.turned x hx
  by_cases hvw : w = v
  · subst hvw
    rw [State.weir_updWeir t h.blocks]
    refine ⟨Sparse.wf_modify _ _ _ _ hcanon, hperiod, fun a ha => ?_⟩
    by_cases hab : a = b
    · subst hab
      obtain ⟨htokens, hused, hdenied⟩ := hg (Sparse.get Alloc.zero (t.weir w).allocs a)
      dsimp only
      rw [Sparse.get_modify_same _ _ _ _ hcanon, htokens, hused, hdenied]
      exact hallocs a ha
    · dsimp only
      rw [Sparse.get_modify_ne _ _ _ _ _ hab]
      exact hallocs a ha
  · rw [State.weir_updWeir_ne t v w _ hvw]
    exact ⟨hcanon, hperiod, hallocs⟩

theorem SamePeriod.takeTokens (v a n : Nat) : SamePeriod w s (t.takeTokens v a n) := by
  unfold State.takeTokens
  split
  · exact h
  · exact h.updAlloc v a fun _ => ⟨rfl, rfl, rfl⟩

theorem SamePeriod.spendEnergy (p event n : Nat) : SamePeriod w s (t.spendEnergy p event n) :=
  h.updAlloc 36 p fun _ => ⟨rfl, rfl, rfl⟩

theorem SamePeriod.awaitToken (i a : Nat) : SamePeriod w s (t.awaitToken i a) := h.updAlloc i a fun _ => ⟨rfl, rfl, rfl⟩

theorem SamePeriod.transmit (i : Nat) (raw : List Byte) : SamePeriod w s (t.transmit i raw) := by
  unfold State.transmit
  dsimp only
  split
  · exact ((h.updLnk i _).updLnk i _).emit _
  · exact ((((h.updLnk i _).updLnk i _).emit _).takeTokens i _ 1).spendEnergy _ 2 1

theorem SamePeriod.drainVc (i v n : Nat) : SamePeriod w s (t.drainVc i v n) := by
  induction n generalizing t with
  | zero => exact h
  | succ n ih =>
    unfold State.drainVc
    split
    · exact h
    · split_ifs
      · exact ih ((h.updLnk i _).transmit i _)
      · exact h.awaitToken i _
      · exact h

/-- Flits that leave spend tokens of the period; they do not turn it (R246). -/
theorem SamePeriod.drainPort (i : Nat) : SamePeriod w s (t.drainPort i) :=
  List.foldlRecOn (motive := fun u => SamePeriod w s u) _ _ h fun _ hu v _ => hu.drainVc i v _

end

theorem SamePeriod.refl {s : State} (hblk : Blocks.wf s = true) (w : Nat) : SamePeriod w s s :=
  ⟨hblk, rfl, rfl, rfl, fun _ h => h⟩

/-- WEI36 as it is served by the capacity that it now has (R302). -/
def Weir.withCapacity (c : Nat) (v : Weir) : Weir := { v with capacity := c }

theorem PeriodTurned.of_withCapacity {v v' : Weir} {c : Nat} (h : PeriodTurned (v.withCapacity c) v') : PeriodTurned v v' :=
  ⟨h.canonical, h.period, h.allocs⟩

theorem State.servePower_true (s : State) : s.servePower true = s.updWeir 36 (Weir.withCapacity s.powerCapacity) := if_pos (.inl rfl)

/-- Settles O51: a period turns, WEI36 with its capacity first, and a port's waiting flits leave in the new one. -/
theorem weirPeriods : Obligations.WeirPeriods := by
  unfold Obligations.WeirPeriods
  intro s w a hw ha hblk x
  have hrun := runs_weirPeriod s hw
  rcases lt_or_ge w 24 with hlow | hhigh
  · rw [if_pos hlow, if_neg (by omega)] at hrun
    obtain ⟨-, hpool, hprts, hhdrs, hturned⟩ := (SamePeriod.refl (State.wf_turnPeriod hblk w) w).drainPort w
    obtain ⟨-, hperiod, hallocs⟩ := hturned (s.weir w) (State.weir_turnPeriod hblk w).1
    obtain ⟨htokens, hused, hdenied⟩ := hallocs a ha
    exact ⟨_, hrun, hperiod, htokens, hused, hdenied, by omega, by omega, hpool, hprts, hhdrs⟩
  rw [if_neg (by omega)] at hrun
  by_cases hpower : w = 36
  · subst hpower
    rw [if_pos rfl, State.servePower_true] at hrun
    have hblk' := (State.keeps_updWeir (calm := true) (.refl s) 36 (Weir.withCapacity s.powerCapacity)).blocks hblk
    obtain ⟨hturned, hcapacity⟩ := State.weir_turnPeriod hblk' 36
    rw [State.weir_updWeir s hblk] at hturned hcapacity
    obtain ⟨-, hperiod, hallocs⟩ := hturned.of_withCapacity
    obtain ⟨htokens, hused, hdenied⟩ := hallocs a ha
    refine ⟨_, hrun, hperiod, htokens, hused, hdenied, fun _ => hcapacity, fun _ v hv => ?_, rfl, rfl, rfl⟩
    rw [State.weir_turnPeriod_ne _ hv, State.weir_updWeir_ne _ _ _ _ hv]
  · rw [if_neg hpower] at hrun
    obtain ⟨⟨-, hperiod, hallocs⟩, -⟩ := State.weir_turnPeriod hblk w
    obtain ⟨htokens, hused, hdenied⟩ := hallocs a ha
    exact ⟨_, hrun, hperiod, htokens, hused, hdenied, fun h => absurd h hpower, fun _ v hv => State.weir_turnPeriod_ne s hv, rfl, rfl, rfl⟩

end Sys2Proof.Machine
end

section
/-! PROOF. Registers of the common header, ERR_INJECT, RESET_REQ and a partition's weir (R301, R303, R322, R399, R400). -/

namespace Sys2Proof.Machine

/-- A command that is an access which is served runs to what it does there. -/
theorem runs_of_access {s : State} {c : Instr} {a : Access} {f : State → State} {t : State} (ha : a = .serve)
    (hc : exec c s = .next (s.access a f)) (ht : f s = t) : Runs c s t := by
  subst ha ht
  exact hc

section
variable {s : State} {n : Nat} {value : Reg}

/-- With DEBUG_DISABLED burnt nothing is injected (R322). -/
theorem State.writeInject_disabled (h : s.fuses.debugDisabled = true) : s.writeInject n value = s := if_pos h

/-- GO injects the event that the write names, while injection is enabled (R322). -/
theorem State.writeInject_go (h : s.fuses.debugDisabled = false) (hen : s.dev.injectEnabled = true) (hgo : bitAt value 8 = true) :
    s.writeInject n value = (s.updHdr n (fun h => { h with injectBit := bitsAt value 0 5 })).inject n (bitsAt value 0 5).toNat :=
  (if_neg (by simp [h])).trans (if_pos ⟨hgo, hen⟩)

/-- The MGC restarts a block that no partition owns (R400). -/
theorem State.resetBlock_unowned (howner : (s.pageOwner n).isSome = false) (hclass : (pageClass n).isSome = true) :
    s.resetBlock n = (s.restartBlock n).updHdr n
      (fun h => { h with hung := false, escalation := if h.hung then 1#2 else h.escalation }) :=
  if_neg (by simp [howner, Option.isSome_iff_ne_none.1 hclass])

theorem State.resetBlock_owned (howner : (s.pageOwner n).isSome = true) : s.resetBlock n = s := if_pos (.inl howner)

end

section
variable {s : State} {w : Nat} {value : Reg}

/-- A period from 1 to 1,024 is the weir's next one where it fits, and an error otherwise (R303). -/
theorem State.writeWeir_period (hlow : 1 ≤ (bitsAt value 0 11).toNat) (hhigh : (bitsAt value 0 11).toNat ≤ 1024) :
    s.writeWeir w true value =
      if weirFits (bitsAt value 0 11).toNat (s.weir w).nextAlloc (s.partUnits (w - 40)).length then
        s.updWeir w (fun v => { v with nextPeriod := (bitsAt value 0 11).toNat })
      else s.raiseErr (pageWei w) 0 0#32 :=
  if_neg (by omega)

/-- A period of 0 or above 1,024 is not written (R303). -/
theorem State.writeWeir_period_outside (h : (bitsAt value 0 11).toNat = 0 ∨ 1024 < (bitsAt value 0 11).toNat) :
    s.writeWeir w true value = s := if_pos h

/-- The selected allocation is the next period's where it fits, and an error otherwise (R303). -/
theorem State.writeWeir_alloc (h : (s.weir w).sel.toNat < 8) :
    s.writeWeir w false value =
      if weirFits (s.weir w).nextPeriod (fun b => if b = (s.weir w).sel.toNat then value.toNat else (s.weir w).nextAlloc b)
          (s.partUnits (w - 40)).length then
        s.updWeir w (fun v => { v with
          allocs := Sparse.modify Alloc.zero v.allocs (s.weir w).sel.toNat (fun x => { x with next := value.toNat }) })
      else s.raiseErr (pageWei w) 0 0#32 :=
  if_neg (Nat.not_le.2 h)

end

/-- Settles O52: each register's write, by what is written and by whom. -/
theorem headerAndWeirRegisters : Obligations.HeaderAndWeirRegisters := by
  unfold Obligations.HeaderAndWeirRegisters
  intro s via page w value
  refine ⟨fun hserve => ⟨_, runs_of_access hserve rfl rfl, rfl⟩, fun hserve => ⟨fun h => ?_, fun h hen hgo => ?_⟩,
    fun hserve => ?_, fun howner hclass => ?_, fun howner => ?_⟩
  case refine_1 => exact runs_of_access hserve rfl (State.writeInject_disabled h)
  case refine_2 => exact runs_of_access hserve rfl (State.writeInject_go h hen hgo)
  case refine_3 =>
    refine ⟨fun hlow hhigh hfits => ?_, fun hlow hhigh hfits => ?_, fun hout => ?_, fun hsel hfits => ?_, fun hsel hfits => ?_⟩
    · exact runs_of_access hserve rfl ((State.writeWeir_period hlow hhigh).trans (if_pos hfits))
    · exact runs_of_access hserve rfl ((State.writeWeir_period hlow hhigh).trans (if_neg (Bool.not_eq_true _ ▸ hfits)))
    · exact runs_of_access hserve rfl (State.writeWeir_period_outside hout)
    · exact runs_of_access hserve rfl ((State.writeWeir_alloc hsel).trans (if_pos hfits))
    · exact runs_of_access hserve rfl ((State.writeWeir_alloc hsel).trans (if_neg (Bool.not_eq_true _ ▸ hfits)))
  case refine_4 => exact congrArg Host.Outcome.next (State.resetBlock_unowned howner hclass)
  case refine_5 => exact congrArg Host.Outcome.next (State.resetBlock_owned howner)

end Sys2Proof.Machine
end

section
/-! PROOF. SEC's vendor messages: reports, policies, key records and staging (R318, R319, R321, R324, R326 to R330). -/

namespace Sys2Proof.Machine

/-! ### Reports, policies and key records, while the firmware answers -/

section
variable {s : State} (h : s.answers = true)
include h

/-- Past the guard that the firmware answers, a vendor message runs to what it does. -/
theorem runs_of_answers {c : Instr} {t u : State} (hc : exec c s = .next (if !s.answers then s else t)) (ht : t = u) :
    Runs c s u := by
  rw [Runs, hc, if_neg (by simp [h]), ht]

/-- The report over a 32-byte nonce (R331, R332). -/
theorem runs_getReport {p : Nat} {nonce : List Byte} (hp : p < 8 ∨ p = 0xFF) (hlen : nonce.length = 32)
    (hentropy : s.sec.entropyOk = true) :
    Runs (.getReport p nonce) s ((s.makeReport p nonce).2.vendorAnswer resOk (s.makeReport p nonce).1) :=
  runs_of_answers h rfl ((if_neg (by omega)).trans (if_neg (by simp [hentropy])))

theorem runs_getReport_badNonce {p : Nat} {nonce : List Byte} (hlen : nonce.length ≠ 32) :
    Runs (.getReport p nonce) s (s.vendorAnswer resFormat []) :=
  runs_of_answers h rfl (if_pos (.inr hlen))

/-- A policy that passes every check sets up its party (R328). -/
theorem runs_policyLoad {p : Nat} {policy : List Byte} (hok : s.policyResult p policy = resOk) :
    Runs (.policyLoad p policy) s ((s.drawRandom.2.updPrt p (fun v =>
      { v with party := some (Party.fresh policy (1 + leVal s.drawRandom.1 % (sm2N - 1))), state := .setup })).vendorAnswer
        resOk []) :=
  runs_of_answers h rfl (if_neg (not_not.2 hok))

theorem runs_policyLoad_refused {p : Nat} {policy : List Byte} (hbad : s.policyResult p policy ≠ resOk) :
    Runs (.policyLoad p policy) s (s.vendorAnswer (s.policyResult p policy) []) :=
  runs_of_answers h rfl (if_pos hbad)

/-- A part that may be debugged takes no key record (R322). -/
theorem runs_keyRecord_debug {p : Nat} {record : List Byte} (hdebug : s.fuses.debugDisabled = false) :
    Runs (.keyRecord p record) s (s.vendorAnswer resDebug []) :=
  runs_of_answers h rfl (if_pos (by simp [hdebug]))

section
variable {p : Nat} {record : List Byte} (hdebug : s.fuses.debugDisabled = true)
include hdebug

/-- A partition without a party takes no key record (R329). -/
theorem runs_keyRecord_noParty (hparty : (s.prt p).party = none) :
    Runs (.keyRecord p record) s (s.vendorAnswer resState []) :=
  runs_of_answers h rfl ((if_neg (by simp [hdebug])).trans (by rw [hparty]))

variable {q : Party} (hparty : (s.prt p).party = some q) (hstate : (s.prt p).state = .setup ∨ (s.prt p).state = .active)
include hparty hstate

/-- A record that the party's rules refuse is answered with the reason (R329). -/
theorem runs_keyRecord_refused (hbad : (q.recordResult record).1 ≠ resOk) :
    Runs (.keyRecord p record) s (s.vendorAnswer (q.recordResult record).1 []) := by
  refine runs_of_answers h rfl ((if_neg (by simp [hdebug])).trans ?_)
  rw [hparty]
  exact (if_neg (by tauto)).trans (if_pos hbad)

/-- A record that the party's rules accept is applied, and the last one that the setup needs activates it (R329). -/
theorem runs_keyRecord_accepted (hok : (q.recordResult record).1 = resOk) :
    let q1 := q.applyRecord record (q.recordResult record).2
    let q2 := if q1.mayForm then q1.formKc else q1
    let s1 := s.updPrt p (fun v => { v with party := some q2 })
    Runs (.keyRecord p record) s ((if q1.mayForm = true ∧ (s.prt p).state = .setup then s1.activate p q2 else s1).vendorAnswer
      resOk (recordHandle p record)) := by
  refine runs_of_answers h rfl ((if_neg (by simp [hdebug])).trans ?_)
  rw [hparty]
  exact (if_neg (by tauto)).trans (if_neg (not_not.2 hok))

end
end

/-! ### Staging, after the boot ROM -/

section
variable {s : State} (h : s.dev.state ≠ .boot)
include h

/-- Past the boot ROM, a message of staging runs to what it does. -/
theorem runs_of_booted {c : Instr} {t u : State} (hc : exec c s = .next (if s.dev.state = .boot then s else t)) (ht : t = u) :
    Runs c s u := by
  rw [Runs, hc, if_neg h, ht]

section
variable (hnone : s.sec.staging = none)
include hnone

/-- A session begins within the bank's size (R319). -/
theorem runs_stageBegin {size : Nat} (hsize : size ≤ bankSize) : Runs (.stageBegin size) s ((s.updSec (fun x =>
    { (x.setBank x.other (.bytes size [])) with
      tryBank := if x.tryBank = some x.other then none else x.tryBank, staging := some ⟨size, 0⟩ })).vendorAnswer resOk []) :=
  runs_of_booted h rfl ((if_neg (by simp [hnone])).trans (if_neg (Nat.not_lt.2 hsize)))

theorem runs_stageBegin_tooLarge {size : Nat} (hsize : bankSize < size) :
    Runs (.stageBegin size) s (s.vendorAnswer resFormat []) :=
  runs_of_booted h rfl ((if_neg (by simp [hnone])).trans (if_pos hsize))

/-- Outside a session nothing is written, ended or aborted (R319). -/
theorem runs_stage_noSession (off : Nat) (bytes : List Byte) :
    Runs (.stageData off bytes) s (s.vendorAnswer resState []) ∧ Runs .stageEnd s (s.vendorAnswer resState [])
      ∧ Runs .stageAbort s (s.vendorAnswer resState []) :=
  ⟨runs_of_booted h rfl (by rw [hnone]), runs_of_booted h rfl (by rw [hnone]), runs_of_booted h rfl (if_neg (by simp [hnone]))⟩

end

section
variable {g : Staging} (hsome : s.sec.staging = some g)
include hsome

/-- One session at a time (R319). -/
theorem runs_stageBegin_busy (size : Nat) : Runs (.stageBegin size) s (s.vendorAnswer resBusy []) :=
  runs_of_booted h rfl (if_pos (by simp [hsome]))

/-- Bytes within the announced size are written to the bank (R319). -/
theorem runs_stageData {off : Nat} {bytes : List Byte} (hpos : 1 ≤ bytes.length) (hmax : bytes.length ≤ 1024)
    (hin : off + bytes.length ≤ g.size) : Runs (.stageData off bytes) s ((s.updSec (fun x =>
      { (x.setBank x.other ((x.bank x.other).write off bytes)) with
        staging := some ⟨g.size, g.written + bytes.length⟩ })).vendorAnswer resOk []) := by
  refine runs_of_booted h rfl ?_
  rw [hsome]
  exact (if_neg (by omega)).trans (if_neg (Nat.not_lt.2 hin))

/-- A bank that verifies is the next to be tried (R318, R319, R321). -/
theorem runs_stageEnd (hok : (checkBank s.fuses (s.sec.bank s.sec.other)).1 = resOk) (hrecovery : s.mgc.recovery = false) :
    Runs .stageEnd s (((s.updSec (fun x =>
      { x with staging := none, tryBank := some x.other })).vendorAnswer resOk []).msixPf0 4) := by
  refine runs_of_booted h rfl ?_
  rw [hsome]
  exact (if_pos hok).trans (if_neg (by simp [hrecovery]))

/-- A bank that fails its check is dropped (R319). -/
theorem runs_stageEnd_failed (hbad : (checkBank s.fuses (s.sec.bank s.sec.other)).1 ≠ resOk) :
    Runs .stageEnd s (((s.dropStaging).vendorAnswer (checkBank s.fuses (s.sec.bank s.sec.other)).1 []).msixPf0 4) := by
  refine runs_of_booted h rfl ?_
  rw [hsome]
  exact if_neg hbad

/-- An abort drops the bank (R319). -/
theorem runs_stageAbort : Runs .stageAbort s (s.dropStaging.vendorAnswer resOk []) :=
  runs_of_booted h rfl (if_pos (by simp [hsome]))

end
end

/-- Settles O47: each message by its checks, in their order. -/
theorem securityMessages : Obligations.SecurityMessages := by
  unfold Obligations.SecurityMessages
  constructor
  · intro s p nonce policy record q h
    exact ⟨runs_getReport h, runs_getReport_badNonce h, runs_policyLoad h, runs_policyLoad_refused h, runs_keyRecord_debug h,
      runs_keyRecord_noParty h, fun hdebug hparty hstate =>
        ⟨runs_keyRecord_refused h hdebug hparty hstate, runs_keyRecord_accepted h hdebug hparty hstate⟩⟩
  · intro s size off bytes g h
    exact ⟨(runs_stageBegin h ·), (runs_stageBegin_tooLarge h ·), fun hnone => runs_stage_noSession h hnone off bytes, fun hsome =>
      ⟨runs_stageBegin_busy h hsome size, runs_stageData h hsome, runs_stageEnd h hsome, runs_stageEnd_failed h hsome,
        runs_stageAbort h hsome⟩⟩

end Sys2Proof.Machine
end

section
/-! PROOF. Error records and patterns of the health monitor (R341, R346, R348). -/

namespace Sys2Proof.Machine

/-- Building a record changes the health monitor's ticks alone (R346). -/
theorem State.hlt_buildRecord (s : State) (e : CperEvent) :
    (s.buildRecord e).2.hlt = { s.hlt with ticks := s.hlt.ticks + Config.elapsed s.draws } := rfl

/-- The record of an event is the last of at most 64, and HEAD moves on by one (R348). -/
theorem State.hlt_writeRecord (s : State) (e : CperEvent) :
    (s.writeRecord e).hlt.cperHead = s.hlt.cperHead + 1
      ∧ (s.writeRecord e).hlt.records.getLast? = some (s.hlt.cperHead.toNat, (s.buildRecord e).1)
      ∧ (s.writeRecord e).hlt.due = s.hlt.due ∧ (s.writeRecord e).hlt.records.length ≤ 64
      ∧ (s.writeRecord e).hlt.written = s.hlt.written + 1 := by
  rw [State.writeRecord, State.hlt_msixPf0]
  refine ⟨rfl, ?_, rfl, ?_, rfl⟩
  · simp [State.updHlt, State.hlt_buildRecord, recordsHeld, List.getLast?_drop]
  · simp only [State.updHlt, recordsHeld, List.length_drop, List.length_append, List.length_singleton]
    omega


/-- A served write of CPER_TAIL moves TAIL to a count of the last 64, and clears OVERRUN by a 1 (Table 15.7). -/
theorem runs_cperTailWrite {s : State} {via : Via} {value : Reg} {tail : BitVec 16} (hserve : s.pf0Access via = .serve)
    (htail : (if (s.hlt.cperHead - bitsAt value 0 16).toNat ≤ recordsHeld then bitsAt value 0 16 else s.hlt.cperTail) = tail) :
    Runs (.cperTailWrite via value) s
      (s.updHlt (fun h => { h with cperTail := tail, overrun := h.overrun && !bitAt value 16 })) :=
  htail ▸ runs_of_access hserve rfl rfl

/-- Settles O48: the record that is written, and each register and message by its guards. -/
theorem errorRecords : Obligations.ErrorRecords := by
  unfold Obligations.ErrorRecords
  intro s via e rest count index bs value
  refine ⟨fun hdue => ?_, fun h => ⟨fun r hr => ?_, fun hr => ?_, fun hindex hlen => ?_, fun hbad => ?_⟩,
    fun hserve => ⟨fun hin => ?_, fun hout => ?_⟩⟩
  case refine_1 =>
    obtain ⟨hhead, hlast, hrest, hlen, hwritten⟩ := State.hlt_writeRecord (s.updHlt (fun h => { h with due := rest })) e
    exact ⟨_, _, by rw [Runs, exec, execCperRecord, hdue], hhead, hlast, hrest, hlen, hwritten⟩
  case refine_2 => exact runs_of_answers h rfl (by rw [hr])
  case refine_3 => exact runs_of_answers h rfl (by rw [hr])
  case refine_4 => exact runs_of_answers h rfl (if_neg (by simp only [patternRoom]; omega))
  case refine_5 => exact runs_of_answers h rfl (if_pos hbad)
  case refine_6 => exact runs_cperTailWrite hserve (if_pos hin)
  case refine_7 => exact runs_cperTailWrite hserve (if_neg (Nat.not_le.2 hout))

end Sys2Proof.Machine
end

section
/-! PROOF. Watchdogs (R350, R352, R353). -/

namespace Sys2Proof.Machine

section
variable {s : State} {n : Nat}

/-- An interrupt of a partition leaves the page headers (R287). -/
@[simp] theorem State.hdrs_msixVf (p vector : Nat) : (s.msixVf p vector).hdrs = s.hdrs := by
  unfold State.msixVf
  split_ifs <;> simp [State.hdrs_hlt_msix]

/-- What a report of a hang writes in the block's header (R350). -/
def Hdr.reportHung (h : Hdr) : Hdr :=
  { h with hung := true, expired := true, expireCount := if h.expireCount = 0xFFFF#16 then 0xFFFF#16 else h.expireCount + 1 }

/-- A report of a hang changes the block's own header (R350). -/
theorem State.hdrs_reportHung : (s.reportHung n).hdrs = (s.updHdr n Hdr.reportHung).hdrs := by
  unfold State.reportHung
  dsimp only
  split_ifs
  · rfl
  · split <;> simp <;> rfl

/-- The header of a block that reports a hang: its value after reset has no hang, so it is stored (R350). -/
theorem State.hdr_reportHung : (s.reportHung n).hdr n = (s.hdr n).reportHung := by
  have hstored : (s.hdr n).reportHung ≠ hdrReset n := fun h => absurd (congrArg Hdr.hung h) (Bool.noConfusion ·)
  rw [State.hdr, State.hdrs_reportHung]
  exact Sparse.get_set_same_of_ne hstored _ _

/-- A watchdog with pending work expires: the block reports a hang, and a new one escalates (R350, R353). -/
theorem runs_watchdogExpiry (hdog : hasWatchdog n = true) (hwindow : (s.hdr n).watchWindow ≠ 0#32)
    (hpending : s.pendingWork n = true) (hsuspect : (s.hdr n).suspect = false) (hboot : s.dev.state ≠ .boot) :
    Runs (.watchdogExpiry n) s
      (if (s.hdr n).hung then s.reportHung n else (s.reportHung n).escalate n (s.hdr n).escalation) :=
  congrArg Host.Outcome.next (if_pos ⟨hdog, hwindow, hpending, by simp [hsuspect], hboot⟩)

end

/-- Settles O57: the expiry's branches, and the header that the report leaves. -/
theorem watchdogs : Obligations.Watchdogs := by
  unfold Obligations.Watchdogs
  intro s page hdog hwindow hpending hsuspect hboot
  have hrun := runs_watchdogExpiry hdog hwindow hpending hsuspect hboot
  refine ⟨fun hhung => ?_, fun hhung => ?_, ?_, ?_⟩
  · rwa [if_pos hhung] at hrun
  · rwa [if_neg (by simp [hhung])] at hrun
  · rw [State.hdr_reportHung]; rfl
  · rw [State.hdr_reportHung]; rfl

end Sys2Proof.Machine
end

section
/-! PROOF. The end of a risk period (R362, R363). -/

namespace Sys2Proof.Machine

/-- Requests for risk belays are kept with the partitions (R363). -/
@[simp] theorem State.hlt_requestBelays (s : State) : s.requestBelays.hlt = s.hlt :=
  List.foldlRecOn (motive := fun t : State => t.hlt = s.hlt) _ _ rfl fun t ht p _ => by
    split_ifs
    · exact ht
    · exact ht

/-- Each input's leaky count after a period (R362). -/
theorem State.get_leakyNext (s : State) (hottest : Nat) {i : Nat} (hi : i < 8) :
    Sparse.get 0 (s.leakyNext hottest) i = leak s.hlt.shift (Sparse.get 0 s.hlt.leaky i) (s.inputEvents hottest i) := by
  rw [State.leakyNext, Sparse.get_foldl_set rfl, if_pos (List.mem_range.2 hi)]

/-- RISK is the weighted sum over 64, at most 255 (R362). -/
theorem Hlt.riskOf_eq (h : Hlt) (leaky : Sparse Nat) :
    h.riskOf leaky = min 255 (((List.range 8).map (fun i => h.weight i * Sparse.get 0 leaky i)).sum / 64) := by
  rw [Hlt.riskOf, sumNat, List.sum_eq_foldl]

/-- What a period leaves of the counts and of RISK (R362). -/
theorem runs_riskPeriod {s : State} (hboot : s.dev.state ≠ .boot) (hottest : Nat) :
    ∃ t, Runs (.riskPeriod hottest) s t ∧ t.hlt.events = [] ∧ t.hlt.leaky = s.leakyNext hottest
      ∧ t.hlt.risk = BitVec.ofNat 8 (s.hlt.riskOf (s.leakyNext hottest)) := by
  refine ⟨_, congrArg Host.Outcome.next (if_neg hboot), ?_⟩
  dsimp only
  split_ifs <;> simp [State.drainCause, State.updHlt]

/-- Settles O58: the counts that a period leaves, and RISK, which fits its 8 bits. -/
theorem riskPeriods : Obligations.RiskPeriods := by
  unfold Obligations.RiskPeriods
  intro s hottest hboot
  obtain ⟨t, hrun, hevents, hleaky, hrisk⟩ := runs_riskPeriod hboot hottest
  refine ⟨t, hrun, hevents, fun i hi => ?_, fun _ => rfl, ?_⟩
  · rw [hleaky, State.get_leakyNext s hottest hi, leak]
  · rw [hrisk, hleaky, Hlt.riskOf_eq, BitVec.toNat_ofNat, Nat.mod_eq_of_lt (by omega)]

end Sys2Proof.Machine
end

section
/-! PROOF. Patrol tests that pass, drains, the entropy source and debug access (R322, R326, R338, R344). -/

namespace Sys2Proof.Machine

/-! ### Patrol tests that pass -/

section
variable {s : State} {c0 c1 e : Nat}

/-- A test of two engines that passes leaves what every test leaves (R338). -/
theorem runs_patrolTest_passes (hboot : s.dev.state ≠ .boot) (hfault : s.dev.state ≠ .fault) (hen : s.hlt.patrolEn = true)
    (hdiff : c0 ≠ c1) (hmay0 : s.mayPatrol c0 e = true) (hmay1 : s.mayPatrol c1 e = true)
    (howner : s.unitOwner (c1 / 32) = s.unitOwner (c0 / 32)) (c2 : Nat) (third : PatrolRun) :
    Runs (.patrolTest c0 c1 c2 e true true third) s (s.patrolled [c0, c1] c0 e) :=
  congrArg Host.Outcome.next (if_pos ⟨hboot, hfault, hen, by simp [hdiff], by simp [hmay0, hmay1, howner]⟩)

/-- The wiped engines and the count of a test of two engines, past its tokens (R338, R341). -/
def State.wipedPair (s : State) (c0 c1 e : Nat) : State :=
  ((s.wipeEngine c0 e).wipeEngine c1 e).updHlt (fun h => { h with
    testCount := h.testCount + 1, nextPattern := if h.patternTurn then (h.patternAfter + 1) % 16 else h.nextPattern })

theorem State.patrolled_unowned (h : s.unitOwner (c0 / 32) = none) : s.patrolled [c0, c1] c0 e = s.wipedPair c0 c1 e := by
  rw [State.patrolled, h]
  rfl

theorem State.patrolled_owned {q : Nat} (h : s.unitOwner (c0 / 32) = some q) :
    s.patrolled [c0, c1] c0 e = (s.takeTokens (40 + q) 4 2).wipedPair c0 c1 e := by
  rw [State.patrolled, h]
  rfl

end

/-! ### Drains -/

/-- A change of DEV_STATE changes nothing else of the device page (Table 18.12). -/
@[simp] theorem State.dev_setDevState (s : State) (d : DevState) : (s.setDevState d).dev = { s.dev with state := d } := by
  unfold State.setDevState
  split_ifs with h
  · rw [← h]
  · exact State.dev_msixPf0 _ 1

/-- The end of a drain leaves the device DRAINED and FAULT_N as it is (R344). -/
theorem State.dev_endDrain (s : State) (marks : Nat) :
    (s.endDrain marks).dev = { s.dev with readyPin := false, state := .drained } := by
  have hclosed := ((State.keeps_writeDue (calm := true) (keeps_foldl _ s.liveParts s (.refl s)
    fun _ p h => State.keeps_closeAll h p closeDrain)).still rfl).1
  have hburnt (t : State) (l : List Nat) (record : Nat → List Byte) :
      (l.foldl (fun t i => t.burnMark (record i)) t).dev = t.dev :=
    List.foldlRecOn (motive := fun u : State => u.dev = t.dev) l _ rfl fun _ h _ _ => h
  unfold State.endDrain
  rw [State.updHlt_dev, ((State.keeps_writeRecord (calm := true) (.refl _) drainEvent).still rfl).1, State.dev_setDevState,
    State.updDev_dev, hburnt, hclosed]

/-- A drain that goes on leaves FAULT_N; it goes on in its state or ends in DRAINED (R344). -/
theorem State.dev_continueDrain (s : State) :
    s.continueDrain.dev.faultN = s.dev.faultN ∧ (s.continueDrain.dev.state = s.dev.state ∨ s.continueDrain.dev.state = .drained) := by
  unfold State.continueDrain
  split
  · exact ⟨rfl, .inl rfl⟩
  · split_ifs
    · exact ⟨rfl, .inl rfl⟩
    · rw [State.dev_endDrain]
      exact ⟨rfl, .inr rfl⟩

/-- Aborting the work of partitions and starting their drain belays leaves the device page (R344). -/
theorem State.dev_startDrainBelays (t : State) (dirty : List (Nat × List Nat)) :
    (dirty.foldl (fun t (x : Nat × List Nat) => t.startDrainBelay x.1 x.2)
      (dirty.foldl (fun t (x : Nat × List Nat) => t.abortAll x.1 stDrained) t)).dev = t.dev :=
  ((keeps_foldl (calm := true) _ dirty _ (keeps_foldl _ dirty t (.refl t) fun _ x h => State.keeps_abortAll h x.1 stDrained)
    fun _ x h => State.keeps_startDrainBelay h x.1 x.2).still rfl).1

/-- A drain that starts asserts FAULT_N, and the device drains or has drained (R344). -/
theorem State.dev_startDrain (s : State) (marks : Nat) :
    (s.startDrain marks).dev.faultN = true
      ∧ ((s.startDrain marks).dev.state = .draining ∨ (s.startDrain marks).dev.state = .drained) := by
  unfold State.startDrain
  extract_lets dirty announced aborted belays
  have hdev : belays.dev = announced.dev := State.dev_startDrainBelays announced dirty
  obtain ⟨hfault, hstate⟩ := State.dev_continueDrain (belays.updHlt (fun h => { h with
    drain := some ⟨marks, belays.liveParts.filter (fun p => (belays.prt p).drainBelay.isSome)⟩ }))
  rw [State.updHlt_dev, hdev] at hfault hstate
  have hannounced : announced.dev.faultN = true ∧ announced.dev.state = .draining := by simp [announced]
  rw [hannounced.1] at hfault
  rw [hannounced.2] at hstate
  exact ⟨hfault, hstate⟩

/-- Settles O59: a test that passes wipes its pair, and a drain that starts asserts FAULT_N; the rest are the commands' branches. -/
theorem patrolDrainDebug : Obligations.PatrolDrainDebug := by
  unfold Obligations.PatrolDrainDebug
  intro s c0 c1 c2 e m p r o third
  refine ⟨fun hboot hfault hen hdiff hmay0 hmay1 howner => ?patrol, fun hdue hnone hready => ?cause, fun hdue hnone hready => ?self,
    fun hdrain hbelay => ?late, fun passes => rfl, fun hburnt => ?_, fun hburnt => ?_⟩
  case patrol =>
    have hrun := runs_patrolTest_passes hboot hfault hen hdiff hmay0 hmay1 howner c2 third
    exact ⟨fun h => hrun.trans (congrArg _ (State.patrolled_unowned h)), fun q h => hrun.trans (congrArg _ (State.patrolled_owned h))⟩
  case cause => simp [Runs, exec, execDrain, hdue, hnone, hready]
  case self =>
    refine ⟨by simp [Runs, exec, execDrain, hdue, hnone, State.continueDrain], ?_⟩
    refine ⟨_, ?_, State.dev_startDrain ((s.drainCause 0).updHlt (fun h => { h with drainDue := none })) 0⟩
    simp [Runs, exec, execDrain, hdue, hnone, hready, State.drainCause, State.updHlt]
  case late => simp [Runs, exec, execDrainBelayTimeout, hdrain, hbelay]
  · exact congrArg Host.Outcome.next (if_pos hburnt)
  · exact congrArg Host.Outcome.next (if_neg (by simp [hburnt]))

end Sys2Proof.Machine
end

section
/-! PROOF. Device resets, start-up without a reference, its loss, and layout changes (R319, R357, R378, R380, R389 to R391). -/

namespace Sys2Proof.Machine

/-! ### Device resets -/

/-- A device reset keeps the flash banks, of which none is being staged (R319, R378). -/
theorem State.banks_deviceReset {s : State} (h : s.sec.staging = none) :
    s.deviceReset.sec.bankA = s.sec.bankA ∧ s.deviceReset.sec.bankB = s.sec.bankB := by
  simp [State.deviceReset, h]

/-- A thermal trip leaves the device reset, tripped and with FAULT_N (R389). -/
theorem runs_thermalTrip (s : State) : Runs .thermalTrip s
    (((s.updDev (fun d => { d with trip := true })).deviceReset).updDev (fun d => { d with faultN := true })) := rfl

/-- A legal layout that touches no party is applied (R290). -/
theorem runs_layoutChange {s : State} {l : Layout} (hanswers : s.answers = true) (hlegal : s.layoutLegal l = true)
    (hparties : s.liveParts.all (fun p => !(s.prt p).holdsParty || !s.touches l p) = true) :
    Runs (.layoutChange l) s ((s.applyLayout l).msixPf0 3) :=
  runs_of_answers hanswers rfl (if_pos (by rw [hlegal, hparties, Bool.and_self]))

/-! ### FAULT with the outputs dark -/

/-- DEV_STATE FAULT, the outputs dark, FAULT_N asserted and READY low (R321, R380, R389). -/
def Dev.DarkFault (d : Dev) : Prop := d.state = .fault ∧ d.outputsOff = true ∧ d.faultN = true ∧ d.readyPin = false

theorem State.darkFault_faultDark (s : State) : s.faultDark.dev.DarkFault := by
  simp [State.faultDark, Dev.DarkFault]

/-- The loss of the reference leaves the device in FAULT and dark: ending its work touches no pin (R380). -/
theorem runs_refClockLoss {s : State} (hboot : s.dev.state ≠ .boot) (hrecovery : s.mgc.recovery = false) :
    ∃ t, Runs .refClockLoss s t ∧ t.dev.DarkFault := by
  refine ⟨_, congrArg Host.Outcome.next (if_neg (by simp [hboot, hrecovery])), ?_⟩
  extract_lets aborted lost
  have haborted : Keeps true s.faultDark aborted :=
    keeps_foldl _ _ _ (.refl _) fun _ p h => State.keeps_abortAll h p stReset
  have hlost : Keeps true s.faultDark lost := keeps_foldl _ _ _ haborted fun t i h => by
    split_ifs
    · exact h
    · exact State.keeps_enterLost h i
  have hdark := State.keeps_askAll (State.keeps_dropHostLink (State.keeps_dropHostLink hlost false .down) true .down)
  rw [(hdark.still rfl).1]
  exact State.darkFault_faultDark s

/-- A start-up without the reference ends in FAULT and dark, in recovery or in its third step (R321, R380, R390). -/
theorem State.darkFault_startUp (s : State) {f : StartFacts} (h : f.refPresent = false) : (s.startUp f).dev.DarkFault := by
  unfold State.startUp
  extract_lets pins
  have habsent : (!f.refPresent) = true := by simp [h]
  by_cases hsel : f.bootSel = 1#2
  · rw [if_pos hsel]
    exact State.darkFault_faultDark _
  · rw [if_neg hsel]
    split
    · exact State.darkFault_faultDark _
    · rw [if_pos habsent]
      exact State.darkFault_faultDark _

/-- A device in BOOT that no trip holds starts up (R389, R390). -/
theorem runs_startUp {s : State} (hboot : s.dev.state = .boot) (htrip : s.dev.trip = false) (f : StartFacts) :
    Runs (.startUp f) s (s.startUp f) :=
  congrArg Host.Outcome.next (if_pos ⟨hboot, by simp [htrip]⟩)

theorem runs_startUp_tripped {s : State} (htrip : s.dev.trip = true) (f : StartFacts) : Runs (.startUp f) s s :=
  congrArg Host.Outcome.next (if_neg (by simp [htrip]))

/-- Settles O49: each reset by its own command, and every way into FAULT through the same dark state. -/
theorem deviceResets : Obligations.DeviceResets := by
  unfold Obligations.DeviceResets
  refine ⟨fun s l f => ⟨fun h => congrArg Host.Outcome.next (if_pos h), rfl, rfl, rfl, ?trip, ?reset,
    fun hboot htrip => runs_startUp hboot htrip f, fun htrip => runs_startUp_tripped htrip f, runs_layoutChange⟩,
    fun s f => ⟨runs_refClockLoss, fun hboot htrip href =>
      ⟨_, runs_startUp hboot htrip f, State.darkFault_startUp s href⟩⟩⟩
  case trip => exact ⟨_, runs_thermalTrip s, rfl, rfl, rfl, rfl, rfl, rfl, rfl⟩
  case reset => exact ⟨rfl, rfl, rfl, rfl, rfl, rfl, rfl, rfl, rfl, rfl, State.banks_deviceReset⟩

end Sys2Proof.Machine
end

section
/-! PROOF. An operation starts, takes tokens and ends; fences and releases of versions (R23, R119, R122, R133, R147, R285). -/

namespace Sys2Proof.Machine

section
variable {s : State} {p seq h tile : Nat} {o : OpRec} (hop : (s.prt p).op seq = some o)
include hop

/-- An operation that may start is STARTED in its journal entry, and its host lines are asked for (R285). -/
theorem State.startOp_of_startable (hstart : s.startable p o = true) (htake : s.blocksTake p = true) :
    s.startOp p seq = ((((s.stamp p).2.updJnl p seq (fun e =>
      putBytes (putBytes e 10 [2#8]) 40 (leBytes 8 (s.stamp p).1))).updOp p seq
        (fun o => { o with phase := .started })).askOp p seq) := by
  simp [State.startOp, hop, hstart, htake]

/-! ### Slot tokens -/

section
variable (hphase : o.phase = .started) (hdone : o.done = false) (hasks : o.asks h tile = true)
  (hnew : (h, tile) ∉ o.granted)
include hphase hdone hasks hnew

/-- A token that is free is granted (R133). -/
theorem State.grantToken_of_free (hfree : (s.prt p).tokenFree o h tile = true) :
    s.grantToken p seq h tile = s.updOp p seq (fun o => { o with granted := o.granted ++ [(h, tile)] }) := by
  simp [State.grantToken, hop, hphase, hdone, hasks, hnew, hfree]

/-- A request that begins to wait is counted at the home of what its token guards (R133). -/
theorem State.grantToken_of_first_wait (hheld : (s.prt p).tokenFree o h tile = false) (hmark : (h, waitedMark tile) ∉ o.granted) :
    s.grantToken p seq h tile =
      (let t := s.updOp p seq (fun o => { o with granted := o.granted ++ [(h, waitedMark tile)] })
       { t with grantWaits := Sparse.modify 0#32 t.grantWaits (s.tokenHome p o h tile) (fun c => satAdd c 1) }) := by
  simp [State.grantToken, hop, hphase, hdone, hasks, hnew, hheld, hmark]

/-- A request that waits already is not counted again. -/
theorem State.grantToken_of_waiting (hheld : (s.prt p).tokenFree o h tile = false) (hmark : (h, waitedMark tile) ∈ o.granted) :
    s.grantToken p seq h tile = s := by
  simp [State.grantToken, hop, hphase, hdone, hasks, hnew, hheld, hmark]

end

/-! ### Completion -/

/-- An operation whose cores work on stays. -/
theorem State.completeOp_of_not_done (hdone : o.done = false) : s.completeOp p seq = s := by
  simp [State.completeOp, hop, hdone]

/-- An operation whose cores have all sent their tokens ends with its status (R23). -/
theorem State.completeOp_of_done (hdone : o.done = true) (hcode : dOp o.desc ≠ 0x21) :
    s.completeOp p seq = (s.endOp p o o.status).askAll := by
  simp [State.completeOp, hop, hdone, hcode]

/-- A STEP_COMMIT ends behind its format choices (R142). -/
theorem State.completeOp_of_commit {u : State} (hdone : o.done = true) (hcode : dOp o.desc = 0x21)
    (hcommit : s.endCommit p o = some u) : s.completeOp p seq = (u.endOp p o o.status).askAll := by
  simp [State.completeOp, hop, hdone, hcode, hcommit]

/-! ### Releases of versions -/

/-- A release behind the last earlier reader of its version has done its work (R147). -/
theorem runs_versionRelease_unread (hcode : dOp o.desc = 0x41) (hphase : o.phase = .started)
    (hread : ((s.prt p).before o).any (fun a => a.names (dA o.desc)
      && !idleHandle a.desc (dA o.desc) && a.readsTag (dA o.desc) (dTag o.desc)) = false) :
    Runs (.versionRelease p seq) s (s.finishOp p seq stOK 0#16) := by
  simp only [Runs, exec, execVersionRelease, hop, hcode, hphase, hread, Bool.not_false, and_self, if_true]

/-- A release waits for an earlier reader of its version (R147). -/
theorem runs_versionRelease_read (hread : ((s.prt p).before o).any (fun a => a.names (dA o.desc)
      && !idleHandle a.desc (dA o.desc) && a.readsTag (dA o.desc) (dTag o.desc)) = true) :
    Runs (.versionRelease p seq) s s := by
  simp only [Runs, exec, execVersionRelease, hop, hread, Bool.not_true, Bool.false_eq_true, and_false, if_false]

end

/-! ### Fences -/

section
variable {s : State} {p seq sub : Nat} {o : OpRec} (hready : Ready s p seq 0x60 sub o)
include hready

/-- A fence with no earlier operation in its scope has done its work (R122). -/
theorem State.runFence_of_alone (halone : ((s.prt p).before o).any (fun a => inFence o a) = false) :
    s.runFence p seq sub = s.finishOp p seq stOK 0#16 := by
  refine (State.runOp_of_ready hready (decide_eq_true rfl) _).trans (if_neg (by simp [halone]))

/-- A fence waits for the earlier operations in its scope (R122). -/
theorem State.runFence_of_earlier (hearlier : ((s.prt p).before o).any (fun a => inFence o a) = true) :
    s.runFence p seq sub = s := by
  refine (State.runOp_of_ready hready (decide_eq_true rfl) _).trans (if_pos hearlier)

end

/-- In the scope of a fence of the partition lies every operation (R122). -/
theorem any_inFence_of_partition {o : OpRec} (hsub : dSub o.desc = 1) (l : List OpRec) :
    l.any (fun a => inFence o a) = !l.isEmpty := by
  cases l <;> simp [inFence, hsub]

/-- Settles O20: each command takes one branch of its arm, by what its operation has come to. -/
theorem operationLifecycle : Obligations.OperationLifecycle := by
  unfold Obligations.OperationLifecycle
  refine ⟨fun s p seq h tile o hop => ⟨?start, ?token, ?ends, ?commit, ?works⟩,
    fun s p seq o => ⟨?queue, ?alone, ?earlier, ?release⟩⟩
  case start => exact fun hstart htake => congrArg Host.Outcome.next (State.startOp_of_startable hop hstart htake)
  case token =>
    intro hphase hdone hasks hnew
    exact ⟨fun hfree => congrArg Host.Outcome.next (State.grantToken_of_free hop hphase hdone hasks hnew hfree),
      fun hheld hmark => congrArg Host.Outcome.next (State.grantToken_of_first_wait hop hphase hdone hasks hnew hheld hmark),
      fun hheld hmark => congrArg Host.Outcome.next (State.grantToken_of_waiting hop hphase hdone hasks hnew hheld hmark)⟩
  case ends => exact fun hdone hcode => congrArg Host.Outcome.next (State.completeOp_of_done hop hdone hcode)
  case commit => exact fun hdone hcode u hu => congrArg Host.Outcome.next (State.completeOp_of_commit hop hdone hcode hu)
  case works => exact fun hdone => congrArg Host.Outcome.next (State.completeOp_of_not_done hop hdone)
  case queue => exact fun hready halone => congrArg Host.Outcome.next (State.runFence_of_alone hready halone)
  case alone =>
    intro hready hnone
    refine congrArg Host.Outcome.next (State.runFence_of_alone hready ?_)
    rw [hnone, List.any_nil]
  case earlier =>
    intro hready hsome
    refine congrArg Host.Outcome.next (State.runFence_of_earlier hready ?_)
    obtain ⟨-, -, hsub, -⟩ := hready
    rw [any_inFence_of_partition hsub, Bool.not_eq_true', List.isEmpty_eq_false_iff]
    exact hsome
  case release =>
    exact fun hop hcode hphase => ⟨runs_versionRelease_unread hop hcode hphase, runs_versionRelease_read hop⟩

end Sys2Proof.Machine
end

section
/-! PROOF. The completion slot that the end of an operation writes (R23, R278, R280). -/

namespace Sys2Proof.Machine

/-- A partition whose operation has ended with a status: it leaves the list, and its step commit and its collective keep
the status (R23). -/
def Prt.endOf (v : Prt) (o : OpRec) (st : BitVec 8) : Prt :=
  { v with ops := v.ops.filter (fun x => x.seq ≠ o.seq)
           commits := v.commits.map (fun c => if c.1 = o.seq then (c.1, c.2.1, some st) else c)
           collEnds := if dField o.desc 0 1 = 0x20 then v.collEnds ++ [(o.seq, dField o.desc 104 8, st)] else v.collEnds }

section
variable {s : State} (hblk : Blocks.wf s = true) (p : Nat)
include hblk

/-- A stamp moves the tick of its partition, and nothing else of it. -/
theorem State.prt_stamp : (s.stamp p).2.prt p = { s.prt p with jnlTick := (s.stamp p).1 } :=
  State.prt_updPrt s hblk p (fun v => { v with jnlTick := (s.stamp p).1 })

/-- A journal write leaves the slots and the operations of its partition. -/
theorem State.slots_ops_updJnl (q : Nat) (f : List Byte → List Byte) :
    ((s.updJnl p q f).prt p).slots = (s.prt p).slots ∧ ((s.updJnl p q f).prt p).ops = (s.prt p).ops := by
  rw [State.updJnl, State.prt_updPrt s hblk]
  split <;> exact ⟨rfl, rfl⟩

theorem State.prt_writeSlot (i : Nat) (status : BitVec 8) (flags : BitVec 16) (jseq : Nat) (user : BitVec 64) :
    (s.writeSlot p i status flags jseq user).prt p = { s.prt p with
      slots := Sparse.modify CSlot.zero (s.prt p).slots i (fun c => ⟨c.gen + 1, status, .done, flags, jseq, user⟩) } :=
  State.prt_updPrt s hblk p _

/-- The end of an operation that has a slot writes that slot and takes the operation out of its partition (R23, R278). -/
theorem State.slots_ops_endOp {o : OpRec} (hslot : o.internal = false) (st : BitVec 8) :
    ((s.endOp p o st).prt p).slots = Sparse.modify CSlot.zero (s.prt p).slots (dField o.desc 6 2)
        (fun c => ⟨c.gen + 1, st, .done, o.flags, o.seq, dUser o.desc⟩)
      ∧ ((s.endOp p o st).prt p).ops = (s.prt p).ops.filter (fun x => x.seq ≠ o.seq) := by
  have h1 := State.prt_writeSlot hblk p (dField o.desc 6 2) st o.flags o.seq (dUser o.desc)
  have hk1 := (State.keeps_writeSlot (calm := true) (.refl s) p (dField o.desc 6 2) st o.flags o.seq (dUser o.desc)).blocks hblk
  simp only [State.endOp, hslot, Bool.false_eq_true, if_false]
  generalize s.writeSlot p _ _ _ _ _ = s1 at h1 hk1
  have h2 := State.prt_stamp hk1 p
  have hk2 := (State.keeps_stamp (calm := true) (.refl s1) p).blocks hk1
  generalize s1.stamp p = r at h2 hk2
  generalize hf : (fun e : List Byte => putBytes _ 48 _) = f
  obtain ⟨hslots, hops⟩ := State.slots_ops_updJnl hk2 p o.seq f
  have hk3 := (State.keeps_updJnl (calm := true) (.refl r.2) p o.seq f).blocks hk2
  generalize r.2.updJnl p o.seq f = s2 at hslots hops hk3
  have hend : ∀ u : State, u.prts = (s2.updPrt p (fun v => v.endOf o st)).prts →
      (u.prt p).slots = (s1.prt p).slots ∧ (u.prt p).ops = (s1.prt p).ops.filter (fun x => x.seq ≠ o.seq) := by
    intro u hu
    rw [State.prt_of_prts hu, State.prt_updPrt s2 hk3, Prt.endOf, hslots, hops, h2]
    exact ⟨rfl, rfl⟩
  rw [h1] at hend
  split
  · exact hend _ ((State.prts_msixVf _ p o.queue).trans (State.prts_progress _ (pagePrt p) 1))
  · exact hend _ (State.prts_progress _ (pagePrt p) 1)

end

/-- Settles O21: the slot is written once, and nothing else of the end of the operation writes slots. -/
theorem completionSlot : Obligations.CompletionSlot := by
  unfold Obligations.CompletionSlot
  intro s p o st hslot hblk
  obtain ⟨hslots, hops⟩ := State.slots_ops_endOp hblk p hslot st
  refine ⟨?_, fun k hk => ?_, fun x hx => ?_⟩
  · rw [Prt.slot, hslots]
    exact Sparse.get_set_same_of_ne (fun h => SlotState.noConfusion (congrArg CSlot.state h)) _ _
  · rw [Prt.slot, hslots, Sparse.get_modify_ne _ _ _ _ _ hk]
    rfl
  · rw [hops] at hx
    simpa using (List.mem_filter.1 hx).2

end Sys2Proof.Machine
end

section
/-! PROOF. Loads fill shadow banks, and SWAP exchanges the banks (R52, R53, R63). -/

namespace Sys2Proof.Machine

/-- A load for a team of one engine goes into its shadow bank, and the array takes the shape of the operation (R56, R63). -/
theorem runs_stationaryLoad_one {s t : State} {p seq core e block group load : Nat} {w : Work2}
    (hw : s.workOf p seq = some (w, t)) (hmay : t.mayLoad p w core e group block load = true) :
    Runs (.stationaryLoad p seq core [e] block group load) s ((t.takeShape p w.x).updEng core e (fun v =>
      v.takeLoad (loadBank w.x w.g w.vs (core - w.lo) (group / w.x.groups) block load)
        ⟨p, seq, block, group, load, load, w.x.idx, 0⟩
        (decide ((w.o.loadsOf w.x w.g w.vs group (w.x.spanOf load)).head? = some load)))) := by
  simp [Runs, exec, execStationaryLoad, State.loadTeam, hw, hmay]

/-- SWAP exchanges the banks of an engine whose shadow bank holds the next load of its pitch, before the first row or behind
the last (R53). -/
theorem runs_swap {s t : State} {core e : Nat} {w : Work2} {j : Job} {A : Int} (hj : s.jobWork core e = some (j, w, t))
    (hfull : (s.eng core e).shadowFull = true) (hnext : (s.eng core e).next = none)
    (hturn : (s.eng core e).state = 2#4 ∧ s.arrayFree j.part j.seq = true ∨ (s.eng core e).state = 3#4 ∧ j.added = w.expected j)
    (hA : w.o.anchor = some A) :
    Runs (.swap core e) s ((t.updEng core e (fun v =>
      { v with state := 3#4, bankSel := !v.bankSel, shadowFull := false, fed := [], anchor := some A,
               foot := if v.footOpen then v.foot else [], footOpen := true,
               job := some { j with k0 := j.nextK0, added := 0 } })).progress (pageEng core e) 1) := by
  have hgo : ¬ (!(s.eng core e).shadowFull ∨ (s.eng core e).next.isSome
      ∨ !((s.eng core e).state = 2#4 ∧ s.arrayFree j.part j.seq ∨ (s.eng core e).state = 3#4 ∧ j.added = w.expected j)) := by
    rw [hfull, hnext, decide_eq_true hturn]
    decide
  simp only [Runs, exec, execSwap, State.swapBanks, hj, if_neg hgo, hA]

/-- Settles O23: a load by what the engine works on (`Eng.takeLoad`), and SWAP. -/
theorem loadsAndSwaps : Obligations.LoadsAndSwaps := by
  unfold Obligations.LoadsAndSwaps
  intro s t p seq core e block group load w j A
  refine ⟨fun hw hmay => ?_, runs_swap⟩
  refine (congrArg (fun f => Runs _ s ((t.takeShape p w.x).updEng core e f)) (funext fun v => ?_)).mp
    (runs_stationaryLoad_one hw hmay)
  cases hj : v.job with
  | none => simp only [Eng.takeLoad, hj]
  | some k => simp only [Eng.takeLoad, hj, decide_eq_true_eq]

end Sys2Proof.Machine
end

section
/-! PROOF. The record of an operation, read after updates of its partition (R22, R23). -/

namespace Sys2Proof.Machine

/-! ### Records after an update -/

/-- A partition with an operation is not a partition at reset. -/
theorem Prt.ne_reset_of_ops {v : Prt} (h : v.ops ≠ []) : v ≠ Prt.reset := fun e => h (congrArg Prt.ops e)

theorem Prt.ops_ne_nil_of_op {v : Prt} {seq : Nat} {o : OpRec} (h : v.op seq = some o) : v.ops ≠ [] := by
  intro e
  simp [Prt.op, e] at h

/-- A partition that keeps an operation reads as it was written, whatever the form of the table. -/
theorem State.prt_updPrt_of_ops {s : State} {p : Nat} {f : Prt → Prt} (h : (f (s.prt p)).ops ≠ []) :
    (s.updPrt p f).prt p = f (s.prt p) :=
  Sparse.get_set_same_of_ne (Prt.ne_reset_of_ops h) _ _

/-- The record of an operation after the record `k` has been changed. -/
theorem find?_map_record {l : List OpRec} {f : OpRec → OpRec} (hf : ∀ x, (f x).seq = x.seq) (k seq : Nat) :
    (l.map (fun x => if x.seq = k then f x else x)).find? (fun x => x.seq = seq)
      = (l.find? (fun x => x.seq = seq)).map (fun x => if x.seq = k then f x else x) := by
  rw [List.find?_map]
  congr 2
  funext x
  by_cases hx : x.seq = k <;> simp [hx, hf]

theorem State.op_updOp {s : State} {p seq : Nat} {o : OpRec} (ho : (s.prt p).op seq = some o) {f : OpRec → OpRec}
    (hf : ∀ x, (f x).seq = x.seq) (k : Nat) :
    ((s.updOp p k f).prt p).op seq = some (if o.seq = k then f o else o) := by
  have hops := Prt.ops_ne_nil_of_op ho
  rw [State.updOp, State.prt_updPrt_of_ops (by simpa using hops), Prt.op, find?_map_record hf,
    show List.find? _ (s.prt p).ops = some o from ho, Option.map_some]

/-- The record of an operation after its own change. -/
theorem State.op_updOp_same {s : State} {p seq : Nat} {o : OpRec} (ho : (s.prt p).op seq = some o) {f : OpRec → OpRec}
    (hf : ∀ x, (f x).seq = x.seq) : ((s.updOp p seq f).prt p).op seq = some (f o) := by
  rw [State.op_updOp ho hf, if_pos (Prt.seq_of_op ho)]

/-! ### An operation at work -/

/-- A record but for what work notes in it besides its own results: host lines that came back, and the flags of roots (R179). -/
def OpRec.work (o : OpRec) : OpRec := { o with inbuf := [], rootFlags := 0#16 }

/-- Operation `o` of partition `p` stands under its sequence number, as far as work goes. -/
def HoldsOp (p seq : Nat) (o : OpRec) (s : State) : Prop := ∃ r, (s.prt p).op seq = some r ∧ r.work = o.work

theorem HoldsOp.of_op {s : State} {p seq : Nat} {o : OpRec} (h : (s.prt p).op seq = some o) : HoldsOp p seq o s := ⟨o, h, rfl⟩

theorem OpRec.desc_of_work {r o : OpRec} (h : r.work = o.work) : r.desc = o.desc := show r.work.desc = o.work.desc from h ▸ rfl

theorem OpRec.seq_of_work {r o : OpRec} (h : r.work = o.work) : r.seq = o.seq := show r.work.seq = o.work.seq from h ▸ rfl

/-- A fold over states with a second component keeps the operation when each of its steps does. -/
theorem HoldsOp.foldl_by {p seq : Nat} {o : OpRec} {α β : Type} (g : β → State) {f : β → α → β} {l : List α} {t : β}
    (h : HoldsOp p seq o (g t)) (hf : ∀ t x, HoldsOp p seq o (g t) → HoldsOp p seq o (g (f t x))) : HoldsOp p seq o (g (l.foldl f t)) :=
  List.foldlRecOn (motive := fun t => HoldsOp p seq o (g t)) l _ h fun t ht x _ => hf t x ht

section
variable {p seq : Nat} {o : OpRec} {s : State} (h : HoldsOp p seq o s)
include h

theorem HoldsOp.of_prts {t : State} (e : t.prts = s.prts) : HoldsOp p seq o t := by
  rw [HoldsOp, State.prt_of_prts e]
  exact h

theorem HoldsOp.foldl {α : Type} {f : State → α → State} {l : List α} (hf : ∀ t x, HoldsOp p seq o t → HoldsOp p seq o (f t x)) :
    HoldsOp p seq o (l.foldl f s) := HoldsOp.foldl_by id h hf

/-- An update of any partition that leaves its operations. -/
theorem HoldsOp.updPrt {q : Nat} {f : Prt → Prt} (hf : ∀ v, (f v).ops = v.ops) : HoldsOp p seq o (s.updPrt q f) := by
  obtain ⟨r, hr, hwork⟩ := h
  refine ⟨r, ?_, hwork⟩
  by_cases hq : p = q
  · subst hq
    rw [State.prt_updPrt_of_ops (by rw [hf]; exact Prt.ops_ne_nil_of_op hr), Prt.op, hf]
    exact hr
  · rw [State.prt_updPrt_ne s q p f hq]
    exact hr

/-- An update of a record that leaves the work of its operation. -/
theorem HoldsOp.updOp {q k : Nat} {f : OpRec → OpRec} (hf : ∀ x, (f x).work = x.work) : HoldsOp p seq o (s.updOp q k f) := by
  obtain ⟨r, hr, hwork⟩ := h
  by_cases hq : p = q
  · subst hq
    refine ⟨_, State.op_updOp hr (fun x => OpRec.seq_of_work (hf x)) k, ?_⟩
    split
    · exact (hf r).trans hwork
    · exact hwork
  · exact ⟨r, by rw [State.updOp, State.prt_updPrt_ne s q p _ hq, hr], hwork⟩

/-- The operation's own record after a change of it. -/
theorem HoldsOp.op_updOp {f : OpRec → OpRec} (hf : ∀ x, (f x).seq = x.seq) :
    ∃ r, r.work = o.work ∧ ((s.updOp p seq f).prt p).op seq = some (f r) := by
  obtain ⟨r, hr, hwork⟩ := h
  exact ⟨r, hwork, State.op_updOp_same hr hf⟩

/-- A finished operation has its status and stands under its number with its descriptor (R23). -/
theorem HoldsOp.finishOp (status : BitVec 8) (flags : FlagWord) :
    OperationIs (s.finishOp p seq status flags) p seq o (fun r => r.done = true ∧ r.status = status) := by
  obtain ⟨r, hwork, hr⟩ := h.op_updOp (f := fun o => { o with done := true, status := status, flags := flags }) fun _ => rfl
  have hdesc := OpRec.desc_of_work hwork
  exact ⟨_, hr, hdesc, rfl, rfl⟩

end

end Sys2Proof.Machine
end

section
/-! PROOF. Loads read: they leave the partitions and the engines as they are (R22, R191). -/

namespace Sys2Proof.Machine

/-- From `s` to `t` the partitions and the engines are the same. -/
structure Reads (s t : State) : Prop where
  prts : t.prts = s.prts
  engs : t.engs = s.engs

theorem Reads.refl (s : State) : Reads s s := ⟨rfl, rfl⟩

theorem Reads.trans {s t u : State} (a : Reads s t) (b : Reads t u) : Reads s u := ⟨b.prts.trans a.prts, b.engs.trans a.engs⟩

/-- A fold reads when each of its steps does. -/
theorem Reads.foldl_by {α β : Type} (g : β → State) {f : β → α → β} {l : List α} {t : β} (hf : ∀ t x, Reads (g t) (g (f t x))) :
    Reads (g t) (g (l.foldl f t)) :=
  List.foldlRecOn (motive := fun u => Reads (g t) (g u)) l _ (.refl _) fun _ hu x _ => hu.trans (hf _ x)

theorem Reads.prt {s t : State} (h : Reads s t) (p : Nat) : t.prt p = s.prt p := State.prt_of_prts h.prts p

theorem Reads.eng {s t : State} (h : Reads s t) (c e : Nat) : t.eng c e = s.eng c e := by rw [State.eng, State.eng, h.engs]

theorem HoldsOp.reads {p seq : Nat} {o : OpRec} {s t : State} (h : HoldsOp p seq o s) (r : Reads s t) : HoldsOp p seq o t :=
  h.of_prts r.prts

variable (s : State) (p core : Nat) (o : OpRec) (h : Nat)

/-! ### Lines and runs -/

theorem State.reads_chargeLine (u act : Nat) : Reads s (s.chargeLine p u act) := by
  obtain ⟨_, ha⟩ := s.exists_takeTokens_eq (26 + u) p 1
  obtain ⟨_, hb⟩ := State.exists_takeTokens_eq (s.takeTokens (26 + u) p 1) (40 + p) act 1
  refine ⟨s.prts_chargeLine p u act, ?_⟩
  rw [State.chargeLine, hb, ha]
  rfl

theorem State.reads_getLine (u n k : Nat) : Reads s (s.getLine u n k).2 := by
  refine ⟨s.prts_getLine u n k, ?_⟩
  unfold State.getLine
  dsimp only
  split
  · split <;> rfl
  · rfl

theorem State.reads_loadLines (k act n L : Nat) : Reads s (s.loadLines p k act n L).2 := by
  induction n generalizing s L with
  | zero => exact .refl s
  | succ n ih => exact ((s.reads_chargeLine p _ act).trans (State.reads_getLine _ _ _ k)).trans (ih _ _)

theorem State.reads_loadBasin (r : Place) (off n : Nat) : Reads s (s.loadBasin p r off n).2 := by
  unfold State.loadBasin
  split
  · exact .refl s
  · exact s.reads_loadLines ..

theorem State.reads_loadRun (ib : Sparse (List Byte)) (r : Place) (off n : Nat) : Reads s (s.loadRun p core ib r off n).2 := by
  unfold State.loadRun
  split
  · exact .refl s
  · exact s.reads_loadBasin p r off n
  · exact .refl s
  · exact .refl s

/-! ### Tensors -/

theorem State.reads_loadRaw (off n : Nat) : Reads s (s.loadRaw p o h off n).2 := s.reads_loadRun ..

theorem State.reads_loadTensor : Reads s (s.loadTensor p core o h).2 := (s.reads_loadRun ..).trans (State.reads_loadRun ..)

theorem State.reads_loadTensorBy : Reads s (s.loadTensorBy p o h).2 := s.reads_loadTensor p 0 o h

theorem State.reads_loadRecord (t : Nat) : Reads s (s.loadRecord p core o h t).2 := by
  unfold State.loadRecord
  dsimp only
  split
  · exact .refl s
  · exact s.reads_loadRun ..

theorem State.reads_loadTile (t : Nat) : Reads s (s.loadTile p core o h t).2 :=
  (s.reads_loadRecord p core o h t).trans (State.reads_loadRun ..)

theorem State.reads_loadSrcs (hs : List Nat) : Reads s (s.loadSrcs p o hs).2 :=
  Reads.foldl_by (fun t : List Src × State => t.2) (t := ([], s)) fun t h => t.2.reads_loadTensorBy p o h

theorem State.reads_loadTiles : Reads s (s.loadTiles p o h).2 :=
  Reads.foldl_by (fun t : List WTile × State => t.2) (t := ([], s)) fun t _ => t.2.reads_loadTile ..

theorem State.reads_foldSources (t : Nat) : Reads s (s.foldSources p o t).2 := by
  unfold State.foldSources
  split
  · exact .refl s
  · exact (s.reads_loadTile ..).trans (Reads.foldl_by (fun x : WTile × State => x.2) fun x _ => x.2.reads_loadTile ..)

/-! ### Array operations -/

theorem State.reads_gemm : Reads s (s.gemm p o).2 := (s.reads_loadTensorBy p o _).trans (State.reads_loadTensorBy ..)

theorem State.reads_passOf (g : Gemm) (v : Nat) : Reads s (s.passOf p o g v).2 := by
  unfold State.passOf
  dsimp only
  split
  · exact (s.reads_loadRaw ..).trans (State.reads_loadTensorBy ..)
  · exact s.reads_loadRaw ..

theorem State.reads_addVariant (g : Gemm) (vs : Variants) (v : Nat) : Reads s (s.addVariant p o g vs v).2 := by
  have hraw := s.reads_loadRaw p o 1 (16 * v) 16
  unfold State.addVariant
  dsimp only
  split
  · exact hraw
  · exact hraw
  · refine hraw.trans (Reads.trans ?_ (State.reads_loadTensorBy ..))
    split
    · exact .refl _
    · exact State.reads_loadTensorBy ..

theorem State.reads_variants (g : Gemm) : Reads s (s.variants p o g).2 := by
  unfold State.variants
  dsimp only
  split
  · exact .refl s
  split
  · exact .refl s
  · refine Reads.foldl_by (fun t : Option Variants × State => t.2) (t := (some _, s)) fun t v => ?_
    split
    · exact .refl _
    · exact t.2.reads_addVariant ..

theorem State.reads_anchorOf (g : Gemm) (vs : Variants) : Reads s (s.anchorOf p o g vs).2 := by
  unfold State.anchorOf
  split
  · exact .refl s
  · exact .refl s
  · exact .refl s
  · exact s.reads_loadRaw ..

variable {s p core o h}

/-- What a MATMUL is, once its passes are done: the record of the operation, and loads (R106). -/
theorem State.op_of_workOf {seq : Nat} {w : Work2} {u : State} (e : s.workOf p seq = some (w, u)) :
    (s.prt p).op seq = some w.o ∧ Reads s u := by
  unfold State.workOf at e
  split at e
  · exact nomatch e
  · next o ho =>
    split at e
    · obtain ⟨vs, -, e⟩ := Option.map_eq_some_iff.1 e
      cases e
      exact ⟨ho, (s.reads_gemm p o).trans (State.reads_variants ..)⟩
    · exact nomatch e

theorem State.op_of_jobWork {core e : Nat} {j : Job} {w : Work2} {u : State} (he : s.jobWork core e = some (j, w, u)) :
    (s.prt j.part).op j.seq = some w.o ∧ Reads s u := by
  unfold State.jobWork at he
  split at he
  · exact nomatch he
  · obtain ⟨⟨w', u'⟩, hw, he⟩ := Option.map_eq_some_iff.1 he
    cases he
    exact State.op_of_workOf hw

/-! ### MOVEs, UPDATEs and belays -/

variable (s p o h)

theorem State.reads_loadFor (r dst : Place) (n : Nat) : Reads s (s.loadFor p o r dst n).2 := by
  unfold State.loadFor
  split
  · exact .refl s
  · exact s.reads_loadRun ..

theorem State.reads_loadSide (ver : Nat) (dst : Place) : Reads s (s.loadSide p o h ver dst).2 := by
  unfold State.loadSide
  dsimp only
  split
  · exact .refl s
  · exact s.reads_loadFor ..

theorem State.reads_readBoth (ver : Nat) (dd ds : Place) : Reads s (s.readBoth p o h ver dd ds).st :=
  (s.reads_loadFor ..).trans (State.reads_loadSide ..)

theorem State.reads_tensorBytes (ver : Nat) : Reads s (s.tensorBytes p o h ver).st := s.reads_readBoth ..

theorem State.reads_loadPart (q0 n : Nat) : Reads s (s.loadPart p o h q0 n).2 := by
  unfold State.loadPart
  dsimp only
  split
  · exact Reads.foldl_by (fun t : Sparse WTile × State => t.2) (t := ([], s)) fun t k => t.2.reads_loadTile ..
  · exact (s.reads_loadRun ..).trans (State.reads_loadRun ..)

theorem State.reads_loadState (q0 n : Nat) : Reads s (s.loadState p o q0 n).2 := by
  unfold State.loadState
  split
  · exact .refl s
  · exact s.reads_loadPart ..

theorem State.reads_lossRecord : Reads s (s.lossRecord p o).2 := by
  unfold State.lossRecord
  split
  · exact s.reads_loadRaw ..
  · exact .refl s

theorem State.reads_checkHandle : Reads s (s.checkHandle p h).2 := by
  have hentry : Reads s (s.readEntry p h).2 := by
    unfold State.readEntry
    dsimp only
    split
    · exact .refl s
    · exact s.reads_loadRun ..
  unfold State.checkHandle
  dsimp only
  split
  · exact hentry
  · split <;> exact hentry

theorem State.reads_checkHandles (hs : List Nat) : Reads s (s.checkHandles p hs).2 := by
  induction hs generalizing s with
  | nil => exact .refl s
  | cons h hs ih =>
    have hfirst := s.reads_checkHandle p h
    unfold State.checkHandles
    dsimp only
    split
    · exact hfirst
    · exact hfirst.trans (ih _)

theorem State.reads_passing (hs : List Nat) : Reads s (s.passing p hs).2 := by
  induction hs generalizing s with
  | nil => exact .refl s
  | cons h hs ih => exact (s.reads_checkHandle p h).trans (ih _)

theorem State.reads_belayTensors : Reads s (s.belayTensors p).2 := (s.reads_passing ..).trans (State.reads_passing ..)

theorem State.reads_verifyImage (i : Image) (step : Nat) : Reads s (s.verifyImage p i step).2 := by
  unfold State.verifyImage
  dsimp only
  split_ifs
  · exact .refl s
  · exact .refl s
  · exact .refl s
  · have hcheck (hs : List Nat) := s.reads_checkHandles p hs
    split
    · exact hcheck _
    · split_ifs <;> exact hcheck _

theorem copyFormat_reads (t : List Byte × Bool × State) (i : Nat) : Reads t.2.2 (copyFormat p t i).2.2 := by
  unfold copyFormat
  split
  · exact State.reads_loadRun ..
  · exact .refl _

section
variable (b : Body)

theorem Body.reads_tensor : Reads b.st (b.tensor p o h).st :=
  Reads.foldl_by (fun t : List Byte × List Bool × Bool × State => t.2.2.2) (t := ([], [], false, b.st)) fun t _ =>
    (t.2.2.2.reads_loadRun ..).trans (State.reads_loadRun ..)

theorem Body.reads_frozen : Reads b.st (b.frozen p o h).st := b.st.reads_tensorBytes p o h 0

theorem Body.reads_cursor : Reads b.st (b.cursor p o).st := by
  unfold Body.cursor
  split
  · exact b.st.reads_loadRaw ..
  · exact .refl _

theorem Body.reads_formats : Reads b.st (b.formats p).st :=
  Reads.foldl_by (fun t : List Byte × Bool × State => t.2.2) (t := ([], false, b.st)) fun t i => copyFormat_reads p t i

end

/-- The sections of an image are made of loads (R366). -/
theorem State.reads_belayBody (b : BelayRun) : Reads s (s.belayBody p o b).st := by
  have hfold {f : Body → Nat → Body} (hf : ∀ t k, Reads t.st (f t k).st) (hs : List Nat) {t : Body} (ht : Reads s t.st) :
      Reads s (hs.foldl f t).st := ht.trans (Reads.foldl_by Body.st hf)
  unfold State.belayBody
  dsimp only
  generalize hcursor : Body.cursor _ p o = b2
  have h2 : Reads s b2.st := hcursor ▸ Body.reads_cursor p o (Body.put ⟨[], 0, false, s⟩ 1 0 0 _ false s)
  generalize hformats : Body.formats _ p = b4
  have h4 : Reads s b4.st := hformats ▸ h2.trans (Body.reads_formats p (b2.put 3 0 0 _ false b2.st))
  generalize htensors : List.foldl (fun t h => Body.tensor t p o h) _ _ = b6
  have h6 : Reads s b6.st := htensors ▸ hfold (fun t h => t.reads_tensor p o h) _ h4
  have h7 (hs : List Nat) := hfold (fun t h => t.reads_frozen p o h) hs h6
  split <;> exact h7 _

end Sys2Proof.Machine
end

section
/-! PROOF. Stores leave the operation whose work they are, and the work of a ready operation ends with its record done
(R22, R23, R109, R118, R121, R255, R285). -/

namespace Sys2Proof.Machine

/-- Operation `o` has done its work. -/
def Finishes (p seq : Nat) (o : OpRec) (t : State) : Prop := OperationIs t p seq o (fun r => r.done = true)

section
variable {p seq : Nat} {o : OpRec} {s : State} (h : HoldsOp p seq o s)
include h

theorem HoldsOp.seq_eq : o.seq = seq := by
  obtain ⟨r, hr, hwork⟩ := h
  exact (OpRec.seq_of_work hwork).symm.trans (Prt.seq_of_op hr)

/-- An operation that is finished under its own number. -/
theorem HoldsOp.ends (status : BitVec 8) (flags : FlagWord) : Finishes p seq o (s.finishOp p o.seq status flags) := by
  obtain ⟨r, hr, hdesc, hdone, -⟩ := h.finishOp status flags
  rw [h.seq_eq]
  exact ⟨r, hr, hdesc, hdone⟩

end

theorem HoldsOp.finish {p seq : Nat} {o : OpRec} {w : Work} (h : HoldsOp p seq o w.st) : Finishes p seq o (w.finish p o) := h.ends ..

section
variable {p seq : Nat} {o : OpRec} {s : State} (h : HoldsOp p seq o s) (q : Nat) (x : OpRec)
include h

/-! ### Runs -/

theorem HoldsOp.storeHost (ib : Sparse (List Byte)) (r : Place) (off : Nat) (ws : List WByte) :
    HoldsOp p seq o (s.storeHost q ib r off ws).1 := by
  unfold State.storeHost
  dsimp only
  split
  · exact h
  · refine HoldsOp.foldl_by (fun t : State × Bool => t.1) (t := (s, false)) h fun t y ht => ?_
    split_ifs
    · exact ht
    · exact ht.of_prts (State.prts_postHostLine ..)
    · exact (ht.of_prts (State.prts_postHostLine t.1 q r y.1 _)).updOp fun _ => rfl

theorem HoldsOp.storeRun (ib : Sparse (List Byte)) (r : Place) (off : Nat) (ws : List WByte) :
    HoldsOp p seq o (s.storeRun q ib r off ws).1 := by
  unfold State.storeRun
  split
  · exact h.of_prts rfl
  · exact h.of_prts (s.prts_storeBasin ..)
  · exact h.storeHost ..
  · exact h.of_prts rfl

theorem HoldsOp.storeRaw (k off : Nat) (bs : List Byte) : HoldsOp p seq o (s.storeRaw q x k off bs).1 := h.storeRun ..

/-! ### Tensors -/

theorem HoldsOp.updHist (id : Nat) (f : Hist → Hist) : HoldsOp p seq o (s.updHist q id f) := by
  unfold State.updHist
  exact h.updPrt fun _ => rfl

theorem HoldsOp.storeTile (k t : Nat) (w : WTile) (keep : Nat → Bool) : HoldsOp p seq o (s.storeTile q x k t w keep).1 := by
  unfold State.storeTile
  dsimp only
  have hdata (ib : Sparse (List Byte)) (r : Place) (off : Nat) (ws : List WByte) (c : Prop) [Decidable c] :
      HoldsOp p seq o (if c then { (s.storeRun q ib r off ws).1 with draws := (s.storeRun q ib r off ws).1.draws + 1 }
        else (s.storeRun q ib r off ws).1) := by
    split
    · exact (h.storeRun q ib r off ws).of_prts rfl
    · exact h.storeRun q ib r off ws
  split
  · exact (hdata ..).of_prts rfl
  · exact (hdata ..).storeRun ..

theorem HoldsOp.storeEncoded (k : Nat) (enc : Encoded) : HoldsOp p seq o (s.storeEncoded q x k enc).1 := by
  unfold State.storeEncoded
  dsimp only
  refine HoldsOp.storeRun (HoldsOp.storeRun ?_ ..) ..
  split
  · exact h.reads (s.reads_loadRun ..)
  · exact h

theorem HoldsOp.storeElems (k : Nat) (sat fold : Bool) (vals : List OutVal) : HoldsOp p seq o (s.storeElems q x k sat fold vals).st := by
  unfold State.storeElems
  dsimp only
  split
  · exact (h.storeEncoded ..).updHist ..
  · exact h.storeEncoded ..

theorem HoldsOp.storeAux (k : Nat) (vals : List OutVal) : HoldsOp p seq o (s.storeAux q x k vals).st := h.storeEncoded ..

theorem HoldsOp.storeWp (k : Nat) (accum : Bool) (t : Nat) (new : WTile) : HoldsOp p seq o (s.storeWp q x k accum t new).st := by
  unfold State.storeWp
  dsimp only
  have hold (c : Prop) [Decidable c] (n : Nat) : HoldsOp p seq o (if c then s.loadTile q n x k t else (WTile.zero, s)).2 := by
    split
    · exact h.reads (s.reads_loadTile ..)
    · exact h
  split
  · exact ((hold ..).storeTile ..).updHist ..
  · exact (hold ..).storeTile ..

theorem HoldsOp.storeConv (k : Nat) (tiles : List (Nat × WTile)) : HoldsOp p seq o (s.storeConv q x k tiles).st := by
  unfold State.storeConv
  dsimp only
  split
  · refine HoldsOp.foldl (h.storeEncoded ..) fun t y ht => ?_
    split
    · exact ht.updHist ..
    · exact ht
  · exact h.storeEncoded ..

theorem HoldsOp.storePartials (k : Nat) (accum : Bool) (tiles : List (Nat × WTile)) :
    HoldsOp p seq o (s.storePartials q x k accum tiles).st := by
  unfold State.storePartials
  split
  · exact HoldsOp.foldl_by Stored.st (t := ⟨s, [], false⟩) h fun t y ht => ht.storeWp ..
  · exact h.storeConv ..

/-! ### Moves -/

theorem HoldsOp.storeFor (r dst : Place) (bs : List (Option Byte)) : HoldsOp p seq o (s.storeFor q x r dst bs).1 := by
  unfold State.storeFor
  split
  · exact h.of_prts rfl
  · exact h.storeRun ..

theorem HoldsOp.storeSide (k ver : Nat) (r : Place) (bs : List (Option Byte)) : HoldsOp p seq o (s.storeSide q x k ver r bs).1 := by
  unfold State.storeSide
  dsimp only
  split
  · exact HoldsOp.foldl (f := fun t i => t.setDir _ _ _) h fun _ _ ht => ht.of_prts rfl
  · exact h.storeFor ..

theorem HoldsOp.claimBuf (buf : Nat) (port : Bool) (k : Nat) : HoldsOp p seq o (s.claimBuf q buf port k) := by
  unfold State.claimBuf
  refine HoldsOp.updPrt ?_ fun _ => rfl
  exact h.of_prts rfl

theorem HoldsOp.storeOffload (buf : Nat) (r : Place) (bs : List (Option Byte)) : HoldsOp p seq o (s.storeOffload q buf r bs).1 := by
  unfold State.storeOffload
  dsimp only
  split
  · exact h
  · refine HoldsOp.foldl_by (fun t : State × Bool => t.1) (t := (s, false)) h fun t y ht => ?_
    split <;> exact ht.of_prts (State.prts_postHostLine ..)

/-! ### Restores -/

theorem HoldsOp.restoreTensor (e : Entry) (y : Sect) : HoldsOp p seq o (s.restoreTensor q e y).1 :=
  HoldsOp.foldl_by (fun t : State × Bool => t.1) (t := (s, false)) h fun _ _ ht => (ht.storeRun ..).storeRun ..

theorem HoldsOp.restoreSection (ents : List (Nat × Entry)) (y : Sect) : HoldsOp p seq o (s.restoreSection q ents y).1 := by
  unfold State.restoreSection
  split
  · exact h.updPrt fun _ => rfl
  · have hentry := h.reads (s.reads_checkHandle q 2)
    dsimp only
    split
    · exact hentry.storeRun ..
    · exact hentry
  · exact h.updPrt fun _ => rfl
  · refine HoldsOp.foldl_by (fun t : State × Bool => t.1) (t := (s, false)) h fun t i ht => ?_
    unfold restoreFormat
    split
    · exact ht.storeRun ..
    · exact ht
  · exact h.updPrt fun _ => rfl
  · split
    · exact h.restoreTensor ..
    · exact h
  · exact h

end

/-! ### Work that ends in one command -/

section
variable {p seq : Nat} {o : OpRec} {s : State} (h : HoldsOp p seq o s)
include h

theorem HoldsOp.runCopy : Finishes p seq o (s.runCopy p o) := by
  unfold State.runCopy
  dsimp only
  split
  · exact HoldsOp.finish ((h.reads (s.reads_loadTiles ..)).storeElems ..)
  · exact HoldsOp.finish ((h.reads (s.reads_loadTensorBy ..)).storeElems ..)

theorem HoldsOp.vecElems : Finishes p seq o (s.vecElems p o) :=
  HoldsOp.finish ((h.reads (s.reads_loadSrcs ..)).storeElems ..)

theorem HoldsOp.vecRows (f : List F32 → RowRes) : Finishes p seq o (s.vecRows p o f) := by
  have hload := h.reads (s.reads_loadTensorBy p o (dA o.desc))
  unfold State.vecRows
  dsimp only
  split
  · exact HoldsOp.finish (HoldsOp.storeAux (hload.storeElems ..) ..)
  · exact HoldsOp.finish (hload.storeElems ..)

theorem HoldsOp.runProgram : Finishes p seq o (s.runProgram p o) := by
  have hprog := h.reads (s.reads_loadRaw p o (dProg o.desc) 0 (min 512 (eDataBytes (o.ent (dProg o.desc)))))
  unfold State.runProgram
  dsimp only
  split
  · exact hprog.ends ..
  · split
    · exact HoldsOp.finish ((hprog.reads (State.reads_loadSrcs ..)).storeElems ..)
    · exact (hprog.reads (State.reads_loadSrcs ..)).ends ..

theorem HoldsOp.runSoftmaxBwd : Finishes p seq o (s.runSoftmaxBwd p o) :=
  HoldsOp.finish ((h.reads (s.reads_loadSrcs ..)).storeElems ..)

theorem HoldsOp.runNormBwd : Finishes p seq o (s.runNormBwd p o) := by
  have hload (hs : List Nat) := h.reads (s.reads_loadSrcs p o hs)
  unfold State.runNormBwd
  dsimp only
  split
  · exact HoldsOp.finish ((hload _).storeElems ..)
  · exact HoldsOp.finish (HoldsOp.storeAux ((hload _).storeElems ..) ..)

theorem HoldsOp.runReduce : Finishes p seq o (s.runReduce p o) :=
  HoldsOp.finish (w := Stored.work _) (HoldsOp.storePartials
    (h.reads (Reads.foldl_by (fun x : List (Nat × WTile) × State => x.2) (t := ([], s)) fun x t => x.2.reads_foldSources p o t)) ..)

theorem HoldsOp.readHist (clear : Bool) : Finishes p seq o (s.readHist p o clear) := by
  unfold State.readHist
  dsimp only
  refine HoldsOp.ends ?_ ..
  split
  · exact (h.storeRaw ..).updHist ..
  · exact h.storeRaw ..

theorem HoldsOp.runRng : Finishes p seq o (s.runRng p o) := (h.storeRaw ..).ends ..

theorem HoldsOp.runMove : Finishes p seq o (s.runMove p o) :=
  HoldsOp.finish (((h.reads (s.reads_readBoth ..)).storeFor ..).storeSide ..)

theorem HoldsOp.runOffload : Finishes p seq o (s.runOffload p o) :=
  HoldsOp.finish ((((h.reads (s.reads_readBoth ..)).claimBuf ..).storeOffload ..).storeOffload ..)

theorem HoldsOp.digestTensor : Finishes p seq o (s.digestTensor p o) := by
  have hread := h.reads (s.reads_tensorBytes p o (dA o.desc) (o.ver (dA o.desc)))
  unfold State.digestTensor
  dsimp only
  split
  · exact hread.ends ..
  · exact (hread.storeRaw ..).ends ..

theorem HoldsOp.restoreAll (w : Verified) : Finishes p seq o (s.restoreAll p o w) := by
  have hsections : HoldsOp p seq o (w.sections.foldl (fun (t : State × Bool) x =>
      let y := t.1.restoreSection p w.ents x; (y.1, t.2 || y.2)) (s, false)).1 :=
    HoldsOp.foldl_by (fun t : State × Bool => t.1) (t := (s, false)) h fun t x ht => ht.restoreSection ..
  unfold State.restoreAll
  refine HoldsOp.ends (HoldsOp.updPrt ?_ ?_) ..
  · exact hsections
  · exact fun _ => rfl

theorem HoldsOp.restoreImage (i : Image) : Finishes p seq o (s.restoreImage p o i) := by
  have hread := h.reads (s.reads_verifyImage p i (dStep o.desc))
  unfold State.restoreImage
  dsimp only
  split
  · exact hread.ends ..
  · exact hread.restoreAll ..

theorem HoldsOp.runRestore : Finishes p seq o (s.runRestore p o) := (h.reads (s.reads_loadRaw ..)).restoreImage _

theorem HoldsOp.runRestorePeer (halves : List (List Byte)) (newest : Bool) :
    Finishes p seq o (s.runRestorePeer p halves newest o) := by
  unfold State.runRestorePeer
  dsimp only
  split
  · exact h.ends ..
  split
  · exact h.restoreImage _
  · exact h.ends ..

end

end Sys2Proof.Machine
end

section
/-! PROOF. Operations start, take tokens, work in one command, and complete (R22, R23, R109, R121, R133, R255, R285). -/

namespace Sys2Proof.Machine

/-! ### Changes of a record -/

/-- A change of the operation's own record, and what it leaves there. -/
theorem HoldsOp.changed {p seq : Nat} {o : OpRec} {s : State} (h : HoldsOp p seq o s) {f : OpRec → OpRec} {x : OpRec → Prop}
    (hf : ∀ y, (f y).seq = y.seq ∧ (f y).desc = y.desc) (hx : ∀ r, r.work = o.work → x (f r)) :
    OperationIs (s.updOp p seq f) p seq o x := by
  obtain ⟨r, hwork, hr⟩ := h.op_updOp fun y => (hf y).1
  exact ⟨_, hr, (hf r).2.trans (OpRec.desc_of_work hwork), hx r hwork⟩

theorem operationIs_imp {t : State} {p seq : Nat} {o : OpRec} {x y : OpRec → Prop} (h : OperationIs t p seq o x) (hxy : ∀ r, x r → y r) :
    OperationIs t p seq o y := by
  obtain ⟨r, hr, hdesc, hx⟩ := h
  exact ⟨r, hr, hdesc, hxy r hx⟩

/-- Every record of a partition with operations after the record `k` has been changed. -/
theorem State.op_updOp_map {s : State} {p : Nat} (hops : (s.prt p).ops ≠ []) {f : OpRec → OpRec} (hf : ∀ x, (f x).seq = x.seq)
    (k seq : Nat) : ((s.updOp p k f).prt p).op seq = ((s.prt p).op seq).map (fun x => if x.seq = k then f x else x) := by
  rw [State.updOp, State.prt_updPrt_of_ops (by simpa using hops), Prt.op, find?_map_record hf]
  rfl

/-! ### Requests for host lines -/

theorem State.prts_askLines (s : State) (p seq : Nat) (ent : Nat → Entry) (ns : List LineNeed) :
    (s.askLines p seq ent ns).1.prts = s.prts := by
  induction ns generalizing s with
  | nil => rfl
  | cons n ns ih =>
    have hline : (s.askLine p seq (ent n.handle) n).1.prts = s.prts := by
      unfold State.askLine
      dsimp only
      split
      · rfl
      · split <;> rfl
    unfold State.askLines
    dsimp only
    split
    · rfl
    · exact (ih _).trans hline

/-- Requests for host lines are counted in the record of the operation, and nothing else of it changes (R204). -/
theorem State.op_askOp {s : State} {p seq : Nat} {r : OpRec} (hr : (s.prt p).op seq = some r) :
    ∃ n k, ((s.askOp p seq).prt p).op seq = some { r with asked := n, got := k } := by
  unfold State.askOp
  rw [hr]
  dsimp only
  split
  · exact ⟨r.asked, r.got, hr⟩
  · refine ⟨_, _, State.op_updOp_same ?_ fun _ => rfl⟩
    rw [State.prt_of_prts (s.prts_askLines ..)]
    exact hr

/-- An operation that is gone does not come back when host lines are asked for. -/
theorem State.no_op_askOp {s : State} {p seq : Nat} (hnone : (s.prt p).op seq = none) (q k : Nat) :
    ((s.askOp q k).prt p).op seq = none := by
  unfold State.askOp
  split
  · exact hnone
  · next o ho =>
    dsimp only
    split
    · exact hnone
    · have hprt := State.prt_of_prts (s.prts_askLines q k o.ent (o.hostNeeds.drop o.asked))
      by_cases hq : p = q
      · subst hq
        refine (State.op_updOp_map ?_ ?_ k seq).trans ?_
        · rw [hprt]
          exact Prt.ops_ne_nil_of_op ho
        · exact fun _ => rfl
        · rw [hprt, hnone]
          rfl
      · rw [State.updOp, State.prt_updPrt_ne _ _ _ _ hq, hprt, hnone]

theorem State.no_op_askAll {s : State} {p seq : Nat} (hnone : (s.prt p).op seq = none) : (s.askAll.prt p).op seq = none := by
  refine List.foldlRecOn (motive := fun t : State => (t.prt p).op seq = none) _ _ hnone fun t ht q _ => ?_
  exact List.foldlRecOn (motive := fun t : State => (t.prt p).op seq = none) _ _ ht fun u hu k _ => State.no_op_askOp hu q k

/-! ### The end of an operation -/

/-- An operation that has ended is gone (R23). -/
theorem State.no_op_endOp {s : State} (hblk : Blocks.wf s = true) (p : Nat) (o : OpRec) (status : BitVec 8) :
    ((s.endOp p o status).prt p).op o.seq = none := by
  have hops : ((s.endOp p o status).prt p).ops = (s.prt p).ops.filter (fun x => x.seq ≠ o.seq) := by
    cases hslot : o.internal
    · exact (State.slots_ops_endOp hblk p hslot status).2
    · rw [State.endOp, if_pos hslot, State.prt_updPrt s hblk]
  rw [Prt.op, hops, List.find?_eq_none]
  simp

/-- An operation whose cores have all sent their tokens completes: it is gone (R23). -/
theorem State.no_op_completeOp {s : State} (hblk : Blocks.wf s = true) {p seq : Nat} {o : OpRec} (hop : (s.prt p).op seq = some o)
    (hdone : o.done = true) (hcommit : dOp o.desc = 0x21 → s.endCommit p o ≠ none) : ((s.completeOp p seq).prt p).op seq = none := by
  have hseq := Prt.seq_of_op hop
  subst hseq
  by_cases hcode : dOp o.desc = 0x21
  · obtain ⟨u, hu⟩ := Option.ne_none_iff_exists'.1 (hcommit hcode)
    rw [State.completeOp_of_commit hop hdone hcode hu]
    exact State.no_op_askAll (State.no_op_endOp ((State.keeps_endCommit (calm := true) hu (.refl s)).blocks hblk) p o o.status)
  · rw [State.completeOp_of_done hop hdone hcode]
    exact State.no_op_askAll (State.no_op_endOp hblk p o o.status)

/-! ### Starts -/

/-- An operation that starts is STARTED, whatever lines it asks for (R285). -/
theorem State.operationIs_startOp {s : State} {p seq : Nat} {o : OpRec} (hop : (s.prt p).op seq = some o)
    (hstart : s.startable p o = true) (htake : s.blocksTake p = true) :
    OperationIs (s.startOp p seq) p seq o (fun r => r.phase = .started) := by
  have hstamp : HoldsOp p seq o (s.stamp p).2 := by
    have htick (n : Nat) : HoldsOp p seq o (s.updPrt p (fun v => { v with jnlTick := n })) := (HoldsOp.of_op hop).updPrt fun _ => rfl
    exact (htick _).of_prts rfl
  have hjnl (f : List Byte → List Byte) : HoldsOp p seq o ((s.stamp p).2.updJnl p seq f) := by
    unfold State.updJnl
    refine hstamp.updPrt fun v => ?_
    split <;> rfl
  obtain ⟨r, hwork, hr⟩ := (hjnl (fun e => putBytes (putBytes e 10 [2#8]) 40 (leBytes 8 (s.stamp p).1))).op_updOp
    (f := fun o => { o with phase := .started }) fun _ => rfl
  obtain ⟨n, k, hask⟩ := State.op_askOp hr
  have hdesc := OpRec.desc_of_work hwork
  rw [State.startOp_of_startable hop hstart htake]
  exact ⟨_, hask, hdesc, rfl⟩

/-! ### Ready operations -/

/-- A ready operation stands. -/
theorem holdsOp_of_ready {s : State} {p seq op sub : Nat} {o : OpRec} (h : Ready s p seq op sub o) : HoldsOp p seq o s := .of_op h.1

/-- A ready operation whose work ends in one command is done behind it. -/
theorem State.finishes_runOp {s : State} {p seq op sub : Nat} {o : OpRec} (h : Ready s p seq op sub o) {test : Nat → Bool}
    (hsub : test sub = true) {f : OpRec → State} (hf : Finishes p seq o (f o)) : Finishes p seq o (s.runOp p seq op test f) := by
  rw [State.runOp_of_ready h hsub]
  exact hf

theorem State.finishes_runVec {s : State} {p seq sub : Nat} {o : OpRec} (h : Ready s p seq 0x10 sub o) :
    Finishes p seq o (s.runVec p seq sub []) :=
  State.finishes_runOp h (decide_eq_true rfl) (holdsOp_of_ready h).vecElems

end Sys2Proof.Machine
end

section
/-! PROOF. Array operations: whole ones end in one command, and passes, scan phases and the agreement leave their result in the
record (R61, R66, R67, R97, R106 to R108). -/

namespace Sys2Proof.Machine

section
variable (s : State) (p : Nat)

/-! ### Counts of the engines -/

theorem State.prts_takeShape (x : Plan) : (s.takeShape p x).prts = s.prts := by
  unfold State.takeShape
  dsimp only
  split <;> rfl

theorem State.prts_countPitch (o : OpRec) (x : Plan) (g : Gemm) (vs : Variants) (words : List (Nat × FlagWord)) (y : Entry) (c : Pitch) :
    (s.countPitch p o x g vs words y c).prts = s.prts :=
  State.prts_progress ..

theorem State.prts_countPass (o : OpRec) (g : Gemm) (v : Nat) : (s.countPass p o g v).prts = s.prts := by
  unfold State.countPass
  dsimp only
  split
  · exact State.prts_foldl fun t c => t.prts_countPitch ..
  · rfl

end

section
variable {p seq : Nat} {o : OpRec} {s : State} (h : HoldsOp p seq o s)
include h

/-! ### Whole operations -/

theorem HoldsOp.countPasses (g : Gemm) (x : Plan) (vs : List Nat) :
    HoldsOp p seq o (vs.foldl (fun t v => t.countPass p o g v) (s.takeShape p x)) :=
  HoldsOp.foldl (h.of_prts (s.prts_takeShape p x)) fun t v ht => ht.of_prts (t.prts_countPass p o g v)

/-- A MATMUL alone on its arrays is done in one command (R106). -/
theorem HoldsOp.runMatmul (hfree : s.arrayFree p seq = true) (hengaged : s.engaged p seq = false) :
    Finishes p seq o (s.runMatmul p o) := by
  have hgo : ¬(s.engaged p o.seq ∨ (!s.arrayFree p o.seq ∧ !s.allPitches p o)) := by
    rw [h.seq_eq, hengaged, hfree]
    simp
  have hvs := h.reads ((s.reads_gemm p o).trans (State.reads_variants _ p o (s.gemm p o).1))
  unfold State.runMatmul
  rw [if_neg hgo]
  dsimp only
  split
  · exact hvs.ends ..
  · next vs _ =>
    have han := hvs.reads (State.reads_anchorOf _ p o (s.gemm p o).1 vs)
    split
    · exact han.ends ..
    · exact HoldsOp.ends (HoldsOp.foldl (HoldsOp.storePartials (han.countPasses ..) ..)
        fun t c ht => ht.of_prts (t.prts_countPitch ..)) ..

/-- An anchor scan alone on its arrays is done in one command (R107). -/
theorem HoldsOp.runScan (hfree : s.arrayFree p seq = true) (isMax : Bool) : Finishes p seq o (s.runScan p o isMax) := by
  have hseq := h.seq_eq
  subst hseq
  have hvs := h.reads ((s.reads_gemm p o).trans (State.reads_variants _ p o (s.gemm p o).1))
  have hpasses (c : Prop) [Decidable c] (x : Plan) (l : List Nat) : HoldsOp p o.seq o
      (if c then ((s.gemm p o).2.variants p o (s.gemm p o).1).2 else l.foldl (fun t v => t.countPass p o (s.gemm p o).1 v)
        (((s.gemm p o).2.variants p o (s.gemm p o).1).2.takeShape p x)) := by
    split
    · exact hvs
    · exact hvs.countPasses ..
  unfold State.runScan
  dsimp only
  rw [if_neg (by simp [hfree])]
  split
  · exact hvs.ends ..
  · generalize hold : (if isMax then _ else _ : List (Option Byte) × State) = old
    have hread : HoldsOp p o.seq o old.2 := by
      rw [← hold]
      split
      · exact (hpasses ..).reads (State.reads_loadRaw ..)
      · exact hpasses ..
    split
    · exact hread.ends ..
    · exact (hread.storeRaw ..).ends ..

end

/-! ### Steps before the first product -/

section
variable {s : State} {p seq core variant : Nat} {o : OpRec}
variable (hop : (s.prt p).op seq = some o) (harray : isArray o.desc = true) (hrun : (s.prt p).mayRun o = true)
  (hvoid : (s.prt p).readsVoid o = false)
include hop harray hrun hvoid

/-- A pass notes its variant, or finds that the variant is refused (R61, R106). -/
theorem operationIs_adapterPass (hnew : o.adapters.contains variant = false) (hvar : dVar o.desc ≠ 0)
    (hnamed : (o.namedVariants (s.gemm p o).1).contains variant = true) (hfree : (s.gemm p o).2.arrayFree p seq = true) :
    ∃ t, exec (.adapterPass p seq variant) s = .next t ∧ OperationIs t p seq o (fun r =>
      r.adapters = o.adapters ++ [variant] ∨ r.done = true ∧ r.status = stBadHandle) := by
  have hgemm := (HoldsOp.of_op hop).reads (s.reads_gemm p o)
  have hpass := hgemm.reads (State.reads_passOf _ p o (s.gemm p o).1 variant)
  have hgo : ¬(o.adapters.contains variant ∨ dVar o.desc = 0 ∨ !(o.namedVariants (s.gemm p o).1).contains variant
      ∨ !(s.gemm p o).2.arrayFree p seq) := by
    simp only [hnew, hvar, hnamed, hfree]
    decide
  have hadd (r : OpRec) (hr : r.work = o.work) : r.adapters ++ [variant] = o.adapters ++ [variant] :=
    show _ = o.work.adapters ++ _ from hr ▸ rfl
  refine ⟨_, rfl, ?_⟩
  rw [State.arrayStep_of_mayRun hop harray hrun hvoid, if_neg hgo]
  split
  · exact operationIs_imp (hgemm.finishOp ..) fun _ => .inr
  · dsimp only
    split
    · exact operationIs_imp (hpass.finishOp ..) fun _ => .inr
    · exact hpass.changed (fun _ => ⟨rfl, rfl⟩) fun r hr => .inl (hadd r hr)
    · exact HoldsOp.changed ((hpass.of_prts (State.prts_takeShape _ p _)).of_prts (State.prts_countPass _ p o _ variant))
        (fun _ => ⟨rfl, rfl⟩) fun r hr => .inl (hadd r hr)

/-- A core delivers its scan value, or its variants are refused (R67). -/
theorem operationIs_anchorScanPhase (hscan : dOp o.desc = 2 ∨ dMode o.desc = 0) (hpasses : o.passesDone (s.gemm p o).1 = true)
    (hanchor : o.anchor = none) (hcore : ((s.gemm p o).2.partCores p).contains core = true)
    (hnew : o.scans.any (fun x => x.1 = core) = false) :
    ∃ t, exec (.anchorScanPhase p seq core) s = .next t ∧ OperationIs t p seq o (fun r =>
      (∃ v, r.scans = o.scans ++ [(core, v)]) ∨ r.done = true ∧ r.status = stBadHandle) := by
  have hvs := (HoldsOp.of_op hop).reads ((s.reads_gemm p o).trans (State.reads_variants _ p o (s.gemm p o).1))
  have hgo : ¬((dOp o.desc = 1 ∧ dMode o.desc ≠ 0) ∨ !o.passesDone (s.gemm p o).1 ∨ o.anchor.isSome
      ∨ !((s.gemm p o).2.partCores p).contains core ∨ o.scans.any (fun x => x.1 = core)) := by
    have hown : ¬(dOp o.desc = 1 ∧ dMode o.desc ≠ 0) := by omega
    simp only [hown, hpasses, hanchor, hcore, hnew]
    decide
  have hadd (r : OpRec) (hr : r.work = o.work) (v : Option Int) : r.scans ++ [(core, v)] = o.scans ++ [(core, v)] :=
    show _ = o.work.scans ++ _ from hr ▸ rfl
  refine ⟨_, rfl, ?_⟩
  rw [State.arrayStep_of_mayRun hop harray hrun hvoid, if_neg hgo]
  dsimp only
  split
  · exact operationIs_imp (hvs.finishOp ..) fun _ => .inr
  · exact hvs.changed (fun _ => ⟨rfl, rfl⟩) fun r hr => .inl ⟨_, hadd r hr _⟩

/-- The cores agree on the scanned or supplied anchor, or the supplied one is poisoned (R66, R97). -/
theorem operationIs_anchorAgree (hpasses : o.passesDone (s.gemm p o).1 = true) (hanchor : o.anchor = none)
    (hall : (dOp o.desc = 2 ∨ dMode o.desc = 0) → ((s.gemm p o).2.partCores p).all (fun c => o.scans.any (fun x => x.1 = c)) = true) :
    ∃ t, exec (.anchorAgree p seq) s = .next t ∧ OperationIs t p seq o (fun r =>
      r.anchor.isSome = true ∨ r.done = true ∧ r.status = stPoisoned) := by
  have hgemm := (HoldsOp.of_op hop).reads (s.reads_gemm p o)
  have hload := hgemm.reads (State.reads_anchorOf _ p o (s.gemm p o).1 ⟨[], []⟩)
  have hgo : ¬(o.anchor.isSome ∨ !o.passesDone (s.gemm p o).1) := by
    simp only [hanchor, hpasses]
    decide
  refine ⟨_, rfl, ?_⟩
  rw [State.arrayStep_of_mayRun hop harray hrun hvoid]
  dsimp only
  rw [if_neg hgo]
  split
  · next hscan =>
    rw [if_pos (hall hscan)]
    exact hgemm.changed (fun _ => ⟨rfl, rfl⟩) fun _ _ => .inl rfl
  · split
    · exact hload.changed (fun _ => ⟨rfl, rfl⟩) fun _ _ => .inl rfl
    · exact operationIs_imp (hload.finishOp ..) fun _ => .inr

end

end Sys2Proof.Machine
end

section
/-! PROOF. What the commands of the engines leave: full shadow banks, passed activations and chain values, pitches, merged
partials and converted tiles (R49 to R56, R63, R72, R73, R136, R139, R335). -/

namespace Sys2Proof.Machine

/-! ### Engines after an update -/

/-- An engine that is not blank reads as it was written. -/
theorem State.eng_updEng {s : State} {c e : Nat} {f : Eng → Eng} (h : f (s.eng c e) ≠ Eng.zero) :
    (s.updEng c e f).eng c e = f (s.eng c e) := Sparse.get_set_same_of_ne h _ _

theorem State.eng_progress (s : State) (n k c e : Nat) : (s.progress n k).eng c e = s.eng c e := by
  unfold State.progress
  split <;> rfl

theorem Eng.ne_zero_of_state {v : Eng} (h : v.state ≠ 0#4) : v ≠ Eng.zero := fun e => h (congrArg Eng.state e)

theorem Eng.ne_zero_of_shadowFull {v : Eng} (h : v.shadowFull = true) : v ≠ Eng.zero := by
  rintro rfl
  exact Bool.noConfusion h

theorem Eng.ne_zero_of_acts {v : Eng} {i : Nat} {a : Act} (h : Sparse.get none v.acts i = some a) : v ≠ Eng.zero := by
  rintro rfl
  exact nomatch h

theorem Eng.ne_zero_of_chains {v : Eng} {i : Nat} {c : Chain} (h : Sparse.get none v.chains i = some c) : v ≠ Eng.zero := by
  rintro rfl
  exact nomatch h

theorem Eng.ne_zero_of_feet {v : Eng} {i : Nat} {c : Chain} (h : Sparse.get none v.feet i = some c) : v ≠ Eng.zero := by
  rintro rfl
  exact nomatch h

theorem Eng.ne_zero_of_job {v : Eng} {j : Job} (h : v.job = some j) : v ≠ Eng.zero := by
  rintro rfl
  exact nomatch h

/-! ### Loads and SWAP -/

theorem Eng.shadowFull_takeLoad (v : Eng) (bank : Sparse Weight) (j : Job) (first : Bool) : (v.takeLoad bank j first).shadowFull = true := by
  unfold Eng.takeLoad
  dsimp only
  split
  · rfl
  · split <;> rfl

/-- A fold of loads fills the shadow bank of every engine that it names, and keeps those that were full (R56, R63). -/
theorem State.shadowFull_foldl_takeLoad {core e : Nat} (bank : Sparse Weight) (j : Nat × Nat → Job) (first : Nat × Nat → Bool)
    (l : List (Nat × Nat)) (t : State) (h : (t.eng core e).shadowFull = true ∨ ∃ y ∈ l, y.1 = e) :
    ((l.foldl (fun t y => t.updEng core y.1 (fun v => v.takeLoad bank (j y) (first y))) t).eng core e).shadowFull = true := by
  induction l generalizing t with
  | nil => simpa using h
  | cons y l ih =>
    refine ih _ ?_
    by_cases hy : y.1 = e
    · subst hy
      refine .inl ?_
      have hfull := (t.eng core y.1).shadowFull_takeLoad bank (j y) (first y)
      rw [State.eng_updEng (Eng.ne_zero_of_shadowFull hfull)]
      exact hfull
    · rw [State.eng_updEng_ne t core (Ne.symm hy)]
      simpa [hy] using h

/-- A load for a team fills the shadow bank of each engine of the team (R56, R63). -/
theorem stationaryLoad_fills {s u : State} {p seq core block group load : Nat} {team : List Nat} {w : Work2}
    (hw : s.workOf p seq = some (w, u)) (hsome : team ≠ []) (hnodup : team.Nodup)
    (hmay : ∀ i < team.length, u.mayLoad p w core (team.getD i 0) (group + i) block load = true
      ∧ (eDim w.g.we 2 * eDim w.g.we 3 = 1 ∨ (group + i) / w.x.groups = group / w.x.groups)) :
    ∃ t, exec (.stationaryLoad p seq core team block group load) s = .next t ∧ ∀ e ∈ team, (t.eng core e).shadowFull = true := by
  refine ⟨_, rfl, fun e he => ?_⟩
  simp only [State.loadTeam, hw]
  rw [if_neg]
  · obtain ⟨i, hi, rfl⟩ := List.mem_iff_getElem.1 he
    refine State.shadowFull_foldl_takeLoad _ _ _ _ _ (.inr ⟨(team.getD i 0, group + i), ?_, by simp [hi]⟩)
    exact List.mem_map.2 ⟨i, List.mem_range.2 hi, rfl⟩
  · rintro (hempty | hdup | hone)
    · exact hsome (by simpa using hempty)
    · simp [hnodup] at hdup
    · refine absurd hone ?_
      simp only [Bool.not_eq_true', Bool.not_eq_false, List.all_map, List.all_eq_true, List.mem_range, Function.comp_apply,
        Bool.and_eq_true, decide_eq_true_eq]
      refine fun i hi => ⟨(hmay i hi).1, ?_⟩
      rcases (hmay i hi).2 with hbatch | hrow
      · simp [hbatch]
      · simp [hrow]

/-! ### Cells -/

/-- A cell passes its activation to the right neighbour (R49). -/
theorem Eng.acts_passAct (v : Eng) (k : Nat) {n : Nat} (act : Act) (hn : n ≠ 63) :
    Sparse.get none (v.passAct k n act).acts (64 * k + n + 1) = some act := by
  simp only [Eng.passAct, if_neg hn]
  exact Sparse.get_set_same_of_ne (Option.some_ne_none act) _ _

/-- The last cell of a chain leaves the sum in the foot (R72). -/
theorem Eng.feet_passChain (v : Eng) (k n col : Nat) (top : Bool) (r : Chain × Nat) :
    Sparse.get none (v.passChain k n col top true r).feet col = some r.1 :=
  Sparse.get_set_same_of_ne (Option.some_ne_none r.1) _ _

/-- Every other cell of a chain leaves the sum in the cell below (R49). -/
theorem Eng.chains_passChain (v : Eng) (k n col : Nat) (top : Bool) (r : Chain × Nat) :
    Sparse.get none (v.passChain k n col top false r).chains (64 * (k + 1) + n) = some r.1 :=
  Sparse.get_set_same_of_ne (Option.some_ne_none r.1) _ _

theorem operationIs_of_prts {s t : State} {p seq : Nat} {o : OpRec} {x : OpRec → Prop} (e : t.prts = s.prts)
    (h : OperationIs s p seq o x) : OperationIs t p seq o x := by
  rw [OperationIs, State.prt_of_prts e]
  exact h

section
variable {s u : State} {core e k n row col : Nat} {w : Work2} {j : Job} {A : Int} {act : Act} {c : Chain}
variable (hj : s.jobWork core e = some (j, w, u))
include hj

/-- SWAP puts the other bank in use and leaves the shadow bank free (R53). -/
theorem swap_exchanges (hfull : (s.eng core e).shadowFull = true) (hnext : (s.eng core e).next = none)
    (hturn : (s.eng core e).state = 2#4 ∧ s.arrayFree j.part j.seq = true ∨ (s.eng core e).state = 3#4 ∧ j.added = w.expected j)
    (hA : w.o.anchor.isSome = true) :
    ∃ t, exec (.swap core e) s = .next t ∧ (t.eng core e).bankSel = !(s.eng core e).bankSel ∧ (t.eng core e).state = 3#4
      ∧ (t.eng core e).shadowFull = false := by
  obtain ⟨a, ha⟩ := Option.isSome_iff_exists.1 hA
  refine ⟨_, runs_swap hj hfull hnext hturn ha, ?_⟩
  rw [State.eng_progress, State.eng_updEng (Eng.ne_zero_of_state (by decide : (3#4 : BitVec 4) ≠ 0#4)),
    (State.op_of_jobWork hj).2.eng]
  exact ⟨rfl, rfl, rfl⟩

/-! ### Cells and feet -/

/-- A cell without a chain leaves its activation at the right neighbour (R49). -/
theorem cellStep_passes (hA : (s.eng core e).anchor = some A) (h : w.Meets core (s.eng core e) j k n row act)
    (hcol : footColumn w.x.mode w.x.wide k n = none) :
    ∃ t, exec (.cellStep core e k n row 0) s = .next t
      ∧ (n ≠ 63 → Sparse.get none (t.eng core e).acts (64 * k + n + 1) = some act) := by
  refine ⟨_, runs_cellStep_noChain 0 hj hA h hcol, fun hn => ?_⟩
  have hpass := ((u.spendEnergy j.part 0 1).eng core e).acts_passAct k act hn
  rw [State.eng_updEng (Eng.ne_zero_of_acts hpass)]
  exact hpass

/-- A cell of a chain leaves its sum in the foot or in the cell below (R49, R51, R72). -/
theorem cellStep_sums (hA : (s.eng core e).anchor = some A) (h : w.Meets core (s.eng core e) j k n row act)
    (hcol : footColumn w.x.mode w.x.wide k n = some col) (hc : w.ChainMeets (s.eng core e) k n row col c) :
    let bottom := decide (k % chainLen w.x.wide + 1 = chainLen w.x.wide)
    let out := (cellChain (loadMode w.x w.g w.vs j.k0) (decide (w.x.mode = .lg4)) A act
      (Sparse.get Weight.zero (s.eng core e).active (64 * k + n)) c 0).1
    ∃ t, exec (.cellStep core e k n row 0) s = .next t
      ∧ (bottom = true → Sparse.get none (t.eng core e).feet col = some out)
      ∧ (bottom = false → Sparse.get none (t.eng core e).chains (64 * (k + 1) + n) = some out) := by
  refine ⟨_, runs_cellStep_chain 0 hj hA h hcol hc, fun hbottom => ?_, fun hbottom => ?_⟩
  · have hfoot (v : Eng) (top : Bool) (r : Chain × Nat) := v.feet_passChain k n col top r
    rw [hbottom, State.eng_updEng (Eng.ne_zero_of_feet (hfoot ..))]
    exact hfoot ..
  · have hbelow (v : Eng) (top : Bool) (r : Chain × Nat) := v.chains_passChain k n col top r
    rw [hbottom, State.eng_updEng (Eng.ne_zero_of_chains (hbelow ..))]
    exact hbelow ..

/-- A sound foot counts one addition of its pitch (R72). -/
theorem footAddition_counts (hfoot : Sparse.get none (s.eng core e).feet col = some c) (hsound : syndrome c.value c.residue = 0) :
    ∃ t, exec (.footAddition core e col 0) s = .next t ∧ (t.eng core e).job = some { j with added := j.added + 1 } := by
  refine ⟨_, runs_footAddition_sound 0 hj hfoot hsound, ?_⟩
  rw [State.eng_updEng (Eng.ne_zero_of_job rfl)]

/-! ### Pitches -/

/-- A complete pitch that is sound is noted in its operation (R73). -/
theorem writeBack_notes (hdone : w.pitchDone (s.eng core e) j = true)
    (hsound : (s.eng core e).foot.find? (fun (x : Nat × Slot) => syndrome x.2.value x.2.residue ≠ 0) = none) :
    ∃ t, exec (.writeBack core e 0 0) s = .next t ∧ OperationIs t j.part j.seq w.o (fun r =>
      r.pitches = w.o.pitches ++ [w.x.pitchId j.group j.block (w.x.spanOf j.k0)]) := by
  obtain ⟨hop, hread⟩ := State.op_of_jobWork hj
  have hadd : HoldsOp j.part j.seq w.o (w.addPitchTo j core e (s.eng core e) u) :=
    HoldsOp.foldl ((HoldsOp.of_op hop).reads hread) fun _ _ ht => ht.of_prts rfl
  refine ⟨_, runs_writeBack_sound hj hdone hsound, operationIs_of_prts (State.prts_progress _ (pageEng core e) 1) ?_⟩
  exact hadd.changed (fun _ => ⟨rfl, rfl⟩) fun r hr => show _ = w.o.work.pitches ++ _ from hr ▸ rfl

/-- A retry that passes on its own engine stands streamed, ready to be written back (R335). -/
theorem pitchRetry_streams (hretry : (s.eng core e).state = 5#4) (other : Bool) :
    ∃ t, exec (.pitchRetry core e true other) s = .next t ∧ (t.eng core e).state = 3#4 ∧ (t.eng core e).retried = true
      ∧ (t.eng core e).fails = [] := by
  refine ⟨_, runs_pitchRetry_same hj hretry other, ?_⟩
  rw [State.eng_updEng (Eng.ne_zero_of_state (by decide : (3#4 : BitVec 4) ≠ 0#4))]
  exact ⟨rfl, rfl, rfl⟩

end

/-! ### Tiles -/

section
variable {s u : State} {p seq core tile : Nat} {w : Work2}

/-- The partial that is written reads back. -/
theorem State.partialAt_setPartial (x : Partial) : (s.setPartial x).partialAt x.part x.seq x.core x.tile = some x := by
  rw [State.partialAt, State.setPartial, List.find?_append, List.find?_eq_none.2]
  · simp
  · exact fun y hy => Bool.eq_false_iff.1 (Bool.not_eq_eq_eq_not.1 (List.mem_filter.1 hy).2)

/-- The write of a partial leaves the partials of other cores. -/
theorem State.partialAt_setPartial_ne {x : Partial} (h : core ≠ x.core) (hnone : s.partialAt p seq core tile = none) :
    (s.setPartial x).partialAt p seq core tile = none := by
  rw [State.partialAt, List.find?_eq_none] at hnone ⊢
  intro y hy
  rcases List.mem_append.1 hy with hold | hnew
  · exact hnone y (List.mem_filter.1 hold).1
  · rw [List.mem_singleton.1 hnew]
    simp [Ne.symm h]

theorem State.partialAt_dropPartial : (s.dropPartial p seq core tile).partialAt p seq core tile = none := by
  rw [State.partialAt, State.dropPartial, List.find?_eq_none]
  exact fun y hy => Bool.eq_false_iff.1 (Bool.not_eq_eq_eq_not.1 (List.mem_filter.1 hy).2)

/-- The place of the partial that is read, or of a new one. -/
theorem State.place_partialAt_getD (a : Int) : let y := (s.partialAt p seq core tile).getD (Partial.new p seq core tile a)
    y.part = p ∧ y.seq = seq ∧ y.core = core ∧ y.tile = tile := by
  cases h : s.partialAt p seq core tile with
  | none => exact ⟨rfl, rfl, rfl, rfl⟩
  | some x => simpa [and_assoc] using List.find?_some h

/-- A tile is among the tiles that share its blocks (R139). -/
theorem mem_blockTiles {e : Entry} {t : Nat} (h : t < eTiles e) : t ∈ blockTiles e t := by
  unfold blockTiles
  split
  · exact List.mem_filter.2 ⟨List.mem_range.2 h, by simp⟩
  · exact List.mem_singleton.2 rfl

variable (hw : s.workOf p seq = some (w, u))
include hw

/-- A core's complete partial that is sound moves into the merged partial of its tile (R136). -/
theorem confluenceMerge_moves {x : Partial} (hx : u.partialAt p seq core tile = some x) (hcore : core ≠ mergedMark)
    (hlen : x.tr.len = ((u.tilePitches p w tile).filter (fun c => c.core = core)).length)
    (hsound : x.slots.any (fun (y : Nat × Slot) => syndrome y.2.value y.2.residue ≠ 0) = false) :
    ∃ t y, exec (.confluenceMerge p seq core tile 0 0) s = .next t ∧ t.partialAt p seq core tile = none
      ∧ t.partialAt p seq mergedMark tile = some y
      ∧ y.tr.len = (match u.partialAt p seq mergedMark tile with | some z => z.tr.len | none => 0) + x.tr.len := by
  obtain ⟨hpart, hseq, hmark, htile⟩ := u.place_partialAt_getD (p := p) (seq := seq) (core := mergedMark) (tile := tile) x.tr.anchor
  refine ⟨_, ((u.partialAt p seq mergedMark tile).getD (Partial.new p seq mergedMark tile x.tr.anchor)).merge x
    (tileIx (w.o.ent (dC w.o.desc)) tile), runs_confluenceMerge_sound hw hx hcore hlen hsound, ?_, ?_, ?_⟩
  · exact State.partialAt_setPartial_ne (fun e => hcore (e.trans hmark)) State.partialAt_dropPartial
  · have hread := State.partialAt_setPartial (s := u.dropPartial p seq core tile)
      (((u.partialAt p seq mergedMark tile).getD (Partial.new p seq mergedMark tile x.tr.anchor)).merge x
        (tileIx (w.o.ent (dC w.o.desc)) tile))
    simpa only [Partial.merge, hpart, hseq, hmark, htile] using hread
  · cases u.partialAt p seq mergedMark tile <;> rfl

/-- A tile that is converted is done (R139). -/
theorem outputConversion_notes (hA : w.o.anchor.isSome = true) (htile : tile < eTiles (w.o.ent (dC w.o.desc)))
    (hnew : w.o.tilesDone.contains tile = false)
    (hmerged : ((blockTiles (w.o.ent (dC w.o.desc)) tile).filter (fun i => !w.o.tilesDone.contains i)).all (u.tileComplete p w)
      = true) :
    ∃ t, exec (.outputConversion p seq tile 0) s = .next t ∧ OperationIs t p seq w.o (fun r => r.tilesDone.contains tile = true) := by
  obtain ⟨a, ha⟩ := Option.isSome_iff_exists.1 hA
  obtain ⟨hop, hread⟩ := State.op_of_workOf hw
  have hmem : (w.o.tilesDone ++ (blockTiles (w.o.ent (dC w.o.desc)) tile).filter (fun i => !w.o.tilesDone.contains i)).contains tile
      = true := by
    rw [List.contains_iff_mem, List.mem_append, List.mem_filter]
    exact .inr ⟨mem_blockTiles htile, by rw [hnew]; rfl⟩
  refine ⟨_, runs_outputConversion_complete hw ha htile hnew hmerged, ?_⟩
  generalize (blockTiles (w.o.ent (dC w.o.desc)) tile).filter _ = ts at hmem
  have hstored := ((HoldsOp.of_op hop).reads hread).storePartials p w.o (dC w.o.desc) (dAccum w.o.desc)
    (ts.map (fun i => (i, u.finalPartial p w a i)))
  unfold State.convertTiles
  dsimp only
  generalize State.storePartials .. = r at hstored
  obtain ⟨y, hwork, hy⟩ := hstored.op_updOp (f := fun o => { o with
    tilesDone := w.o.tilesDone ++ ts, flags := w.o.flags ||| r.work.flags
    status := worse w.o.status (if r.work.poisoned then stPoisoned else stOK) }) fun _ => rfl
  have hdesc := OpRec.desc_of_work hwork
  split
  · exact ⟨_, State.op_updOp_same hy fun _ => rfl, hdesc, hmem⟩
  · exact ⟨_, hy, hdesc, hmem⟩

end

end Sys2Proof.Machine
end

section
/-! PROOF. Collectives whose data are in, their staging copies, STEP_COMMITs and comparisons of replicas end
(R113, R114, R255, R258, R342, R367). -/

namespace Sys2Proof.Machine

/-! ### Records -/

/-- An update of a partition that leaves its operations leaves what is known of one. -/
theorem operationIs_updPrt {s : State} {p seq : Nat} {o : OpRec} {x : OpRec → Prop} (h : OperationIs s p seq o x) {f : Prt → Prt}
    (hf : ∀ v, (f v).ops = v.ops) : OperationIs (s.updPrt p f) p seq o x := by
  obtain ⟨r, hr, hx⟩ := h
  refine ⟨r, ?_, hx⟩
  rw [State.prt_updPrt_of_ops (by rw [hf]; exact Prt.ops_ne_nil_of_op hr), Prt.op, hf]
  exact hr

/-- What a change of the operation's own record leaves of what is known. -/
theorem operationIs_updOp {s : State} {p seq : Nat} {o : OpRec} {x y : OpRec → Prop} (h : OperationIs s p seq o x) {f : OpRec → OpRec}
    (hf : ∀ r, (f r).seq = r.seq ∧ (f r).desc = r.desc) (hxy : ∀ r, x r → y (f r)) : OperationIs (s.updOp p seq f) p seq o y := by
  obtain ⟨r, hr, hdesc, hx⟩ := h
  exact ⟨f r, State.op_updOp_same hr fun r => (hf r).1, (hf r).2.trans hdesc, hxy r hx⟩

theorem Prt.not_done_of_tokensReady {v : Prt} {o : OpRec} (h : v.tokensReady o = true) : o.done = false := by
  simp only [Prt.tokensReady, Bool.and_eq_true, Bool.not_eq_true'] at h
  exact h.1.1.1.1.1.2

/-! ### Phases -/

section
variable {s : State} {p seq : Nat} {o : OpRec} (hop : (s.prt p).op seq = some o)
include hop

theorem State.phase_of_not {ok : State → OpRec → Bool} (hok : ok s o = false) (f : State → OpRec → State) : s.phase p seq ok f = s := by
  simp [State.phase, hop, hok]

theorem State.phase_of_ok (hdone : o.done = false) {ok : State → OpRec → Bool} (hok : ok s o = true) (f : State → OpRec → State) :
    s.phase p seq ok f = f s o := by
  simp [State.phase, hop, hdone, hok]

end

/-- Without an early flit nothing is delivered. -/
theorem State.deliverEarly_of_none {s : State} {p : Nat} (hops : (s.prt p).ops ≠ []) (hearly : (s.prt p).earlyColl = []) (q c : Nat) :
    ((s.deliverEarly p q c).prt p) = s.prt p ∧ (s.deliverEarly p q c).dev = s.dev := by
  have hsame : { s.prt p with earlyColl := (s.prt p).earlyColl.filter (fun x => !(x.1 = q && x.2.1 = c)) } = s.prt p := by
    rw [hearly, List.filter_nil, ← hearly]
  unfold State.deliverEarly
  rw [hearly]
  refine ⟨?_, rfl⟩
  rw [List.filter_nil, List.foldl_nil, State.prt_updPrt_of_ops (by simpa using hops)]
  exact hsame

/-- Once all its data are in, nothing is left to merge (R253). -/
theorem State.mergeable_of_allIn {s : State} {o : OpRec} (h : s.allIn o = true) : s.mergeable o = [] := by
  unfold State.mergeable
  split
  · rfl
  · next hsub =>
    simp only [State.allIn, Bool.and_eq_true, Bool.or_eq_true, decide_eq_true_eq, List.all_eq_true] at h
    refine List.filter_eq_nil_iff.2 fun t ht => ?_
    rw [h.2.resolve_left hsub t ht, Bool.not_true, Bool.false_and]
    exact Bool.false_ne_true

/-- A collective whose data are sent and in is ready to be copied from staging (R255). -/
theorem State.operationIs_runColl {s : State} {p seq : Nat} {o : OpRec} (hop : (s.prt p).op seq = some o) (hdone : o.done = false)
    (hnum : s.numbered o = true) (hearly : (s.prt p).earlyColl = []) (hcheck : o.coll.sentCheck = true)
    (hstage : o.coll.stagePages ≠ 0) (hanchors : dSub o.desc < 2 → o.coll.sentAnchors = true) (hdata : o.coll.sentData = true)
    (hprov : o.coll.prov = []) (hin : s.allIn o = true) (fails : List (Nat × Bool)) :
    OperationIs (s.runColl p fails o) p seq o (fun r => r.coll.stageReady = true) := by
  have hseq := Prt.seq_of_op hop
  subst hseq
  have hfold : ∀ (l : List Nat), ((l.foldl (fun t q => t.deliverEarly p q (Sparse.get 0 o.coll.ordinals q - 1)) s).prt p) = s.prt p
      ∧ (l.foldl (fun t q => t.deliverEarly p q (Sparse.get 0 o.coll.ordinals q - 1)) s).dev = s.dev := fun l =>
    List.foldlRecOn (motive := fun t : State => t.prt p = s.prt p ∧ t.dev = s.dev) l _ ⟨rfl, rfl⟩ fun t ht q _ => by
      obtain ⟨hprt, hdev⟩ := State.deliverEarly_of_none (ht.1 ▸ Prt.ops_ne_nil_of_op hop) (ht.1 ▸ hearly) q _
      exact ⟨hprt.trans ht.1, hdev.trans ht.2⟩
  obtain ⟨hprt, hdev⟩ := hfold (s.peersOf o.desc)
  unfold State.runColl
  rw [if_neg (by simp [hnum])]
  dsimp only
  generalize List.foldl _ s _ = s0 at hprt hdev
  have hop0 : (s0.prt p).op o.seq = some o := by rw [hprt, hop]
  have hin0 : s0.allIn o = true := by
    simpa only [State.allIn, State.peersOf, State.me, hdev] using hin
  have hsent : (o.coll.sentCheck && (s.peersOf o.desc).all o.coll.checked.contains && decide (o.coll.stagePages ≠ 0)
      && decide (dSub o.desc < 2) && !o.coll.sentAnchors) = false := by
    by_cases hsub : dSub o.desc < 2
    · rw [hanchors hsub, Bool.not_true, Bool.and_false]
    · simp [hsub]
  rw [State.phase_of_not hop0 (by simp [hcheck]), State.phase_of_not hop0 (by simp [hstage]),
    State.phase_of_not hop0 hsent, State.phase_of_not hop0 (by simp [hprov]),
    State.phase_of_not hop0 (by simp [hdata]), State.phase_of_ok hop0 hdone (by simp [hdata, hprov]),
    State.mergeable_of_allIn hin0, List.foldl_nil, State.phase_of_ok hop0 hdone (by simp [hdata, hprov, hin0])]
  exact (HoldsOp.of_op hop0).changed (fun _ => ⟨rfl, rfl⟩) fun _ _ => rfl

/-! ### Staging copies -/

section
variable {p seq : Nat} {o : OpRec} {s : State} (h : HoldsOp p seq o s)
include h

theorem HoldsOp.copyTiles (x : OpRec) : HoldsOp p seq o (s.copyTiles p x).st := by
  unfold State.copyTiles
  dsimp only
  refine HoldsOp.foldl_by Work.st (t := ⟨s, 0#16, false⟩) h fun w q hw => HoldsOp.foldl_by Work.st hw fun w m hw => ?_
  split
  · exact (hw.storeTile ..).updHist ..
  · exact hw.storeTile ..

theorem HoldsOp.copyStreams (x : OpRec) : HoldsOp p seq o (s.copyStreams p x).st := h.storeEncoded ..

/-- A collective that is ready in staging is done behind its copy (R255). -/
theorem HoldsOp.copyStage (hop : (s.prt p).op seq = some o) (hcode : dOp o.desc = 0x20) (hdone : o.done = false)
    (hready : o.coll.stageReady = true) : Finishes p seq o (s.copyStage p seq) := by
  unfold State.copyStage
  rw [hop]
  dsimp only
  rw [if_neg (by simp [hcode, hdone, hready])]
  refine HoldsOp.finish ?_
  split
  · exact h.storePartials ..
  · split
    · exact h.copyTiles o
    · exact h.copyStreams o

end

/-! ### STEP_COMMIT -/

/-- A record behind the loss record of a step: the belays of that step hold it (R373). -/
def OpRec.withLoss (step : Nat) (loss : List Byte) (o : OpRec) : OpRec :=
  match o.belay with
  | some b => if b.step = step ∧ b.kind ≠ 2#8 then { o with belay := some { b with loss := loss } } else o
  | none => o

theorem OpRec.withLoss_eq (step : Nat) (loss : List Byte) (o : OpRec) : ∃ b, o.withLoss step loss = { o with belay := b } := by
  unfold OpRec.withLoss
  split
  · split
    · exact ⟨_, rfl⟩
    · exact ⟨o.belay, rfl⟩
  · exact ⟨o.belay, rfl⟩

theorem OpRec.desc_withLoss (step : Nat) (loss : List Byte) (o : OpRec) :
    (o.withLoss step loss).seq = o.seq ∧ (o.withLoss step loss).desc = o.desc := by
  obtain ⟨b, hb⟩ := o.withLoss_eq step loss
  rw [hb]
  exact ⟨rfl, rfl⟩

/-- The partition behind a loss record (R373). -/
theorem State.prt_noteLoss {s : State} {p : Nat} (hops : (s.prt p).ops ≠ []) (step : Nat) (loss : List Byte) :
    (s.noteLoss p step loss).prt p = { s.prt p with ops := (s.prt p).ops.map (OpRec.withLoss step loss) } :=
  State.prt_updPrt_of_ops (by simpa using hops)

/-- A STEP_COMMIT may commit its step: no collective of the step runs before it, none ended badly, and every member's COMMIT
is in (R114, R258). -/
structure CommitsStep (p seq : Nat) (o : OpRec) (s : State) : Prop where
  record : OperationIs s p seq o (fun r => r.done = false ∧ r.coll.commits = o.coll.commits)
  alone : (s.prt p).ops.any (fun a => decide (a.seq < o.seq ∧ dOp a.desc = 0x20 ∧ dStep a.desc = dStep o.desc)) = false
  ended : ∀ c ∈ (s.prt p).collEnds, c.1 < o.seq → c.2.1 = dStep o.desc → c.2.2 = stOK ∨ c.2.2 = stFlagged
  commits : (s.peersOf o.desc).all o.coll.commits.contains = true

section
variable {p seq : Nat} {o : OpRec} {s : State} (h : CommitsStep p seq o s)
include h

theorem CommitsStep.reads {t : State} (e : t.prts = s.prts) (hdev : t.dev = s.dev) : CommitsStep p seq o t := by
  have hprt := State.prt_of_prts e p
  refine ⟨operationIs_of_prts e h.record, ?_, ?_, ?_⟩
  · rw [hprt]
    exact h.alone
  · rw [hprt]
    exact h.ended
  · rw [State.peersOf, hdev]
    exact h.commits

/-- A loss record leaves what the commit needs (R373). -/
theorem CommitsStep.noteLoss (step : Nat) (loss : List Byte) : CommitsStep p seq o (s.noteLoss p step loss) := by
  obtain ⟨r, hr, hdesc, hdone, hcommits⟩ := h.record
  have hprt := State.prt_noteLoss (Prt.ops_ne_nil_of_op hr) step loss
  refine ⟨⟨r.withLoss step loss, ?_, (r.desc_withLoss step loss).2.trans hdesc, ?_⟩, ?_, ?_, h.commits⟩
  · have hseq : (fun x : OpRec => decide (x.seq = seq)) ∘ OpRec.withLoss step loss = fun x => decide (x.seq = seq) :=
      funext fun x => by rw [Function.comp_apply, (x.desc_withLoss step loss).1]
    rw [hprt, Prt.op, List.find?_map, hseq, show List.find? _ (s.prt p).ops = some r from hr, Option.map_some]
  · obtain ⟨b, hb⟩ := r.withLoss_eq step loss
    rw [hb]
    exact ⟨hdone, hcommits⟩
  · have halone := h.alone
    rw [hprt]
    simpa only [List.any_map, Function.comp_def, (OpRec.desc_withLoss step loss _).1, (OpRec.desc_withLoss step loss _).2] using halone
  · rw [hprt]
    exact h.ended

end

/-- The members' COMMITs that came early are taken, and none is lost (R258). -/
theorem State.operationIs_takeCommits {t : State} {p seq : Nat} {o : OpRec} (ht : OperationIs t p seq o (fun r => r.done = false ∧ r.coll.commits = o.coll.commits))
    (hseq : o.seq = seq) : OperationIs (t.takeCommits p o) p seq o (fun r => r.done = false ∧ ∀ q ∈ o.coll.commits, q ∈ r.coll.commits) := by
  subst hseq
  unfold State.takeCommits
  refine operationIs_updPrt (operationIs_updOp ht ?_ ?_) ?_
  · exact fun _ => ⟨rfl, rfl⟩
  · rintro r ⟨hdone, hcommits⟩
    exact ⟨hdone, fun q hq => List.mem_append_left _ (hcommits ▸ hq)⟩
  · exact fun _ => rfl

section
variable {p seq : Nat} {o : OpRec} {s : State} (h : CommitsStep p seq o s) (hseq : o.seq = seq)
include h hseq

/-- A member sends its own COMMIT once (R258). -/
theorem CommitsStep.sends (b : Bool) (payload : List Byte) :
    let t := if b then s else ((s.peersOf o.desc).foldl (fun t q => t.collFlit p o q 0x15 0 0 true false payload) s).updColl p o.seq
      (fun c => { c with sentCommit := true })
    OperationIs t p seq o (fun r => r.done = false ∧ r.coll.commits = o.coll.commits) ∧ t.dev = s.dev := by
  dsimp only
  split
  · exact ⟨h.record, rfl⟩
  · have hdev := ((keeps_foldl (calm := true) (fun t q => t.collFlit p o q 0x15 0 0 true false payload) (s.peersOf o.desc) s (.refl s)
      fun u q hu => State.keeps_collFlit hu ..).still rfl).1
    subst hseq
    refine ⟨operationIs_updOp (operationIs_of_prts (State.prts_foldl fun t q => State.prts_sendFlit ..) h.record)
      (fun _ => ⟨rfl, rfl⟩) fun _ hx => hx, hdev⟩

/-- A step that may be committed is committed, with OK (R114, R258). -/
theorem CommitsStep.commitStep : OperationIs (s.commitStep p o) p seq o (fun r => r.done = true ∧ r.status = stOK) := by
  have hbad : ((s.prt p).collEnds.filter (fun c => c.1 < o.seq ∧ c.2.1 = dStep o.desc ∧ c.2.2 ≠ stOK ∧ c.2.2 ≠ stFlagged)) = [] := by
    refine List.filter_eq_nil_iff.2 fun c hc hx => ?_
    obtain ⟨hlt, hstep, hok, hflagged⟩ := of_decide_eq_true hx
    exact (h.ended c hc hlt hstep).elim hok hflagged
  have hsends := h.sends hseq o.coll.sentCommit (leBytes 8 (dStep o.desc))
  unfold State.commitStep
  dsimp only at hsends ⊢
  rw [if_neg (Bool.eq_false_iff.1 h.alone), hbad, List.map_nil]
  generalize (if o.coll.sentCommit then s else _ : State) = s1 at hsends
  obtain ⟨hrecord, hdev⟩ := hsends
  obtain ⟨r, hr, hdesc, hdone, hcommits⟩ := State.operationIs_takeCommits hrecord hseq
  have hall : ((s1.takeCommits p o).peersOf r.desc).all r.coll.commits.contains = true := by
    have hmembers := h.commits
    rw [hdesc, State.peersOf, show (s1.takeCommits p o).dev = s.dev from hdev]
    simp only [List.all_eq_true, List.contains_iff_mem, State.peersOf] at hmembers ⊢
    exact fun q hq => hcommits q (hmembers q hq)
  subst hseq
  dsimp only
  rw [State.phase_of_ok hr hdone hall, Prt.seq_of_op hr]
  exact ⟨_, State.op_updOp_same hr fun _ => rfl, hdesc, rfl, rfl⟩

end

/-- A STEP_COMMIT with its members' COMMITs in is done with OK, whatever loss record it names (R114, R258, R373). -/
theorem State.operationIs_runCommit {s : State} {p seq : Nat} {o : OpRec} (hop : (s.prt p).op seq = some o) (hdone : o.done = false)
    (hnum : s.numbered o = true) (hrestore : (s.prt p).restoreState ≠ 1#3 ∨ (s.prt p).restoreStep ≠ dStep o.desc)
    (halone : (s.prt p).ops.any (fun a => decide (a.seq < o.seq ∧ dOp a.desc = 0x20 ∧ dStep a.desc = dStep o.desc)) = false)
    (hended : ∀ c ∈ (s.prt p).collEnds, c.1 < o.seq → c.2.1 = dStep o.desc → c.2.2 = stOK ∨ c.2.2 = stFlagged)
    (hcommits : (s.peersOf o.desc).all o.coll.commits.contains = true) :
    OperationIs (s.runCommit p o) p seq o (fun r => r.done = true ∧ r.status = stOK) := by
  have hread : CommitsStep p seq o (s.lossRecord p o).2 := CommitsStep.reads ⟨⟨o, hop, rfl, hdone, rfl⟩, halone, hended, hcommits⟩
    (s.reads_lossRecord p o).prts ((State.keeps_lossRecord (calm := true) (.refl s) p o).still rfl).1
  unfold State.runCommit
  rw [if_neg (by simp [hnum])]
  dsimp only
  rw [if_neg fun hx => hrestore.elim (fun hne => hne hx.1) fun hne => hne hx.2]
  split
  · exact (hread.noteLoss ..).commitStep (Prt.seq_of_op hop)
  · exact hread.commitStep (Prt.seq_of_op hop)

/-! ### DIGEST of replicas -/

/-- Digests that all equal the local one decide nothing against it (R342). -/
theorem replicaOutcome_of_all {own : Nat} {peers : List Nat} (h : ∀ d ∈ peers, d = own) : replicaOutcome own peers < 2 := by
  unfold replicaOutcome
  dsimp only
  split
  · decide
  · rw [if_pos (by simpa using h)]
    decide

/-- A comparison whose peers all agree is done behind it (R342). -/
theorem HoldsOp.endReplica {p seq : Nat} {o : OpRec} {s : State} (h : HoldsOp p seq o s)
    (hall : ∀ i ∈ o.coll.checked, s.peerDigest p i (dStep o.desc) = some o.digestW) : Finishes p seq o (s.endReplica p o) := by
  have hout : replicaOutcome o.digestW (o.coll.checked.filterMap (fun i => s.peerDigest p i (dStep o.desc))) < 2 := by
    refine replicaOutcome_of_all fun d hd => ?_
    obtain ⟨i, hi, hd⟩ := List.mem_filterMap.1 hd
    rw [hall i hi] at hd
    exact (Option.some.inj hd).symm
  unfold State.endReplica
  dsimp only
  generalize replicaOutcome .. = out at hout
  rw [if_neg (by rintro (hx | ⟨hx, -⟩) <;> omega), if_neg (by omega), if_neg (by omega)]
  refine HoldsOp.ends (HoldsOp.updPrt ?_ ?_) ..
  · exact HoldsOp.foldl (h.storeRaw ..) fun _ _ ht => ht.of_prts rfl
  · exact fun _ => rfl

/-- A DIGEST SUBOP 1 whose peers have all answered with its own digest is done (R342). -/
theorem State.finishes_digestReplica {s : State} {p seq : Nat} {o : OpRec} (hop : (s.prt p).op seq = some o)
    (hupd : ((s.prt p).before o).any (fun a => decide (dOp a.desc = 0x40 ∧ dStep a.desc = dStep o.desc)) = false)
    (hsent : o.coll.sentData = true) (hall : ∀ i ∈ o.coll.checked, s.peerDigest p i (dStep o.desc) = some o.digestW) :
    Finishes p seq o (s.digestReplica p o) := by
  have hseq := Prt.seq_of_op hop
  have hcome : s.awaitsReplica p o = false := by
    refine List.any_eq_false.2 fun i hi => ?_
    simp [hall i hi]
  subst hseq
  rw [State.digestReplica_of_sent hop hupd hsent, if_neg (Bool.eq_false_iff.1 hcome)]
  exact (HoldsOp.of_op hop).endReplica hall

end Sys2Proof.Machine
end

section
/-! PROOF. A chunk of an UPDATE that its die may process is written, or the UPDATE ends; later chunks keep it so
(R118, R148, R163, R166, R175, R185). -/

namespace Sys2Proof.Machine

/-! ### The work on a chunk -/

section
variable {p seq : Nat} {o : OpRec} {s : State} (h : HoldsOp p seq o s) (x : OpRec)
include h

theorem HoldsOp.direction : HoldsOp p seq o (s.direction p x).st := by
  have hhead := h.reads (s.reads_loadRaw p x (dD x.desc) 0 64)
  have hroots (m n : Nat) : HoldsOp p seq o ((s.loadRaw p x (dD x.desc) 0 64).2.computeRoots p x m n).1 := by
    refine HoldsOp.updOp (HoldsOp.storeRaw ((hhead.reads (State.reads_loadPart ..)).reads (State.reads_loadPart ..)) ..) ?_
    exact fun _ => rfl
  unfold State.direction
  dsimp only
  refine HoldsOp.reads (HoldsOp.reads (HoldsOp.reads ?_ (State.reads_loadRaw ..)) (State.reads_loadRaw ..)) (State.reads_loadPart ..)
  split
  · exact hroots ..
  · exact hhead

theorem HoldsOp.ruleChunk (j : Nat) : HoldsOp p seq o (s.ruleChunk p x j).st := by
  have hload (q n : Nat) : HoldsOp p seq o ((((s.loadPart p x (dA x.desc) q n).2.loadPart p x (dB x.desc) q n).2.loadState p x q n).2.loadProg
      p x).2 :=
    (((h.reads (s.reads_loadPart ..)).reads (State.reads_loadPart ..)).reads (State.reads_loadState ..)).reads (State.reads_loadRaw ..)
  unfold State.ruleChunk
  dsimp only
  split
  · exact (h.direction x).reads (State.reads_loadPart ..)
  · split <;> exact (hload ..).of_prts rfl

theorem HoldsOp.writeWeights (q : Nat) (old : Part) (vals : List OutVal) : HoldsOp p seq o (s.writeWeights p x q old vals).st :=
  (h.storeRun ..).storeRun ..

theorem HoldsOp.writeMoments (q : Nat) (old : Part) (vals : List OutVal) : HoldsOp p seq o (s.writeMoments p x q old vals).st := by
  unfold State.writeMoments
  split
  · exact h
  · exact (h.storeRun ..).storeRun ..

theorem HoldsOp.undefine (r : Place) : HoldsOp p seq o (s.undefine p x r) := by
  unfold State.undefine
  split
  · exact h
  · exact (h.storeRun p x.inbuf r 0 _).of_prts rfl

theorem HoldsOp.forget (r : Place) : HoldsOp p seq o (s.forget p x r) := (h.undefine x r).of_prts rfl

end

theorem State.prts_idleDies (s : State) (p : Nat) : (s.idleDies p).prts = s.prts := State.prts_foldl fun _ _ => rfl

/-! ### The end of an UPDATE -/

theorem Prt.ops_voidNew (v : Prt) (o : OpRec) : (v.voidNew o).ops = v.ops := by
  unfold Prt.voidNew
  dsimp only
  split
  · rfl
  · split
    · split_ifs <;> rfl
    · rfl

section
variable {p seq : Nat} {o : OpRec} {s : State} (h : HoldsOp p seq o s)
include h

/-- An UPDATE that ends with its version void is done (R148, R150). -/
theorem HoldsOp.voidUpdate (st : BitVec 8) : Finishes p seq o (s.voidUpdate p o st) := by
  have hvoid : HoldsOp p seq o (s.updPrt p (fun v => v.voidNew o)) := h.updPrt fun v => v.ops_voidNew o
  obtain ⟨r, hr, hdesc, hdone⟩ := hvoid.ends st o.flags
  have hforget : HoldsOp p seq r (if o.updates (dA o.desc) then
      ((((s.updPrt p (fun v => v.voidNew o)).finishOp p o.seq st o.flags).forget p o (o.dataAt (dA o.desc) (o.newTag % 2))).forget
        p o (o.scalesAt (dA o.desc) (o.newTag % 2)))
      else (s.updPrt p (fun v => v.voidNew o)).finishOp p o.seq st o.flags) := by
    split
    · exact ((HoldsOp.of_op hr).forget o _).forget o _
    · exact .of_op hr
  obtain ⟨y, hy, hwork⟩ := hforget.of_prts (State.prts_idleDies _ p)
  exact ⟨y, hy, (OpRec.desc_of_work hwork).trans hdesc, (show y.work.done = r.work.done from hwork ▸ rfl).trans hdone⟩

/-- A trap of party code ends the UPDATE (R175). -/
theorem HoldsOp.trapUpdate (die : Nat) (cause : Byte) : Finishes p seq o (s.trapUpdate p o die cause) := by
  have htrap : HoldsOp p seq o ((s.updUpd die (fun u => { u with trapCause := cause })).raiseErr (pageUpd die) 2 0#32) := h.of_prts rfl
  unfold State.trapUpdate
  dsimp only
  refine HoldsOp.voidUpdate ?_ stInvalid
  split
  · exact htrap
  · exact (htrap.undefine o _).undefine o _

/-- An UPDATE whose last chunk has been written is done (R154, R183). -/
theorem HoldsOp.finishUpdate : Finishes p seq o (s.finishUpdate p o) := by
  have hcount : HoldsOp p seq o (s.countFrozen p o.frozenCount).1 := by
    unfold State.countFrozen
    dsimp only
    split
    · exact h
    · exact h.of_prts rfl
  unfold State.finishUpdate
  dsimp only
  refine operationIs_of_prts (State.prts_idleDies _ p) (HoldsOp.ends ?_ ..)
  split
  · exact hcount.updPrt fun _ => rfl
  · exact hcount

end

/-! ### Chunks written -/

theorem OpRec.chunks_of_work {r o : OpRec} (h : r.work = o.work) : r.chunks = o.chunks := show r.work.chunks = o.work.chunks from h ▸ rfl

/-- Chunk `j` of an UPDATE is written, or the UPDATE is done. -/
def Wrote (p seq : Nat) (o : OpRec) (j : Nat) (t : State) : Prop :=
  OperationIs t p seq o (fun r => r.chunks.contains j = true ∨ r.done = true)

/-- The record of an UPDATE whose chunk `j` has been run keeps the chunks written, and has `j` or has ended, unless the call
has not returned (R175). -/
theorem HoldsOp.writeChunk {p seq : Nat} {o : OpRec} {s : State} (h : HoldsOp p seq o s) (j : Nat) :
    OperationIs (s.writeChunk p o j) p seq o (fun r => r.done = true ∨ (∀ k, o.chunks.contains k = true → r.chunks.contains k = true)
      ∧ ((s.ruleChunk p o j).out.running = false → r.chunks.contains j = true)) := by
  have hrule := h.ruleChunk o j
  unfold State.writeChunk
  dsimp only
  generalize s.ruleChunk p o j = run at hrule
  split
  · exact operationIs_imp (hrule.trapUpdate ..) fun _ => .inl
  split
  · next hrun =>
    obtain ⟨r, hr, hwork⟩ := hrule
    exact ⟨r, hr, OpRec.desc_of_work hwork, .inr ⟨fun k hk => by rwa [OpRec.chunks_of_work hwork],
      fun hnot => absurd hrun (Bool.eq_false_iff.1 hnot)⟩⟩
  · have hseq := h.seq_eq
    subst hseq
    refine operationIs_of_prts ((State.prts_progress _ _ 1).trans rfl) (HoldsOp.changed
      ((hrule.writeWeights o (chunkSize * j) run.w run.out.w).writeMoments o (chunkSize * j) run.m run.out.m) ?_ ?_)
    · exact fun _ => ⟨rfl, rfl⟩
    · intro r hwork
      have hadd (k : Nat) : (r.chunks ++ [j]).contains k = true ↔ o.chunks.contains k = true ∨ k = j := by
        rw [OpRec.chunks_of_work hwork, List.contains_iff_mem, List.mem_append, List.mem_singleton, List.contains_iff_mem]
      exact .inr ⟨fun k hk => (hadd k).2 (.inl hk), fun _ => (hadd j).2 (.inr rfl)⟩

theorem operationIs_of_desc {t : State} {p seq : Nat} {r o : OpRec} {x : OpRec → Prop} (h : OperationIs t p seq r x)
    (hdesc : r.desc = o.desc) : OperationIs t p seq o x := by
  obtain ⟨y, hy, hr, hx⟩ := h
  exact ⟨y, hy, hr.trans hdesc, hx⟩

section
variable {p seq j : Nat} {o : OpRec} {s : State}

/-- The close of an UPDATE leaves its chunks written, or the UPDATE done (R166). -/
theorem Wrote.closeUpdate (h : Wrote p seq o j s) : Wrote p seq o j (s.closeUpdate p seq) := by
  obtain ⟨r, hr, hdesc, hx⟩ := h
  unfold State.closeUpdate
  rw [hr]
  dsimp only
  split
  · exact operationIs_of_desc (operationIs_imp (HoldsOp.of_op hr).finishUpdate fun _ => .inr) hdesc
  · exact ⟨r, hr, hdesc, hx⟩

/-- A run of any chunk leaves chunk `j` written, or the UPDATE done (R163). -/
theorem Wrote.runChunk (h : Wrote p seq o j s) (k : Nat) : Wrote p seq o j (s.runChunk p seq k) := by
  obtain ⟨r, hr, hdesc, hx⟩ := h
  by_cases hopen : s.chunkOpen p r k = true
  · rw [State.runChunk_of_chunkOpen hr hopen]
    have hnotdone : r.done = false := by
      simp only [State.chunkOpen, Bool.and_eq_true, Bool.not_eq_true'] at hopen
      exact hopen.1.1.1.1.1
    refine Wrote.closeUpdate (operationIs_of_desc (operationIs_imp ((HoldsOp.of_op hr).writeChunk k) fun y hy => ?_) hdesc)
    rcases hy with hdone | ⟨hkeep, -⟩
    · exact .inr hdone
    · exact .inl (hkeep j (hx.resolve_right (by simp [hnotdone])))
  · rw [State.runChunk, hr]
    dsimp only
    rw [if_neg hopen]
    exact ⟨r, hr, hdesc, hx⟩

/-- A run of an open chunk whose call returns writes it, or ends the UPDATE (R163, R175). -/
theorem wrote_runChunk (hop : (s.prt p).op seq = some o) (hopen : s.chunkOpen p o j = true)
    (hreturns : (s.ruleChunk p o j).out.running = false) : Wrote p seq o j (s.runChunk p seq j) := by
  rw [State.runChunk_of_chunkOpen hop hopen]
  exact Wrote.closeUpdate (operationIs_imp ((HoldsOp.of_op hop).writeChunk j) fun y hy => hy.elim .inr fun hx => .inl (hx.2 hreturns))

/-- The run of every chunk writes the first, or ends the UPDATE (R163). -/
theorem wrote_runChunks (hop : (s.prt p).op seq = some o) (hopen : s.chunkOpen p o 0 = true)
    (hreturns : (s.ruleChunk p o 0).out.running = false) : Wrote p seq o 0 (s.runChunks p o) := by
  have hseq := Prt.seq_of_op hop
  subst hseq
  have hsome : 0 < eChunks (o.ent (dA o.desc)) := by
    simp only [State.chunkOpen, Bool.and_eq_true, decide_eq_true_eq] at hopen
    exact hopen.1.1.1.2
  obtain ⟨n, hn⟩ := Nat.exists_eq_succ_of_ne_zero hsome.ne'
  rw [State.runChunks, hn, List.range_succ_eq_map, List.foldl_cons]
  exact List.foldlRecOn (motive := Wrote p o.seq o 0) _ _ (wrote_runChunk hop hopen hreturns) fun t ht k _ => ht.runChunk k

end

/-! ### Commands of an UPDATE whose turn it is -/

section
variable {s : State} {p seq chunk die : Nat} {o : OpRec}
variable (hop : (s.prt p).op seq = some o) (hcode : dOp o.desc = 0x40) (htok : (s.prt p).tokensReady o = true)
  (hcommit : (s.prt p).commitStatus o = none) (hlines : o.linesIn = true) (hvoid : (s.prt p).readsVoid o = false)
  (hthaw : eFrozen (o.ent (dA o.desc)) = false)
include hop hcode htok hcommit hlines hvoid hthaw

theorem updateChunk_writes (hopen : s.chunkOpen p o chunk = true) (hreturns : (s.ruleChunk p o chunk).out.running = false) :
    ∃ t, exec (.updateChunk p seq chunk) s = .next t ∧ Wrote p seq o chunk t :=
  ⟨_, congrArg Host.Outcome.next (State.runUpdate_of_turn _ hop hcode htok rfl hcommit hlines hvoid hthaw),
    wrote_runChunk hop hopen hreturns⟩

/-- An UPDATE with either rule writes its first chunk, or ends (R163, R178). -/
theorem updateWhole_writes (hopen : s.chunkOpen p o 0 = true) (hreturns : (s.ruleChunk p o 0).out.running = false) :
    (dSub o.desc = 0 → ∃ t, exec (.updateElement p seq) s = .next t ∧ Wrote p seq o 0 t)
    ∧ (dSub o.desc = 1 → ∃ t, exec (.updatePrecond p seq) s = .next t ∧ Wrote p seq o 0 t) :=
  ⟨fun hsub => ⟨_, congrArg Host.Outcome.next
      (State.runUpdate_of_turn _ hop hcode htok (decide_eq_true hsub) hcommit hlines hvoid hthaw), wrote_runChunks hop hopen hreturns⟩,
    fun hsub => ⟨_, congrArg Host.Outcome.next
      (State.runUpdate_of_turn _ hop hcode htok (decide_eq_true hsub) hcommit hlines hvoid hthaw), wrote_runChunks hop hopen hreturns⟩⟩

variable (hown : s.unitOwner die = some p) (hchunk : s.chunkOn p die = some (seq, chunk))
  (hserves : (s.hdr (pageUpd die)).suspect = false)
include hown hchunk hserves

theorem State.rerunDie_of_turn (again : Bool) : s.rerunDie die again = s.rerunChunk p die again (seq, chunk) :=
  (State.rerunDie_of_chunkOn hown hchunk hserves again).trans
    (State.runUpdate_of_turn _ hop hcode htok rfl hcommit hlines hvoid hthaw)

/-- A rerun that passes writes the chunk from the inputs that the die holds (R185). -/
theorem chunkRerun_writes :
    let seen := (((s.countCe (pageUpd die) true).raiseErr (pageUpd die) 0 0#32).report
      { CperEvent.base 6#8 1#8 (pageUpd die) with jseq := seq, fatal := false }).holdChunk die seq chunk 5#4
    seen.chunkOpen p o chunk = true → (seen.ruleChunk p o chunk).out.running = false →
    ∃ t, exec (.chunkRerun die false) s = .next t ∧ Wrote p seq o chunk t := by
  intro seen hopen hreturns
  refine ⟨_, congrArg Host.Outcome.next (State.rerunDie_of_turn hop hcode htok hcommit hlines hvoid hthaw hown hchunk hserves false), ?_⟩
  exact wrote_runChunk (s := seen) hop hopen hreturns

/-- A second failure makes the die suspect (R185). -/
theorem chunkRerun_suspects : ∃ t, exec (.chunkRerun die true) s = .next t ∧ (t.hdr (pageUpd die)).suspect = true :=
  ⟨_, congrArg Host.Outcome.next (State.rerunDie_of_turn hop hcode htok hcommit hlines hvoid hthaw hown hchunk hserves true),
    State.suspect_makeSuspect _ _⟩

end

end Sys2Proof.Machine
end

section
/-! PROOF. Belays copy their images, are sealed and end; risk belays enter the acceptance order (R121, R260, R364, R367, R368). -/

namespace Sys2Proof.Machine

section
variable {p seq : Nat} {o : OpRec} {s : State} (h : HoldsOp p seq o s)
include h

/-! ### Images -/

theorem HoldsOp.belayMsg (q k msg : Nat) (bs : List Byte) : HoldsOp p seq o (s.belayMsg q k msg bs) :=
  h.of_prts (State.prts_foldl fun _ _ => State.prts_sendFlit ..)

theorem HoldsOp.writeSeal (x : OpRec) (b : BelayRun) : HoldsOp p seq o (s.writeSeal p x b).1 := by
  unfold State.writeSeal
  dsimp only
  split
  · exact h.belayMsg ..
  · split
    · exact h.storeRun ..
    · exact h

/-- A sealed belay is done (R367). -/
theorem HoldsOp.sealBelay (b : BelayRun) : Finishes p seq o (s.sealBelay p o b) := (h.writeSeal o b).ends ..

/-- A belay whose image is written is copied; that of a drain is sealed as well, and done (R366, R368). -/
theorem HoldsOp.noteImage {b : BelayRun} (hcopied : b.copied = true) (keep : List (Nat × Entry)) (drain : Prop) [Decidable drain] :
    let t := s.updOp p o.seq (fun x => { x with belay := some b, ents := keep, refs := [] })
    OperationIs (if drain then (match (t.prt p).op o.seq with | some x => t.sealBelay p x b | none => t) else t) p seq o
      (fun r => (∃ c, r.belay = some c ∧ c.copied = true) ∨ r.done = true) := by
  have hseq := h.seq_eq
  subst hseq
  obtain ⟨r, hwork, hr⟩ := h.op_updOp (f := fun x => { x with belay := some b, ents := keep, refs := [] }) fun _ => rfl
  have hdesc := OpRec.desc_of_work hwork
  dsimp only
  split
  · rw [hr]
    exact operationIs_of_desc (operationIs_imp ((HoldsOp.of_op hr).sealBelay b) fun _ => .inr) hdesc
  · exact ⟨_, hr, hdesc, .inl ⟨b, rfl, hcopied⟩⟩

theorem HoldsOp.writeImage (b : BelayRun) {body : Body} (hbody : Reads s body.st) (target : Option Place) :
    OperationIs (s.writeImage p o b body target) p seq o (fun r => (∃ c, r.belay = some c ∧ c.copied = true) ∨ r.done = true) := by
  have hdraw : HoldsOp p seq o body.st.drawRandom.2 := (h.reads hbody).of_prts rfl
  unfold State.writeImage
  cases target with
  | none =>
    refine HoldsOp.noteImage (HoldsOp.belayMsg ?_ p o.belayPeer 1 _) rfl (o.ents.filter (fun x => x.1 = dC o.desc)) (b.kind = 2#8)
    exact hdraw.of_prts (State.prts_sendFlit ..)
  | some r =>
    exact HoldsOp.noteImage ((hdraw.storeRun p o.inbuf r 0 (padTarget r 0 (zeros headerSize))).storeRun p o.inbuf r headerSize _) rfl
      (o.ents.filter (fun x => x.1 = dC o.desc)) (b.kind = 2#8)

/-- A belay that copies has copied behind it, or has ended (R121, R260, R368). -/
theorem HoldsOp.copyBelay (b : BelayRun) :
    OperationIs (s.copyBelay p o b) p seq o (fun r => (∃ c, r.belay = some c ∧ c.copied = true) ∨ r.done = true) := by
  have hbody := s.reads_belayBody p o b
  have hends {t : State} (ht : HoldsOp p seq o t) (status : BitVec 8) : OperationIs (t.finishOp p o.seq status 0#16) p seq o
      (fun r => (∃ c, r.belay = some c ∧ c.copied = true) ∨ r.done = true) := operationIs_imp (ht.ends ..) fun _ => .inr
  unfold State.copyBelay
  dsimp only
  split
  · split
    · exact h.writeImage b hbody none
    · exact hends h _
  · split
    · exact hends h _
    · split
      · exact hends (h.reads hbody) _
      · exact h.writeImage b hbody _

end

/-! ### Commands -/

section
variable {s : State} {p seq : Nat} {o : OpRec} {b : BelayRun}
variable (hop : (s.prt p).op seq = some o) (hbelay : o.belay = some b) (hdone : o.done = false)
include hop hbelay hdone

/-- A belay whose tokens and lines are in copies its image, or ends where its peer cannot be reached (R121, R260). -/
theorem State.operationIs_runBelay (hcode : dOp o.desc = 0x50) (hcopied : b.copied = false) (htok : (s.prt p).tokensReady o = true)
    (hlines : o.linesIn = true) : OperationIs (s.runBelay p seq (dSub o.desc)) p seq o
      (fun r => (∃ c, r.belay = some c ∧ c.copied = true) ∨ r.done = true) := by
  by_cases hlost : dSub o.desc = 1 ∧ s.peerServes p o.belayPeer = false
  · rw [hlost.1, State.runBelay_of_peer_lost hop hbelay hdone hcode hcopied hlost.1 hlost.2]
    exact operationIs_imp ((HoldsOp.of_op hop).finishOp ..) fun _ hx => .inr hx.1
  · rw [State.runBelay_of_ready hop hbelay hdone hcode hcopied htok hlines rfl
      fun hsub => Bool.eq_true_of_not_eq_false fun hp => hlost ⟨hsub, hp⟩]
    exact (HoldsOp.of_op hop).copyBelay b

/-- A belay that has copied is sealed and done once the STEP_COMMIT of its step has ended (R367). -/
theorem State.finishes_runSeal (hcopied : b.copied = true) (hended : (s.prt p).sealStatus o b ≠ none) :
    Finishes p seq o (s.runSeal p seq) := by
  obtain ⟨st, hst⟩ := Option.ne_none_iff_exists'.1 hended
  rw [State.runSeal_of_commit_ended hop hbelay hdone hcopied hst]
  exact (HoldsOp.of_op hop).sealBelay _

end

/-- A due risk belay is one operation more, and is due no longer (R364). -/
theorem State.insertRisk_adds {s : State} {p : Nat} (hblk : Blocks.wf s = true) (hdue : (s.prt p).riskDue = true) :
    ((s.insertRisk p).prt p).riskDue = false ∧ ((s.insertRisk p).prt p).ops.length = (s.prt p).ops.length + 1 := by
  have hfirst := State.prt_updPrt s hblk p (fun v => { v with riskDue := false, riskPending := false })
  rw [State.insertRisk_of_due hdue]
  generalize s.updPrt p _ = t at hfirst
  unfold State.insertBelay
  dsimp only
  have hread (hs : List Nat) := ((t.reads_belayTensors p).trans (State.reads_passing _ p hs)).prt p
  rw [State.prt_updPrt_of_ops (by simp), hread, hfirst]
  exact ⟨rfl, List.length_append⟩

end Sys2Proof.Machine
end

section
/-! PROOF. Every command of an operation completes with its own effect where its conditions hold (R22, R23, R106, R109, R118, R121,
R133, R148, R185, R255, R285, R367). -/

namespace Sys2Proof.Machine

/-! ### The families of commands -/

section
variable {s : State} {p seq : Nat} {o : OpRec}

/-- Starts, slot tokens, completions and releases of versions (R23, R133, R147, R285). -/
theorem lifecycleCompletes {h tile : Nat} (hop : (s.prt p).op seq = some o) :
    (s.startable p o = true → s.blocksTake p = true →
      ∃ t, exec (.operationStart p seq) s = .next t ∧ OperationIs t p seq o (fun r => r.phase = .started))
    ∧ (o.phase = .started → o.done = false → o.asks h tile = true → (h, tile) ∉ o.granted → (s.prt p).tokenFree o h tile = true →
      ∃ t, exec (.slotTokenGrant p seq h tile) s = .next t ∧ OperationIs t p seq o (fun r => r.granted = o.granted ++ [(h, tile)]))
    ∧ (o.done = true → Blocks.wf s = true → (dOp o.desc = 0x21 → s.endCommit p o ≠ none) →
      ∃ t, exec (.operationComplete p seq) s = .next t ∧ (t.prt p).op seq = none)
    ∧ (dOp o.desc = 0x41 → o.phase = .started → ((s.prt p).before o).any (fun a => a.names (dA o.desc)
          && !idleHandle a.desc (dA o.desc) && a.readsTag (dA o.desc) (dTag o.desc)) = false →
      ∃ t, exec (.versionRelease p seq) s = .next t ∧ OperationIs t p seq o (fun r => r.done = true ∧ r.status = stOK)) := by
  refine ⟨fun hstart htake => ⟨_, rfl, State.operationIs_startOp hop hstart htake⟩, fun hphase hdone hasks hnew hfree => ⟨_, rfl, ?token⟩,
    fun hdone hblk hcommit => ⟨_, rfl, State.no_op_completeOp hblk hop hdone hcommit⟩,
    fun hcode hphase hunread => ⟨_, runs_versionRelease_unread hop hcode hphase hunread, (HoldsOp.of_op hop).finishOp ..⟩⟩
  rw [State.grantToken_of_free hop hphase hdone hasks hnew hfree]
  exact ⟨_, State.op_updOp_same hop fun _ => rfl, rfl, rfl⟩

/-- A ready operation whose work is one command is done behind it (R22, R109, R121). -/
theorem readyCompletes (halves : List (List Byte)) (newest : Bool) :
    ∀ x ∈ ([(0x10, 0x00, .vecCopy p seq), (0x10, 0x01, .vecAdd p seq), (0x10, 0x02, .vecSub p seq), (0x10, 0x03, .vecMul p seq),
        (0x10, 0x04, .vecFma p seq), (0x10, 0x05, .vecMax p seq), (0x10, 0x06, .vecMin p seq), (0x10, 0x07, .vecAbs p seq),
        (0x10, 0x08, .vecScale2 p seq), (0x10, 0x09, .vecExp p seq []), (0x10, 0x0A, .vecLog p seq []),
        (0x10, 0x0B, .vecRsqrt p seq), (0x10, 0x0C, .vecSigmoid p seq []), (0x10, 0x0D, .vecTanh p seq []),
        (0x10, 0x10, .vecSoftmax p seq), (0x10, 0x11, .vecNorm p seq), (0x10, 0x12, .vecRowsum p seq), (0x10, 0x13, .vecRowmax p seq),
        (0x10, 0xF0, .vecProgram p seq), (0x11, dSub o.desc, .softmaxBwd p seq), (0x12, dSub o.desc, .normBwd p seq),
        (0x13, dSub o.desc, .reduce p seq), (0x14, 0, .histRead p seq), (0x14, 1, .readClear p seq), (0x14, 2, .histInit p seq),
        (0x15, 0, .rngFillBits p seq), (0x15, 1, .rngFillUniform p seq), (0x15, 2, .rngFillBernoulli p seq),
        (0x30, dSub o.desc, .move p seq), (0x31, dSub o.desc, .offload p seq), (0x32, dSub o.desc, .prefetch p seq),
        (0x42, 0, .digestTensor p seq), (0x50, 3, .restore p seq), (0x50, 4, .restorePeer p seq halves newest)]
        : List (Nat × Nat × Instr)), Ready s p seq x.1 x.2.1 o →
      ∃ t, exec x.2.2 s = .next t ∧ OperationIs t p seq o (fun r => r.done = true) := by
  have ready {op sub : Nat} {i : Instr} {test : Nat → Bool} {f : OpRec → State} (hexec : exec i s = .next (s.runOp p seq op test f))
      (hsub : test sub = true) (hf : HoldsOp p seq o s → Finishes p seq o (f o)) (h : Ready s p seq op sub o) :
      ∃ t, exec i s = .next t ∧ OperationIs t p seq o (fun r => r.done = true) :=
    ⟨_, hexec, State.finishes_runOp h hsub (hf (holdsOp_of_ready h))⟩
  have vector {sub : Nat} {i : Instr} (hexec : exec i s = .next (s.runVec p seq sub [])) (h : Ready s p seq 0x10 sub o) :
      ∃ t, exec i s = .next t ∧ OperationIs t p seq o (fun r => r.done = true) := ⟨_, hexec, State.finishes_runVec h⟩
  simp only [List.forall_mem_cons, List.not_mem_nil, false_imp_iff, implies_true, and_true]
  exact ⟨ready rfl rfl (·.runCopy), vector rfl, vector rfl, vector rfl, vector rfl, vector rfl, vector rfl, vector rfl, vector rfl,
    vector rfl, vector rfl, vector rfl, vector rfl, vector rfl, ready rfl rfl (·.vecRows _), ready rfl rfl (·.vecRows _),
    ready rfl rfl (·.vecRows _), ready rfl rfl (·.vecRows _), ready rfl rfl (·.runProgram), ready rfl rfl (·.runSoftmaxBwd),
    ready rfl rfl (·.runNormBwd), ready rfl rfl (·.runReduce), ready rfl rfl (·.readHist false), ready rfl rfl (·.readHist true),
    ready rfl rfl fun h => (h.updHist ..).ends .., ready rfl rfl (·.runRng), ready rfl rfl (·.runRng), ready rfl rfl (·.runRng),
    ready rfl rfl (·.runMove), ready rfl rfl (·.runOffload), ready rfl rfl (·.runMove), ready rfl rfl (·.digestTensor),
    ready rfl rfl (·.runRestore), ready rfl rfl (·.runRestorePeer halves newest)⟩

/-- An array operation alone on its arrays is done in one command (R106, R107). -/
theorem arrayCompletes (hfree : s.arrayFree p seq = true) :
    (Ready s p seq 0x01 (dSub o.desc) o → s.engaged p seq = false →
      ∃ t, exec (.matmul p seq) s = .next t ∧ OperationIs t p seq o (fun r => r.done = true))
    ∧ (Ready s p seq 0x02 0 o → ∃ t, exec (.anchorScanWrite p seq) s = .next t ∧ OperationIs t p seq o (fun r => r.done = true))
    ∧ (Ready s p seq 0x02 1 o → ∃ t, exec (.anchorScanMax p seq) s = .next t ∧ OperationIs t p seq o (fun r => r.done = true)) :=
  ⟨fun h hengaged => ⟨_, rfl, State.finishes_runOp h rfl ((holdsOp_of_ready h).runMatmul hfree hengaged)⟩,
    fun h => ⟨_, rfl, State.finishes_runOp h rfl ((holdsOp_of_ready h).runScan hfree false)⟩,
    fun h => ⟨_, rfl, State.finishes_runOp h rfl ((holdsOp_of_ready h).runScan hfree true)⟩⟩

/-- A collective whose data are in becomes ready in staging (R255). -/
theorem collectiveCompletes (fails : List (Nat × Bool)) :
    ∀ x ∈ ([(0, .allReduce p ⟨seq, fails⟩), (1, .reduceScatter p ⟨seq, fails⟩), (2, .allGather p seq), (3, .broadcast p seq)]
        : List (Nat × Instr)), Ready s p seq 0x20 x.1 o → s.numbered o = true → (s.prt p).earlyColl = [] →
      o.coll.sentCheck = true → (s.peersOf o.desc).all o.coll.checked.contains = true → o.coll.stagePages ≠ 0 →
      (x.1 < 2 → o.coll.sentAnchors = true) → o.coll.sentData = true → o.coll.prov = [] → s.allIn o = true →
      ∃ t, exec x.2 s = .next t ∧ OperationIs t p seq o (fun r => r.coll.stageReady = true) := by
  have member {sub : Nat} {i : Instr} {test : Nat → Bool} (l : List (Nat × Bool))
      (hexec : exec i s = .next (s.runOp p seq 0x20 test (s.runColl p l))) (htest : test sub = true) (h : Ready s p seq 0x20 sub o)
      (hnum : s.numbered o = true) (hearly : (s.prt p).earlyColl = []) (hcheck : o.coll.sentCheck = true)
      (_ : (s.peersOf o.desc).all o.coll.checked.contains = true) (hstage : o.coll.stagePages ≠ 0)
      (hanchors : sub < 2 → o.coll.sentAnchors = true) (hdata : o.coll.sentData = true) (hprov : o.coll.prov = [])
      (hin : s.allIn o = true) : ∃ t, exec i s = .next t ∧ OperationIs t p seq o (fun r => r.coll.stageReady = true) := by
    refine ⟨_, hexec, ?_⟩
    rw [State.runOp_of_ready h htest]
    obtain ⟨hop, -, hsub, htok, -⟩ := h
    exact State.operationIs_runColl hop (Prt.not_done_of_tokensReady htok) hnum hearly hcheck hstage (hsub ▸ hanchors) hdata hprov hin l
  simp only [List.forall_mem_cons, List.not_mem_nil, false_imp_iff, implies_true, and_true]
  exact ⟨member fails rfl rfl, member fails rfl rfl, member [] rfl rfl, member [] rfl rfl⟩

/-- A belay that copies has copied behind its command, or has ended (R121, R368). -/
theorem belayCopies {b : BelayRun} (hop : (s.prt p).op seq = some o) (hdone : o.done = false) (hbelay : o.belay = some b)
    (hcode : dOp o.desc = 0x50) (hcopied : b.copied = false) (htok : (s.prt p).tokensReady o = true) (hlines : o.linesIn = true) :
    ∀ x ∈ ([(0, .belayLocal p seq), (1, .belayPeer p seq), (2, .belayHost p seq)] : List (Nat × Instr)), dSub o.desc = x.1 →
      ∃ t, exec x.2 s = .next t ∧ OperationIs t p seq o (fun r => (∃ c, r.belay = some c ∧ c.copied = true) ∨ r.done = true) := by
  have hcopies := State.operationIs_runBelay hop hbelay hdone hcode hcopied htok hlines
  simp only [List.forall_mem_cons, List.not_mem_nil, false_imp_iff, implies_true, and_true]
  exact ⟨fun hsub => ⟨_, rfl, hsub ▸ hcopies⟩, fun hsub => ⟨_, rfl, hsub ▸ hcopies⟩, fun hsub => ⟨_, rfl, hsub ▸ hcopies⟩⟩

end

/-- Settles O60: the work of each command leaves the record of its operation standing (`HoldsOp`), and its last step notes the
effect there; commands of engines leave theirs in the engine that they name. -/
theorem operationsComplete : Obligations.OperationsComplete := by
  unfold Obligations.OperationsComplete
  refine ⟨fun s p seq h tile o => lifecycleCompletes, fun s p seq o => readyCompletes, fun s p seq o => arrayCompletes, ?steps,
    fun s u p seq core block group load team w => stationaryLoad_fills, ?engines, ?tiles, ?collectives, ?updates, ?belays⟩
  case steps =>
    intro s p seq core variant o hop harray hrun hvoid
    exact ⟨operationIs_adapterPass hop harray hrun hvoid, operationIs_anchorScanPhase hop harray hrun hvoid,
      operationIs_anchorAgree hop harray hrun hvoid⟩
  case engines =>
    intro s u core e k n row col w j A act c hj
    refine ⟨swap_exchanges hj, fun hA hstate hk hn hrow hfed hleft hright => ?_, footAddition_counts hj, writeBack_notes hj,
      pitchRetry_streams hj⟩
    have hmeets : w.Meets core (s.eng core e) j k n row act := ⟨hstate, hk, hn, hrow, hfed, hleft, hright⟩
    exact ⟨cellStep_passes hj hA hmeets, fun hcol htop habove hfoot hbelow =>
      cellStep_sums hj hA hmeets hcol ⟨htop, habove, hfoot, hbelow⟩⟩
  case tiles =>
    intro s u p seq core tile w x hw
    exact ⟨confluenceMerge_moves hw, outputConversion_notes hw⟩
  case collectives =>
    intro s p seq o fails
    refine ⟨collectiveCompletes fails, fun hop hcode hdone hready => ⟨_, rfl, (HoldsOp.of_op hop).copyStage hop hcode hdone hready⟩,
      fun h hnum hrestore halone hended hcommits => ⟨_, rfl, ?commit⟩, fun h hsent hupd hall => ⟨_, rfl, ?digest⟩⟩
    case commit =>
      rw [State.runOp_of_ready h rfl]
      obtain ⟨hop, -, -, htok, -⟩ := h
      exact State.operationIs_runCommit hop (Prt.not_done_of_tokensReady htok) hnum hrestore halone hended hcommits
    case digest => exact State.finishes_runOp h rfl (State.finishes_digestReplica h.1 hupd hsent hall)
  case updates =>
    intro s p seq chunk die o again hop hcode htok hcommit hlines hvoid hthaw
    refine ⟨fun hopen hreturns => ⟨updateChunk_writes hop hcode htok hcommit hlines hvoid hthaw hopen hreturns, ?first, ?second⟩,
      fun hown hchunk hserves => ⟨?passes, ?fails⟩⟩
    case first =>
      rintro rfl
      exact (updateWhole_writes hop hcode htok hcommit hlines hvoid hthaw hopen hreturns).1
    case second =>
      rintro rfl
      exact (updateWhole_writes hop hcode htok hcommit hlines hvoid hthaw hopen hreturns).2
    case passes =>
      rintro rfl
      exact chunkRerun_writes hop hcode htok hcommit hlines hvoid hthaw hown hchunk hserves
    case fails =>
      rintro rfl
      exact chunkRerun_suspects hop hcode htok hcommit hlines hvoid hthaw hown hchunk hserves
  case belays =>
    intro s p seq o b hop hdone
    refine ⟨fun hbelay hcode hcopied => belayCopies hop hdone hbelay hcode hcopied,
      fun hbelay hcopied hended => ⟨_, rfl, State.finishes_runSeal hop hbelay hdone hcopied hended⟩,
      fun hdue hblk => ⟨_, rfl, State.insertRisk_adds hblk hdue⟩, fun h halone => ⟨_, rfl, ?queue⟩, fun h halone => ⟨_, rfl, ?part⟩⟩
    case queue =>
      rw [State.runFence_of_alone h halone]
      exact (HoldsOp.of_op hop).finishOp ..
    case part =>
      rw [State.runFence_of_alone h (by rw [halone, List.any_nil])]
      exact (HoldsOp.of_op hop).finishOp ..

end Sys2Proof.Machine
end
